-- ==== Sys2Proof/Word.lean ====
section
/-! DEFINITION. The word types of the module: bytes and 32-bit words. -/

namespace Sys2Proof

/-- A byte of memory, of a frame or of a datagram. -/
abbrev Byte := BitVec 8

/-- A 32-bit register word, and one 32-bit vector lane or scalar register of a drover engine. -/
abbrev Word := BitVec 32

end Sys2Proof
end

