-- ==== Sys2Proof/Syntax.lean ====
section
/-! DEFINITION. The commands the block takes: one constructor per row of spec/opcode_table.json, with the row's operands
(unit indices, register writes with the master that makes them, received bytes, and what an analogue or physical event
brings: readings, pulses, verdicts, draws of the hardware random source). -/

namespace Sys2Proof

/-- A cell that failed verify in a whole-column sequence: its row, which of the columns written together, which of the
four cells, the level its next level read would return, and whether it is stuck (R118, R119). -/
structure BadCell where
  row : Nat
  copy : Nat
  which : Nat
  level : Nat
  stuck : Bool
  deriving DecidableEq, Repr

/-- What a LOCK scope covers: one weight, or one logical column under a rescale or a remap (R127). -/
inductive ScopeKind
  | weight (row : Nat)
  | rescale (mode scol : Nat)
  | remap
  deriving DecidableEq, Repr

/-- What a muster of a tile measures (R149, R158 to R160). Gains are in units of 2^-20, errors in 1/1,024 LSB; lists go by
physical weight-column, converter slot or delay tap, and a missing entry takes its value at manufacture. -/
structure Measure where
  /-- Sums of the 32 zero-input major and minor codes of each physical weight-column. -/
  zero : List (Int × Int) := []
  /-- Major slot gains of the physical weight-columns under the trims in force. -/
  slotGain : List Nat := []
  /-- Array gain of the tile. -/
  gain : Nat := 2 ^ 20
  /-- Minor slot gains under the trims in force. -/
  minorGain : List Nat := []
  /-- Delay tap trims needed. -/
  delay : List Int := []
  /-- Response of reference columns 528 to 531, in units of 2^-20. -/
  refResp : Nat := 2 ^ 20
  /-- Unusable reference columns, bit i column 528 + i; largest reference error in the check reads; noise figure. -/
  unusable : Nat := 0
  checkErr : Nat := 0
  sigma : Nat := 0
  deriving DecidableEq, Repr


/-- The commands of the block: one constructor per row of the table of operations and events. -/
inductive Instr
  /-- `NOP` (R389). NOP descriptor completes as soon as it starts. The started descriptor at ring pointer n of context c. -/
  | nop (c n : Nat)
  /-- `COPY` (R389). COPY descriptor raw-moves rows of bytes between module-local and host memory, stopping at the first denied request. The started descriptor at ring pointer n of context c. -/
  | copy (c n : Nat)
  /-- `FILL` (R389). FILL descriptor writes an eight-byte pattern over destination rows. The started descriptor at ring pointer n of context c. -/
  | fill (c n : Nat)
  /-- `FENCE` (R389). FENCE descriptor waits for earlier descriptors of its context and for their writes to reach the named scope. The started descriptor at ring pointer n of context c. -/
  | fence (c n : Nat)
  /-- `MAILBOX_POST` (R389). MAILBOX_POST descriptor writes a host-to-firmware mailbox word as a register write would. The started descriptor at ring pointer n of context c. -/
  | mailboxPost (c n : Nat)
  /-- `COUNTER_SNAPSHOT` (R389). COUNTER_SNAPSHOT descriptor latches, and optionally clears, the counters of the named dies and writes a snapshot record. The started descriptor at ring pointer n of context c. -/
  | counterSnapshot (c n : Nat)
  /-- `RESERVED_OPCODE` (R9). A descriptor with a reserved or unserved opcode completes with the unknown-opcode status and has no other effect. The fetched descriptor at ring pointer n of context c. -/
  | reservedOpcode (c n : Nat)
  /-- `STEP_BEGIN` (R270). STEP_BEGIN opens a step and does the boundary work: takeovers, flushes, muster application, outlier lists, step number and widening states. The started descriptor at ring pointer n of context c. -/
  | stepBegin (c n : Nat)
  /-- `LAYER_FWD` (R276). LAYER_FWD reads the layer's chains in the arrays, or runs its G16 product, for each input row. The started descriptor at ring pointer n of context c. -/
  | layerFwd (c n : Nat)
  /-- `LAYER_BWD` (R275). LAYER_BWD runs the dX and dW products of a layer, using DWW_REC while the layer is widened. The started descriptor at ring pointer n of context c. -/
  | layerBwd (c n : Nat)
  /-- `ATTN_FWD` (R282). ATTN_FWD runs a list of attention product records on one partition, optionally waiting for ring blocks. The started descriptor at ring pointer n of context c. -/
  | attnFwd (c n : Nat)
  /-- `ATTN_BWD` (R282). ATTN_BWD runs the attention backward product records on one partition. The started descriptor at ring pointer n of context c. -/
  | attnBwd (c n : Nat)
  /-- `LOSS` (R283). LOSS runs a loss kernel on the named engines and moves the step from FORWARD to BACKWARD. The started descriptor at ring pointer n of context c. -/
  | loss (c n : Nat)
  /-- `BRANCH` (R285). BRANCH compares a combined summary with a constant and skips following descriptors when it holds. BRANCH at ring pointer n of context c compares a combined summary with a constant (R285). -/
  | branch (c n : Nat)
  /-- `STEP_END` (R293). STEP_END waits for the step's work, forms the cause bits, exchanges them over the group and commits or discards the step. STEP_END at ring pointer n of context c (R293). -/
  | stepEnd (c n : Nat)
  /-- `EVAL_BEGIN` (R300). EVAL with OP BEGIN opens an evaluation pass for its context once no step is open. EVAL with OP BEGIN (R300). -/
  | evalBegin (c n : Nat)
  /-- `EVAL_END` (R300). EVAL with OP END waits for the pass's descriptors and closes the evaluation pass. EVAL with OP END (R300). -/
  | evalEnd (c n : Nat)
  /-- `VEC_KERNEL_LOAD` (R255). VEC_KERNEL LOAD checks a kernel image and loads it into the named engines. -/
  | vecKernelLoad (c n : Nat)
  /-- `VEC_KERNEL_RUN` (R255). VEC_KERNEL RUN queues one invocation of a resident kernel on each named engine. -/
  | vecKernelRun (c n : Nat)
  /-- `VEC_KERNEL_UNLOAD` (R255). VEC_KERNEL UNLOAD makes a kernel not resident on the named engines. -/
  | vecKernelUnload (c n : Nat)
  /-- `VEC_KERNEL_LOAD_RUN` (R255). VEC_KERNEL LOAD_RUN loads a kernel image and then runs it on the named engines. -/
  | vecKernelLoadRun (c n : Nat)
  /-- `UPDATE_NORM` (R332). UPDATE_NORM runs the norm pass over the named spans, folding gradients and forming the global norm. Started descriptor at ring pointer `n` of context `c`. -/
  | updateNorm (c n : Nat)
  /-- `UPDATE_APPLY` (R333). UPDATE_APPLY runs the update pass over the named spans after commit, writing state, tallies, working copies and program requests. Started descriptor at ring pointer `n` of context `c`. -/
  | updateApply (c n : Nat)
  /-- `PRECOND_STAT` (R325). PRECOND_STAT forms the statistic and direction products of each preconditioned stripe. PRECOND_STAT at ring pointer n of context c (R325). -/
  | precondStat (c n : Nat)
  /-- `PRECOND_ROOT` (R327). PRECOND_ROOT computes the Newton roots of the stripes that are due. PRECOND_ROOT at ring pointer n of context c (R327). -/
  | precondRoot (c n : Nat)
  /-- `PROGRAM_FLUSH` (R144). PROGRAM_FLUSH opens the PROGRAM phase and applies each named die's request list through its shearer unit. Started descriptor at ring pointer `n` of context `c`. -/
  | programFlush (c n : Nat)
  /-- `PROGRAM_DIRECT_LEVELS` (R145). PROGRAM_DIRECT in LEVELS mode programs the four given levels of each entry's weight in a maintenance window. Started descriptor at ring pointer `n` of context `c`. -/
  | programDirectLevels (c n : Nat)
  /-- `PROGRAM_DIRECT_MASTER` (R145). PROGRAM_DIRECT in MASTER mode programs each entry's weight to the canonical code of its master weight. Started descriptor at ring pointer `n` of context `c`. -/
  | programDirectMaster (c n : Nat)
  /-- `COLUMN_RESCALE_AUTO` (R122). COLUMN_RESCALE in AUTO mode rescales each listed column by the smallest power of two that meets the head limit. Started descriptor at ring pointer `n` of context `c`. -/
  | columnRescaleAuto (c n : Nat)
  /-- `COLUMN_RESCALE_EXPLICIT` (R122). COLUMN_RESCALE in EXPLICIT mode rewrites each listed column at the given scale. Started descriptor at ring pointer `n` of context `c`. -/
  | columnRescaleExplicit (c n : Nat)
  /-- `COLUMN_RESCALE_RESTORE` (R122). COLUMN_RESCALE in RESTORE mode rewrites each listed column at its current scale. Started descriptor at ring pointer `n` of context `c`. -/
  | columnRescaleRestore (c n : Nat)
  /-- `MUSTER` (R179). MUSTER descriptor musters the named die, fields or tiles at once. The started descriptor at ring pointer n of context c. -/
  | muster (c n : Nat)
  /-- `TILE_TEST` (R180). TILE_TEST descriptor runs the named test kinds on the listed tiles. The descriptor at ring pointer `n` of context `c`. -/
  | tileTest (c n : Nat)
  /-- `REDUCE` (R458). REDUCE sums BF16 vectors over a group by recursive halving and doubling with stochastic rounding. The started descriptor at ring pointer n of context c. -/
  | reduce (c n : Nat)
  /-- `GATHER` (R460). GATHER writes each member's bytes on every member by recursive doubling. The started descriptor at ring pointer n of context c. -/
  | gather (c n : Nat)
  /-- `SYNC` (R460). SYNC completes when every member has started it and writes the OR of their values. The started descriptor at ring pointer n of context c. -/
  | sync (c n : Nat)
  /-- `FABRIC_PUT` (R463). FABRIC_PUT writes local data to a global address in packets and completes on acknowledgement. The started descriptor at ring pointer n of context c. -/
  | fabricPut (c n : Nat)
  /-- `FABRIC_GET` (R463). FABRIC_GET reads a global range into local memory in packets. The started descriptor at ring pointer n of context c. -/
  | fabricGet (c n : Nat)
  /-- `FABRIC_ATOMIC_ADD` (R463). FABRIC_ATOMIC ADD adds the operand to a remote 64-bit word and returns the old value. The started descriptor at ring pointer n of context c. -/
  | fabricAtomicAdd (c n : Nat)
  /-- `FABRIC_ATOMIC_SWAP` (R463). FABRIC_ATOMIC SWAP replaces a remote 64-bit word and returns the old value. The started descriptor at ring pointer n of context c. -/
  | fabricAtomicSwap (c n : Nat)
  /-- `FABRIC_ATOMIC_CAS` (R463). FABRIC_ATOMIC CAS replaces a remote word when it equals the compare value. The started descriptor at ring pointer n of context c. -/
  | fabricAtomicCas (c n : Nat)
  /-- `FABRIC_ATOMIC_AND` (R463). FABRIC_ATOMIC AND ANDs the operand into a remote word. The started descriptor at ring pointer n of context c. -/
  | fabricAtomicAnd (c n : Nat)
  /-- `FABRIC_ATOMIC_OR` (R463). FABRIC_ATOMIC OR ORs the operand into a remote word. The started descriptor at ring pointer n of context c. -/
  | fabricAtomicOr (c n : Nat)
  /-- `FABRIC_ATOMIC_UMAX` (R463). FABRIC_ATOMIC UMAX keeps the unsigned larger of a remote word and the operand. The started descriptor at ring pointer n of context c. -/
  | fabricAtomicUmax (c n : Nat)
  /-- `CONFIG_STAGE` (R535). CONFIG_STAGE checks its entries and writes staged shadows under a configuration epoch. The work of a started CONFIG_STAGE: context and ring pointer. -/
  | configStage (c n : Nat)
  /-- `CONFIG_COMMIT` (R536). CONFIG_COMMIT waits for a step boundary and puts every shadow in force, then runs the post-commit actions. The work of a started CONFIG_COMMIT, again at each command while it waits. -/
  | configCommit (c n : Nat)
  /-- `DESCRIPTOR_START` (R379). The scheduler starts the ready descriptor of the highest-ranked context once its ordering waits are met. One start of the descriptor scheduler. -/
  | descriptorStart
  /-- `DESCRIPTOR_FETCH` (R379). The module fetches announced descriptors of a context up to its in-flight limits. -/
  | descriptorFetch (c : Nat)
  /-- `DOORBELL_TAIL` (R382). A tail doorbell write accepts, ignores or rejects a new descriptor-ring tail. A 32-bit write of v to offset 0 of a doorbell page of a function of a host link. -/
  | doorbellTail (link func page v : Nat)
  /-- `DOORBELL_HEAD` (R382). A head doorbell write frees completion-ring space and releases held completions. A 32-bit write of v to offset 8 of a doorbell page. -/
  | doorbellHead (link func page v : Nat)
  /-- `IRQ_GAP_EXPIRY` (R397). The interrupt gap of a context ends and one shared message is sent. -/
  | irqGapExpiry (c : Nat)
  /-- `MSIX_UNMASK` (R396). Unmasking an MSI-X vector with a pending bit sends its message. -/
  | msixUnmask (link func vec : Nat)
  /-- `CONTEXT_ENABLE` (R378). Writing CTX_CTL.EN = 1 checks the context configuration, resets its pointers and enters RUN. The word written to CTX_CTL by a master. -/
  | contextEnable (master c : Nat) (w : Word)
  /-- `CONTEXT_DISABLE` (R378). Writing CTX_CTL.EN = 0 enters DRAINING and then DISABLED after the last fetched descriptor. The word written to CTX_CTL by a master. -/
  | contextDisable (master c : Nat) (w : Word)
  /-- `CONTEXT_REBIND` (R400). The surviving PF rebinds a SUSPENDED context to its own link and fetching resumes. The surviving link's PF writes its own link. -/
  | contextRebind (link c : Nat)
  /-- `REGISTER_WRITE` (R12). A write to a register with no row of its own acts by the field's access code after the access-table check. A register write of a master at an offset of BAR0. -/
  | registerWrite (master off : Nat) (w : Word)
  /-- `STAGED_REGISTER_WRITE` (R534). A register write to a staged field writes its shadow only. A write of a register with staged fields. -/
  | stagedRegisterWrite (master off : Nat) (w : Word)
  /-- `MAILBOX_WRITE` (R394). A write to a mailbox word stores it and sets FULL, or is dropped and counted while FULL. Direction 0 host to firmware, 1 firmware to host, 2 core to core; fold die f, word n. -/
  | mailboxWrite (master dir f n : Nat) (w : Word)
  /-- `MAILBOX_READ` (R394). The receiver's read of a mailbox word returns it and clears FULL. -/
  | mailboxRead (master dir f n : Nat)
  /-- `ACL_SHADOW_WRITE` (R392). A write to ACL_ENT1 to ACL_ENT3 is held in the entry's shadow. Word 1 to 3 of entry e of target t. -/
  | aclShadowWrite (master t e word : Nat) (w : Word)
  /-- `ACL_ENTRY_WRITE` (R392). A write to ACL_ENT0 puts the entry and its shadowed words in force together. -/
  | aclEntryWrite (master t e : Nat) (w : Word)
  /-- `ACL_SYNC` (R392). Writing ACL_SYNC.GO starts a drain of requests checked under earlier table states. -/
  | aclSync (master : Nat)
  /-- `ACL_DRAIN_DONE` (R392). The last request checked under an earlier table state completes and ACL_SYNC.BUSY clears. -/
  | aclDrainDone
  /-- `MOD_RESET` (R402). GLB_CTL.MOD_RESET with the key starts a module reset, sending FENCE first. `w` is the word written by `master`. -/
  | modReset (master : Nat) (w : Word)
  /-- `RESET_N_ASSERT` (R558). RESET_N held low holds the whole module in module reset. -/
  | resetNAssert
  /-- `RESET_N_RELEASE` (R557). Release of RESET_N ends module reset, samples SLOT_ID and starts the boot chain. The straps are sampled as `straps`. -/
  | resetNRelease (straps : Nat)
  /-- `MSP_BOOT_DONE` (R523). The boot ROM checks and starts the MSP boot image and the module enters FW_LOAD. -/
  | mspBootDone
  /-- `FW_LOAD_DONE` (R523). The MSP loads the security monitor, images, persistent data and profile 0 and enters MEM_INIT. `bad` names the copies of persistent items whose CRC fails, bit 2(i − 1) for item i in bank A and the next for bank B; `failed` the items whose migration fails, bit i − 1. -/
  | fwLoadDone (bad failed : Nat)
  /-- `MEM_INIT_DONE` (R367). Stack training and zeroing end and the stacks leave INIT. `bad` names the stacks that failed. -/
  | memInitDone (bad : Nat)
  /-- `ARRAY_INIT_DONE` (R482). Tile maps, column tables and start-up verification end and the module becomes READY. -/
  | arrayInitDone
  /-- `BOOT_TIMEOUT` (R404). READY not reached within 30 s ends boot in FAILED. -/
  | bootTimeout
  /-- `LINK_DOWN` (R398). A host link goes down without reset and its contexts enter SUSPENDED. -/
  | linkDown (link : Nat)
  /-- `LINK_UP` (R399). A host link comes back without reset and its suspended contexts resume. -/
  | linkUp (link : Nat)
  /-- `HOST_LINK_RESET` (R402). Fundamental reset, hot reset or link disable of a host link disables its functions' contexts. perst: by GLB_PERSTh_N, held low. -/
  | hostLinkReset (link : Nat) (perst : Bool)
  /-- `PF_FLR` (R402). Function level reset of a PF resets its functions' contexts with the link up. -/
  | pfFlr (link : Nat)
  /-- `VF_FLR` (R402). Function level reset of a VF disables its contexts and resets its MSI-X table. -/
  | vfFlr (link vf : Nat)
  /-- `MVM_START` (R75). A tile starts an MVM once an activity place and result-buffer space are free. Logical tile n of die p. -/
  | mvmStart (p n : Nat)
  /-- `MVM_COMPLETE` (R76). At cycle 88 the codes of an MVM are final and overrange may split the read. The oldest MVM in progress of logical tile n of die p; err holds the analogue error of each signed column, major and minor by physical weight-column, in units of 1/1,024 sum unit. -/
  | mvmComplete (p n : Nat) (err : List Int)
  /-- `CODE_PACKET` (R83). A code packet reaches the block accumulator and its parts are added into the chain accumulators. The oldest packet of die p. -/
  | codePacket (p : Nat)
  /-- `ARRAY_RESULT_DELIVER` (R242). The block accumulator delivers an array-result entry once the engine's queue has room. The oldest ready result of pasture die p. -/
  | arrayResultDeliver (p : Nat)
  /-- `DIE_QUIESCE` (R98). Writing PST_DIE_CTL.QUIESCE stops new MVMs on the die. Written by a master on die p. -/
  | dieQuiesce (master p : Nat) (on : Bool)
  /-- `DIE_RUN` (R96). A die leaves HOLD for RUN after the MSP loads its map, column table and profile and verification ends. Of die `p`; the logical tiles `failed` failed their start-up test. -/
  | dieRun (p : Nat) (failed : List Nat)
  /-- `DIE_UPDATE_END` (R98). The tile sequencer microcode update ends and the die returns to RUN. Of die `p`. -/
  | dieUpdateEnd (p : Nat)
  /-- `PORT_ARBITRATE` (R125). With the port free the arbiter grants it to the highest-ranked asserted requester. On die `p`. -/
  | portArbitrate (p : Nat)
  /-- `PORT_PREEMPT` (R126). A strictly higher-ranked request with no LOCK set takes the grant after the owner's batches end. On die `p`. -/
  | portPreempt (p : Nat)
  /-- `REQUEST_DROP` (R129). The owner drops its request and the port returns to arbitration. On die `p`. -/
  | requestDrop (p : Nat)
  /-- `LOCK_SET` (R127). An owner with LOCKEN sets a LOCK scope on a weight or column. On logical column `col` of tile `n` of die `p`. -/
  | lockSet (p n col : Nat) (kind : ScopeKind)
  /-- `LOCK_CLEAR` (R127). The owner clears a LOCK scope at the end of its sequence. Of logical tile `n` of die `p`. -/
  | lockClear (p n : Nat)
  /-- `BATCH_START` (R116). The port starts a batch of up to 60 cells on a READY tile with a level read. On die `p`. -/
  | batchStart (p : Nat)
  /-- `LEVEL_READ_DONE` (R116). The level read ends and the batch derives target levels and pulses the cells that differ. Of the batch on tile `n` of die `p`; `g` gives the conductances of its cells in order, in units of 0.01 µS. -/
  | levelReadDone (p n : Nat) (g : List Nat)
  /-- `VERIFY_READ_DONE` (R116). A verify read ends, passing cells are done and pending cells get their next pulse or retry. As for the level read. -/
  | verifyReadDone (p n : Nat) (g : List Nat)
  /-- `BATCH_END` (R119). A batch ends, failing cells are entered in the reconcile buffer and wear counters move. Of the batch on tile `n` of die `p`. -/
  | batchEnd (p n : Nat)
  /-- `LIVENESS_REVOKE` (R132). After 1,000 counted cycles without progress the monitor revokes a locked grant and fences the owner. On die `p`. -/
  | livenessRevoke (p : Nat)
  /-- `RECONCILE_READ` (R133). The reconcile read records the found codes of each revoked scope once the buffer has room. On die `p`; `g` gives the conductances of the scope's cells in order. -/
  | reconcileRead (p : Nat) (g : List Nat)
  /-- `RECONCILE_DRAIN` (R134). The remap and rescale engine writes each reconcile entry's tally from the found code. On die `p`. -/
  | reconcileDrain (p : Nat)
  /-- `COLUMN_RESCALE_RUN` (R121). The remap and rescale engine rewrites a posted column at a new scale as a locked sequence. On die `p`; `bad` are the cells that failed verify, `retries` the retry sequences run. -/
  | columnRescaleRun (p : Nat) (bad : List BadCell) (retries : Nat)
  /-- `COLUMN_REMAP` (R142). The remap and rescale engine moves a logical column to a free spare column. As for the rescale. -/
  | columnRemap (p : Nat) (bad : List BadCell) (retries : Nat)
  /-- `TILE_RETIRE` (R143). A tile with no free spare column is replaced by a spare tile column by column. The next `cols` columns of logical tile `n` of die `p`; `bad` in the first of them. -/
  | tileRetire (p n cols : Nat) (bad : List BadCell)
  /-- `REFERENCE_RESTORE` (R160). The muster engine reprograms unusable reference columns to their patterns. As for the rescale. -/
  | referenceRestore (p : Nat) (bad : List BadCell) (retries : Nat)
  /-- `VPROG_CLOSE` (R497). The interlock closes a die's VPROG switch when its port owner has a batch to run. On die `p`. -/
  | vprogClose (p : Nat)
  /-- `VPROG_OUT_OF_WINDOW` (R498). VPROG outside its window for 1 ms opens the switch and ends batches in flight. On die `p`. -/
  | vprogOutOfWindow (p : Nat)
  /-- `VPROG_IDLE_OPEN` (R497). After 1 ms with no batch running the VPROG switch opens. On die `p`. -/
  | vprogIdleOpen (p : Nat)
  /-- `HK_CONVERSION` (R170). A housekeeping conversion ends, is buffered and compared with its warning and fail windows. Of housekeeping block `d`, ending with `code`. -/
  | hkConversion (d code : Nat)
  /-- `HK_LOW_POWER` (R169). A change of MON_CTL.LP takes effect at the end of the conversion in progress. Of housekeeping block `d`. -/
  | hkLowPower (d : Nat)
  /-- `MON_LOCK` (R172). Writing MON_LOCK.LOCK locks the fail windows until module reset. Of housekeeping block `d`; `w` is the word written by `master`. -/
  | monLock (master d : Nat) (w : Word)
  /-- `MIRROR_ENABLE` (R168). Setting MON_MIRROR_LO.EN starts mirroring and clears the mirror write count. Of housekeeping block `d`; `w` is the word written by `master`. -/
  | mirrorEnable (master d : Nat) (w : Word)
  /-- `MUSTER_DUE_TIMER` (R152). A field's age reaches DRIFT_INT and the field falls due. Field f of pasture p. -/
  | musterDueTimer (p f : Nat)
  /-- `DRIFT_TRACKER_UPDATE` (R157). After 16,384 ratios the drift tracker proposes a new drift factor or makes the field due. Field f of pasture p. -/
  | driftTrackerUpdate (p f : Nat)
  /-- `MUSTER_START` (R154). A due field is mustered in the next array-idle interval. Field f of pasture p. -/
  | musterStart (p f : Nat)
  /-- `MUSTER_FORCE` (R154). MUS_FORCE expires and the field's muster is forced on READY tiles. Field f of pasture p. -/
  | musterForce (p f : Nat)
  /-- `MUSTER_COMPLETE` (R159). A tile's 48 µs muster ends and its result is accepted as pending or rejected. Tile n of pasture p, with what its muster measured. -/
  | musterComplete (p n : Nat) (m : Measure)
  /-- `MUSTER_RETRY` (R161). A rejected tile is mustered again at least 1 s later in an array-idle interval. The n-th tile of pasture p's running muster. -/
  | musterRetry (p n : Nat)
  /-- `GRADUAL_APPLY_START` (R164). Values pending 500 ms without a step boundary begin gradual application. On pasture p. -/
  | gradualApplyStart (p : Nat)
  /-- `GRADUAL_APPLY_STEP` (R164). After 1,000 MVMs a pending trim or drift factor moves one unit towards its target. Pasture p, tile or field n. -/
  | gradualApplyStep (p n : Nat) (field : Bool)
  /-- `TEST_DUE` (R173). A unit's class period passes and its test falls due. A unit is a logical tile (die · 8192 + tile), a physical tile (die · 16384 + tile), or a physical matrix unit or drover engine. -/
  | testDue (cls unit : Nat)
  /-- `TEST_SLICE_START` (R174). A test slice starts where its class allows. -/
  | testSliceStart (cls unit : Nat)
  /-- `TEST_SLICE_END` (R174). A test slice ends with pass or fail handling of its unit. `fail` names the kinds that failed, `cols` the failing columns or spares. -/
  | testSliceEnd (cls unit fail : Nat) (cols : List Nat)
  /-- `TEST_OVERDUE` (R175). A test deferred for DEFER_MAX makes its unit test-overdue and fences it or its tile. -/
  | testOverdue (cls unit : Nat)
  /-- `CHAIN_ASSIGN` (R191). A shepherd core hands the next chain of a product to a free unit of the partition and may select it for recount. The i-th product in hand, logical unit u, and the draw of the hardware random source. -/
  | chainAssign (i u dr : Nat)
  /-- `CHAIN_COMPLETE` (R202). A chain's output buffer completes 20 cycles after its last K step with its CRC final. Unit u; what a failing unit gets wrong, as positions and flipped bits. -/
  | chainComplete (u : Nat) (err : List (Nat × Nat))
  /-- `TILE_DRAIN` (R202). A complete buffer drains into its finished-tile queue or partial store once space is free. The oldest complete buffer of unit u. -/
  | tileDrain (u : Nat)
  /-- `RECOUNT_DONE` (R470). A recount or third execution reports its CRC and the entry is released, discarded or reassigned. Unit u; what a failing unit gets wrong, as positions and flipped bits. -/
  | recountDone (u : Nat) (err : List (Nat × Nat))
  /-- `MU_QUIESCE` (R212). Writing MU_CTL.QUIESCE stops new chains on the matrix units. The writing master and the bit written. -/
  | muQuiesce (master : Nat) (on : Bool)
  /-- `INVOCATION_START` (R215). An idle engine takes the next queue entry or run request and starts its kernel. -/
  | invocationStart (e : Nat)
  /-- `PARTIAL_COMBINE` (R221). A last-partial entry waits for its partials, combines them by the fixed tree and starts its kernel. -/
  | partialCombine (e : Nat)
  /-- `KERNEL_WATCHDOG` (R247). KWD expires and the invocation faults with code 7. -/
  | kernelWatchdog (e : Nat)
  /-- `HOLD_WAIT_EXPIRY` (R223). An HBIND or HTAKE wait reaches HWAIT and the invocation faults with code 8. -/
  | holdWaitExpiry (e : Nat)
  /-- `COPY_ENGINE_DONE` (R239). An XCOPY finishes moving its lines. The i-th copy in flight of engine e. -/
  | copyEngineDone (e i : Nat)
  /-- `SUMMARY_DRAIN` (R245). A summary record drains from the FIFO into the shepherd summary table and is combined. -/
  | summaryDrain (e : Nat)
  /-- `DRV_QUIESCE` (R258). Writing DRV_CTL.QUIESCE stops new invocations. -/
  | drvQuiesce (master : Nat) (on : Bool)
  /-- `VARITH` (R229). VARITH applies its FN element-wise to the active lanes. Engine e executes the VARITH at its program counter. -/
  | varith (e : Nat)
  /-- `VFMA` (R229). VFMA forms a fused multiply-add with one rounding. -/
  | vfma (e : Nat)
  /-- `VUN1` (R230). VUN1 applies a unary or special function. -/
  | vun1 (e : Nat)
  /-- `VUN2` (R231). VUN2 applies a derivative function. -/
  | vun2 (e : Nat)
  /-- `VCMP` (R226). VCMP writes a compare result to every bit of a predicate. -/
  | vcmp (e : Nat)
  /-- `VSEL` (R225). VSEL selects lanes of two vectors by predicate. -/
  | vsel (e : Nat)
  /-- `VSMX_SEXP` (R250). VSMX SEXP computes sexp lane by lane. -/
  | vsmxSexp (e : Nat)
  /-- `VSMX_SNORM` (R251). VSMX SNORM computes snorm lane by lane. -/
  | vsmxSnorm (e : Nat)
  /-- `VCVT` (R237). VCVT converts lanes between types, with optional stochastic rounding. -/
  | vcvt (e : Nat)
  /-- `VBCAST_BS` (R228). VBCAST BS broadcasts a scalar to every lane. -/
  | vbcastBs (e : Nat)
  /-- `VBCAST_BL` (R233). VBCAST BL broadcasts one lane of a vector. -/
  | vbcastBl (e : Nat)
  /-- `VBCAST_IOTA` (R233). VBCAST IOTA writes i plus a scalar to each lane. -/
  | vbcastIota (e : Nat)
  /-- `VPERM_IDX` (R236). VPERM IDX gathers lanes by index vector. -/
  | vpermIdx (e : Nat)
  /-- `VPERM_ROT` (R236). VPERM ROT rotates lanes by a scalar. -/
  | vpermRot (e : Nat)
  /-- `VRED` (R232). VRED reduces active lanes into a scalar by the fixed tree. -/
  | vred (e : Nat)
  /-- `PRED` (R226). PRED applies a predicate-logic function. -/
  | pred (e : Nat)
  /-- `SETVL` (R224). SETVL sets the vector length to a clamped sum. -/
  | setvl (e : Nat)
  /-- `VLD` (R239). VLD raw-loads active lanes from local memory. -/
  | vld (e : Nat)
  /-- `VST` (R239). VST raw-stores active lanes to local memory. -/
  | vst (e : Nat)
  /-- `VLDT` (R234). VLDT loads a row of a tile. -/
  | vldt (e : Nat)
  /-- `VSTT` (R234). VSTT stores active lanes into a row of a tile. -/
  | vstt (e : Nat)
  /-- `TOP` (R235). TOP applies a row or column broadcast operation over a whole tile. -/
  | top (e : Nat)
  /-- `TRED` (R235). TRED reduces each row or column of a tile. -/
  | tred (e : Nat)
  /-- `XCOPY` (R239). XCOPY starts a copy between local memory and module memory. -/
  | xcopy (e : Nat)
  /-- `XWAIT` (R239). XWAIT waits for a tagged copy or for all copies. -/
  | xwait (e : Nat)
  /-- `WR_OPEN` (R240). WR OPEN opens a tensor-writer slot with a writer descriptor. -/
  | wrOpen (e : Nat)
  /-- `WR_ROW` (R241). WR ROW writes active lanes into the open row, choosing block scales as blocks complete. -/
  | wrRow (e : Nat)
  /-- `WR_CLOSE` (R241). WR CLOSE ends the open row and slot and pushes automatic summaries. -/
  | wrClose (e : Nat)
  /-- `WR_SATCNT` (R241). WR SATCNT copies the slot's SAT block count to a scalar. -/
  | wrSatcnt (e : Nat)
  /-- `WR_UNFCNT` (R241). WR UNFCNT copies the slot's UNF block count to a scalar. -/
  | wrUnfcnt (e : Nat)
  /-- `VOUTL` (R243). VOUTL forms the outlier contribution of an array entry. -/
  | voutl (e : Nat)
  /-- `SALU` (R229). SALU applies a scalar integer or FP function. -/
  | salu (e : Nat)
  /-- `SADDI` (R228). SADDI adds a signed immediate to a scalar. -/
  | saddi (e : Nat)
  /-- `SLI` (R228). SLI loads a 16-bit immediate into half of a scalar. -/
  | sli (e : Nat)
  /-- `SLD` (R228). SLD loads a word from local memory into a scalar. -/
  | sld (e : Nat)
  /-- `SST` (R228). SST stores a scalar into local memory. -/
  | sst (e : Nat)
  /-- `SLANE` (R228). SLANE copies one vector lane into a scalar. -/
  | slane (e : Nat)
  /-- `SCOND` (R228). SCOND reads, and with FN 1 clears, the invocation's conditions. -/
  | scond (e : Nat)
  /-- `BR` (R228). BR branches relative to its own address when its condition holds. -/
  | br (e : Nat)
  /-- `TQ_HDR` (R222). TQ HDR reads a word of the invocation's entry header. -/
  | tqHdr (e : Nat)
  /-- `TQ_HBIND` (R222). TQ HBIND binds or takes a hold entry for filling. -/
  | tqHbind (e : Nat)
  /-- `TQ_HDONE` (R222). TQ HDONE counts a fill and unbinds the entry, making it READY at its target. -/
  | tqHdone (e : Nat)
  /-- `TQ_HTAKE` (R222). TQ HTAKE waits for a READY hold entry and binds it. -/
  | tqHtake (e : Nat)
  /-- `TQ_HREL` (R222). TQ HREL returns the bound hold entry to FREE. -/
  | tqHrel (e : Nat)
  /-- `SPUSH` (R244). SPUSH appends a summary record to the FIFO, waiting while it is full. -/
  | spush (e : Nat)
  /-- `CTL_NOP` (R228). CTL NOP does nothing. -/
  | ctlNop (e : Nat)
  /-- `CTL_END` (R217). CTL END ends the invocation and releases its entry. -/
  | ctlEnd (e : Nat)
  /-- `CTL_FAULT` (R247). CTL FAULT faults the invocation with code 11. -/
  | ctlFault (e : Nat)
  /-- `SHR_QUIESCE` (R337). Writing SHR_CTL.QUIESCE stops new shearer passes at span ends. Written by `master`. -/
  | shrQuiesce (master : Nat) (on : Bool)
  /-- `MEMORY_REQUEST` (R364). A memory request is checked by the target's access table and served, merged or denied. A read of `n` bytes at `a`, or a write of `data`; `pen` says that `a` is a pen-window address. -/
  | memoryRequest (pen : Bool) (master a n : Nat) (write : Bool) (data : List Byte)
  /-- `UE_CONSUMED` (R352). A consumer receives a poisoned or uncorrectable line, stops, and the module resets within 1 ms. -/
  | ueConsumed
  /-- `CONTROL_MEMORY_UE` (R354). An uncorrectable error in control memory drives the fail-safe state. `inSram` says that the error lies at offset `off` of fold SRAM `f`. -/
  | controlMemoryUe (inSram : Bool) (f off master : Nat)
  /-- `SCRUB_READ` (R356). Patrol scrub reads a line and writes it back corrected or poisoned. Stack `k`, physical channel `p`, channel offset `o`. -/
  | scrubRead (k p o : Nat)
  /-- `CHANNEL_MIGRATE` (R358). MEM_MIG.GO starts retirement of a channel by migration to a spare. `w` is the word written by `master`. -/
  | channelMigrate (master : Nat) (w : Word)
  /-- `MIGRATION_DONE` (R359). The last line is copied and the channel map switches to the spare. Of stack `k`. -/
  | migrationDone (k : Nat)
  /-- `SIGNAL_DETECT` (R413). Signal appears on at least 4 receive lanes and the port enters TRAIN. Port and the receive lanes, as a mask, on which signal appears. -/
  | signalDetect (p lanes : Nat)
  /-- `TRAIN_DONE` (R413). Every signalled lane is equalised and the port enters ALIGN. The peer transmit lane that each receive lane carries. -/
  | trainDone (p : Nat) (peer : List Nat)
  /-- `TRAIN_TIMEOUT` (R415). TRAIN exceeds 50 ms and unequalised lanes are marked failing. The lanes that are equalised, as a mask, and the peer lanes they carry. -/
  | trainTimeout (p ok : Nat) (peer : List Nat)
  /-- `ALIGN_MASK` (R414). The peer's good-lane mask arrives and the width is chosen. The peer's mask, and the receive lanes whose skew exceeds 10 ns. -/
  | alignMask (p mask skew : Nat)
  /-- `ALIGN_TIMEOUT` (R415). ALIGN exceeds 1 ms and the bring-up attempt fails. -/
  | alignTimeout (p : Nat)
  /-- `IDENTITY_SEND` (R416). Every 10 µs in IDENT the port sends its identity record. -/
  | identitySend (p : Nat)
  /-- `IDENTITY_RECORD` (R417). A valid peer identity record is checked against the wiring map and the port enters ACTIVE or QUARANTINE. The 64 bytes of a peer's record. -/
  | identityRecord (p : Nat) (r : List Byte)
  /-- `IDENT_TIMEOUT` (R415). IDENT exceeds 10 ms and the bring-up attempt fails. -/
  | identTimeout (p : Nat)
  /-- `BRINGUP_RETRY` (R415). After a failed attempt the port returns to DETECT after 1 s, or enters DOWN after 8 failures. -/
  | bringupRetry (p : Nat)
  /-- `PORT_RETRAIN` (R433). Writing FAB_PORT_CTL.RETRAIN starts a full bring-up. -/
  | portRetrain (master p : Nat)
  /-- `PORT_LANE_CLR` (R425). Writing FAB_PORT_CTL.LANE_CLR clears retired lanes and starts a full bring-up. -/
  | portLaneClr (master p : Nat)
  /-- `FRAME_RECEIVE` (R423). A frame is decoded; data frames are accepted in order or discarded with a NAK, and ACK and NAK are processed. The 256 bytes of a frame as received. -/
  | frameReceive (p : Nat) (bs : List Byte)
  /-- `ACK_TIMEOUT` (R423). ACK does not advance for ACK_TMO and the buffer is resent or RECOVER entered. -/
  | ackTimeout (p : Nat)
  /-- `RECOVER_DONE` (R424). RECOVER realigns and the transmitter resends from ACK plus 1. The peer's good-lane mask. -/
  | recoverDone (p mask : Nat)
  /-- `RECOVER_TIMEOUT` (R424). RECOVER exceeds 50 µs and a full bring-up starts. -/
  | recoverTimeout (p : Nat)
  /-- `SKIP_SEND` (R409). After every 4,096 frames a SKIP block is sent on every active lane. -/
  | skipSend (p : Nat)
  /-- `LOSS_OF_SIGNAL` (R429). Signal is lost on lanes of an up port, retiring lanes or starting a bring-up. -/
  | lossOfSignal (p lanes : Nat)
  /-- `FENCE_RECEIVE` (R428). Four valid FENCE blocks put the port in PEER_FENCED. -/
  | fenceReceive (p : Nat)
  /-- `PKT_WRITE` (R452). A write packet is forwarded or checked and written at its destination. The oldest such packet at port p. -/
  | pktWrite (p : Nat)
  /-- `PKT_READ` (R452). A read request packet is forwarded or checked and answered with data. The oldest such packet at port p. -/
  | pktRead (p : Nat)
  /-- `PKT_READ_DATA` (R463). Read data lands at the requester's destination. The oldest such packet at port p. -/
  | pktReadData (p : Nat)
  /-- `PKT_WRITE_ACK` (R463). A write acknowledgement arrives for a put. The oldest such packet at port p. -/
  | pktWriteAck (p : Nat)
  /-- `PKT_ATOMIC` (R463). An atomic request is applied indivisibly at its destination and the old value returned. The oldest such packet at port p. -/
  | pktAtomic (p : Nat)
  /-- `PKT_ATOMIC_RESULT` (R463). An atomic result returns the old value to the requester. The oldest such packet at port p. -/
  | pktAtomicResult (p : Nat)
  /-- `PKT_DENIAL` (R452). A denial packet completes the requester's descriptor with ACCESS_DENIED. The oldest such packet at port p. -/
  | pktDenial (p : Nat)
  /-- `PKT_COLLECTIVE_DATA` (R458). Collective data arrives for a step of a REDUCE or GATHER. The oldest such packet at port p. -/
  | pktCollectiveData (p : Nat)
  /-- `PKT_COLLECTIVE_CONTROL` (R460). Collective control arrives for a SYNC, barrier exchange or global branch. A packet of collective control is handled at port p (R460, R461). -/
  | pktCollectiveControl (p : Nat)
  /-- `PKT_RING_DATA` (R454). Ring data lands in a receive slot of a ring stream. The oldest such packet at port p. -/
  | pktRingData (p : Nat)
  /-- `PKT_TIME_SYNC` (R464). A time-sync packet adjusts the timestamp and is forwarded. The oldest time-sync packet at port p; delay is the link's measured one-way delay in ticks (R464). -/
  | pktTimeSync (p delay : Nat)
  /-- `PKT_CREDIT` (R442). A credit packet returns receive-buffer credits to the sender. The oldest such packet at port p. -/
  | pktCredit (p : Nat)
  /-- `PKT_MANAGEMENT` (R446). A management packet is delivered or forwarded by every module. The oldest such packet at port p. -/
  | pktManagement (p : Nat)
  /-- `RING_STEP_SEND` (R454). A module sends its block for the next ring step once the successor's slot may be reused. The stream of the descriptor at ring pointer n of context c. -/
  | ringStepSend (c n : Nat)
  /-- `REMOTE_REQ_TIMEOUT` (R463). A remote request not answered within REQ_TMO completes its descriptor with TIMEOUT. The request under a tag. -/
  | remoteReqTimeout (tag : Nat)
  /-- `COLLECTIVE_TIMEOUT` (R461). A collective whose packets have not all arrived within its timeout completes with TIMEOUT. The collective of the descriptor at ring pointer n of context c. -/
  | collectiveTimeout (c n : Nat)
  /-- `BANK_LOAD` (R449). Writing FAB_EPOCH.LOAD marks the inactive bank complete. FAB_EPOCH.LOAD written by a master. -/
  | bankLoad (master : Nat)
  /-- `EPOCH_HOLD_EXPIRY` (R449). HOLD_MS ends and the old bank leaves HOLD. The HOLD time of bank b ends. -/
  | epochHoldExpiry (b : Nat)
  /-- `TIME_SYNC_SEND` (R464). The time master sends sync on every active port each period. The time master's period passes (R464). -/
  | timeSyncSend
  /-- `TIME_SYNC_LOSS` (R464). No sync for 10 periods clears LOCKED. No sync for 10 periods (R464). -/
  | timeSyncLoss
  /-- `BARRIER_RESULT_TIMEOUT` (R295). No barrier result within the timeout: the module asks peers and decides not committed after a second timeout. No barrier result within the timeout (R295). -/
  | barrierResultTimeout
  /-- `HELD_BARRIER_REPOST` (R296). Every 100 ms a held barrier request is posted again. The held word is posted again (R296). -/
  | heldBarrierRepost
  /-- `HELD_BARRIER_REPLY` (R296). The host's reply to a held barrier is taken and combined in a second exchange. The host's reply to a held barrier is taken (R296). -/
  | heldBarrierReply
  /-- `SPARE_READY_NOTICE` (R483). The feeder's ready notice lets the spare's first UPDATE_NORM of the step start. The feeder's ready notice is handled at port p (R483). -/
  | spareReadyNotice (p : Nat)
  /-- `SPARE_DECISION` (R484). The forwarded decision arrives and the spare commits or goes stale. The forwarded decision is handled at port p (R484). -/
  | spareDecision (p : Nat)
  /-- `ANALOGUE_CHECK` (R474). The built-in routine compares sampled array results with the working copy and starts the ladder on failure. Of physical tile `pt` of die `p`; at rungs 1 and 2 `sums` holds, per logical column, the codes 8·c_M + c_m summed over the `leaves` leaf reads of the two repeated reads. -/
  | analogueCheck (p pt leaves : Nat) (sums : List Int)
  /-- `THRESHOLD_WRITE` (R476). Writing GLB_THR_LIMIT or GLB_THR_WIN changes a row and returns its counts to 0. `win` selects GLB_THR_WIN. -/
  | thresholdWrite (master : Nat) (win : Bool) (w : Word)
  /-- `THRESHOLD_WINDOW_EXPIRY` (R476). A threshold window ends and its counts return to 0. Of a row of Table 14-4. -/
  | thresholdWindowExpiry (row : Nat)
  /-- `FAULT_RECORD_SEND` (R480). The MSP sends a fault record to both collectors and posts the FAULT word. -/
  | faultRecordSend
  /-- `FAULT_RECORD_RESEND` (R481). An unacknowledged fault record is resent every 1 s. Of the record numbered `seq`. -/
  | faultRecordResend (seq : Nat)
  /-- `FAULT_RECORD_ACK` (R562). A collector's acknowledgement datagram marks a record acknowledged. A datagram from address `from_`. -/
  | faultRecordAck (from_ : Nat) (payload : List Byte)
  /-- `REBUILD_SET_LAST` (R488). GLB_RBLD_CTL.SET_LAST sets the last committed step and clears STALE. Written by `master`. -/
  | rebuildSetLast (master : Nat)
  /-- `REBUILD_GO` (R488). GLB_RBLD_CTL.GO starts the array pass of a rebuild. Written by `master`. -/
  | rebuildGo (master : Nat)
  /-- `REBUILD_COMPLETE` (R489). The array pass completes and a rebuild-complete record is sent. `fails` gives the cells that failed verify, by die · 8192 + tile and logical column. -/
  | rebuildComplete (fails : List (Nat × Nat × BadCell))
  /-- `POWER_ENABLE` (R495). PWR_EN high with enough input starts the main-rail sequence. The input stands at `vin` millivolts. -/
  | powerEnable (vin : Nat)
  /-- `RAIL_SEQUENCE_STEP` (R495). A sequence step's rails reach their windows and the next step starts. -/
  | railSequenceStep
  /-- `RAIL_SEQUENCE_TIMEOUT` (R495). A step's rails miss their windows within 5 ms and the sequence stops. `bad` names the rails that have not come up. -/
  | railSequenceTimeout (bad : Nat)
  /-- `POWER_DISABLE` (R496). PWR_EN low drops PWR_GOOD and switches the main rails off. -/
  | powerDisable
  /-- `INPUT_POWER_LOSS` (R493). The input falls below 45 V and the module loses power without FENCE. -/
  | inputPowerLoss
  /-- `POWER_SAMPLE` (R499). Every 10 µs input voltage and current are sampled, possibly triggering the fast limit. The sample reads `vin` and `ma`. -/
  | powerSample (vin ma : Nat)
  /-- `CAP_CONTROL_TICK` (R500). Every 100 µs the cap controller raises or lowers the throttle level. -/
  | capControlTick
  /-- `CAP_MISS` (R502). Level 12 held for 1 s over the cap sets CAP_MISS. -/
  | capMiss
  /-- `POWER_CAP_WRITE` (R500). A write of PWR_CAP sets the cap, effective within 100 µs. `w` is the word written by `master`. -/
  | powerCapWrite (master : Nat) (w : Word)
  /-- `THERMAL_TICK` (R514). The thermal level rises each 1 ms above a warning window or falls each 10 ms below. -/
  | thermalTick
  /-- `STACK_TEMP_READ` (R513). Each stack controller reads its stack sensor every 1 ms. Stack `k` reports `t`. -/
  | stackTempRead (k : Nat) (t : Int)
  /-- `CLOCK_LOSS` (R505). REFCLK or VCO lock is lost and service clocks switch to the backup oscillator. Whether the reference stands and the oscillator is locked. -/
  | clockLoss (ref vco : Bool)
  /-- `CLOCK_RESTORE` (R505). After 1 ms of good REFCLK and lock the service clocks switch back. -/
  | clockRestore
  /-- `FAIL_SAFE_EXIT` (R510). With causes clear for HOLD the module leaves the fail-safe state automatically. -/
  | failSafeExit
  /-- `WATCHDOG_KICK` (R511). Writing PWR_WDT.KICK restarts the watchdog count. `w` is the word written by `master`. -/
  | watchdogKick (master : Nat) (w : Word)
  /-- `WATCHDOG_EXPIRY` (R511). The MSP watchdog expires, asserting WDT and cold-restarting the MSP. -/
  | watchdogExpiry
  /-- `CODE_HASH_CHECK` (R526). Every 60 s the security monitor hashes resident code and asserts SIG on a difference. Whether the hash is the one measured. -/
  | codeHashCheck (same : Bool)
  /-- `FW_WRITE` (R527). FW_CTL WRITE checks an image and writes it into the slot not running. Ordered by `master` for an image type; `flashErr` says that the flash fails. -/
  | fwWrite (master type : Nat) (flashErr : Bool)
  /-- `FW_ACTIVATE` (R527). FW_CTL ACTIVATE makes the other slot NEXT on trial. -/
  | fwActivate (master type : Nat)
  /-- `FW_COMMIT` (R527). FW_CTL COMMIT makes the trial slot committed. -/
  | fwCommit (master type : Nat)
  /-- `FW_REVERT` (R527). FW_CTL REVERT returns NEXT to the committed slot. -/
  | fwRevert (master type : Nat)
  /-- `FW_LOAD` (R532). FW_CTL LOAD checks and stages the NEXT image and waits for the live-load conditions. -/
  | fwLoad (master type units : Nat)
  /-- `FW_RAISE_EPOCH` (R522). FW_CTL RAISE_EPOCH blows security-epoch fuses. -/
  | fwRaiseEpoch (master key : Nat)
  /-- `LIVE_LOAD_START` (R531). A pending load reaches its boundary and the named units load the new code. -/
  | liveLoadStart
  /-- `LIVE_LOAD_RESUME` (R532). Each loaded unit checks its code and resumes, or is reloaded from COMMIT. `ok` says that every unit resumed; `failed` names the items a new MSP image fails to migrate. -/
  | liveLoadResume (ok : Bool) (failed : Nat)
  /-- `COUNTER_LOAD` (R542). Writing CNT_VAL_LO loads a counter with the held high word. Counter i of die d: 0 to 7 P0 to P7, 8 F0, 9 F1. -/
  | counterLoad (master d i : Nat) (w : Word)
  /-- `COUNTER_READ_LATCH` (R542). Reading CNT_VAL_LO latches the counter's high word. -/
  | counterReadLatch (master d i : Nat)
  /-- `ENERGY_READ_LATCH` (R499). Reading PWR_ENERGY_LO latches the high energy word. The register is read by `master`. -/
  | energyReadLatch (master : Nat)
  /-- `COUNTER_FREEZE` (R539). Writing CNT_CTL.FREEZE stops every counter. -/
  | counterFreeze (master : Nat) (freeze : Bool)
  /-- `SMB_GLB_ID` (R560). SMBus command 0x00 returns GLB_ID. -/
  | smbGlbId
  /-- `SMB_STATE` (R560). SMBus command 0x01 returns the state byte. -/
  | smbState
  /-- `SMB_VIN` (R560). SMBus command 0x02 returns the input voltage. -/
  | smbVin
  /-- `SMB_PIN_AVG` (R560). SMBus command 0x03 returns the mean input power. -/
  | smbPinAvg
  /-- `SMB_TEMP` (R560). SMBus command 0x04 returns the highest temperature code. -/
  | smbTemp
  /-- `SMB_FS_CAUSE` (R560). SMBus command 0x05 returns the fail-safe causes. -/
  | smbFsCause
  /-- `SMB_FLT_SEQ` (R560). SMBus command 0x06 returns the last fault sequence number. -/
  | smbFltSeq
  /-- `SMB_ALERT_STATUS` (R560). SMBus command 0x07 returns the alert status. -/
  | smbAlertStatus
  /-- `SMB_ALERT_CLEAR` (R560). SMBus command 0x08 clears alert status bits. `v` is the byte written. -/
  | smbAlertClear (v : Nat)
  /-- `SMB_ALERT_MASK` (R560). SMBus command 0x09 reads or writes the alert mask. `w` is the byte written, none for a read. -/
  | smbAlertMask (w : Option Nat)
  /-- `SMB_SERIAL` (R560). SMBus command 0x10 returns the module serial. -/
  | smbSerial
  /-- `SMB_ALERT_RESPONSE` (R560). The target answers the Alert Response Address. -/
  | smbAlertResponse
  /-- `STATUS` (R563). Management STATUS replies with boot, fail-safe, power, fault and slot state. `req` is the whole datagram: header, body and MAC. -/
  | status (req : List Byte)
  /-- `FS_EXIT` (R510). Management FS_EXIT requests exit from the fail-safe state. `req` is the whole datagram. -/
  | fsExit (req : List Byte)
  /-- `IMAGE_CHUNK` (R563). Management IMAGE_CHUNK writes data into the non-running slot of a type. `req` is the whole datagram. -/
  | imageChunk (req : List Byte)
  /-- `IMAGE_CHECK` (R563). Management IMAGE_CHECK checks a slot and marks it valid. `req` is the whole datagram. -/
  | imageCheck (req : List Byte)
  /-- `READ_REG` (R563). Management READ_REG replies with a register word. `req` is the whole datagram. -/
  | readReg (req : List Byte)
  /-- `ICMP_ECHO` (R561). The management port answers an ICMP echo. `data` is the identifier, sequence number and data of the echo. -/
  | icmpEcho (data : List Byte)
  /-- `ARP_REQUEST` (R561). The management port answers ARP or Neighbor Discovery. `mine` says that the request names the module's address, `nd` that it is a neighbour solicitation. -/
  | arpRequest (mine nd : Bool)
  /-- `STANDBY_POWER_UP` (R491). The input rises past 54 V, the standby converter starts, VSTBY comes up, SLOT_ID is sampled and the management port and power-on reset begin. The straps are sampled as `straps`. -/
  | standbyPowerUp (straps : Nat)
  /-- `HOST_LINK_RESET_EXIT` (R399). GLB_PERSTh_N is released, or a hot reset or link disable ends, and the host link trains and answers configuration space again. -/
  | hostLinkResetExit (link : Nat)
  /-- `VPROG_IN_WINDOW` (R497). VPROG of a die reaches its 2.375 to 2.625 V window after its switch closes or recovers, and waiting batches may start their pulses. On die `p`. -/
  | vprogInWindow (p : Nat)
  /-- `MSP_COLD_RESTART_DONE` (R511). The MSP finishes its cold restart after a watchdog expiry and resumes sending fault records and serving management requests. -/
  | mspColdRestartDone
  /-- `MASTER_CONFLICT_CLEAR` (R465). A time master that has received no sync from another master for 10 periods clears MCONF. No sync of another master for 10 periods (R465). -/
  | masterConflictClear
  /-- `SPARE_NOTICE_TIMEOUT` (R483). A warm spare that receives no ready notice or decision from its feeder within BAR_TMO sets ABSENT and combines it with the decision. No notice or decision within BAR_TMO (R483). -/
  | spareNoticeTimeout
  /-- `ILLEGAL_INSTRUCTION` (R228). A drover-engine instruction with a reserved opcode is executed and the invocation faults with code 1. -/
  | illegalInstruction (e : Nat)
  /-- `NAK_RESEND_TIMEOUT` (R423). A receiver whose awaited frame has not arrived within ACK_TMO after a NAK sends a further NAK. -/
  | nakResendTimeout (p : Nat)
  /-- `RAIL_FAULT` (R556). A main rail leaves its fail window and PWR_GOOD falls within 10 µs, asserting FENCE_N. Rail `n` fails. -/
  | railFault (n : Nat)
  deriving DecidableEq, Repr

end Sys2Proof
end

