-- ==== Sys2Proof/WellFormed.lean ====
section
/-! DEFINITION. Well-formed commands: those that name instances the module has. Other operands take any value. -/

namespace Sys2Proof

/-- Contexts 0 to 4,095 (R375). -/
def ctxIx (c : Nat) : Bool := c < 4096

/-- Pasture dies P0 to P7, and the logical tiles of one (R61). -/
def dieIx (p : Nat) : Bool := p < 8
def tileIx (p n : Nat) : Bool := p < 8 && n < 8192

/-- Logical matrix units and drover engines (R182, R214). -/
def muIx (u : Nat) : Bool := u < 80
def drvIx (e : Nat) : Bool := e < 40

/-- Cleyn ports (R407). -/
def portIx (p : Nat) : Bool := p < 12

/-- Mailbox words: 32 each way between host and firmware, and 16 between engines, on each fold die (R394). -/
def mbxIx (dir f n : Nat) : Bool := f < 2 && (if dir = 0 || dir = 1 then n < 32 else dir = 2 && n < 16)

/-- Counters: 16 on a pasture die, 64 on a fold die (R539). -/
def cntIx (d i : Nat) : Bool := d < 10 && i < (if d < 8 then 16 else 64)

/-- Units of the test classes (Table 5-6). -/
def testIx (cls u : Nat) : Bool :=
  match cls with
  | 0 => u < 65536
  | 1 => u < 65536
  | 2 => u / 16384 < 8 && u % 16384 < 8320
  | 3 => u < 84
  | 4 => u < 42
  | _ => false

/-- The command names instances that exist. -/
def Instr.wf (i : Instr) : Bool :=
  match i with
  | .nop c _ => ctxIx c
  | .copy c _ => ctxIx c
  | .fill c _ => ctxIx c
  | .fence c _ => ctxIx c
  | .mailboxPost c _ => ctxIx c
  | .counterSnapshot c _ => ctxIx c
  | .reservedOpcode c _ => ctxIx c
  | .stepBegin c _ => ctxIx c
  | .layerFwd c _ => ctxIx c
  | .layerBwd c _ => ctxIx c
  | .attnFwd c _ => ctxIx c
  | .attnBwd c _ => ctxIx c
  | .loss c _ => ctxIx c
  | .branch c _ => ctxIx c
  | .stepEnd c _ => ctxIx c
  | .evalBegin c _ => ctxIx c
  | .evalEnd c _ => ctxIx c
  | .vecKernelLoad c _ => ctxIx c
  | .vecKernelRun c _ => ctxIx c
  | .vecKernelUnload c _ => ctxIx c
  | .vecKernelLoadRun c _ => ctxIx c
  | .updateNorm c _ => ctxIx c
  | .updateApply c _ => ctxIx c
  | .precondStat c _ => ctxIx c
  | .precondRoot c _ => ctxIx c
  | .programFlush c _ => ctxIx c
  | .programDirectLevels c _ => ctxIx c
  | .programDirectMaster c _ => ctxIx c
  | .columnRescaleAuto c _ => ctxIx c
  | .columnRescaleExplicit c _ => ctxIx c
  | .columnRescaleRestore c _ => ctxIx c
  | .muster c _ => ctxIx c
  | .tileTest c _ => ctxIx c
  | .reduce c _ => ctxIx c
  | .gather c _ => ctxIx c
  | .sync c _ => ctxIx c
  | .fabricPut c _ => ctxIx c
  | .fabricGet c _ => ctxIx c
  | .fabricAtomicAdd c _ => ctxIx c
  | .fabricAtomicSwap c _ => ctxIx c
  | .fabricAtomicCas c _ => ctxIx c
  | .fabricAtomicAnd c _ => ctxIx c
  | .fabricAtomicOr c _ => ctxIx c
  | .fabricAtomicUmax c _ => ctxIx c
  | .configStage c _ => ctxIx c
  | .configCommit c _ => ctxIx c
  | .descriptorStart => true
  | .descriptorFetch c => ctxIx c
  | .doorbellTail link func _ _ => link < 2 && func < 64
  | .doorbellHead link func _ _ => link < 2 && func < 64
  | .irqGapExpiry c => ctxIx c
  | .msixUnmask link func vec => link < 2 && func < 64 && vec < 32
  | .contextEnable _ c _ => ctxIx c
  | .contextDisable _ c _ => ctxIx c
  | .contextRebind link c => ctxIx c && link < 2
  | .registerWrite _ _ _ => true
  | .stagedRegisterWrite _ _ _ => true
  | .mailboxWrite _ dir f n _ => mbxIx dir f n
  | .mailboxRead _ dir f n => mbxIx dir f n
  | .aclShadowWrite _ t e word _ => t < 64 && e < 64 && 1 ≤ word && word ≤ 3
  | .aclEntryWrite _ t e _ => t < 64 && e < 64
  | .aclSync _ => true
  | .aclDrainDone => true
  | .modReset _ _ => true
  | .resetNAssert => true
  | .resetNRelease _ => true
  | .mspBootDone => true
  | .fwLoadDone _ _ => true
  | .memInitDone _ => true
  | .arrayInitDone => true
  | .bootTimeout => true
  | .linkDown link => link < 2
  | .linkUp link => link < 2
  | .hostLinkReset link _ => link < 2
  | .pfFlr link => link < 2
  | .vfFlr link vf => link < 2 && 1 ≤ vf && vf < 64
  | .mvmStart p n => tileIx p n
  | .mvmComplete p n _ => tileIx p n
  | .codePacket p => dieIx p
  | .arrayResultDeliver p => dieIx p
  | .dieQuiesce _ p _ => dieIx p
  | .dieRun p _ => dieIx p
  | .dieUpdateEnd p => dieIx p
  | .portArbitrate p => dieIx p
  | .portPreempt p => dieIx p
  | .requestDrop p => dieIx p
  | .lockSet p n _ _ => tileIx p n
  | .lockClear p n => tileIx p n
  | .batchStart p => dieIx p
  | .levelReadDone p n _ => tileIx p n
  | .verifyReadDone p n _ => tileIx p n
  | .batchEnd p n => tileIx p n
  | .livenessRevoke p => dieIx p
  | .reconcileRead p _ => dieIx p
  | .reconcileDrain p => dieIx p
  | .columnRescaleRun p _ _ => dieIx p
  | .columnRemap p _ _ => dieIx p
  | .tileRetire p n _ _ => tileIx p n
  | .referenceRestore p _ _ => dieIx p
  | .vprogClose p => dieIx p
  | .vprogOutOfWindow p => dieIx p
  | .vprogIdleOpen p => dieIx p
  | .hkConversion d _ => d < 10
  | .hkLowPower d => d < 10
  | .monLock _ d _ => d < 10
  | .mirrorEnable _ d _ => d < 10
  | .musterDueTimer p f => dieIx p && f < 64
  | .driftTrackerUpdate p f => dieIx p && f < 64
  | .musterStart p f => dieIx p && f < 64
  | .musterForce p f => dieIx p && f < 64
  | .musterComplete p n _ => tileIx p n
  | .musterRetry p n => tileIx p n
  | .gradualApplyStart p => dieIx p
  | .gradualApplyStep p n _ => tileIx p n
  | .testDue cls u => testIx cls u
  | .testSliceStart cls u => testIx cls u
  | .testSliceEnd cls u _ _ => testIx cls u
  | .testOverdue cls u => testIx cls u
  | .chainAssign _ u _ => muIx u
  | .chainComplete u _ => muIx u
  | .tileDrain u => muIx u
  | .recountDone u _ => muIx u
  | .muQuiesce _ _ => true
  | .invocationStart e => drvIx e
  | .partialCombine e => drvIx e
  | .kernelWatchdog e => drvIx e
  | .holdWaitExpiry e => drvIx e
  | .copyEngineDone e _ => drvIx e
  | .summaryDrain e => drvIx e
  | .drvQuiesce _ _ => true
  | .varith e => drvIx e
  | .vfma e => drvIx e
  | .vun1 e => drvIx e
  | .vun2 e => drvIx e
  | .vcmp e => drvIx e
  | .vsel e => drvIx e
  | .vsmxSexp e => drvIx e
  | .vsmxSnorm e => drvIx e
  | .vcvt e => drvIx e
  | .vbcastBs e => drvIx e
  | .vbcastBl e => drvIx e
  | .vbcastIota e => drvIx e
  | .vpermIdx e => drvIx e
  | .vpermRot e => drvIx e
  | .vred e => drvIx e
  | .pred e => drvIx e
  | .setvl e => drvIx e
  | .vld e => drvIx e
  | .vst e => drvIx e
  | .vldt e => drvIx e
  | .vstt e => drvIx e
  | .top e => drvIx e
  | .tred e => drvIx e
  | .xcopy e => drvIx e
  | .xwait e => drvIx e
  | .wrOpen e => drvIx e
  | .wrRow e => drvIx e
  | .wrClose e => drvIx e
  | .wrSatcnt e => drvIx e
  | .wrUnfcnt e => drvIx e
  | .voutl e => drvIx e
  | .salu e => drvIx e
  | .saddi e => drvIx e
  | .sli e => drvIx e
  | .sld e => drvIx e
  | .sst e => drvIx e
  | .slane e => drvIx e
  | .scond e => drvIx e
  | .br e => drvIx e
  | .tqHdr e => drvIx e
  | .tqHbind e => drvIx e
  | .tqHdone e => drvIx e
  | .tqHtake e => drvIx e
  | .tqHrel e => drvIx e
  | .spush e => drvIx e
  | .ctlNop e => drvIx e
  | .ctlEnd e => drvIx e
  | .ctlFault e => drvIx e
  | .shrQuiesce _ _ => true
  | .memoryRequest _ _ _ _ _ _ => true
  | .ueConsumed => true
  | .controlMemoryUe inSram f off _ => !inSram || (f < 2 && 0x9A00000 ≤ off && off < 0xA200000)
  | .scrubRead k p o => k < 8 && p < 32 && o < 2 ^ 32
  | .channelMigrate _ _ => true
  | .migrationDone k => k < 8
  | .signalDetect p _ => portIx p
  | .trainDone p _ => portIx p
  | .trainTimeout p _ _ => portIx p
  | .alignMask p _ _ => portIx p
  | .alignTimeout p => portIx p
  | .identitySend p => portIx p
  | .identityRecord p _ => portIx p
  | .identTimeout p => portIx p
  | .bringupRetry p => portIx p
  | .portRetrain _ p => portIx p
  | .portLaneClr _ p => portIx p
  | .frameReceive p _ => portIx p
  | .ackTimeout p => portIx p
  | .recoverDone p _ => portIx p
  | .recoverTimeout p => portIx p
  | .skipSend p => portIx p
  | .lossOfSignal p _ => portIx p
  | .fenceReceive p => portIx p
  | .pktWrite p => portIx p
  | .pktRead p => portIx p
  | .pktReadData p => portIx p
  | .pktWriteAck p => portIx p
  | .pktAtomic p => portIx p
  | .pktAtomicResult p => portIx p
  | .pktDenial p => portIx p
  | .pktCollectiveData p => portIx p
  | .pktCollectiveControl p => portIx p
  | .pktRingData p => portIx p
  | .pktTimeSync p _ => portIx p
  | .pktCredit p => portIx p
  | .pktManagement p => portIx p
  | .ringStepSend c _ => ctxIx c
  | .remoteReqTimeout _ => true
  | .collectiveTimeout c _ => ctxIx c
  | .bankLoad _ => true
  | .epochHoldExpiry b => b < 2
  | .timeSyncSend => true
  | .timeSyncLoss => true
  | .barrierResultTimeout => true
  | .heldBarrierRepost => true
  | .heldBarrierReply => true
  | .spareReadyNotice p => portIx p
  | .spareDecision p => portIx p
  | .analogueCheck p pt _ _ => dieIx p && pt < 8320
  | .thresholdWrite _ _ _ => true
  | .thresholdWindowExpiry row => row < 14
  | .faultRecordSend => true
  | .faultRecordResend _ => true
  | .faultRecordAck _ _ => true
  | .rebuildSetLast _ => true
  | .rebuildGo _ => true
  | .rebuildComplete _ => true
  | .powerEnable _ => true
  | .railSequenceStep => true
  | .railSequenceTimeout _ => true
  | .powerDisable => true
  | .inputPowerLoss => true
  | .powerSample _ _ => true
  | .capControlTick => true
  | .capMiss => true
  | .powerCapWrite _ _ => true
  | .thermalTick => true
  | .stackTempRead k _ => k < 8
  | .clockLoss _ _ => true
  | .clockRestore => true
  | .failSafeExit => true
  | .watchdogKick _ _ => true
  | .watchdogExpiry => true
  | .codeHashCheck _ => true
  | .fwWrite _ _ _ => true
  | .fwActivate _ _ => true
  | .fwCommit _ _ => true
  | .fwRevert _ _ => true
  | .fwLoad _ _ _ => true
  | .fwRaiseEpoch _ _ => true
  | .liveLoadStart => true
  | .liveLoadResume _ _ => true
  | .counterLoad _ d i _ => cntIx d i
  | .counterReadLatch _ d i => cntIx d i
  | .energyReadLatch _ => true
  | .counterFreeze _ _ => true
  | .smbGlbId => true
  | .smbState => true
  | .smbVin => true
  | .smbPinAvg => true
  | .smbTemp => true
  | .smbFsCause => true
  | .smbFltSeq => true
  | .smbAlertStatus => true
  | .smbAlertClear _ => true
  | .smbAlertMask _ => true
  | .smbSerial => true
  | .smbAlertResponse => true
  | .status _ => true
  | .fsExit _ => true
  | .imageChunk _ => true
  | .imageCheck _ => true
  | .readReg _ => true
  | .icmpEcho _ => true
  | .arpRequest _ _ => true
  | .standbyPowerUp _ => true
  | .hostLinkResetExit link => link < 2
  | .vprogInWindow p => dieIx p
  | .mspColdRestartDone => true
  | .masterConflictClear => true
  | .spareNoticeTimeout => true
  | .illegalInstruction e => drvIx e
  | .nakResendTimeout p => portIx p
  | .railFault n => 2 ≤ n && n < 13

end Sys2Proof
end

