-- ==== Sys2Proof/Config.lean ====
section
/-! DEFINITION. What one implementation fixes, the values the spec leaves open, and the external standards the spec
names. Every constant here is opaque: no proof can see a value of it. -/

namespace Sys2Proof

/-- The free values: what the spec leaves open at the n-th choice of a run. DESIGN CHOICE, log entry 4. -/
opaque Config.free : Nat → Nat

/-- The module serial of the label data (R369, R480, R560). Log entry 5. -/
opaque Config.serial : Nat

/-- The MAC address of the label data (R561). Log entry 5. -/
opaque Config.macAddr : Nat

/-- The four key hashes in the fuses (R521). Log entry 5. -/
opaque Config.keyHash : Nat → List Byte

/-- The revocation fuses of the four keys (R521). Log entry 5. -/
opaque Config.keyRevoked : Nat → Bool

/-- SHA-384 of FIPS 180-4 (R520). PRESUMED external standard, log entry 6. -/
opaque Config.sha384 : List Byte → List Byte

/-- ECDSA over P-384 with SHA-384 of FIPS 186-5: key, signature and signed bytes (R520). Log entry 6. -/
opaque Config.ecdsaVerify : List Byte → List Byte → List Byte → List Byte → Bool

/-- HMAC-SHA-384 of FIPS 198-1: key and message (R563). Log entry 6. -/
opaque Config.hmac384 : List Byte → List Byte → List Byte

/-- The results of the special functions between the values the spec fixes: function code and the bits of the operand
words (R230, R231, R250). Log entry 7. -/
opaque Config.special : Nat → List Word → Nat

/-- Factory trims of the calibration tables (R142, R159, Table 16-8): the offset trim and gain trim of a physical
weight-column, by die, physical tile and column, and the array gain of a physical tile in units of 2^-20. Log entry 12. -/
opaque Config.factoryOfs : Nat → Nat → Nat → Int
opaque Config.factoryGt : Nat → Nat → Nat → Nat
opaque Config.factoryGain : Nat → Nat → Nat

/-- The images in the flash slots at manufacture, and whether each passed its checks when written: by 2·type, plus 1 for slot B
(R518, Table 16-18). Log entry 23. -/
opaque Config.factoryImage : Nat → List Byte
opaque Config.factoryValid : Nat → Bool

/-- What the decoder makes of a line with more errors than its code guarantees to detect, by line and errors: none where it detects
them, else the data it returns and the symbol it takes for corrected (R345, R347). Log entry 143. -/
opaque Config.beyond : Nat → List (Nat × Nat) → Option (Option Nat × List Byte)

/-- The rows of the tensor whose scale history area starts at an address: a writer descriptor gives no row count, so the
place of bank 1 (R39) is open. Log entry 15. -/
opaque Config.historyRows : Nat → Nat

/-- The version of a persistent item that a type 1 image writes, by image and item (R530). Log entry 19. -/
opaque Config.itemVersion : List Byte → Nat → Nat

end Sys2Proof
end

