-- ==== Sys2Proof/Machine/Bits.lean ====
section
/-! DEFINITION. Bit fields, byte order (R10), sign extension and the sparse canonical maps every table of the state
is held in. -/

namespace Sys2Proof.Machine

/-- Bits [hi:lo] of a number, bit 0 the least significant (R10). -/
def fld (w hi lo : Nat) : Nat := (w >>> lo) % 2 ^ (hi + 1 - lo)

/-- Bit i of a number. -/
def bitOf (w i : Nat) : Bool := w.testBit i

/-- The number with bits [hi:lo] replaced by v. -/
def setFld (w hi lo v : Nat) : Nat :=
  (w >>> (hi + 1)) <<< (hi + 1) + (v % 2 ^ (hi + 1 - lo)) <<< lo + w % 2 ^ lo

/-- Bits [hi:lo] of a register word. -/
def wfld (w : Word) (hi lo : Nat) : Nat := fld w.toNat hi lo

/-- The register word with bits [hi:lo] replaced by v. -/
def wset (w : Word) (hi lo v : Nat) : Word := BitVec.ofNat 32 (setFld w.toNat hi lo v)

/-- The word with one bit set. -/
def wsetBit (w : Word) (i : Nat) : Word := w ||| (1#32 <<< i)

/-- The word with one bit cleared. -/
def wclrBit (w : Word) (i : Nat) : Word := w &&& ~~~(1#32 <<< i)

/-- 1 for true and 0 for false. -/
def b2n (b : Bool) : Nat := if b then 1 else 0

/-- The two's complement value of the low n bits. -/
def sext (n w : Nat) : Int :=
  let v := w % 2 ^ n
  if v < 2 ^ (n - 1) then (v : Int) else (v : Int) - (2 ^ n : Nat)

/-- The low n bits of the two's complement form of an integer. -/
def ofInt (n : Nat) (x : Int) : Nat := (x % ((2 ^ n : Nat) : Int)).toNat

/-- An integer held between two bounds. -/
def clampI (x lo hi : Int) : Int := if x < lo then lo else if hi < x then hi else x

/-- A natural number held between two bounds. -/
def clampN (x lo hi : Nat) : Nat := if x < lo then lo else if hi < x then hi else x

/-- The number whose little-endian bytes are given (R10). -/
def leNat : List Byte → Nat
  | [] => 0
  | b :: bs => b.toNat + 256 * leNat bs

/-- The n little-endian bytes of a number (R10). -/
def leBytes : Nat → Nat → List Byte
  | 0, _ => []
  | n + 1, v => BitVec.ofNat 8 v :: leBytes n (v / 256)

/-- The number whose big-endian bytes are given (network order of the management port). -/
def beNat (bs : List Byte) : Nat := leNat bs.reverse

/-- The n big-endian bytes of a number. -/
def beBytes (n v : Nat) : List Byte := (leBytes n v).reverse

/-- The little-endian field of n bytes at an offset of a byte string; bytes beyond its end read as 0. -/
def leAt (bs : List Byte) (off n : Nat) : Nat := leNat ((bs.drop off).take n)

/-- The 32-bit little-endian word at an offset of a byte string. -/
def w32At (bs : List Byte) (off : Nat) : Nat := leAt bs off 4

/-- The 64-bit little-endian word at an offset of a byte string. -/
def w64At (bs : List Byte) (off : Nat) : Nat := leAt bs off 8

/-- Ceiling of a quotient. -/
def ceilDiv (a b : Nat) : Nat := (a + b - 1) / b

/-- The numbers from a, n of them. -/
def rangeFrom (a n : Nat) : List Nat := (List.range n).map (a + ·)

/-- The positions of the bits set in the low n bits of a mask, rising. -/
def bitsSet (n mask : Nat) : List Nat := (List.range n).filter fun i => mask.testBit i

/-- The number of bits set in the low n bits of a mask. -/
def popcount (n mask : Nat) : Nat := (bitsSet n mask).length

/-- A power of two, or 0 for none. -/
def isPow2 (n : Nat) : Bool := n != 0 && n == 2 ^ n.log2

/-- Replace the element at an index of a list; beyond its end nothing changes. -/
def listSet {α : Type} (xs : List α) (i : Nat) (a : α) : List α := xs.set i a

/-- A table keyed by number: pairs with strictly rising keys, none holding its key's default. -/
abbrev Map (α : Type) := List (Nat × α)

/-- The value at a key; an unlisted key reads as the default. -/
def mapGet {α : Type} (d : α) : Map α → Nat → α
  | [], _ => d
  | (k, v) :: m, i => if i = k then v else mapGet d m i

/-- The value at a key, or none where the key is not listed. -/
def mapFind {α : Type} : Map α → Nat → Option α
  | [], _ => none
  | (k, v) :: m, i => if i = k then some v else mapFind m i

/-- Remove a key. -/
def mapErase {α : Type} : Map α → Nat → Map α
  | [], _ => []
  | (k, v) :: m, i => if i = k then mapErase m i else (k, v) :: mapErase m i

/-- Insert a pair in key order, replacing the pair of the same key. -/
def mapIns {α : Type} : Map α → Nat → α → Map α
  | [], i, a => [(i, a)]
  | (k, v) :: m, i, a =>
    if i < k then (i, a) :: (k, v) :: m
    else if i = k then (i, a) :: m
    else (k, v) :: mapIns m i a

/-- Write a key: writing the default removes the entry, so that equal tables are equal data. -/
def mapSet {α : Type} [DecidableEq α] (d : α) (m : Map α) (i : Nat) (a : α) : Map α :=
  if a = d then mapErase m i else mapIns m i a

/-- Change the value at a key by a function of what it held. -/
def mapUpd {α : Type} [DecidableEq α] (d : α) (m : Map α) (i : Nat) (f : α → α) : Map α :=
  mapSet d m i (f (mapGet d m i))

/-- Every key of a table is above a bound and the keys rise strictly. -/
def keysAbove {α : Type} : Nat → Map α → Bool
  | _, [] => true
  | b, (k, _) :: m => decide (b < k) && keysAbove k m

/-- The canonical form of a table with one default. -/
def mapWf {α : Type} [DecidableEq α] (d : α) (m : Map α) : Bool :=
  (match m with
   | [] => true
   | (k, _) :: m' => keysAbove k m') && m.all fun kv => decide (kv.2 ≠ d)

end Sys2Proof.Machine
end

