-- ==== Sys2Proof/Machine/Formats.lean ====
section
/-! DEFINITION. Floating-point formats as exact dyadic values: decoding with the input flush, rounding to nearest even
or stochastically, and the exact sums, products, quotients and roots every engine rounds once (R24 to R29, R51 to R53). -/

namespace Sys2Proof.Machine

/-- A floating-point layout: exponent bits and fraction bits (Table 2-1). -/
structure FFmt where
  eb : Nat
  fb : Nat
  deriving DecidableEq, Repr

def fp32 : FFmt := ⟨8, 23⟩
def bf16 : FFmt := ⟨8, 7⟩
def fp16 : FFmt := ⟨5, 10⟩
def fp64 : FFmt := ⟨11, 52⟩

/-- A decoded value: NaN, a signed infinity, or ±m·2^e exactly (m = 0 is a signed zero). -/
inductive FVal
  | nan
  | inf (neg : Bool)
  | fin (neg : Bool) (m : Nat) (e : Int)
  deriving DecidableEq, Repr

/-- The sticky conditions of R29, with the narrow-NaN condition of R45. -/
structure Cond where
  invalid : Bool := false
  overflow : Bool := false
  underflow : Bool := false
  inFlush : Bool := false
  narrowNan : Bool := false
  deriving DecidableEq, Repr

def Cond.none : Cond := {}

/-- Conditions gather: a sticky condition once raised stays. -/
def Cond.or (a b : Cond) : Cond :=
  { invalid := a.invalid || b.invalid, overflow := a.overflow || b.overflow,
    underflow := a.underflow || b.underflow, inFlush := a.inFlush || b.inFlush,
    narrowNan := a.narrowNan || b.narrowNan }

/-- A rounding rule: to nearest even, or stochastic with its 16-bit draw (R51, R53). -/
inductive Rnd
  | rne
  | sr (u : Nat)
  deriving DecidableEq, Repr

def FFmt.width (f : FFmt) : Nat := 1 + f.eb + f.fb
def FFmt.bias (f : FFmt) : Nat := 2 ^ (f.eb - 1) - 1
def FFmt.emax (f : FFmt) : Int := (f.bias : Int)
def FFmt.emin (f : FFmt) : Int := 1 - (f.bias : Int)

/-- The sign bit in place. -/
def FFmt.signBit (f : FFmt) (neg : Bool) : Nat := if neg then 2 ^ (f.eb + f.fb) else 0

/-- The canonical quiet NaN of a format (R27). -/
def FFmt.nanBits (f : FFmt) : Nat := (2 ^ f.eb - 1) * 2 ^ f.fb + 2 ^ (f.fb - 1)

def FFmt.infBits (f : FFmt) (neg : Bool) : Nat := f.signBit neg + (2 ^ f.eb - 1) * 2 ^ f.fb

/-- Bits to value with the input flush: a subnormal reads as the zero of its sign (R25). -/
def FFmt.decode (f : FFmt) (w : Nat) : FVal :=
  let neg := w.testBit (f.eb + f.fb)
  let ex := fld w (f.eb + f.fb - 1) f.fb
  let fr := w % 2 ^ f.fb
  if ex = 2 ^ f.eb - 1 then (if fr = 0 then .inf neg else .nan)
  else if ex = 0 then .fin neg 0 0
  else .fin neg (2 ^ f.fb + fr) ((ex : Int) - f.bias - f.fb)

/-- The operand is a subnormal, which sets the input-flush condition (R29). -/
def FFmt.isSubnormal (f : FFmt) (w : Nat) : Bool :=
  fld w (f.eb + f.fb - 1) f.fb = 0 && w % 2 ^ f.fb != 0

/-- Bits to value keeping subnormals (values that no arithmetic of R25 touches). -/
def FFmt.decodeRaw (f : FFmt) (w : Nat) : FVal :=
  if f.isSubnormal w then .fin (w.testBit (f.eb + f.fb)) (w % 2 ^ f.fb) (1 - (f.bias : Int) - f.fb) else f.decode w

/-- m·2^e at a coarser or equal exponent: the truncated integer of m·2^(e−t) and whether it is exact below it,
with the 16 bits just under the least significant bit (R53) and the comparison with one half for nearest even. -/
structure Trunc where
  a : Nat
  r16 : Nat
  half : Ordering
  exact : Bool
  deriving DecidableEq, Repr

/-- Truncate m·2^e to a multiple of 2^t. -/
def truncAt (m : Nat) (e t : Int) : Trunc :=
  if t ≤ e then { a := m * 2 ^ (e - t).toNat, r16 := 0, half := .lt, exact := true }
  else
    let sh := (t - e).toNat
    let rem := m % 2 ^ sh
    { a := m >>> sh, r16 := (rem * 65536) >>> sh, half := compare (2 * rem) (2 ^ sh), exact := rem = 0 }

/-- Round a magnitude m·2^e to a multiple of 2^t (R51, R53), as that multiple. -/
def roundMag (rnd : Rnd) (m : Nat) (e t : Int) : Nat :=
  let q := truncAt m e t
  match rnd with
  | .rne => match q.half with
    | .lt => q.a
    | .gt => q.a + 1
    | .eq => if q.a % 2 = 0 then q.a else q.a + 1
  | .sr u => if 65536 ≤ q.r16 + u then q.a + 1 else q.a

/-- Exponent of the leading bit of m·2^e. -/
def topExp (m : Nat) (e : Int) : Int := (m.log2 : Int) + e

/-- Round a value to a format: precision first with the exponent unbounded, then overflow (R28, R53) and the flush of
R25. Rounding up stochastically from the largest finite magnitude gives that magnitude, as R53 says, and sets no condition, also where
R29 and R196 speak of an infinity (DEDUCED, log entry 145). -/
def FFmt.round (f : FFmt) (rnd : Rnd) (v : FVal) : Nat × Cond :=
  match v with
  | .nan => (f.nanBits, .none)
  | .inf n => (f.infBits n, .none)
  | .fin n m e =>
    if m = 0 then (f.signBit n, .none)
    else
      let t := topExp m e - f.fb
      let a := roundMag rnd m e t
      let carried := a = 2 ^ (f.fb + 1)
      let a' := if carried then 2 ^ f.fb else a
      let ex := if carried then topExp m e + 1 else topExp m e
      if f.emax < ex then
        match rnd with
        | .rne => (f.infBits n, { overflow := true })
        | .sr _ =>
          if topExp m e ≤ f.emax then (f.signBit n + (2 ^ f.eb - 1) * 2 ^ f.fb - 1, .none)
          else (f.infBits n, { overflow := true })
      else if ex < f.emin then (f.signBit n, { underflow := true })
      else (f.signBit n + (ex + f.bias).toNat * 2 ^ f.fb + (a' - 2 ^ f.fb), .none)

def FVal.isNan : FVal → Bool
  | .nan => true
  | _ => false

def FVal.isInf : FVal → Bool
  | .inf _ => true
  | _ => false

def FVal.isZero : FVal → Bool
  | .fin _ m _ => m = 0
  | _ => false

def FVal.sign : FVal → Bool
  | .nan => false
  | .inf n => n
  | .fin n _ _ => n

def FVal.neg : FVal → FVal
  | .nan => .nan
  | .inf n => .inf !n
  | .fin n m e => .fin (!n) m e

def FVal.abs : FVal → FVal
  | .nan => .nan
  | .inf _ => .inf false
  | .fin _ m e => .fin false m e

def FVal.zero : FVal := .fin false 0 0
def FVal.one : FVal := .fin false 1 0

/-- An integer as an exact value; 0 is +0. -/
def FVal.ofInt (x : Int) : FVal := .fin (x < 0) x.natAbs 0

/-- x·2^k exactly. -/
def FVal.scale (v : FVal) (k : Int) : FVal :=
  match v with
  | .fin n m e => .fin n m (e + k)
  | v => v

/-- The signed mantissa at a common exponent. -/
def signedAt (n : Bool) (m : Nat) (e t : Int) : Int :=
  let k : Int := ((m * 2 ^ (e - t).toNat : Nat) : Int)
  if n then -k else k

/-- The exact sum, with the signs of zeros and infinities of IEEE 754-2019; inf − inf is NaN (R27). -/
def FVal.add (a b : FVal) : FVal :=
  match a, b with
  | .nan, _ => .nan
  | _, .nan => .nan
  | .inf x, .inf y => if x = y then .inf x else .nan
  | .inf x, .fin _ _ _ => .inf x
  | .fin _ _ _, .inf y => .inf y
  | .fin n m e, .fin n' m' e' =>
    if m = 0 ∧ m' = 0 then .fin (n && n') 0 0
    else if m = 0 then .fin n' m' e'
    else if m' = 0 then .fin n m e
    else
      let t := min e e'
      let s := signedAt n m e t + signedAt n' m' e' t
      .fin (s < 0) s.natAbs t

def FVal.sub (a b : FVal) : FVal := a.add b.neg

/-- The exact product; 0 × inf is NaN (R27). -/
def FVal.mul (a b : FVal) : FVal :=
  match a, b with
  | .nan, _ => .nan
  | _, .nan => .nan
  | .inf x, .inf y => .inf (x != y)
  | .inf x, .fin y m _ => if m = 0 then .nan else .inf (x != y)
  | .fin x m _, .inf y => if m = 0 then .nan else .inf (x != y)
  | .fin n m e, .fin n' m' e' => .fin (n != n') (m * m') (e + e')

/-- Extra quotient bits under which one sticky bit stands for the whole remainder; a rounding to at most 53 bits with
16 draw bits below them never reaches it. -/
def quotBits : Nat := 160

/-- The quotient, exact up to a sticky bit below every bit a rounding looks at; 0/0 and inf/inf are NaN, a finite
value over zero is an infinity (R27, R29). -/
def FVal.div (a b : FVal) : FVal :=
  match a, b with
  | .nan, _ => .nan
  | _, .nan => .nan
  | .inf _, .inf _ => .nan
  | .inf x, .fin y _ _ => .inf (x != y)
  | .fin x _ _, .inf y => .fin (x != y) 0 0
  | .fin n m e, .fin n' m' e' =>
    if m' = 0 then (if m = 0 then .nan else .inf (n != n'))
    else
      let k := quotBits + m'.log2
      let num := m <<< k
      let q := num / m'
      .fin (n != n') (2 * q + b2n (num % m' != 0)) (e - e' - k - 1)

/-- Integer square root by bits from the top: the largest r with r·r ≤ n, found over k more bits. -/
def isqrtBits (n : Nat) : Nat → Nat → Nat
  | 0, r => r
  | k + 1, r =>
    let r' := r + 2 ^ k
    if r' * r' ≤ n then isqrtBits n k r' else isqrtBits n k r

def isqrt (n : Nat) : Nat := isqrtBits n (n.log2 / 2 + 1) 0

/-- The square root up to a sticky bit; of a negative value NaN, of ±0 itself. -/
def FVal.sqrt (a : FVal) : FVal :=
  match a with
  | .nan => .nan
  | .inf true => .nan
  | .inf false => .inf false
  | .fin n m e =>
    if m = 0 then .fin n 0 0
    else if n then .nan
    else
      let k := 2 * quotBits + (e % 2).toNat
      let x := m <<< k
      let r := isqrt x
      .fin false (2 * r + b2n (r * r != x)) ((e - k) / 2 - 1)

/-- Comparison of two values that are not NaN; zeros of both signs are equal. -/
def FVal.cmp (a b : FVal) : Ordering :=
  match a, b with
  | .inf x, .inf y => if x = y then .eq else if x then .lt else .gt
  | .inf x, _ => if x then .lt else .gt
  | _, .inf y => if y then .gt else .lt
  | .fin n m e, .fin n' m' e' =>
    let t := min e e'
    compare (signedAt n m e t) (signedAt n' m' e' t)
  | _, _ => .eq

def FVal.lt (a b : FVal) : Bool := !a.isNan && !b.isNan && a.cmp b == .lt
def FVal.le (a b : FVal) : Bool := !a.isNan && !b.isNan && a.cmp b != .gt

/-- An operation answered NaN though none of its operands was one: the invalid condition (R29). -/
def invalidOf (ops : List FVal) (r : FVal) : Cond := { invalid := r.isNan && !ops.any FVal.isNan }

/-- The input-flush condition over operand words of one format. -/
def flushOf (f : FFmt) (ws : List Nat) : Cond := { inFlush := ws.any f.isSubnormal }

/-- One arithmetic operation: decode with the flush, compute exactly, round once, gather the conditions. -/
def FFmt.op1 (f : FFmt) (rnd : Rnd) (g : FVal → FVal) (a : Nat) : Nat × Cond :=
  let x := f.decode a
  let r := g x
  let o := f.round rnd r
  (o.1, (o.2.or (invalidOf [x] r)).or (flushOf f [a]))

def FFmt.op2 (f : FFmt) (rnd : Rnd) (g : FVal → FVal → FVal) (a b : Nat) : Nat × Cond :=
  let x := f.decode a
  let y := f.decode b
  let r := g x y
  let o := f.round rnd r
  (o.1, (o.2.or (invalidOf [x, y] r)).or (flushOf f [a, b]))

/-- A fused multiply-add: one rounding of the exact a·b + c. -/
def FFmt.fma (f : FFmt) (rnd : Rnd) (a b c : Nat) : Nat × Cond :=
  let x := f.decode a
  let y := f.decode b
  let z := f.decode c
  let r := (x.mul y).add z
  let o := f.round rnd r
  (o.1, (o.2.or (invalidOf [x, y, z] r)).or (flushOf f [a, b, c]))

/-- A conversion between floating-point formats, arithmetic for the flush of R25 (Table 2-7). -/
def fcvt (src dst : FFmt) (rnd : Rnd) (w : Nat) : Nat × Cond :=
  let o := dst.round rnd (src.decode w)
  (o.1, o.2.or (flushOf src [w]))

/-- Sum of FP32 words, nearest even. -/
def addF (a b : Nat) : Nat := (fp32.op2 .rne FVal.add a b).1
def subF (a b : Nat) : Nat := (fp32.op2 .rne FVal.sub a b).1
def mulF (a b : Nat) : Nat := (fp32.op2 .rne FVal.mul a b).1
def divF (a b : Nat) : Nat := (fp32.op2 .rne FVal.div a b).1
def sqrtF (a : Nat) : Nat := (fp32.op1 .rne FVal.sqrt a).1

/-- Round an exact value to the nearest integer, ties to even; NaN and infinities answer 0. -/
def FVal.toIntRne (v : FVal) : Int :=
  match v with
  | .fin n m e => let q : Int := (roundMag .rne m e 0 : Nat); if n then -q else q
  | _ => 0

/-- Truncation toward zero to an integer. -/
def FVal.toIntTrunc (v : FVal) : Int :=
  match v with
  | .fin n m e => let q : Int := ((truncAt m e 0).a : Nat); if n then -q else q
  | _ => 0

end Sys2Proof.Machine
end

