-- ==== Sys2Proof/Machine/Chacha.lean ====
section
/-! DEFINITION. The keyed stream of random bits that stochastic rounding draws from: the ChaCha8 block function and the
draw of a site, tile index and draw index (R52 to R56, R58). -/

namespace Sys2Proof.Machine

/-- The quarter round of RFC 8439 on four words. -/
def quarter (a b c d : Word) : Word × Word × Word × Word :=
  let a := a + b
  let d := (d ^^^ a).rotateLeft 16
  let c := c + d
  let b := (b ^^^ c).rotateLeft 12
  let a := a + b
  let d := (d ^^^ a).rotateLeft 8
  let c := c + d
  let b := (b ^^^ c).rotateLeft 7
  (a, b, c, d)

/-- The quarter round at four positions of the state. -/
def quarterAt (x : List Word) (i j k l : Nat) : List Word :=
  let q := quarter (x.getD i 0) (x.getD j 0) (x.getD k 0) (x.getD l 0)
  (((x.set i q.1).set j q.2.1).set k q.2.2.1).set l q.2.2.2

/-- One double round: four column rounds, then four diagonal rounds. -/
def doubleRound (x : List Word) : List Word :=
  let x := quarterAt (quarterAt (quarterAt (quarterAt x 0 4 8 12) 1 5 9 13) 2 6 10 14) 3 7 11 15
  quarterAt (quarterAt (quarterAt (quarterAt x 0 5 10 15) 1 6 11 12) 2 7 8 13) 3 4 9 14

/-- The block function with four double rounds and the feed-forward addition (R54). -/
def chachaBlock (x : List Word) : List Word :=
  let y := doubleRound (doubleRound (doubleRound (doubleRound x)))
  List.zipWith (· + ·) x y

/-- The input state of Table 2-9: seed words, draw index over 32, site and tile index, step number. -/
def chachaInput (seed : List Word) (site t d s : Nat) : List Word :=
  [0x61707865#32, 0x3320646E#32, 0x79622D32#32, 0x6B206574#32] ++
  (List.range 8).map (fun i => seed.getD i 0) ++
  [BitVec.ofNat 32 (d % 2 ^ 64 / 32), BitVec.ofNat 32 (d % 2 ^ 64 / 32 / 2 ^ 32),
   BitVec.ofNat 32 (2 ^ 20 * (site % 256) + t % 2 ^ 16), BitVec.ofNat 32 s]

/-- The 16-bit draw of a site (R54); T takes its low 16 bits and D its low 64 bits (R55). -/
def draw (seed : List Word) (site t d s : Nat) : Nat :=
  let j := d % 32
  let w := (chachaBlock (chachaInput seed site t d s)).getD (j / 2) 0
  if j % 2 = 0 then w.toNat % 65536 else w.toNat / 65536

/-- The check value of a seed: bits [15:0] of output word 0 for site 0xFF with T = D = S = 0 (R58). -/
def seedCheck (seed : List Word) : Nat := draw seed 0xFF 0 0 0

def siteG : Nat := 1
def siteQ : Nat := 2
def siteWrite : Nat := 3
def siteHop : Nat := 4
def siteShearer : Nat := 5
def siteDrover : Nat := 6

end Sys2Proof.Machine
end

