-- ==== Sys2Proof/Machine/Narrow.lean ====
section
/-! DEFINITION. The narrow block-scaled formats T8, T4 and T2: codes, scale bytes, fresh and predicted scales, the scale
history and the narrow line (R30 to R45). -/

namespace Sys2Proof.Machine

/-- The tensor formats of Table 2-3 that the device has. -/
inductive Fmt
  | f32
  | b16
  | f16
  | t8
  | t4
  | t2
  deriving DecidableEq, Repr

/-- A format code; the reserved codes have none (R31). -/
def Fmt.ofCode (c : Nat) : Option Fmt :=
  match c with
  | 0 => some .f32
  | 1 => some .b16
  | 2 => some .f16
  | 3 => some .t8
  | 4 => some .t4
  | 5 => some .t2
  | _ => none

def Fmt.narrow : Fmt → Bool
  | .t8 => true
  | .t4 => true
  | .t2 => true
  | _ => false

/-- Element width in bits (Table 2-3). -/
def Fmt.bits : Fmt → Nat
  | .f32 => 32
  | .b16 => 16
  | .f16 => 16
  | .t8 => 8
  | .t4 => 4
  | .t2 => 2

/-- The floating-point layout of a format code; narrow codes decode into FP32. -/
def Fmt.flt : Fmt → FFmt
  | .b16 => bf16
  | .f16 => fp16
  | _ => fp32

/-- Block size of a BLK value, for the values Table 2-3 allows the format (R30, R31). -/
def Fmt.block (f : Fmt) (blk : Nat) : Option Nat :=
  match f, blk with
  | .t8, 0 => some 30
  | .t8, 1 => some 60
  | .t4, 0 => some 30
  | .t4, 1 => some 60
  | .t4, 2 => some 120
  | .t2, 1 => some 60
  | .t2, 2 => some 120
  | _, _ => none

/-- A format code and a format byte name a supported format (R31). -/
def fmtOk (code byte : Nat) : Bool :=
  match Fmt.ofCode code with
  | none => false
  | some f => !f.narrow || (f.block (fld byte 4 3)).isSome

/-- The largest code of a narrow format. -/
def Fmt.qmax : Fmt → Nat
  | .t8 => 127
  | .t4 => 7
  | .t2 => 1
  | _ => 0

/-- The history offset Δ of a narrow format (R40). -/
def Fmt.delta : Fmt → Nat
  | .t8 => 12
  | .t4 => 8
  | .t2 => 5
  | _ => 0

/-- Values per 64-byte line (Table 2-4). -/
def Fmt.perLine : Fmt → Nat
  | .t8 => 60
  | .t4 => 120
  | .t2 => 240
  | _ => 0

/-- The integer a stored code stands for: the code never written decodes as the most negative one (Table 2-4). -/
def Fmt.codeVal (f : Fmt) (c : Nat) : Int :=
  let x := sext f.bits c
  if x < -(f.qmax : Int) then -(f.qmax : Int) else x

/-- The value of a code under a scale byte; E = 0 makes every value +0 (R36, R37). -/
def narrowVal (q : Int) (scaleByte : Nat) : FVal :=
  let e := scaleByte % 64
  if e = 0 then .zero else .fin (q < 0) q.natAbs ((e : Int) - 40)

/-- x / 2^(E−40) rounded to an integer magnitude, before clamping. -/
def quantMag (rnd : Rnd) (v : FVal) (e : Nat) : Nat :=
  match v with
  | .fin _ m x => roundMag rnd m x ((e : Int) - 40)
  | _ => 0

/-- One value's code under E, with "was clamped" (R38, R41, R45). -/
def quantCode (f : Fmt) (rnd : Rnd) (v : FVal) (e : Nat) : Int × Bool :=
  match v with
  | .nan => (0, false)
  | .inf n => (if n then -(f.qmax : Int) else f.qmax, true)
  | .fin n _ _ =>
    let q := quantMag rnd v e
    let q' := min q f.qmax
    (if n then -(q' : Int) else q', f.qmax < q)

/-- |v| ≤ q·2^(E−40). -/
def fitsUnder (v : FVal) (q e : Nat) : Bool := v.abs.le (.fin false q ((e : Int) - 40))

def finNonZero : FVal → Bool
  | .fin _ m _ => m != 0
  | _ => false

/-- The fresh exponent: the least E from 1 to 63 whose range holds every finite value, 63 where none does (R38). -/
def freshE (f : Fmt) (vs : List FVal) : Nat :=
  (rangeFrom 1 62).find? (fun e => vs.all fun v => !finNonZero v || fitsUnder v f.qmax e) |>.getD 63

/-- One block as written: the codes, the scale byte, and the exponent proposed to the history. -/
structure Block where
  codes : List Int
  scale : Nat
  proposal : Nat
  cond : Cond
  deriving DecidableEq, Repr

/-- No value of the block is an infinity or a finite non-zero value (R37). -/
def blockZero (vs : List FVal) : Bool := !vs.any fun v => v.isInf || finNonZero v

def nanCond (vs : List FVal) : Cond := { narrowNan := vs.any FVal.isNan }

/-- Codes and flags of a block under an exponent. Padding and outlier values come as +0. -/
def blockUnder (f : Fmt) (e : Nat) (vs : List (FVal × Rnd)) (forceSat : Bool) : List Int × Bool × Bool :=
  let cs := vs.map fun v => quantCode f v.2 v.1 e
  let sat := forceSat || cs.any (·.2)
  let unf := !sat && vs.any (fun v => finNonZero v.1) && cs.all (fun c => c.1 = 0)
  (cs.map (·.1), sat, unf)

/-- A block written with a fresh scale (R38). -/
def freshBlock (f : Fmt) (vs : List (FVal × Rnd)) : Block :=
  let xs := vs.map (·.1)
  if blockZero xs then { codes := xs.map fun _ => 0, scale := 0, proposal := 0, cond := nanCond xs }
  else
    let e := if xs.any finNonZero then freshE f xs else 63
    let ovr := e = 63 && xs.any fun v => finNonZero v && !fitsUnder v f.qmax 63
    let b := blockUnder f e vs ovr
    { codes := b.1, scale := e + 128 * b2n b.2.1 + 64 * b2n b.2.2, proposal := e, cond := nanCond xs }

/-- The exponent a history code gives, 0 standing for the initial code (R40, R41). -/
def predictedE (f : Fmt) (initH : Nat) (hs : List Nat) : Nat :=
  let h := (hs.map fun h => if h = 0 then initH else h).foldl max 0
  (clampI ((h : Int) - f.delta) 1 63).toNat

/-- A block written with a predicted scale and its proposal (Table 2-6, R43). -/
def predictedBlock (f : Fmt) (floorE e : Nat) (vs : List (FVal × Rnd)) : Block :=
  let xs := vs.map (·.1)
  if blockZero xs then { codes := xs.map fun _ => 0, scale := 0, proposal := e, cond := nanCond xs }
  else
    let b := blockUnder f e vs false
    let prop := if b.2.1 then min (e + 1) 63
      else if b.2.2 then max (e - 1) (max floorE 1) else e
    { codes := b.1, scale := e + 128 * b2n b.2.1 + 64 * b2n b.2.2, proposal := prop, cond := nanCond xs }

/-- The code of value i of a line's bytes (R33). -/
def lineCode (f : Fmt) (line : List Byte) (i : Nat) : Nat :=
  let b k := (line.getD k 0).toNat
  match f with
  | .t8 => b (4 + i)
  | .t4 => if i % 2 = 0 then fld (b (4 + i / 2)) 3 0 else fld (b (4 + i / 2)) 7 4
  | .t2 => fld (b (4 + i / 4)) (2 * (i % 4) + 1) (2 * (i % 4))
  | _ => 0

/-- The value at position i of a line with a block size (R33, R36). -/
def lineVal (f : Fmt) (blk : Nat) (line : List Byte) (i : Nat) : FVal :=
  narrowVal (f.codeVal (lineCode f line i)) (line.getD (i / blk) 0).toNat

/-- Payload bytes of a run of codes, padded with code 0 to a whole byte. -/
def packCodes (f : Fmt) : List Int → List Byte
  | [] => []
  | [a] => [BitVec.ofNat 8 (ofInt f.bits a)]
  | [a, b] => match f with
    | .t8 => [BitVec.ofNat 8 (ofInt 8 a), BitVec.ofNat 8 (ofInt 8 b)]
    | _ => [BitVec.ofNat 8 (ofInt f.bits a + 2 ^ f.bits * ofInt f.bits b)]
  | [a, b, c] => match f with
    | .t8 => [BitVec.ofNat 8 (ofInt 8 a), BitVec.ofNat 8 (ofInt 8 b), BitVec.ofNat 8 (ofInt 8 c)]
    | .t4 => [BitVec.ofNat 8 (ofInt 4 a + 16 * ofInt 4 b), BitVec.ofNat 8 (ofInt 4 c)]
    | _ => [BitVec.ofNat 8 (ofInt 2 a + 4 * ofInt 2 b + 16 * ofInt 2 c)]
  | a :: b :: c :: d :: rest =>
    (match f with
     | .t8 => [a, b, c, d].map fun x => BitVec.ofNat 8 (ofInt 8 x)
     | .t4 => [BitVec.ofNat 8 (ofInt 4 a + 16 * ofInt 4 b), BitVec.ofNat 8 (ofInt 4 c + 16 * ofInt 4 d)]
     | _ => [BitVec.ofNat 8 (ofInt 2 a + 4 * ofInt 2 b + 16 * ofInt 2 c + 64 * ofInt 2 d)]) ++ packCodes f rest

/-- A list padded with a value to a length. -/
def padTo {α : Type} (n : Nat) (a : α) (xs : List α) : List α := xs ++ List.replicate (n - xs.length) a

/-- A 64-byte line from its codes and its blocks' scale bytes (R32, R34). -/
def mkLine (f : Fmt) (codes : List Int) (scales : List Nat) : List Byte :=
  (padTo 4 0#8 ((scales.take 4).map (BitVec.ofNat 8))) ++
  padTo 60 0#8 (packCodes f (padTo f.perLine 0 codes))

/-- Lines a row of n values takes (R34). -/
def linesPerRow (f : Fmt) (n : Nat) : Nat := ceilDiv n f.perLine

/-- Granules of a row of n values (R39). -/
def granulesPerRow (n : Nat) : Nat := ceilDiv n 30

/-- Bytes of one history bank: the granules rounded up to 64 (R39). -/
def historyBank (rows n : Nat) : Nat := ceilDiv (rows * granulesPerRow n) 64 * 64

end Sys2Proof.Machine
end

