-- ==== Sys2Proof/Machine/TypesCore.lean ====
section
/-! DEFINITION. The state of the host interface, the memory, the fault log, the counters, power and clocks, firmware and
the module connector (chapters 10, 11 and 14 to 18), and what the module drives onto its interfaces. -/

namespace Sys2Proof.Machine

/-- Something the module drives onto one of its interfaces, newest first in the state's list. -/
inductive Out
  /-- An MSI-X message of a function's vector on a host link (R396). -/
  | msi (link func vec : Nat)
  /-- A host-memory write sent with the poisoned-data bit set (R349). -/
  | hostPoison (addr len : Nat)
  /-- The word a register read returns. -/
  | readData (w : Word)
  /-- A UDP datagram to a collector (R562). -/
  | record (collector : Nat) (bytes : List Byte)
  /-- A reply of the management port to a management request (R563). -/
  | mgmt (bytes : List Byte)
  /-- A reply of the management port to ARP, Neighbor Discovery or ICMP echo (R561). -/
  | net (kind : Nat) (bytes : List Byte)
  /-- Bytes the SMBus target returns (R560). -/
  | smbus (bytes : List Byte)
  /-- A control block or frame on a Cleyn port: kind and content (R409 to R428). -/
  | line (port kind : Nat) (words : List Nat)
  /-- The data a memory read returns to its requester. -/
  | memData (bytes : List Byte)
  deriving DecidableEq, Repr

/-- States of a context (Table 11-5). -/
inductive CtxState
  | disabled
  | run
  | draining
  | error
  | suspended
  | stopped
  deriving DecidableEq, Repr

def CtxState.code : CtxState → Nat
  | .disabled => 0
  | .run => 1
  | .draining => 2
  | .error => 3
  | .suspended => 4
  | .stopped => 5

/-- A fetched descriptor that has not completed: its ring pointer, its 64 bytes, whether it has started, whether its
work has been registered with the units that carry it out, and the status its completion waits with. -/
structure Desc where
  ptr : Nat := 0
  bytes : List Byte := []
  started : Bool := false
  working : Bool := false
  /-- Submitted while its context's step, or evaluation pass, was open (R264, R301). -/
  step : Bool := false
  pass : Bool := false
  /-- First product sequence number it took (R277). -/
  prod : Nat := 0
  held : Option Nat := none
  /-- A later descriptor of its tag has completed, so no dependency names this one (R385). -/
  passed : Bool := false
  deriving DecidableEq, Repr

/-- One context beside its configuration registers (R377 to R387). Pointers run modulo twice the ring size. -/
structure Ctx where
  state : CtxState := .disabled
  err : Nat := 0
  fetch : Nat := 0
  tail : Nat := 0
  cqTail : Nat := 0
  cqHead : Nat := 0
  infl : List Desc := []
  aborts : List Nat := []
  skip : Nat := 0
  gap : Bool := false
  gapPend : Bool := false
  discard : Bool := false
  deriving DecidableEq, Repr

/-- A mailbox word (R394). -/
structure Mbx where
  data : Word := 0
  full : Bool := false
  deriving DecidableEq, Repr

/-- An access-table entry in force (Table 11-14). -/
structure AclEnt where
  valid : Bool := false
  anyidx : Bool := false
  rights : Nat := 0
  master : Nat := 0
  base : Nat := 0
  limit : Nat := 0
  deriving DecidableEq, Repr

/-- The MSI-X table of a function: vectors unmasked and enabled, and pending bits (R396). -/
structure Msix where
  open_ : Nat := 0
  pend : Nat := 0
  deriving DecidableEq, Repr

/-- The host interface: contexts, mailboxes, access tables, interrupts, links. -/
structure HostIf where
  ctxs : Map Ctx := []
  rr : Map Nat := []
  h2f : Map Mbx := []
  f2h : Map Mbx := []
  c2c : Map Mbx := []
  acl : Map AclEnt := []
  aclShadow : Map Word := []
  msix : Map Msix := []
  vfEnable : Map Nat := []
  up0 : Bool := false
  up1 : Bool := false
  deriving DecidableEq, Repr

/-- What differs from a valid codeword in a 64-byte line (R345, R347, R348): on a stack the symbols in error, position 0 to 71, with the
bits of each that are wrong; in fold SRAM the 64-bit words in error, 0 to 7, with the wrong bits of their 72, and under 8 the poison
bit. Empty for a valid codeword. -/
abbrev Errs := Map Nat

/-- What a read makes of a line (R345 to R351): good, corrected (the position of the last symbol corrected, or in fold SRAM the number of
words), poisoned, uncorrectable, or, beyond the code's guarantee, data of its own with the position it takes for corrected. -/
inductive Mark
  | good
  | fixed (n : Nat)
  | poison
  | bad
  | wrong (at_ : Option Nat) (data : List Byte)
  deriving DecidableEq, Repr

/-- A channel migration in progress: logical channel, destination channel, lines copied, and the line from which on every line not
written since was copied poisoned (R359). -/
structure Mig where
  lch : Nat := 0
  pch : Nat := 0
  lines : Nat := 0
  lostFrom : Option Nat := none
  /-- Abandoned by the fail-safe state; it starts again on exit (R360). -/
  off : Bool := false
  deriving DecidableEq, Repr

/-- A memory request that waits for a tag or for its stack (R362, R367): as the command that made it gave it. -/
structure MemReq where
  pen : Bool := false
  master : Nat := 0
  a : Nat := 0
  n : Nat := 0
  write : Option (List Byte) := none
  deriving DecidableEq, Repr

/-- What a consumer met (R352): its master ID, and the line, by its module-local address or, in an engine's local memory, its local one. -/
structure Consumed where
  master : Nat := 0
  line : Nat := 0
  inLocal : Bool := false
  deriving DecidableEq, Repr

/-- Memory contents by physical place: stack k at k·2^37 + stack offset, fold SRAM f at 2^40 + f·2^28 + offset; host
memory by host address. -/
structure Mem where
  cells : List Host.Cell := []
  /-- Lines that hold no valid codeword, by line of the keys above; and those of physical channels that serve no logical channel, keyed
  2^26·(32k + p) + line. -/
  errs : Map Errs := []
  spare : Map Errs := []
  host : List Host.Cell := []
  migs : Map (Option Mig) := []
  /-- The persisted spare map: physical channel of a logical channel, keyed 32k + c (R360, R367). -/
  chmap : Map Nat := []
  /-- Persisted retired physical channels, keyed 32k + p. -/
  retired : Map Bool := []
  unmapped : Map Bool := []
  /-- Physical channels that no longer answer, keyed 32k + p (R361), and logical channels, keyed 32k + c, that a migration from such a
  channel left poisoned from a line on. -/
  silent : Map Bool := []
  blank : Map (Option Nat) := []
  /-- Physical channels, as 32k + p, whose retirement waits for a migration of their stack to end (R358). -/
  retireWait : List Nat := []
  /-- Stacks that had to keep a failing channel for want of a spare (R361). -/
  degraded : Map Bool := []
  /-- The sensor of stack k in whole kelvin above 0 °C, as the last read gave it (R513). -/
  stackTemp : Map Int := []
  /-- Requests that wait, oldest first (R362, R366, R367). -/
  waiting : List MemReq := []
  /-- A consumer met a lost line and stopped; the module resets within 1 ms (R352). -/
  consumed : Option Consumed := none
  /-- Kernel IDs whose images fold die f keeps, keyed 32f + slot (R253). -/
  images : Map Nat := []
  deriving DecidableEq, Repr

/-- A fault record of the log (R480, R481): its bytes without the number it takes when first sent, whether it was sent
and acknowledged. -/
structure FaultRec where
  seq : Option Nat := none
  ts : Nat := 0
  sev : Nat := 0
  code : Nat := 0
  step : Nat := 0
  pos : Nat := 0
  subj : Nat := 0
  detail : List Nat := []
  acked : Bool := false
  deriving DecidableEq, Repr

/-- A selected chain under recount (R467 to R471): the product's key and chain, the physical units of its executions and
their CRCs, the logical units that ran the recount and the third execution, and whether an evaluation pass ran it. -/
structure Recount where
  key : Nat := 0
  idx : Nat := 0
  orig : Nat := 0
  origCrc : Option Nat := none
  unit_ : Nat := 0
  crc : Option Nat := none
  third : Option Nat := none
  /-- Conditions that its recount and third executions reported (R207). -/
  cond : Nat := 0
  eval : Bool := false
  deriving DecidableEq, Repr

/-- A sample of the check buffer (R473): die, physical and logical tile, the driven T4 codes with their exponents, the
reference exponent, the tile's own part per logical column in units of 2^(Et − 54), the master-weight span it is compared
with being found through the tile directory, and the partition and step or pass it belongs to. -/
structure Sample where
  die : Nat := 0
  ptile : Nat := 0
  tile : Nat := 0
  xs : List (Int × Nat) := []
  taps : List Int := []
  et : Nat := 0
  acc : List Int := []
  part : Nat := 0
  deriving DecidableEq, Repr

/-- Faults and recovery (chapter 14). Fields marked persisted survive module reset. -/
structure Flt where
  /-- Persisted: the log, the counts per row and subject, limits, windows and lifetime strikes. -/
  log : List FaultRec := []
  lost : Nat := 0
  wordPend : Bool := false
  thrCnt : Map Nat := []
  thrLim : Map Nat := []
  thrWin : Map Nat := []
  life : Map Nat := []
  recounts : List Recount := []
  samples : List Sample := []
  ladder : Map Nat := []
  spareReady : Option Nat := none
  spareDecision : Option (Nat × Nat) := none
  spareAbsent : Bool := false
  /-- Persisted spare maps of matrix units and drover engines, physical unit by logical index, and retired physical units,
  drover engines from 128 (R208, R256, R478). -/
  muMap : Map Nat := []
  drvMap : Map Nat := []
  gone : Map Bool := []
  /-- When a physical unit, drover engines from 128, last passed its self-test since module reset, which counts as time 0 (R173). -/
  tested : Map Nat := []
  deriving DecidableEq, Repr

/-- Counter values and latches, keyed 64·die + counter, dies P0 to P7 as 0 to 7, F0 8 and F1 9 (chapter 17). -/
structure Cnt where
  val : Map Nat := []
  rdLatch : Map Nat := []
  wrHold : Map Nat := []
  above : Map Bool := []
  /-- The snapshot buffer still writes the last ring record (R547). -/
  ringBusy : Bool := false
  deriving DecidableEq, Repr

/-- The management service processor: in its boot ROM, running, or restarting (R511, R533). -/
inductive Msp
  | off
  | rom
  | running
  | warm
  | cold
  deriving DecidableEq, Repr

/-- Power, clocks, thermal and the control pins (chapters 15 and 18). A pin field is true while the pin is held in its
active state: `PWR_EN` high, `RESET_N` low, `GLB_PERSTh_N` low. -/
structure Pwr where
  standby : Bool := true
  pwrEn : Bool := false
  resetLow : Bool := true
  perst0 : Bool := true
  perst1 : Bool := true
  /-- `SLOT_ID6` to `SLOT_ID0` as the carrier straps them. -/
  straps : Nat := 0
  /-- Step of Table 15-3 that the power-up sequence is in, and whether the sequence failed since `PWR_EN` rose. -/
  seqStep : Option Nat := none
  seqFailed : Bool := false
  /-- Input energy in µJ since module reset, and the high word latched by a read. -/
  energy : Nat := 0
  energyLatch : Nat := 0
  /-- Input power of the samples of the last 1 ms in units of 0.1 W, newest first, and consecutive ones over the fast limit. -/
  samples : List Nat := []
  ovr : Nat := 0
  /-- Controller periods that `PWR_AVG` has stayed below 97 % of the cap, and thermal ticks with no channel above its window. -/
  below : Nat := 0
  cool : Nat := 0
  /-- Ticks of 5 ns since the watchdog was kicked. -/
  wdt : Nat := 0
  /-- The rails and PWR_GOOD as they are, in the places of PWR_RAIL, and REFCLK, VCO lock and backup oscillator as bits 2, 1 and 0: the
  registers report them, and hold their Reset column after a module reset (R13). -/
  rail : Word := 0x30003#32
  clk : Nat := 0
  deriving DecidableEq, Repr

/-- A flash slot: the image as received and whether it passed its checks when written (R518, R521). -/
structure Slot where
  bytes : List Byte := []
  valid : Bool := false
  deriving DecidableEq, Repr

/-- The boot record of a type (R519): slots A = false, B = true; and whether the one start of a trial has begun (R525). -/
structure BootRec where
  commit : Bool := false
  next : Bool := false
  trial : Bool := false
  begun : Bool := false
  deriving DecidableEq, Repr

/-- A copy of the boot record in flash: its sequence number, whether its CRC fails, and its records by type (R519). -/
structure BootCopy where
  seq : Nat := 0
  bad : Bool := false
  recs : Map BootRec := []
  deriving DecidableEq, Repr

/-- An image that WRITE is putting into a slot of flash, and whether the flash fails (R527, R538). -/
structure FlashWrite where
  type : Nat := 0
  slot : Bool := false
  bytes : List Byte := []
  err : Bool := false
  deriving DecidableEq, Repr

/-- A configuration profile (persistent item 5, R528): staged register values as offset, value and mask, flock ID, wiring-map
identifier, the registers of bank 0 of the fabric tables and `FAB_GW`, the number of collectors with addresses, the management key
and the housekeeping windows of the calibration tables (R172). -/
structure Profile where
  staged : List (Nat × Nat × Nat) := []
  flock : Nat := 0
  mapId : Nat := 0
  fabric : List (Nat × Nat) := []
  collectors : List Nat := []
  key : List Byte := []
  windows : List (Nat × Nat) := []
  deriving DecidableEq, Repr

/-- A pending or running live load (R531, R532), with the dies it has quiesced (R98). -/
structure LiveLoad where
  type : Nat := 0
  units : Nat := 0
  running : Bool := false
  quiet : List Nat := []
  deriving DecidableEq, Repr

/-- Firmware, flash, fuses and configuration (chapter 16). Flash and fuses survive module reset. -/
structure Boot where
  /-- Flash slots written since manufacture, keyed by 2·type, plus 1 for slot B. -/
  slots : Map Slot := []
  /-- The boot record in force, and its copy in each bank, A as 0 (R519). -/
  recs : Map BootRec := []
  copies : Map BootCopy := []
  /-- Blown bits of the security-epoch fuses. -/
  fused : Nat := 0
  profile : Profile := {}
  /-- Persistent items with a held copy, bit i − 1 for item i (R530). -/
  heldItems : Nat := 0
  msp : Msp := .off
  load : Option LiveLoad := none
  writing : Option FlashWrite := none
  /-- The field diagnostic image serves its opcodes. -/
  diag : Bool := false
  /-- The CONFIG_COMMIT that waits for a step boundary, by context and ring pointer (R536). -/
  commitWait : Option (Nat × Nat) := none
  deriving DecidableEq, Repr

/-- The SMBus target and the management port (R560 to R564). -/
structure Mgmt where
  alert : Nat := 0
  mask : Nat := 0
  lastSeq : Option Nat := none
  deriving DecidableEq, Repr

end Sys2Proof.Machine
end

