-- ==== Sys2Proof/Machine/Registers.lean ====
section
/-! DEFINITION. The register map: for every stored register its offset, repetition, reset value and the bits a write
sets, clears or stages (R12, R13, R371, R534 and the register tables of chapters 0 to 18). -/

namespace Sys2Proof.Machine

/-- A register of the map: base offset in BAR0, two repetitions with their strides, the reset value, and the masks of
the bits that a write sets (RW), clears by writing 1 (W1C) or holds in the shadow until a commit (staged). -/
structure RegRow where
  base : Nat
  n1 : Nat
  s1 : Nat
  n2 : Nat
  s2 : Nat
  reset : Nat
  rw : Nat
  w1c : Nat
  staged : Nat
  deriving DecidableEq, Repr

/-- The two indices of an offset within a row, where the row holds the offset. -/
def RegRow.index (r : RegRow) (off : Nat) : Option (Nat × Nat) :=
  if off < r.base then none
  else
    let d := off - r.base
    let i := if r.n1 = 1 then 0 else d / r.s1
    let e := d - i * r.s1
    let j := if r.n2 = 1 then 0 else e / r.s2
    if i < r.n1 ∧ j < r.n2 ∧ e = j * r.s2 then some (i, j) else none


/-- Registers of the global block. -/
def rowsGlb : List RegRow := [
  ⟨0, 1, 0, 1, 0, 0x64010A1, 0, 0, 0⟩,  -- GLB_ID
  ⟨0x10, 1, 0, 1, 0, 0, 0, 0, 0⟩,  -- GLB_BOOT
  ⟨0x14, 1, 0, 1, 0, 0, 0, 0, 0⟩,  -- GLB_CTL
  ⟨0x20, 1, 0, 1, 0, 0, 0, 0x7FF, 0⟩,  -- GLB_IRQ_STAT
  ⟨0x24, 1, 0, 1, 0, 0, 0x7FF, 0, 0⟩,  -- GLB_IRQ_MASK
  ⟨0x28, 1, 0, 1, 0, 0, 1, 0, 0⟩,  -- GLB_IRQ_ROUTE
  ⟨0x100, 1, 0, 1, 0, 0x10040030, 0xFFFFC0FF, 0, 0xFFFFC0FF⟩,  -- GLB_FMT_CTL
  ⟨0x120, 8, 4, 1, 0, 0, 0xFFFFFFFF, 0, 0xFFFFFFFF⟩,  -- GLB_SEED0 to 7
  ⟨0x140, 1, 0, 1, 0, 0, 0, 0, 0⟩,  -- GLB_SEED_STAT
  ⟨0x200, 1, 0, 1, 0, 0x3E8, 0xFFFF, 0, 0xFFFF⟩,  -- GLB_STEP_CTL
  ⟨0x204, 1, 0, 1, 0, 0x8400C840, 0xFFFFFFFF, 0, 0xFFFFFFFF⟩,  -- GLB_WATCH_CTL
  ⟨0x208, 1, 0, 1, 0, 0x6400440, 0xFFFFFFFF, 0, 0xFFFFFFFF⟩,  -- GLB_WATCH_CTL2
  ⟨0x210, 1, 0, 1, 0, 0, 0, 0, 0⟩,  -- GLB_STEP_STAT
  ⟨0x214, 1, 0, 1, 0, 0, 0, 0, 0⟩,  -- GLB_STEP_NUM
  ⟨0x218, 1, 0, 1, 0, 0xFFFFFFFF, 0, 0, 0⟩,  -- GLB_STEP_LAST
  ⟨0x21C, 1, 0, 1, 0, 0, 0, 0x7F, 0⟩,  -- GLB_STEP_CAUSE
  ⟨0x220, 1, 0, 1, 0, 0, 0, 0, 0⟩,  -- GLB_STEP_LVAL
  ⟨0x300, 1, 0, 1, 0, 0x80000100, 0x80001FFF, 0, 0⟩,  -- GLB_RCNT_CTL
  ⟨0x304, 1, 0, 1, 0, 0x80180010, 0x80FF1FFF, 0, 0⟩,  -- GLB_ACHK_CTL
  ⟨0x308, 1, 0, 1, 0, 0, 0, 0, 0⟩,  -- GLB_FLT_STAT
  ⟨0x30C, 1, 0, 1, 0, 0, 0, 0, 0⟩,  -- GLB_FLT_SEQ
  ⟨0x310, 1, 0, 1, 0, 0, 0xFFFFFFFF, 0, 0xFFFFFFFF⟩,  -- GLB_SPARE_CTL
  ⟨0x314, 1, 0, 1, 0, 0, 0, 0, 0⟩,  -- GLB_RBLD_CTL
  ⟨0x318, 1, 0, 1, 0, 0, 0, 0, 0⟩,  -- GLB_RBLD_STAT
  ⟨0x31C, 1, 0, 1, 0, 0, 0xFFFFFFFF, 0, 0⟩,  -- GLB_RBLD_LAST
  ⟨0x320, 1, 0, 1, 0, 0, 0xF, 0, 0⟩,  -- GLB_THR_IDX
  ⟨0x324, 1, 0, 1, 0, 0, 0, 0, 0⟩,  -- GLB_THR_LIMIT
  ⟨0x328, 1, 0, 1, 0, 0, 0, 0, 0⟩,  -- GLB_THR_WIN
  ⟨0x32C, 1, 0, 1, 0, 0, 0xF000007F, 0, 0⟩,  -- GLB_STRK_IDX
  ⟨0x330, 1, 0, 1, 0, 0, 0, 0, 0⟩,  -- GLB_STRK_DATA
  ⟨0x400, 1, 0, 1, 0, 0, 0, 0, 0⟩,  -- FW_CTL
  ⟨0x404, 1, 0, 1, 0, 0, 0xFFFFF000, 0, 0⟩,  -- FW_SRC_LO
  ⟨0x408, 1, 0, 1, 0, 0, 0xFFFFFFFF, 0, 0⟩,  -- FW_SRC_HI
  ⟨0x40C, 1, 0, 1, 0, 0, 0, 0, 0⟩,  -- FW_STAT
  ⟨0x410, 1, 0, 1, 0, 0, 0, 0, 0⟩,  -- FW_EPOCH
  ⟨0x414, 1, 0, 1, 0, 0, 0, 0, 0⟩,  -- FW_PD
  ⟨0x420, 8, 4, 1, 0, 0, 0, 0, 0⟩,  -- FW_SLOT
  ⟨0x440, 8, 4, 1, 0, 0, 0, 0, 0⟩,  -- FW_VER
  ⟨0x500, 1, 0, 1, 0, 0, 0, 0, 0⟩,  -- GLB_CFG_EPOCH
  ⟨0x504, 1, 0, 1, 0, 0, 0, 0, 0⟩,  -- GLB_CFG_STAT
  ⟨0x600, 1, 0, 1, 0, 0, 0, 0, 0⟩]  -- GLB_SLOT

/-- Registers of the clock and power block. -/
def rowsPwr : List RegRow := [
  ⟨0x100000, 1, 0, 1, 0, 0, 0, 0, 0⟩,  -- CLK_STAT
  ⟨0x100100, 1, 0, 1, 0, 0x4E2, 0x7FF, 0, 0⟩,  -- PWR_CAP
  ⟨0x100104, 1, 0, 1, 0, 0, 0, 0xE0000, 0⟩,  -- PWR_STAT
  ⟨0x100108, 1, 0, 1, 0, 0, 0, 0, 0⟩,  -- PWR_IN
  ⟨0x10010C, 1, 0, 1, 0, 0, 0, 0, 0⟩,  -- PWR_AVG
  ⟨0x100110, 1, 0, 1, 0, 0, 0, 0, 0⟩,  -- PWR_ENERGY_LO
  ⟨0x100114, 1, 0, 1, 0, 0, 0, 0, 0⟩,  -- PWR_ENERGY_HI
  ⟨0x100118, 1, 0, 1, 0, 0x30003, 0, 0, 0⟩,  -- PWR_RAIL
  ⟨0x10011C, 1, 0, 1, 0, 0, 0, 0, 0⟩,  -- PWR_INTLK
  ⟨0x100120, 1, 0, 1, 0, 0x3E8, 0x8000FFFF, 0, 0⟩,  -- PWR_FS_CTL
  ⟨0x100124, 1, 0, 1, 0, 0, 0, 0, 0⟩,  -- PWR_FS_STAT
  ⟨0x100128, 1, 0, 1, 0, 0x400007D0, 0x4000FFFF, 0, 0⟩]  -- PWR_WDT

/-- Registers of contexts, mailboxes and access-table control. -/
def rowsHost : List RegRow := [
  ⟨0x200000, 4096, 0x40, 1, 0, 0, 0xFFFFF000, 0, 0⟩,  -- CTX_SQ_LO
  ⟨0x200004, 4096, 0x40, 1, 0, 0, 0xFFFFFFFF, 0, 0⟩,  -- CTX_SQ_HI
  ⟨0x200008, 4096, 0x40, 1, 0, 0, 0xFFFFF000, 0, 0⟩,  -- CTX_CQ_LO
  ⟨0x20000C, 4096, 0x40, 1, 0, 0, 0xFFFFFFFF, 0, 0⟩,  -- CTX_CQ_HI
  ⟨0x200010, 4096, 0x40, 1, 0, 0, 0x7FFFFCFF, 0, 0⟩,  -- CTX_CTL
  ⟨0x200014, 4096, 0x40, 1, 0, 0, 0xFFFF, 0, 0⟩,  -- CTX_MASTER
  ⟨0x200018, 4096, 0x40, 1, 0, 0, 0xFFFF, 0, 0⟩,  -- CTX_IRQ
  ⟨0x400204, 2, 0x10000, 1, 0, 0xFFFFFFFF, 0xFFFFFFFF, 0, 0⟩,  -- MBX_CTL
  ⟨0x400208, 2, 0x10000, 1, 0, 0, 0, 0, 0⟩,  -- MBX_DROP_CNT
  ⟨0x510000, 1, 0, 1, 0, 0, 0, 0, 0⟩,  -- ACL_SYNC
  ⟨0x510004, 1, 0, 1, 0, 0, 0, 0x80000000, 0⟩,  -- ACL_DENY
  ⟨0x510008, 1, 0, 1, 0, 0, 0, 0, 0⟩]  -- ACL_DENY_ADDR

/-- Registers of matrix units, drover engines and shearer units. -/
def rowsUnit : List RegRow := [
  ⟨0x800000, 1, 0, 1, 0, 0x50540000, 0, 0, 0⟩,  -- MU_ID
  ⟨0x800010, 1, 0, 1, 0, 0, 3, 0, 0⟩,  -- MU_CTL
  ⟨0x801000, 80, 0x10, 1, 0, 0, 0, 0, 0⟩,  -- MU_MAP
  ⟨0x801008, 80, 0x10, 1, 0, 0, 0, 0x7F, 0⟩,  -- MU_COND
  ⟨0x80100C, 80, 0x10, 1, 0, 0, 0, 0, 0⟩,  -- MU_TILES
  ⟨0x802000, 84, 4, 1, 0, 0x7F, 0, 0, 0⟩,  -- MU_PHYS
  ⟨0xC00000, 1, 0, 1, 0, 0x282A0000, 0, 0, 0⟩,  -- DRV_ID
  ⟨0xC00010, 1, 0, 1, 0, 0x40400000, 0xFFFFFF03, 0, 0⟩,  -- DRV_CTL
  ⟨0xC00030, 1, 0, 1, 0, 0, 0x3F1F, 0, 0⟩,  -- DRV_KIDX
  ⟨0xC01000, 40, 0x10, 1, 0, 0, 0, 0, 0⟩,  -- DRV_MAP
  ⟨0xC01008, 40, 0x10, 1, 0, 0, 0, 0x1FF, 0⟩,  -- DRV_COND
  ⟨0xC0100C, 40, 0x10, 1, 0, 0, 0, 0, 0⟩,  -- DRV_INVOC
  ⟨0xC02000, 42, 4, 1, 0, 0x3F, 0, 0, 0⟩,  -- DRV_PHYS
  ⟨0x1000000, 1, 0, 1, 0, 0x8000000, 0, 0, 0⟩,  -- SHR_ID
  ⟨0x1000010, 1, 0, 1, 0, 0, 3, 0, 2⟩,  -- SHR_CTL
  ⟨0x1000020, 1, 0, 1, 0, 0, 0, 0, 0⟩,  -- SHR_NORM_SQ_LO
  ⟨0x1000024, 1, 0, 1, 0, 0, 0, 0, 0⟩,  -- SHR_NORM_SQ_HI
  ⟨0x1000028, 1, 0, 1, 0, 0, 0, 0, 0⟩,  -- SHR_NORM
  ⟨0x100002C, 1, 0, 1, 0, 0x3F800000, 0, 0, 0⟩,  -- SHR_CLIP
  ⟨0x1001000, 8, 0x40, 1, 0, 0, 0xFFFFFF80, 0, 0xFFFFFF80⟩,  -- SHR_SPAN_LO
  ⟨0x1001004, 8, 0x40, 1, 0, 0, 0xFFFFFFFF, 0, 0xFFFFFFFF⟩,  -- SHR_SPAN_HI
  ⟨0x1001008, 8, 0x40, 1, 0, 0, 0x1FFF, 0, 0x1FFF⟩,  -- SHR_SPAN_CNT
  ⟨0x100100C, 8, 0x40, 1, 0, 0, 0xFFFFFFC0, 0, 0xFFFFFFC0⟩,  -- SHR_RQ_LO
  ⟨0x1001010, 8, 0x40, 1, 0, 0, 0xFFFFFFFF, 0, 0xFFFFFFFF⟩,  -- SHR_RQ_HI
  ⟨0x1001014, 8, 0x40, 1, 0, 0, 0xFFFFFFF, 0, 0xFFFFFFF⟩,  -- SHR_RQ_SIZE
  ⟨0x1001018, 8, 0x40, 1, 0, 0, 0, 0xF780000, 0⟩,  -- SHR_STAT
  ⟨0x100101C, 8, 0x40, 1, 0, 0, 0, 0, 0⟩,  -- SHR_RQ_FILL
  ⟨0x1001020, 8, 0x40, 1, 0, 0, 0, 0, 0⟩]  -- SHR_SPAN_ERR

/-- Registers of the memory block. -/
def rowsMem : List RegRow := [
  ⟨0x1400000, 1, 0, 1, 0, 0x8201E00, 0, 0, 0⟩,  -- MEM_ID
  ⟨0x1400010, 1, 0, 1, 0, 0, 0x8000007F, 0, 0⟩,  -- MEM_CFG
  ⟨0x1400014, 1, 0, 1, 0, 0x80000018, 0x8000FFFF, 0, 0⟩,  -- MEM_SCRUB
  ⟨0x1400018, 1, 0, 1, 0, 8, 0x71F000F, 0, 0⟩,  -- MEM_MIG
  ⟨0x1400020, 2, 4, 1, 0, 0x40008040, 0xFFFFFFFF, 0, 0xFFFFFFFF⟩,  -- MEM_TAG_CTL
  ⟨0x1400028, 2, 4, 1, 0, 0, 0, 0, 0⟩,  -- MEM_TAG_STAT
  ⟨0x1400030, 1, 0, 1, 0, 0, 0, 0x80000000, 0⟩,  -- MEM_UE_INFO
  ⟨0x1400034, 1, 0, 1, 0, 0, 0, 0, 0⟩,  -- MEM_UE_ADDR_LO
  ⟨0x1400038, 1, 0, 1, 0, 0, 0, 0, 0⟩,  -- MEM_UE_ADDR_HI
  ⟨0x1400100, 8, 4, 1, 0, 0x80F0000, 0, 0, 0⟩,  -- MEM_STK_STAT
  ⟨0x1401000, 8, 0x80, 30, 4, 0, 0, 0, 0⟩,  -- MEM_CHMAP
  ⟨0x1402000, 8, 0x80, 32, 4, 0, 0, 0, 0⟩]  -- MEM_CH_CE

/-- Registers of the fabric block. -/
def rowsFab : List RegRow := [
  ⟨0x1800000, 1, 0, 1, 0, 0xC010000, 0, 0, 0⟩,  -- FAB_ID
  ⟨0x1800004, 1, 0, 1, 0, 0, 0xBFFFFFFF, 0, 0xBFFFFFFF⟩,  -- FAB_SELF
  ⟨0x1800008, 1, 0, 1, 0, 0x11014, 0xFFFFFF, 0, 0xFFFFFF⟩,  -- FAB_LINK_CTL
  ⟨0x1801000, 12, 0x100, 1, 0, 0x80000000, 0x8000FF00, 0, 0⟩,  -- FAB_PORT_CTL
  ⟨0x1801004, 12, 0x100, 1, 0, 0, 0, 0, 0⟩,  -- FAB_PORT_STAT
  ⟨0x1801008, 12, 0x100, 1, 0, 0, 0xC3FFF00F, 0, 0xC3FFF00F⟩,  -- FAB_WMAP
  ⟨0x180100C, 12, 0x100, 1, 0, 0, 0, 0, 0⟩,  -- FAB_PEER_SN_LO
  ⟨0x1801010, 12, 0x100, 1, 0, 0, 0, 0, 0⟩,  -- FAB_PEER_SN_HI
  ⟨0x1801014, 12, 0x100, 1, 0, 0, 0, 0, 0⟩,  -- FAB_PEER_POS
  ⟨0x1801018, 12, 0x100, 1, 0, 0, 0, 0, 0⟩,  -- FAB_PORT_ERR
  ⟨0x1801020, 12, 0x100, 8, 4, 0, 0, 0, 0⟩,  -- FAB_LANE
  ⟨0x1802000, 1, 0, 1, 0, 0x64C8, 0xFFFFFFFF, 0, 0xFFFFFFFF⟩,  -- FAB_CTL
  ⟨0x1802004, 1, 0, 1, 0, 0x1000000A, 0x4000FFFF, 0, 0x4000FFFF⟩,  -- FAB_EPOCH
  ⟨0x1802008, 1, 0, 1, 0, 0, 0, 0xF00000, 0⟩,  -- FAB_STAT
  ⟨0x180200C, 1, 0, 1, 0, 0, 0x3F3F3F3F, 0, 0x3F3F3F3F⟩,  -- FAB_GW
  ⟨0x1802010, 1, 0, 1, 0, 0x3E8, 0xE000FFFF, 0, 0xE000FFFF⟩,  -- FAB_TS_CTL
  ⟨0x1802014, 1, 0, 1, 0, 0, 0, 0, 0⟩,  -- FAB_TS_STAT
  ⟨0x1802100, 16, 4, 1, 0, 0, 0x8000FFFF, 0, 0⟩,  -- FAB_TGRANT
  ⟨0x1810000, 2, 0x8000, 64, 4, 0, 0x8000003F, 0, 0⟩,  -- FAB_POS
  ⟨0x1810100, 2, 0x8000, 16, 0x10, 0, 0xC000FFFF, 0, 0⟩,  -- FAB_GRP0
  ⟨0x1810104, 2, 0x8000, 16, 0x10, 0, 0xF0FF, 0, 0⟩,  -- FAB_GRP1
  ⟨0x1810108, 2, 0x8000, 16, 0x10, 0, 0xFFFFFFFF, 0, 0⟩,  -- FAB_GRP2
  ⟨0x181010C, 2, 0x8000, 16, 0x10, 0, 0xFFFFFFFF, 0, 0⟩,  -- FAB_GRP3
  ⟨0x1810400, 2, 0x8000, 256, 4, 0, 0x8000000F, 0, 0⟩]  -- FAB_FRT

/-- Registers of the event counters. -/
def rowsCnt : List RegRow := [
  ⟨0x1C00000, 10, 0x1000, 1, 0, 0, 0, 0xFFFFFFFF, 0⟩,  -- CNT_OVF_LO
  ⟨0x1C08004, 2, 0x1000, 1, 0, 0, 0, 0xFFFFFFFF, 0⟩,  -- CNT_OVF_HI of the fold dies
  ⟨0x1C00100, 8, 0x1000, 16, 0x20, 0xFF0000, 0xF8FF03FF, 0, 0⟩,  -- CNT_CFG of the pasture dies
  ⟨0x1C08100, 2, 0x1000, 64, 0x20, 0xFF0000, 0xF8FF03FF, 0, 0⟩,  -- CNT_CFG of the fold dies
  ⟨0x1C00104, 8, 0x1000, 16, 0x20, 0, 0xFFFFFFFF, 0, 0⟩,  -- CNT_THR_LO of the pasture dies
  ⟨0x1C08104, 2, 0x1000, 64, 0x20, 0, 0xFFFFFFFF, 0, 0⟩,  -- CNT_THR_LO of the fold dies
  ⟨0x1C00108, 8, 0x1000, 16, 0x20, 0, 0xFFFF, 0, 0⟩,  -- CNT_THR_HI of the pasture dies
  ⟨0x1C08108, 2, 0x1000, 64, 0x20, 0, 0xFFFF, 0, 0⟩,  -- CNT_THR_HI of the fold dies
  ⟨0x1C0A000, 1, 0, 1, 0, 0, 1, 0, 0⟩,  -- CNT_CTL
  ⟨0x1C0A004, 1, 0, 1, 0, 0x3FF0000, 0x83FFFFFF, 0, 0⟩,  -- CNT_RING_CTL
  ⟨0x1C0A008, 1, 0, 1, 0, 0, 0xFFFFF000, 0, 0⟩,  -- CNT_RING_LO
  ⟨0x1C0A00C, 1, 0, 1, 0, 0, 0xFFFFFFFF, 0, 0⟩,  -- CNT_RING_HI
  ⟨0x1C0A010, 1, 0, 1, 0, 0, 0, 0, 0⟩,  -- CNT_RING_WP
  ⟨0x1C0A014, 1, 0, 1, 0, 0, 0, 0x80000000, 0⟩]  -- CNT_RING_STAT

/-- Registers of the housekeeping monitors and test scheduler. -/
def rowsMon : List RegRow := [
  ⟨0x1E00000, 10, 0x1000, 1, 0, 0xFFFF, 0x1FFFF, 0, 0⟩,  -- MON_CTL
  ⟨0x1E00004, 10, 0x1000, 1, 0, 0x80000000, 0, 0xFFFF, 0⟩,  -- MON_STAT
  ⟨0x1E00008, 10, 0x1000, 1, 0, 0, 0, 0, 0⟩,  -- MON_RING_WP
  ⟨0x1E0000C, 10, 0x1000, 1, 0, 0, 1, 0, 0⟩,  -- MON_LOCK
  ⟨0x1E00010, 10, 0x1000, 1, 0, 0, 0xFFFFF00F, 0, 0⟩,  -- MON_MIRROR_LO
  ⟨0x1E00014, 10, 0x1000, 1, 0, 0, 0xFFFFFFFF, 0, 0⟩,  -- MON_MIRROR_HI
  ⟨0x1E00018, 10, 0x1000, 1, 0, 0, 0, 0, 0⟩,  -- MON_MIRROR_WP
  ⟨0x1E00100, 10, 0x1000, 16, 4, 0, 0, 0, 0⟩,  -- MON_LAST
  ⟨0x1E00200, 10, 0x1000, 16, 4, 0, 0xFFF0FFF, 0, 0⟩,  -- MON_WARN
  ⟨0x1E00300, 10, 0x1000, 16, 4, 0, 0x8FFFFFFF, 0, 0⟩,  -- MON_FAIL
  ⟨0x1E0A000, 1, 0, 1, 0, 0x80000258, 0x800003FF, 0, 0⟩,  -- MON_TEST_CTL
  ⟨0x1E0A004, 5, 4, 1, 0, 0, 0xFFFF, 0, 0⟩,  -- MON_TEST_PER
  ⟨0x1E0A020, 1, 0, 1, 0, 0, 0, 0, 0⟩]  -- MON_TEST_STAT

/-- Registers of the pasture dies. -/
def rowsPst : List RegRow := [
  ⟨0x2000000, 8, 0x400000, 1, 0, 0x500000A1, 0, 0, 0⟩,  -- PST_DIE_ID
  ⟨0x2000010, 8, 0x400000, 1, 0, 0x400, 0x17FF, 0, 0x7FF⟩,  -- PST_DIE_CTL
  ⟨0x2000020, 8, 0x400000, 1, 0, 0, 0, 0x6000000, 0⟩,  -- PST_DIE_STAT
  ⟨0x2000100, 8, 0x400000, 64, 4, 0x3C00, 0, 0, 0⟩,  -- PST_FIELD_DRIFT
  ⟨0x2000200, 8, 0x400000, 1, 0, 0x1610100, 0x1F101FF, 0, 0x1F101FF⟩,  -- PST_PP_CTL
  ⟨0x2000204, 8, 0x400000, 1, 0, 0x70015AC, 0x1F007FFF, 0, 0x1F007FFF⟩,  -- PST_PP_RANK
  ⟨0x2000208, 8, 0x400000, 1, 0, 0x300800C0, 0x3FFFFFFF, 0, 0x3FFFFFFF⟩,  -- PST_PP_TALLY
  ⟨0x200020C, 8, 0x400000, 1, 0, 0xDBBA0, 0xFFFFFF, 0, 0xFFFFFF⟩,  -- PST_PP_WEAR
  ⟨0x2000210, 8, 0x400000, 1, 0, 0, 0, 0, 0⟩,  -- PST_PP_STAT
  ⟨0x2000214, 8, 0x400000, 1, 0, 0, 0, 0x1F, 0⟩,  -- PST_PP_FENCE
  ⟨0x2000218, 8, 0x400000, 1, 0, 0, 0x80FFFFFF, 0, 0⟩,  -- PST_PP_WEAR_IDX
  ⟨0x200021C, 8, 0x400000, 1, 0, 0, 0xFFFFFF, 0, 0⟩,  -- PST_PP_WEAR_DATA
  ⟨0x2000300, 8, 0x400000, 1, 0, 0x33225830, 0x3FFFFFFF, 0, 0x3FFFFFFF⟩,  -- PST_MUS_CTL
  ⟨0x2000304, 8, 0x400000, 1, 0, 0, 0, 0, 0⟩,  -- PST_MUS_STAT
  ⟨0x2000400, 8, 0x400000, 64, 4, 0, 0x70000, 0, 0x70000⟩,  -- PST_MUS_FIELD
  ⟨0x2100000, 8, 0x400000, 8192, 4, 0x8003, 0x8F07, 0, 0x8F07⟩,  -- PST_TILE_CFG
  ⟨0x2110000, 8, 0x400000, 8192, 4, 0, 0, 0xF, 0⟩,  -- PST_TILE_STAT
  ⟨0x2120000, 8, 0x400000, 8192, 4, 0, 0, 0, 0⟩,  -- PST_TILE_MAP
  ⟨0x2130000, 8, 0x400000, 8192, 4, 0, 0x9FFF0000, 0, 0x9FFF0000⟩,  -- PST_MUS_TILE
  ⟨0x2140000, 8, 0x400000, 8192, 4, 0x9A, 0, 0, 0⟩,  -- PST_ACHK_TILE
  ⟨0x2200000, 8, 0x400000, 131072, 4, 0, 0, 0, 0⟩]  -- PST_COL_MAP

/-- The rows of the block an offset lies in (Table 11-3). -/
def rowsAt (off : Nat) : List RegRow :=
  if off < 0x100000 then rowsGlb
  else if off < 0x200000 then rowsPwr
  else if off < 0x800000 then rowsHost
  else if off < 0x1400000 then rowsUnit
  else if off < 0x1800000 then rowsMem
  else if off < 0x1C00000 then rowsFab
  else if off < 0x1E00000 then rowsCnt
  else if off < 0x2000000 then rowsMon
  else rowsPst

/-- The row of an offset, none where this manual defines no stored register there (R372). -/
def regRow (off : Nat) : Option RegRow := (rowsAt off).find? fun r => (r.index off).isSome

/-- A voltage-channel code at a fraction num/den of a volt times the divider, to the nearest (R166). -/
def voltCode (num den : Nat) : Nat := (2 * num * 4096 * 100 + den * 125) / (2 * den * 125)

/-- Low and high window codes of a converter channel at reset, limits in units of 0.1 mV: the warning window and the fail window with its enable
(Tables 5-3 and 5-4). Channels without a window take 0 to 0xFFF. -/
def monWindow (fold0 fold : Bool) (c : Nat) : (Nat × Nat) × (Nat × Nat) × Bool :=
  let t (lo hi : Nat) := ((lo + 64) * 16 - 84 * 16, (hi + 64) * 16)
  let v (div a b : Nat) := (voltCode a (10000 * div), voltCode b (10000 * div))
  if !fold then
    match c with
    | 8 => (v 1 7600 8400, v 1 7200 8800, true)
    | 9 => (v 2 11400 12600, v 2 10800 13200, true)
    | 10 => (v 2 17100 18900, v 2 16200 19800, true)
    | 11 => (v 4 23750 26250, (0, 0xFFF), false)
    | 12 => (v 1 1950 2050, v 1 1900 2100, true)
    | 13 => (v 1 9900 10100, v 1 9800 10200, true)
    | 14 => (v 1 11850 12150, v 1 11700 12300, true)
    | 15 => (v 1 0 50, v 1 0 100, true)
    | _ => (t 64 90, t 64 110, true)
  else
    match c with
    | 4 => (v 1 7125 7875, v 1 6750 8250, true)
    | 5 => (v 1 8075 8925, v 1 7650 9350, true)
    | 6 => (v 2 11400 12600, v 2 10800 13200, true)
    | 7 => (v 1 10450 11550, v 1 9900 12100, true)
    | 8 => (v 1 8550 9450, v 1 8100 9900, true)
    | 9 => (v 1 8550 9450, v 1 8100 9900, true)
    | 10 => (v 4 31350 34650, v 4 29700 36300, true)
    | 11 => (v 1 7600 8400, v 1 7200 8800, true)
    | 12 => (v 1 11850 12150, v 1 11700 12300, true)
    | 13 =>
      if fold0 then (v 100 600000 800000, v 100 560000 1000000, true)
      else (v 1 0 50, v 1 0 100, true)
    | 14 => (v 1 0 50, v 1 0 100, true)
    | 15 => ((0, 0xFFF), (0, 0xFFF), false)
    | _ => (t 64 100, t 64 110, true)

/-- Reset value of a stored register: its row's, or the value that depends on the instance. -/
def regResetAt (off : Nat) : Nat :=
  match regRow off with
  | none => 0
  | some r =>
    let ij := (r.index off).getD (0, 0)
    let i := ij.1
    let j := ij.2
    if r.base = 0x2000000 then r.reset + i * 65536                    -- PST_DIE_ID.INDEX
    else if r.base = 0x2000400 then (j / 8) * 65536                    -- PST_MUS_FIELD.SENSOR
    else if r.base = 0x1401000 then j                                  -- MEM_CHMAP.PCH
    else if r.base = 0x1810000 then j                                  -- FAB_POS.PHYS
    else if r.base = 0x1E0A004 then [60, 1440, 10080, 60, 60].getD i 0 -- MON_TEST_PER
    else if r.base = 0x1E00200 then
      let w := (monWindow (i = 8) (8 ≤ i) j).1
      w.2 * 65536 + w.1
    else if r.base = 0x1E00300 then
      let w := (monWindow (i = 8) (8 ≤ i) j).2
      2 ^ 31 * (b2n w.2) + w.1.2 * 65536 + 0x4000 + w.1.1
    else r.reset

def regReset (off : Nat) : Word := BitVec.ofNat 32 (regResetAt off)

end Sys2Proof.Machine
end

