-- ==== Sys2Proof/Machine/Memory.lean ====
section
/-! DEFINITION. Memory as canonical lists of bytes, and the map from module-local addresses to physical places (R338 to
R344). An unlisted byte reads as 0 (R367 for module memory; log entry 3 for host memory). -/

namespace Sys2Proof.Machine

/-- What a byte that nothing has written reads as. -/
def memDefault : Byte := 0

/-- The canonical form of a memory: addresses strictly rising, no byte equal to the default. -/
def Memory.wf (m : List Host.Cell) : Bool := mapWf memDefault m

/-- One byte of a memory. -/
def memByte (m : List Host.Cell) (a : Nat) : Byte := mapGet memDefault m a

/-- Write one byte. -/
def memSetByte (m : List Host.Cell) (a : Nat) (b : Byte) : List Host.Cell := mapSet memDefault m a b

/-- Write bytes at rising addresses. -/
def memWriteAt : List Host.Cell → Nat → List Byte → List Host.Cell
  | m, _, [] => m
  | m, a, b :: bs => memWriteAt (memSetByte m a b) (a + 1) bs

/-- Read n bytes from an address. -/
def memReadAt (m : List Host.Cell) (a n : Nat) : List Byte := (List.range n).map fun i => memByte m (a + i)

def gib : Nat := 2 ^ 30

/-- Bases of fold SRAM and of the register space (Table 10-1). -/
def sramBase (f : Nat) : Nat := 0xF000000000 + f * 0x100000000
def sramSize : Nat := 0xC000000
def regSpaceBase : Nat := 0xFE00000000

/-- Where a module-local address lies. -/
inductive Place
  | stack (k o : Nat)
  | sram (f o : Nat)
  | regs (off : Nat)
  | unbacked
  deriving DecidableEq, Repr

/-- The place of a module-local address under a striped pool of z GiB of each stack (Table 10-1, R340, R341). -/
def placeOf (z a : Nat) : Place :=
  if a < gib * (8 * z) then .stack ((a >>> 12) % 8) (4096 * (a >>> 15) + a % 4096)
  else if a < 960 * gib then
    let w := gib * (120 - z)
    let b := a - gib * (8 * z)
    .stack (b / w) (gib * z + b % w)
  else if sramBase 0 ≤ a ∧ a < sramBase 0 + sramSize then .sram 0 (a - sramBase 0)
  else if sramBase 1 ≤ a ∧ a < sramBase 1 + sramSize then .sram 1 (a - sramBase 1)
  else if regSpaceBase ≤ a ∧ a < regSpaceBase + 0x4000000 then .regs (a - regSpaceBase)
  else .unbacked

/-- The key under which a byte of a place is held; registers and unbacked places have none. -/
def Place.key : Place → Option Nat
  | .stack k o => some (2 ^ 37 * k + o)
  | .sram f o => some (2 ^ 40 + 2 ^ 28 * f + o)
  | _ => none

/-- The stack a place lies on. -/
def Place.stackOf : Place → Option Nat
  | .stack k _ => some k
  | _ => none

def Place.onStack (p : Place) : Bool := p.stackOf.isSome

def Place.onSram : Place → Bool
  | .sram _ _ => true
  | _ => false

/-- The access-table target of a place (Table 11-13). -/
def Place.target : Place → Option Nat
  | .stack k _ => some k
  | .sram f _ => some (8 + f)
  | _ => none

/-- The base of the stack-local window of stack k and its size (R340). -/
def windowBase (z k : Nat) : Nat := gib * (8 * z) + k * (gib * (120 - z))

/-- A region lies wholly in the stack-local window of stack k (R343). -/
def stackLocal (z k a n : Nat) : Bool :=
  decide (windowBase z k ≤ a) && decide (a + n ≤ windowBase z k + gib * (120 - z))

/-- Logical channel of a stack offset, and the channel offset (R342). -/
def channelOf (o : Nat) : Nat × Nat := ((o / 256) % 30, o / 7680 * 256 + o % 256)

/-- The region of fold SRAM an offset lies in (Table 10-2). -/
inductive SramRegion
  | columnTable
  | staging
  | partials
  | images
  | firmware
  | buffers
  | general
  deriving DecidableEq, Repr

def sramRegion (o : Nat) : SramRegion :=
  if o < 0x4000000 then .columnTable
  else if o < 0x8000000 then .staging
  else if o < 0x9800000 then .partials
  else if o < 0x9A00000 then .images
  else if o < 0xA200000 then .firmware
  else if o < 0xA300000 then .buffers
  else .general

end Sys2Proof.Machine
end

