-- ==== Sys2Proof/Machine/TypesArray.lean ====
section
/-! DEFINITION. The state of the pasture dies: cells, tiles, reads and code packets (chapter 3), the program port with its
batches, scopes and buffers (chapter 4), muster, monitors and tests (chapter 5), and of the shearer units (chapter 9). -/

namespace Sys2Proof.Machine

/-- The levels of the four cells of a weight, M+, M−, m+ and m− (R64, R65). -/
structure Cells where
  mp : Nat := 0
  mm : Nat := 0
  np : Nat := 0
  nm : Nat := 0
  deriving DecidableEq, Repr

/-- The cells of a physical weight-column at manufacture: the patterns of Table 3-7 in the reference columns, level 0
elsewhere (DESIGN CHOICE, log entry 11). -/
def cellsDefault (pcol : Nat) : Cells :=
  match pcol with
  | 528 => ⟨15, 0, 15, 0⟩
  | 529 => ⟨15, 0, 15, 0⟩
  | 530 => ⟨0, 15, 0, 15⟩
  | 531 => ⟨0, 15, 0, 15⟩
  | 532 => ⟨8, 8, 8, 8⟩
  | 533 => ⟨8, 8, 8, 8⟩
  | 534 => ⟨11, 4, 4, 11⟩
  | 535 => ⟨11, 4, 4, 11⟩
  | _ => {}

/-- One MVM of a tile read: its repeat index, and the row group, level 0 the whole tile, levels 1 to 3 halves, quarters
and 60-row groups (R76, R90). -/
structure Leaf where
  rep : Nat := 0
  level : Nat := 0
  group : Nat := 0
  deriving DecidableEq, Repr

/-- The read of one tile for one vector: its chain, the signed pulse lengths, the reference exponent, octave drops, the MVMs
still to start and those in progress, leaf parts still to reach the block accumulator, and, for a sampled read, the part
gathered so far. -/
structure TileRead where
  chain : Nat := 0
  tile : Nat := 0
  taps : List Int := []
  et : Nat := 0
  drops : Nat := 0
  /-- The T4 codes and block exponents, for the check buffer (R473). -/
  codes : List Int := []
  exps : List Nat := []
  sample : Bool := false
  own : List Int := []
  part : Nat := 0
  rb : Nat := 0
  todo : List Leaf := []
  busy : List Leaf := []
  begun : Bool := false
  left : Nat := 0
  deriving DecidableEq, Repr

/-- A code packet (R80): header and the codes of the logical columns, major then minor, with those of the reference columns 528 to 535 in a
sampled packet; none where it reports overrange. -/
structure Packet where
  chain : Nat := 0
  tile : Nat := 0
  leaf : Leaf := {}
  ovr : Bool := false
  final : Bool := false
  codes : List (Int × Int) := []
  refs : List (Int × Int) := []
  /-- A converter of the reference columns 528 to 531 overranged (R157). -/
  refOvr : Bool := false
  et : Nat := 0
  drops : Nat := 0
  bytes : Nat := 0
  deriving DecidableEq, Repr

/-- What a weight's cells are to become: the target code of a request (R102), the canonical cells of a code (R103), or
levels given outright (R145). -/
inductive Aim
  | request (w : Int)
  | canon (w : Int)
  | levels (c : Cells)
  /-- Nothing is programmed: a MASTER entry for a weight that no span covers (R569). -/
  | keep
  deriving DecidableEq, Repr

/-- One weight of a batch: row, logical and physical columns, aim, the code the move was computed from, and the entry it
came from. -/
structure Item where
  row : Nat := 0
  col : Nat := 0
  pcols : List Nat := []
  aim : Aim := .request 0
  wOld : Option Int := none
  idx : Nat := 0
  deriving DecidableEq, Repr

/-- One cell of a batch, in units of 0.01 µS: item and column it belongs to, which of the four cells, its target level, the
conductance of the first level read and the last one read, ladder step and polarity (true: SET), pulses given. -/
structure BCell where
  item : Nat := 0
  pcol : Nat := 0
  which : Nat := 0
  target : Nat := 0
  g0 : Nat := 0
  g : Nat := 0
  k : Nat := 0
  pol : Option Bool := none
  pulses : Nat := 0
  done : Bool := true
  deriving DecidableEq, Repr

/-- Phases of a batch (R116). -/
inductive BPhase
  | reading
  | pulsing
  | ended
  deriving DecidableEq, Repr

/-- A batch in flight on a tile. -/
structure Batch where
  owner : Nat := 0
  tile : Nat := 0
  ptile : Nat := 0
  items : List Item := []
  cells : List BCell := []
  phase : BPhase := .reading
  iter : Nat := 0
  retry : Bool := false
  deriving DecidableEq, Repr

/-- A LOCK scope (R127). -/
structure Scope where
  tile : Nat := 0
  col : Nat := 0
  kind : ScopeKind := .remap
  owner : Nat := 0
  deriving DecidableEq, Repr

/-- An entry of the reconcile buffer: the weight and the code found (R133). -/
structure Recon where
  tile : Nat := 0
  row : Nat := 0
  col : Nat := 0
  w : Int := 0
  deriving DecidableEq, Repr

/-- The application of a die's request list (R144, R114): the descriptor, if any, the tiles allowed, what else runs, and
what has been counted. -/
structure Flush where
  desc : Option (Nat × Nat) := none
  lim : Nat := 0
  rescale : Bool := false
  remap : Bool := false
  waitRecon : Bool := false
  applied : Nat := 0
  except : Nat := 0
  deriving DecidableEq, Repr

/-- A column rescale waiting for the engine: mode of R122, the scale of EXPLICIT, and the descriptor entry that asked. -/
structure RsJob where
  tile : Nat := 0
  col : Nat := 0
  mode : Nat := 0
  scol : Nat := 0
  desc : Option (Nat × Nat × Nat) := none
  /-- The tile was fenced by a revocation and leaves FENCED when the rescale completes (R135). -/
  unfence : Bool := false
  deriving DecidableEq, Repr

/-- A PROGRAM_DIRECT in hand: its descriptor, entries, position and results. -/
structure Direct where
  ctx : Nat := 0
  ptr : Nat := 0
  master : Bool := false
  entries : List Nat := []
  pos : Nat := 0
  results : Map Nat := []
  deriving DecidableEq, Repr

/-- A program port (R124 to R138). -/
structure Port where
  owner : Option Nat := none
  issued : Bool := false
  yielding : Bool := false
  rr : Map Nat := []
  scopes : List Scope := []
  batches : List Batch := []
  recon : List Recon := []
  toRecon : List Scope := []
  /-- The owner and the scopes of a revocation whose reconcile reads still run (R132). -/
  revoked : Option (Nat × List Scope) := none
  record : List Scope := []
  flush : Option Flush := none
  /-- Entries of the request list handed to batches since the list began to be applied. -/
  pos : Nat := 0
  jobs : List RsJob := []
  /-- Descriptor results of rescales: the words of finished entries keyed by entry. -/
  results : Map Nat := []
  /-- Columns rescaled while the list is being applied: their later entries are superseded (R121). -/
  super : List (Nat × Nat) := []
  /-- Physical columns waiting for remap, as physical tile and column (R142). -/
  remaps : List (Nat × Nat) := []
  /-- Tiles being retired: logical tile, the spare physical tile that takes its index, columns written (R143). -/
  retiring : List (Nat × Nat × Nat) := []
  direct : Option Direct := none
  restore : List (Nat × Nat) := []
  vClosed : Bool := false
  vIn : Bool := false
  deriving DecidableEq, Repr

/-- Values accepted and waiting, as targets (R163, R164): column trims by logical tile·512 + column, drift factors by
physical field, slot reference trims by physical tile·1072 + slot, delay trims by physical tile·56 + tap, noise figures by
logical tile. -/
structure Pending where
  ofs : Map (Option Int) := []
  gt : Map (Option Nat) := []
  drift : Map (Option Nat) := []
  slot : Map (Option Int) := []
  delay : Map (Option Int) := []
  sigma : Map (Option Nat) := []
  tiles : List Nat := []
  deriving DecidableEq, Repr

/-- A muster in hand: the fields it covers whole, the tiles still to take, those being mustered with the state each was
taken from, the results that passed the checks of their own tile, the descriptor that asked, and its counts. -/
structure MRun where
  fields : List Nat := []
  want : List Nat := []
  busy : List (Nat × Nat) := []
  acc : List (Nat × Measure) := []
  desc : Option (Nat × Nat) := none
  now : Bool := false
  mustered : Nat := 0
  rejected : Nat := 0
  suspect : Nat := 0
  /-- Batches still to start (R162), and whether every tile has been measured and accepted or rejected. -/
  later : List (List Nat) := []
  closed : Bool := false
  deriving DecidableEq, Repr

/-- The muster engine of a die (R148 to R164). -/
structure Mus where
  pend : Pending := {}
  gradual : Bool := false
  due : List Nat := []
  runs : List MRun := []
  /-- Rejected tiles waiting for their retry, and tiles whose muster another engine asked for (R153, R161). -/
  asked : List Nat := []
  /-- Timestamp at which each field's last muster began (R155). -/
  began : Map Nat := []
  /-- Drift tracker: ratios seen and their sum in units of 2^-20, per physical field (R157). -/
  ratioN : Map Nat := []
  ratioSum : Map Nat := []
  /-- Slot reference and delay trims in force, keyed as in the pending values, and the slot gains at slot trim 0 as last measured, keyed
  as the slot trims, in units of 2^-20. -/
  slot : Map Int := []
  delay : Map Int := []
  base : Map Nat := []
  /-- Array gain of each physical tile at its last accepted muster, and the response of its reference columns 528 to 531 then, in units of
  2^-20 (R148, R157). -/
  gain : Map Nat := []
  refr : Map Nat := []
  deriving DecidableEq, Repr

/-- A test of the scheduler or of a TILE_TEST (R173 to R180): class of Table 5-6, unit (die·8192 + logical tile, or physical
unit), kinds asked (bit 0 REF, 1 CONVERTER, 2 COLUMN, 3 SPARE), columns, slices left, whether it runs outside the
deferral rules, whether a slice is running, the state its tile was taken from, the descriptor entry that asked, and the
result so far. -/
structure Test where
  cls : Nat := 0
  unit_ : Nat := 0
  kinds : Nat := 0
  lo : Nat := 0
  hi : Nat := 0
  slices : Nat := 0
  forced : Bool := false
  running : Bool := false
  from_ : Nat := 1
  desc : Option (Nat × Nat × Nat) := none
  word : Nat := 0
  /-- Fenced as test-overdue (R175). -/
  overdue : Bool := false
  deriving DecidableEq, Repr

/-- One housekeeping converter: the next channel, each channel's last 64 codes newest first, its run of conversions
outside the fail window, and the entries waiting for a mirror burst (R165 to R170). -/
structure Mon where
  next : Nat := 0
  codes : Map (List Nat) := []
  run : Map Nat := []
  burst : List Nat := []
  deriving DecidableEq, Repr

/-- States of a pasture die (Table 3-15). QUIESCED is RUN under PST_DIE_CTL.QUIESCE. -/
inductive DieState
  | hold
  | run
  | update
  | failSafe
  deriving DecidableEq, Repr

/-- States of a logical tile (Table 3-11). -/
inductive TileState
  | hold
  | ready
  | read
  | program
  | muster
  | test
  | fenced
  deriving DecidableEq, Repr

def TileState.code : TileState → Nat
  | .hold => 0
  | .ready => 1
  | .read => 2
  | .program => 3
  | .muster => 4
  | .test => 5
  | .fenced => 6

structure Tile where
  st : TileState := .hold
  suspect : Bool := false
  /-- MVMs started, modulo 64: the last of each 64 carries the reference codes (R80). -/
  mvms : Nat := 0
  /-- Chains of the MVMs in progress in its two banks, in the order they started. -/
  banks : List Nat := []
  /-- Cleared while FENCED: it returns to service at the next step boundary (R175, Table 14-2). -/
  unfence : Bool := false
  /-- Test-overdue while in another engine's hands: it enters FENCED when it comes back (R175). -/
  fence : Bool := false
  deriving DecidableEq, Repr

/-- One pasture die. Cells are kept through module reset (R96). -/
structure Die where
  state : DieState := .hold
  cells : Map Cells := []
  tiles : Map Tile := []
  reads : List TileRead := []
  packets : List Packet := []
  port : Port := {}
  /-- Wear counters by physical tile · 536 + column, and what those not listed stand at (R140, R141). -/
  wear : Map Nat := []
  wear0 : Nat := 0
  /-- Physical tiles that have been retired, kept in the persisted spare map (R62). -/
  dead : Map Bool := []
  /-- Columns pulsed in the window now open (R140). -/
  pulsed : List Nat := []
  mus : Mus := {}
  /-- Tiles that wait at the activity limit, and the logical field whose waiting tiles come first (R92). -/
  waitAct : List Nat := []
  rrField : Nat := 0
  /-- A read of the die has started in the open step or pass (R154). -/
  stepRead : Bool := false
  /-- S + 1 of the last step whose update deferred a request, 0 for none since a step without one (R473). -/
  noSample : Nat := 0
  deriving DecidableEq, Repr

/-- A wear counter of a die (R140). -/
def Die.worn (d : Die) (k : Nat) : Nat := mapGet d.wear0 d.wear k

/-- A validated record of a span table (Table 9-1). -/
structure Span where
  id : Nat := 0
  kind : Nat := 0
  pc : Bool := false
  rule : Nat := 0
  ng : Nat := 1
  wcFb : Nat := 0
  k : Nat := 0
  n : Nat := 0
  cb : Nat := 0
  tlist : Nat := 0
  tiles : List Nat := []
  master : Nat := 0
  mom1 : Nat := 0
  mom2 : Nat := 0
  tally : Nat := 0
  grad : Nat := 0
  gsum : Nat := 0
  mask : Nat := 0
  wc : Nat := 0
  dir : Nat := 0
  pstate : Nat := 0
  colst : Nat := 0
  valid : Bool := true
  deriving DecidableEq, Repr

/-- States of a shearer unit that Table 9-10 keeps across commands. -/
inductive ShrState
  | hold
  | ready
  | ucode
  deriving DecidableEq, Repr

/-- One shearer unit: its span memory, the partial sums with the step each belongs to, the folds of the step, the marks
(step of the last update, panels done), and the entries of the request list appended since it was last empty. -/
structure Shr where
  state : ShrState := .hold
  spans : List Span := []
  partials : Map (Nat × Nat) := []
  folded : Map Nat := []
  marks : Map (Nat × Nat) := []
  fill : Nat := 0
  deriving DecidableEq, Repr

/-- What the MSP keeps of a die in the persistent data (items 1 to 3, R528): the words of its tile map and column map by register
offset, its column records by logical tile · 512 + column, drift factors by physical field, and the muster and wear values. -/
structure DieSave where
  maps : Map Word := []
  recs : Map Nat := []
  drift : Map Word := []
  slot : Map Int := []
  delay : Map Int := []
  base : Map Nat := []
  gain : Map Nat := []
  refr : Map Nat := []
  wear : Map Nat := []
  wear0 : Nat := 0
  deriving DecidableEq, Repr

/-- A copy of a persistent item (R528): VER and SEQ of its header, whether its CRC fails, and what the item holds. Of item 3, the last
committed step when it was written, and the steps committed and the windows recorded since, by die (R141). -/
structure PdCopy where
  ver : Nat := 0
  seq : Nat := 0
  bad : Bool := false
  dies : Map DieSave := []
  muMap : Map Nat := []
  drvMap : Map Nat := []
  chmap : Map Nat := []
  retired : Map Bool := []
  last : Nat := 0
  steps : Nat := 0
  wins : Map Nat := []
  /-- Of item 3, the threshold counts and the strikes (R476). -/
  thr : Map Nat := []
  life : Map Nat := []
  deriving DecidableEq, Repr

/-- The copies of the persistent items, keyed 2·item + bank; the bank taken of each at the last load; and whether the dies hold the data
since the last module reset. -/
structure Save where
  copies : Map PdCopy := []
  sel : Map Nat := []
  live : Bool := false
  deriving DecidableEq, Repr

end Sys2Proof.Machine
end

