-- ==== Sys2Proof/Machine/TypesUnits.lean ====
section
/-! DEFINITION. The state of the matrix units and their products (chapter 6) and of the drover engines: queues, holds,
kernels, invocations, writer slots, copies and summaries (chapter 7). -/

namespace Sys2Proof.Machine

/-- A product record (Table 6-4). -/
structure Prec where
  aAddr : Nat := 0
  bAddr : Nat := 0
  m : Nat := 0
  n : Nat := 0
  k : Nat := 0
  aPitch : Nat := 0
  bPitch : Nat := 0
  mode : Nat := 0
  aKs : Bool := false
  bKs : Bool := false
  aFb : Nat := 0
  bFb : Nat := 0
  aFmt : Nat := 0
  bFmt : Nat := 0
  tileBase : Nat := 0
  kernel : Nat := 0
  karg : Nat := 0
  deriving DecidableEq, Repr

/-- The descriptor that work belongs to, by context and ring pointer. -/
structure Owner where
  c : Nat := 0
  p : Nat := 0
  deriving DecidableEq, Repr

/-- The substitution of a fenced tile (R281): the array chain it serves, its row block, the T4 codes and exponents of the
480 inputs, and the tile's module-wide index. -/
structure Subst where
  chain : Nat := 0
  rb : Nat := 0
  xs : List (Int × Nat) := []
  tile : Nat := 0
  deriving DecidableEq, Repr

/-- A value held back by the writer: its bits and type (0 FP32, 1 BF16, 2 FP16), its stochastic draw, and whether it is a
listed outlier channel, which enters its block as +0. -/
structure HeldVal where
  bits : Nat := 0
  ty : Nat := 0
  draw : Nat := 0
  outl : Bool := false
  deriving DecidableEq, Repr

/-- An open writer slot (Table 7-10, R241): the row in hand and its next column, the values not yet written, and the block
counts. -/
structure WSlot where
  base : Nat := 0
  len : Nat := 0
  pitch : Nat := 0
  fb : Nat := 0
  fmt : Nat := 0
  tile : Nat := 0
  layer : Nat := 0
  autosum : Bool := false
  outl : Bool := false
  hist : Nat := 0
  olist : Nat := 0
  side : Nat := 0
  row : Option Nat := none
  col : Nat := 0
  vals : List HeldVal := []
  sat : Nat := 0
  unf : Nat := 0
  nan : Nat := 0
  deriving DecidableEq, Repr

/-- The parts of one code packet in the block accumulator, in units of 1/8 sum unit (R83): the tile's reference exponent, whether its read
dropped octaves or kept a saturated leaf, 8 over the reads and replicas that share its scale (R89, R90), and the parts by column, once for
each physical column that holds a logical one. -/
structure CPart where
  et : Nat := 0
  drop : Bool := false
  final : Bool := false
  w : Nat := 8
  cols : List (List Int) := []
  deriving DecidableEq, Repr

/-- A combine chain of one output vector and column block (R84): owner and numbers, the die and its tiles by die-local
index with the head first, where its result goes, the parts that have come (R84), leaf parts and substitution tiles still to
come, and the substituted parts by row block and output tile. -/
structure AChain where
  key : Nat := 0
  own : Owner := {}
  prod : Nat := 0
  vec : Nat := 0
  cb : Nat := 0
  ncb : Nat := 0
  cols : Nat := 0
  die : Nat := 0
  tiles : List Nat := []
  kernel : Nat := 0
  karg : Nat := 0
  layer : Nat := 0
  engine : Nat := 0
  out : WSlot := {}
  recomp : Bool := false
  eval : Bool := false
  parts : List CPart := []
  left : Nat := 0
  subLeft : Nat := 0
  subs : List (Nat × Nat × List Nat) := []
  deriving DecidableEq, Repr

/-- A product in hand: its key, owner, sequence number, record and partition; the next chain to hand out, chains counting
by tile and then by partial; the ring block it waits for; the tile it substitutes. -/
structure Product where
  key : Nat := 0
  own : Owner := {}
  prod : Nat := 0
  info : Prec := {}
  part : Nat := 0
  master : Nat := 0
  recomp : Bool := false
  eval : Bool := false
  next : Nat := 0
  ring : Option Nat := none
  /-- Ring steps whose blocks its operands lie in (R454). -/
  reads : List Nat := []
  sub : Option Subst := none
  deriving DecidableEq, Repr

/-- A chain given to a unit: its product and chain, and whether it is an ordinary chain (0), a recount (1) or a third
execution (2), or an ordinary chain assigned again (3), which is not selected (R470). -/
structure Job where
  key : Nat := 0
  idx : Nat := 0
  kind : Nat := 0
  /-- Placed while the units were quiesced: it does not start before they resume (R212). -/
  late : Bool := false
  deriving DecidableEq, Repr

/-- A finished-tile entry: its header (Table 6-6) and its 16,384 FP32 words; the product chain it came from and whether a
recount holds it (R469). -/
structure TileEnt where
  key : Nat := 0
  idx : Nat := 0
  own : Owner := {}
  t : Nat := 0
  part : Nat := 0
  last : Bool := true
  split : Bool := false
  cond : Nat := 0
  rows : Nat := 0
  cols : Nat := 0
  crc : Nat := 0
  kernel : Nat := 0
  karg : Nat := 0
  prod : Nat := 0
  recomp : Bool := false
  eval : Bool := false
  held : Bool := false
  /-- The array chain and row block a substituted part belongs to (R281). -/
  sub : Option (Nat × Nat) := none
  data : List Nat := []
  deriving DecidableEq, Repr

/-- A logical matrix unit: whether its self-test has passed since reset, its fence, the recount executions placed ahead of
every chain not yet started, the chain in progress, and complete output buffers, oldest first. -/
structure Mu where
  ok : Bool := false
  fenced : Bool := false
  test : Bool := false
  ahead : List Job := []
  cur : Option Job := none
  full : List TileEnt := []
  deriving DecidableEq, Repr

/-- An array-result entry (Table 7-11) and its 512 FP32 words. -/
structure ArrEnt where
  own : Owner := {}
  prod : Nat := 0
  vec : Nat := 0
  cb : Nat := 0
  cols : Nat := 0
  flags : Nat := 0
  kernel : Nat := 0
  karg : Nat := 0
  layer : Nat := 0
  recomp : Bool := false
  eval : Bool := false
  data : List Nat := []
  deriving DecidableEq, Repr

/-- A run request of VEC_KERNEL or LOSS on one engine (Table 7-2). -/
structure RunReq where
  own : Owner := {}
  kernel : Nat := 0
  karg : Nat := 0
  arg0 : Nat := 0
  arg1 : Nat := 0
  count : Nat := 0
  rank : Nat := 0
  eval : Bool := false
  deriving DecidableEq, Repr

/-- A unit of work of an engine (R215). -/
inductive Unit_
  | tile (e : TileEnt)
  | arr (e : ArrEnt)
  | run (r : RunReq)
  deriving DecidableEq, Repr

/-- An entry of the resident table (R253). -/
structure Resident where
  id : Nat := 0
  ofs : Nat := 0
  words : Nat := 0
  entry : Nat := 0
  deriving DecidableEq, Repr

/-- A hold entry (R222): 0 FREE, 1 FILLING, 2 READY. -/
structure Hold where
  st : Nat := 0
  key : Nat := 0
  target : Nat := 0
  fill : Nat := 0
  data : List Nat := []
  deriving DecidableEq, Repr

/-- A copy in flight (R239): local and module addresses, length, direction (true: out of local memory), tag, and the
lines already moved. -/
structure CopyJob where
  loc : Nat := 0
  addr : Nat := 0
  len : Nat := 0
  out : Bool := false
  tag : Nat := 0
  moved : List Nat := []
  /-- Issued by an invocation whose results are discarded (R248). -/
  drop : Bool := false
  own : Owner := {}
  deriving DecidableEq, Repr

/-- A summary record (R244): layer, kind, 48-bit sequence number, value and engine. -/
structure Summ where
  layer : Nat := 0
  kind : Nat := 0
  seq : Nat := 0
  val : Nat := 0
  engine : Nat := 0
  deriving DecidableEq, Repr

/-- A kernel invocation in progress (R216): its unit of work, the code it runs, program counter, registers (vector registers
as 128 words of 32 bits, unlisted ones all zero; predicates as 256-bit numbers), vector length, conditions, and the hold
entry it has bound, with whether HTAKE bound it, and the word offset of its kernel. The tile of its entry is worked on in place. -/
structure Inv where
  work : Unit_ := .run {}
  kernel : Nat := 0
  code : List Nat := []
  ofs : Nat := 0
  pc : Nat := 0
  v : Map (List Nat) := []
  s : List Nat := []
  p : Map Nat := []
  vl : Nat := 256
  cond : Nat := 0
  /-- Conditions raised since the invocation started, whether or not SCOND cleared them. -/
  raised : Nat := 0
  /-- The source it came from: queue A 0, queue B 1, the array-result queue 2, the run requests 3. -/
  src : Nat := 3
  bound : Option (Nat × Bool) := none
  tile : List Nat := []
  deriving DecidableEq, Repr

/-- A kernel on its way into an engine that runs an invocation (R253): the descriptor that loads it, its table entry and words, and the run
request that follows the load. -/
structure PLoad where
  own : Owner := {}
  res : Resident := {}
  code : List Nat := []
  run : Option RunReq := none
  deriving DecidableEq, Repr

/-- A logical drover engine. Instruction memory by word, with the words an uncorrectable error has hit; local data memory by byte, and the
local lines that hold poison a raw move carried in (R349) or an uncorrectable error; the loads that wait for the running invocation to
end. -/
structure Drv where
  ok : Bool := false
  fenced : Bool := false
  test : Bool := false
  res : Map Resident := []
  imem : Map Nat := []
  ibad : List Nat := []
  loads : List PLoad := []
  loc : List Host.Cell := []
  bad : List Nat := []
  qa : List TileEnt := []
  qb : List TileEnt := []
  aq : List ArrEnt := []
  runs : List RunReq := []
  rr : Nat := 0
  inv : Option Inv := none
  hold0 : Hold := {}
  hold1 : Hold := {}
  slots : Map (Option WSlot) := []
  copies : List CopyJob := []
  fifo : List Summ := []
  fault : Nat := 0
  deriving DecidableEq, Repr

/-- A slot of a partial store (R220): the product and tile whose partial it is reserved for, and the entry once it has
drained. -/
structure PSlot where
  key : Nat := 0
  idx : Nat := 0
  ent : Option TileEnt := none
  deriving DecidableEq, Repr

end Sys2Proof.Machine
end

