-- ==== Sys2Proof/Machine/TypesStep.lean ====
section
/-! DEFINITION. The state of the training step (chapter 8). -/

namespace Sys2Proof.Machine

/-- A descriptor whose work is in the hands of the units: its opcode, the status a failure gave it, and whether one of its
invocations faulted. -/
structure Work where
  own : Owner := {}
  op : Nat := 0
  status : Nat := 0
  recomp : Bool := false
  eval : Bool := false
  layer : Nat := 0
  deriving DecidableEq, Repr

/-- The barrier of STEP_END (R293 to R296): its descriptor, the module's own cause bits, the group's OR and the modules that
contributed, whether the timeout has passed once, whether it is held, and the host's action. -/
structure Barrier where
  own : Owner := {}
  bits : Nat := 0
  or_ : Nat := 0
  count : Nat := 1
  asked : Bool := false
  held : Bool := false
  action : Option Nat := none
  deriving DecidableEq, Repr

/-- One unit of a pass in hand: the spans it has still to run, and its counts. -/
structure PassUnit where
  k : Nat
  left : List Nat
  cnt : List Nat := []
  deriving DecidableEq, Repr

/-- A pass of the shearer units in hand (R332 to R334, R337): the descriptor that owns it, whether it belongs to a step, its units, the values
they share (partial sums outside a step, or the next tile index), its rule table, clip factor, partition and flags. -/
structure ShrPass where
  c : Nat
  ptr : Nat
  op : Nat
  step : Bool := true
  units : List PassUnit := []
  share : List Nat := []
  rules : List Byte := []
  clip : Nat := 0
  part : Nat := 0
  tbase : Nat := 0
  force : Bool := false
  deriving DecidableEq, Repr

/-- The open step or evaluation pass and what the shepherd cores hold of it. -/
structure Trn where
  opened : Bool := false
  ctx : Nat := 0
  causes : Nat := 0
  /-- The step context was disabled by a reset before the decision (R403). -/
  lostCtx : Bool := false
  evalOpen : Bool := false
  evalCtx : Nat := 0
  /-- Fields of the STEP_BEGIN in force (Table 8-2). -/
  group : Nat := 0
  watch : Bool := false
  nonfin : Bool := false
  npart : Nat := 1
  share : List Nat := [40, 40]
  nlayer : Nat := 0
  watchAddr : Nat := 0
  /-- Layers widened in the step, layers whose record takes part in the norm watch, and the global-widening count. -/
  wide : List Nat := []
  watched : List Nat := []
  gw : Nat := 0
  /-- Next product sequence number (R277) and next product key. -/
  prodNext : Nat := 0
  keyNext : Nat := 0
  works : List Work := []
  /-- Recount fraction in force, taken at a step boundary (Table 14-11). -/
  frac : Nat := 256
  /-- Output tiles whose entries a recount discarded, by product key and tile (R470). -/
  dropped : List (Nat × Nat) := []
  /-- Units lent to a share that has none, keyed 4·fold die + partition, fixed until the next step boundary (R191, R284). -/
  loans : Map (Option Nat) := []
  prods : List Product := []
  summ : List Summ := []
  /-- Outlier channel lists in use: address and number of groups (R46, R49). -/
  olists : List (Nat × Nat) := []
  barrier : Option Barrier := none
  /-- Decision of the open step, coded as in R299, and those of the last two steps: S, decision and group OR (R295). -/
  decision : Nat := 0
  decisions : List (Nat × Nat × Nat) := []
  /-- The step of GLB_STEP_NUM has been begun and has not been committed (R262). -/
  attempted : Bool := false
  /-- Passes of the shearer units in hand (R337). -/
  passes : List ShrPass := []
  /-- The context whose last step was not committed, until the next step begins (R298). -/
  voidCtx : Option Nat := none
  deriving DecidableEq, Repr

end Sys2Proof.Machine
end

