-- ==== Sys2Proof/Machine/TypesFab.lean ====
section
/-! DEFINITION. The state of the Cleyn ports (chapter 12) and of the fabric space (chapter 13). -/

namespace Sys2Proof.Machine

/-- A Cleyn port beside its registers: lanes that show signal and lanes that have trained, the mask the peer last sent,
failed bring-ups in a row and whether the pause after one runs, the identity exchange, and the link-level retry. -/
structure Lport where
  sig : Nat := 0
  trained : Nat := 0
  txLanes : Nat := 0
  attempts : Nat := 0
  failed : Bool := false
  /-- The last valid identity record of the peer, and whether one came with GOT set (R416). -/
  peer : Option (List Byte) := none
  seenGot : Bool := false
  /-- Next sequence number to send and the last one the peer acknowledged; the next one expected (R422). -/
  txSeq : Nat := 0
  rxSeq : Nat := 0
  replay : List (Nat × List Byte) := []
  resends : Nat := 0
  /-- A NAK is out and the awaited frame has not come (R423). -/
  nak : Bool := false
  /-- Bytes dealt to the active lanes so far, modulo their number (R411). -/
  phase : Nat := 0
  /-- Lanes that failed training in the bring-up before (R425), and what waits for the link firmware: 1 RECOVER, 2 a bring-up (R432). -/
  wasFail : Nat := 0
  owes : Nat := 0
  /-- Frames sent of the running 64, and the TRANSIT bytes in them (R444). -/
  shareN : Nat := 0
  shareT : Nat := 0
  /-- Payload received that is not yet a whole packet, packets received and not yet handled, packets waiting for credits or
  replay space, and bytes outstanding by channel class (R441, R442). -/
  asm : List Byte := []
  rxq : List (List Byte) := []
  sendq : List (List Byte) := []
  used : Map Nat := []
  deriving DecidableEq, Repr

/-- Collective data or control received for a step of a collective that may not have reached it. -/
structure CPkt where
  group : Nat := 0
  seq : Nat := 0
  j : Nat := 0
  off : Nat := 0
  bytes : List Byte := []
  /-- 64-byte parts that come from lost lines, as bits. -/
  bad : Nat := 0
  deriving DecidableEq, Repr

/-- Kinds of exchange over a group (R457, R460). -/
inductive CKind
  | reduce
  | gather
  | sync
  | barrier
  | actions
  | branch
  deriving DecidableEq, Repr

/-- A collective in progress: its descriptor, group and sequence number, this module's rank and log2 of the members, the
exchange step, the range of elements held with the ranges it was halved from, the elements (REDUCE) or the control words, and
its addresses. -/
structure Coll where
  own : Owner := {}
  kind : CKind := .sync
  group : Nat := 0
  seq : Nat := 0
  rank : Nat := 0
  k : Nat := 0
  j : Nat := 0
  lo : Nat := 0
  n : Nat := 0
  outer : List (Nat × Nat) := []
  vals : List Nat := []
  src : Nat := 0
  dst : Nat := 0
  tbase : Nat := 0
  /-- A raw move met lost lines (R349); a request of it was denied. -/
  lost : Bool := false
  denied : Bool := false
  deriving DecidableEq, Repr

/-- A put, get or atomic operation in progress (R462): its kind 0 put, 1 get, 2 atomic, the place it goes to, the local address,
the bytes handed to requests so far, and the operands of an atomic. -/
structure Xfer where
  own : Owner := {}
  kind : Nat := 0
  group : Nat := 0
  dst : Nat := 0
  remote : Nat := 0
  loc : Nat := 0
  len : Nat := 0
  next : Nat := 0
  aop : Nat := 0
  opnd : Nat := 0
  cmp : Nat := 0
  lost : Bool := false
  deriving DecidableEq, Repr

/-- A remote request out under a tag of a fold die: its descriptor and the bytes of the transfer it covers. -/
structure Rreq where
  tag : Nat := 0
  die : Nat := 0
  own : Owner := {}
  off : Nat := 0
  n : Nat := 0
  deriving DecidableEq, Repr

/-- A ring stream of an attention descriptor (R453, R454): the record, the members by position, this module's position, steps
sent, steps received whole, bytes of the next one landed, and the ports that its blocks have used. -/
structure Stream where
  own : Owner := {}
  group : Nat := 0
  rev : Bool := false
  nslot : Nat := 2
  blk : Nat := 0
  id : Nat := 0
  ownAddr : Nat := 0
  slots : Nat := 0
  order : List Nat := []
  pos : Nat := 0
  sent : Nat := 0
  got : Nat := 0
  part : Nat := 0
  ports : List Nat := []
  deriving DecidableEq, Repr

/-- The fabric space: ports, the next sequence number of each group's collectives, collectives in progress and what has
arrived for them, transfers and their requests, ring streams, dimensions already reported unroutable, and time sync. -/
structure Fab where
  ports : Map Lport := []
  seqs : Map Nat := []
  colls : List Coll := []
  inbox : List CPkt := []
  xfers : List Xfer := []
  reqs : List Rreq := []
  tagNext : Nat := 0
  streams : List Stream := []
  unroutable : Nat := 0
  /-- Measured one-way delay of a port's link in ticks, the slew still to remove, the ticks since the last slew, and the master
  that time is taken from (R464, R465). -/
  delay : Map Nat := []
  slew : Int := 0
  slewAt : Nat := 0
  tsMaster : Option Nat := none
  deriving DecidableEq, Repr

end Sys2Proof.Machine
end

