-- ==== Sys2Proof/Machine/State.lean ====
section
/-! DEFINITION. The state of the module: every register, memory, queue, mode and pin the spec names, as plain data, with
the queue of waiting commands; its value right after power-on; and the reasons a step can stop. -/

namespace Sys2Proof.Machine

/-- The state of the TD640. -/
structure State where
  /-- Commands waiting, first in first out. -/
  pending : List Instr := []
  /-- The model's own counter of free values taken (log entry 4); not the spec's. -/
  free : Nat := 0
  /-- What the module has driven onto its interfaces, newest first. -/
  out : List Out := []
  /-- The module timestamp, in 5 ns ticks (R464, R506). -/
  ts : Nat := 0
  /-- Stored registers by BAR0 offset; an unlisted register holds its reset value (R12, R13). -/
  regs : Map Word := []
  /-- Shadows of staged registers that differ from the value in force (R534). -/
  shadow : Map Word := []
  host : HostIf := {}
  mem : Mem := {}
  flt : Flt := {}
  cnt : Cnt := {}
  pwr : Pwr := {}
  boot : Boot := {}
  mgmt : Mgmt := {}
  trn : Trn := {}
  /-- The pasture dies P0 to P7 (chapters 3 to 5). -/
  dies : Map Die := []
  /-- The housekeeping converters, P0 to P7 as 0 to 7, F0 8 and F1 9. -/
  mons : Map Mon := []
  /-- Tests due, running or fencing their unit (R173 to R175). -/
  tests : List Test := []
  /-- The shearer units (chapter 9). -/
  shrs : Map Shr := []
  /-- The logical matrix units (chapter 6) and drover engines (chapter 7). -/
  units : Map Mu := []
  drvs : Map Drv := []
  /-- Combine chains in the block accumulators, in the order their vectors are read (R84, R79). -/
  chains : List AChain := []
  /-- The partial stores of the two fold dies (R220). -/
  pstore : Map (List PSlot) := []
  /-- The Cleyn ports and the fabric space (chapters 12 and 13). -/
  fab : Fab := {}
  /-- Persistent data of the arrays, in flash (R528). -/
  save : Save := {}
  deriving DecidableEq, Repr

/-- Reasons the block stops with a fault. -/
inductive Fault
  /-- The command names a die, tile, unit, port, context or other instance that the module does not have. Raised by
  every command with such an index; safe, no such event exists. -/
  | noSuchUnit
  deriving DecidableEq, Repr

/-- Reasons a command has no meaning. -/
inductive Refusal
  /-- A command not modelled yet. -/
  | notModelled (mnemonic : String)
  /-- A diagnostic opcode that a loaded diagnostic image serves: the spec describes neither the image nor the opcode
  (R9, R517). Raised by RESERVED_OPCODE and DESCRIPTOR_START; safe. -/
  | diagnosticOpcode
  deriving DecidableEq, Repr

/-- What a command answers. -/
abbrev Res := Host.Outcome State Fault Refusal

/-- The next state, where the instance a command names exists. -/
def onUnit (ok : Bool) (s : State) : Res := if ok then .next s else .fault .noSuchUnit

/-- The module at power-on, held in module reset: the standby domain up, every register at its reset value, stacks and
SRAM not yet initialised, the boot chain not begun. -/
def State.reset : State := {}

end Sys2Proof.Machine
end

