-- ==== Sys2Proof/Machine/Ops.lean ====
section
/-! DEFINITION. Operations every command is built of: registers and shadows, free values, event counters, interrupts,
fault records and thresholds. -/

namespace Sys2Proof.Machine

/-- A stored register. -/
def State.reg (s : State) (off : Nat) : Word := mapGet (regReset off) s.regs off

/-- Set a stored register. -/
def State.setReg (s : State) (off : Nat) (w : Word) : State :=
  { s with regs := mapSet (regReset off) s.regs off w }

/-- A field of a stored register. -/
def State.fld (s : State) (off hi lo : Nat) : Nat := wfld (s.reg off) hi lo

/-- Set a field of a stored register. -/
def State.setFld (s : State) (off hi lo v : Nat) : State := s.setReg off (wset (s.reg off) hi lo v)

/-- A bit of a stored register. -/
def State.bit (s : State) (off i : Nat) : Bool := (s.reg off).getLsbD i

def State.setBit (s : State) (off i : Nat) : State := s.setReg off (wsetBit (s.reg off) i)
def State.clrBit (s : State) (off i : Nat) : State := s.setReg off (wclrBit (s.reg off) i)

/-- A field counted up by n, held at its largest value. -/
def State.satAdd (s : State) (off hi lo n : Nat) : State :=
  s.setFld off hi lo (min (s.fld off hi lo + n) (2 ^ (hi + 1 - lo) - 1))

/-- The staged bits of a register (R534). -/
def stagedMask (off : Nat) : Word := BitVec.ofNat 32 (((regRow off).map (·.staged)).getD 0)

/-- The shadow of a register's staged bits: what was written last, else the value in force (R534). -/
def State.shadowOf (s : State) (off : Nat) : Word := (mapFind s.shadow off).getD (s.reg off &&& stagedMask off)

/-- The words of the job seed, whose commit GLB_SEED_STAT.LOADED reports (R58). -/
def seedWord (off : Nat) : Bool := 0x120 ≤ off && off < 0x140

/-- Write staged bits into the shadow of a register. A shadow equal to the value in force is not listed, but for a seed word. -/
def State.stage (s : State) (off : Nat) (mask v : Word) : State :=
  let m := mask &&& stagedMask off
  let w := (s.shadowOf off &&& ~~~m) ||| (v &&& m)
  { s with shadow := if w = s.reg off &&& stagedMask off ∧ !seedWord off then mapErase s.shadow off else mapIns s.shadow off w }

/-- Take one free value (log entry 4). -/
def State.takeFree (s : State) : Nat × State := (Config.free s.free, { s with free := s.free + 1 })

/-- Drive something onto an interface. -/
def State.emit (s : State) (o : Out) : State := { s with out := o :: s.out }

/-- Offsets of the registers named in more than one file. -/
def oBoot : Nat := 0x10
def oIrqStat : Nat := 0x20
def oIrqMask : Nat := 0x24
def oIrqRoute : Nat := 0x28
def oStepStat : Nat := 0x210
def oStepNum : Nat := 0x214
def oStepLast : Nat := 0x218
def oStepCause : Nat := 0x21C
def oStepLval : Nat := 0x220
def oFltStat : Nat := 0x308
def oFltSeq : Nat := 0x30C
def oFsStat : Nat := 0x100124
def oPwrStat : Nat := 0x100104
def oSelf : Nat := 0x1800004
def oMemCfg : Nat := 0x1400010
def oAclDeny : Nat := 0x510004
def oAclDenyAddr : Nat := 0x510008

/-- Base of the window of pasture die p. -/
def pst (p : Nat) : Nat := 0x2000000 + p * 0x400000

/-- The module is in the fail-safe state (PWR_FS_STAT.ACTIVE). -/
def State.failSafe (s : State) : Bool := s.bit oFsStat 31

/-- PWR_GOOD (Table 15-14). -/
def oRail : Nat := 0x100118
def State.pgood (s : State) : Bool := s.pwr.rail.getLsbD 31

/-- The rails change, and PWR_RAIL reports them as they are. -/
def State.updRail (s : State) (f : Word → Word) : State :=
  ({ s with pwr := { s.pwr with rail := f s.pwr.rail } } : State).setReg oRail (f s.pwr.rail)

/-- GLB_BOOT.STATE (Table 11-17). -/
def State.bootState (s : State) : Nat := s.fld oBoot 31 28

def State.ready (s : State) : Bool := s.bootState = 5

/-- The seed in force (R58). -/
def State.seed (s : State) : List Word := (List.range 8).map fun i => s.reg (0x120 + 4 * i)

/-- The step number of the draws: the last step begun (R41, R55). -/
def State.stepNo (s : State) : Nat := (s.reg oStepNum).toNat

/-- Z of the striped pool (R340, Table 10-5). -/
def State.stripe (s : State) : Nat := min (s.fld oMemCfg 6 0) 120

/-- The fold die that serves stack, pasture die or shearer unit k (R17). -/
def foldOf (k : Nat) : Nat := k / 4

/-- The kind of an event source: on a pasture die, a level, and its instances on the die (Table 17-2). -/
structure Source where
  pasture : Bool
  level : Bool
  inst : Nat
  deriving DecidableEq, Repr

def sourceOf (code : Nat) : Option Source :=
  let f (n : Nat) : Option Source := some ⟨false, false, n⟩
  let p (n : Nat) : Option Source := some ⟨true, false, n⟩
  if code = 1 ∨ code = 2 then f 0
  else if 0x10 ≤ code ∧ code ≤ 0x1A then f 40
  else if 0x20 ≤ code ∧ code ≤ 0x28 then f 20
  else if code = 0x29 then some ⟨false, true, 20⟩
  else if code = 0x2A then f 0
  else if 0x30 ≤ code ∧ code ≤ 0x34 then f 4
  else if code = 0x35 then f 0
  else if code = 0x38 then f 4
  else if 0x40 ≤ code ∧ code ≤ 0x45 then f 4
  else if 0x46 ≤ code ∧ code ≤ 0x48 then f 0
  else if code = 0x49 then some ⟨false, true, 0⟩
  else if code = 0x4A then f 0
  else if 0x50 ≤ code ∧ code ≤ 0x55 then f 0
  else if 0x60 ≤ code ∧ code ≤ 0x66 then f 6
  else if 0x67 ≤ code ∧ code ≤ 0x69 then f 0
  else if 0x70 ≤ code ∧ code ≤ 0x74 then f 0
  else if code = 0x78 then f 16
  else if code = 0x79 then some ⟨false, true, 4⟩
  else if 0x100 ≤ code ∧ code ≤ 0x104 then p 64
  else if code = 0x105 then p 0
  else if code = 0x106 then some ⟨true, true, 0⟩
  else if 0x110 ≤ code ∧ code ≤ 0x115 then p 0
  else if code = 0x116 then p 5
  else if code = 0x117 ∨ code = 0x118 then p 0
  else if 0x120 ≤ code ∧ code ≤ 0x122 then p 64
  else if code = 0x123 then p 0
  else if code = 0x124 then p 64
  else if code = 0x125 then p 16
  else if code = 0x126 then some ⟨true, true, 8⟩
  else none

def cntBase (d : Nat) : Nat := 0x1C00000 + d * 0x1000
def cntCfg (d i : Nat) : Nat := cntBase d + 0x100 + 32 * i

/-- Counters of die d: 16 on a pasture die, 64 on a fold die (R539). -/
def cntCount (d : Nat) : Nat := if d < 8 then 16 else 64

/-- The counter counts nothing under its configuration (R540, Table 17-1). -/
def State.cntErr (s : State) (d i : Nat) : Bool :=
  let src := s.fld (cntCfg d i) 9 0
  let mode := s.fld (cntCfg d i) 30 29
  match sourceOf src with
  | none => src != 0
  | some r => r.pasture != decide (d < 8) || mode = 3 || (mode = 2 && !r.level)

/-- Whether a counter takes the events of a source instance now. -/
def State.cntTakes (s : State) (d i src inst : Nat) : Bool :=
  let cfg := s.reg (cntCfg d i)
  let q := wfld cfg 23 16
  cfg.getLsbD 31 && !s.bit 0x1C0A000 0 && wfld cfg 9 0 = src && !s.cntErr d i &&
    (match sourceOf src with
     | some r => r.inst = 0 || q = 0xFF || q = inst
     | none => false)

/-- An interrupt message of a function's vector: pending while the vector is masked, nothing in the fail-safe state
(R396, R405). -/
def State.sendMsi (s : State) (link func vec : Nat) : State :=
  let k := link * 64 + func
  let m := mapGet {} s.host.msix k
  if s.failSafe then s
  else if m.open_.testBit vec then s.emit (.msi link func vec)
  else { s with host := { s.host with msix := mapSet {} s.host.msix k { m with pend := m.pend ||| 2 ^ vec } } }

/-- A device interrupt source: its bit is set, and one message is sent when it was clear and is not masked (R397). -/
def State.raiseIrq (s : State) (src : Nat) : State :=
  let was := s.bit oIrqStat src
  let s1 := s.setBit oIrqStat src
  if was || s.bit oIrqMask src then s1
  else s1.sendMsi (s.fld oIrqRoute 0 0) 0 (if src ≤ 1 then 0 else 1)

/-- Add to a counter modulo 2^48; a wrap sets its overflow bit and may interrupt (R543). -/
def State.cntAdd (s : State) (d i n : Nat) : State :=
  let v := mapGet 0 s.cnt.val (64 * d + i) + n
  let s1 := { s with cnt := { s.cnt with val := mapSet 0 s.cnt.val (64 * d + i) (v % 2 ^ 48) } }
  if v < 2 ^ 48 then s1
  else
    let off := cntBase d + 4 * (i / 32)
    let was := s1.bit off (i % 32)
    let s2 := s1.setBit off (i % 32)
    if s.bit (cntCfg d i) 28 && !was then s2.raiseIrq 4 else s2

/-- n events of a source instance on a die, taken as one SVC_CLK cycle (R541; log entry 8). -/
def State.event (s : State) (d src inst n : Nat) : State :=
  if n = 0 then s
  else (List.range (cntCount d)).foldl (fun t i =>
    if s.cntTakes d i src inst then
      t.cntAdd d i (if s.fld (cntCfg d i) 30 29 = 0 then n else 1)
    else t) s

/-- An event source of fold die f. -/
def State.eventF (s : State) (f src inst n : Nat) : State := s.event (8 + f) src inst n

/-- A fault record raised: kept in the log until the MSP sends it (R480, R481). A full log drops the oldest
acknowledged record, or the oldest of all, which is counted as lost. -/
def State.raiseFault (s : State) (sev code subj : Nat) (detail : List Nat) : State :=
  let r : FaultRec := { ts := s.ts, sev := sev, code := code, step := s.stepNo, pos := s.fld oSelf 13 0, subj := subj,
                        detail := detail }
  let l := s.flt.log
  if l.length < 4096 then { s with flt := { s.flt with log := l ++ [r] } }
  else if l.any (·.acked) then { s with flt := { s.flt with log := l.eraseP (·.acked) ++ [r] } }
  else ({ s with flt := { s.flt with log := l.drop 1 ++ [r], lost := s.flt.lost + 1 } } : State).eventF 0 0x54 0 1

/-- Limits and windows of Table 14-4 at reset. -/
def thrDefault (row : Nat) : Nat := [10000, 50000000, 100000, 3, 16, 3, 2, 2, 1, 1000, 1, 3, 10000, 8].getD row 0
def winDefault (row : Nat) : Nat :=
  [86400, 1, 1, 3600, 86400, 86400, 86400, 86400, 0, 86400, 0, 86400, 86400, 2592000].getD row 0

def State.thrLimit (s : State) (row : Nat) : Nat := mapGet (thrDefault row) s.flt.thrLim row
def State.thrWindow (s : State) (row : Nat) : Nat := mapGet (winDefault row) s.flt.thrWin row

/-- Where the count of a row and subject is kept. -/
def thrKey (row subj : Nat) : Nat := 2 ^ 32 * row + subj

def State.setThr (s : State) (row subj v : Nat) : State :=
  { s with flt := { s.flt with thrCnt := mapSet 0 s.flt.thrCnt (thrKey row subj) v } }

/-- The module is drained: it reports DRAIN, alerts, and sends a record (R479). -/
def State.drain (s : State) (replace : Bool) : State :=
  let s1 := if replace then s.setBit oFltStat 30 else s
  if s1.bit oFltStat 31 then s1
  else
    let s2 := (s1.setBit oFltStat 31).raiseFault 3 0x0601 0 []
    { s2 with mgmt := { s2.mgmt with alert := s2.mgmt.alert ||| 8 } }

/-- n module strikes; at the limit of row 13 the module is drained and flagged for replacement (R477). -/
def State.moduleStrike (s : State) (n : Nat) : State :=
  let c := mapGet 0 s.flt.thrCnt (thrKey 13 0) + n
  let lim := s.thrLimit 13
  let s1 := s.setFld oFltStat 23 16 (min (s.fld oFltStat 23 16 + n) 255)
  if lim != 0 && lim ≤ c then (s1.setThr 13 0 (c % lim)).drain true else s1.setThr 13 0 c

/-- n counted events of a row and subject, one after the other. Answers whether the limit was reached: the count then returns to 0
and a module strike is counted (R476, R477). -/
def State.threshold (s : State) (row subj n : Nat) : Bool × State :=
  let c := mapGet 0 s.flt.thrCnt (thrKey row subj) + n
  let lim := s.thrLimit row
  if lim != 0 && lim ≤ c then (true, (s.setThr row subj (c % lim)).moduleStrike (c / lim)) else (false, s.setThr row subj c)

/-- Set an SMBus alert bit (Table 18-8). -/
def State.alert (s : State) (i : Nat) : State := { s with mgmt := { s.mgmt with alert := s.mgmt.alert ||| 2 ^ i } }

/-- Classes of a master ID (Table 11-12). -/
inductive MasterClass
  | hostPf
  | hostVf
  | shepherd
  | drover
  | shearer
  | dma
  | msp
  | reserved
  | remote
  deriving DecidableEq, Repr

def masterClass (m : Nat) : MasterClass :=
  if m.testBit 15 then .remote
  else match fld m 14 12 with
    | 0 => .hostPf
    | 1 => .hostVf
    | 2 => .shepherd
    | 3 => .drover
    | 4 => .shearer
    | 5 => .dma
    | 6 => .msp
    | _ => .reserved

def mspMaster : Nat := 0x6000

end Sys2Proof.Machine
end

