-- ==== Sys2Proof/Machine/Access.lean ====
section
/-! DEFINITION. Access tables and memory requests: the check of every request (R391 to R393, R364, R365), poison and
uncorrectable lines (R345 to R351), reads and writes of module and host memory, and channel migration (R358). -/

namespace Sys2Proof.Machine

def rightR : Nat := 0
def rightW : Nat := 1
def rightAtomic : Nat := 2
def rightProg : Nat := 3
def rightCfg : Nat := 4

/-- The entry a table holds at reset: the host-PF class everywhere in entry 0, and the fixed entries 62 and 63
(Table 11-14, R392). -/
def aclDefault (i : Nat) : AclEnt :=
  let all (m : Nat) : AclEnt := ⟨true, true, 0x1F, m, 0, 2 ^ 48 - 1⟩
  match i % 64 with
  | 0 => all 0
  | 62 => all 0x2000
  | 63 => all mspMaster
  | _ => {}

/-- Entry e of the table of a target. -/
def State.aclEnt (s : State) (t e : Nat) : AclEnt := mapGet (aclDefault (64 * t + e)) s.host.acl (64 * t + e)

/-- An entry allows a right to a master over units lo to hi (R391). -/
def AclEnt.allows (x : AclEnt) (right master lo hi : Nat) : Bool :=
  x.valid && (x.master = master || (x.anyidx && x.master / 4096 = master / 4096) ||
    (x.anyidx && x.master.testBit 15 && master.testBit 15)) &&
  decide (x.base ≤ lo) && decide (hi ≤ x.limit) && x.rights.testBit right

/-- The table of a target allows a request over units lo to hi. -/
def State.aclAllows (s : State) (t right master lo hi : Nat) : Bool :=
  (List.range 64).any fun e => (s.aclEnt t e).allows right master lo hi

/-- The fold die whose denied-access source counts denials of a target. -/
def targetFold (t : Nat) : Nat :=
  if t < 8 then t / 4 else if t < 10 then t - 8 else if t < 18 then (t - 10) / 4 else if t < 20 then t - 18
  else if t = 35 then 1 else 0

/-- A denial: counted, and logged when no denial is logged (R393). -/
def State.deny (s : State) (t need master unit_ : Nat) : State :=
  let s1 := s.eventF (targetFold t) 0x4A 0 1
  if s1.bit oAclDeny 31 then s1
  else
    ((s1.setReg oAclDeny (BitVec.ofNat 32 (2 ^ 31 + 2 ^ 27 * need + t * 65536 + master % 65536))).setReg oAclDenyAddr
      (BitVec.ofNat 32 unit_)).raiseIrq 6

/-- Check a request against a table; a refusal takes the effects of a denial. -/
def State.aclCheck (s : State) (t right master lo hi : Nat) : Bool × State :=
  if s.aclAllows t right master lo hi then (true, s) else (false, s.deny t right master lo)

/-- Block number of Table 11-3 and offset within the block, of a BAR0 offset. -/
def regBlock (off : Nat) : Nat × Nat :=
  if off < 0x100000 then (0, off) else if off < 0x200000 then (1, off - 0x100000)
  else if off < 0x400000 then (2, off - 0x200000) else if off < 0x500000 then (3, off - 0x400000)
  else if off < 0x800000 then (4, off - 0x500000) else if off < 0xC00000 then (5, off - 0x800000)
  else if off < 0x1000000 then (6, off - 0xC00000) else if off < 0x1400000 then (7, off - 0x1000000)
  else if off < 0x1800000 then (8, off - 0x1400000) else if off < 0x1C00000 then (9, off - 0x1800000)
  else if off < 0x1E00000 then (10, off - 0x1C00000) else if off < 0x2000000 then (11, off - 0x1E00000)
  else (12, off - 0x2000000)

/-- Check a register access (R372, R391). -/
def State.regCheck (s : State) (right master off : Nat) : Bool × State :=
  let b := regBlock off
  s.aclCheck (20 + b.1) right master (b.2 / 4096) (b.2 / 4096)

/-- The registers that this manual marks as needing the CFG right to write. -/
def needsCfg (off : Nat) : Bool :=
  off = 0x14 || (0x300 ≤ off && off < 0x340) || off = 0x400 || (0x100000 ≤ off && off < 0x200000) ||
  (0x500000 ≤ off && off < 0x800000) || off = 0x1400018 || (0x1800000 ≤ off && off < 0x1E00000)

/-- The fields that accept writes only from the MSP's master ID (R392). -/
def mspOnly (off : Nat) : Bool :=
  off = 0x100128 || (0x2000000 ≤ off && (off % 0x400000 = 0x214 || off % 0x400000 = 0x21C))

/-- Check a register write: W, CFG where the register needs it, and the fields reserved to the MSP. -/
def State.regWriteCheck (s : State) (master off : Nat) : Bool × State :=
  let b := regBlock off
  if mspOnly off && master != mspMaster then (false, s.deny (20 + b.1) rightCfg master (b.2 / 4096))
  else
    let r := s.regCheck rightW master off
    if !r.1 then r
    else if needsCfg off then r.2.regCheck rightCfg master off
    else r

/-- Outcome of the check of a memory request. -/
inductive Chk
  | ok
  | denied (target unit_ : Nat)
  | unbacked
  deriving DecidableEq, Repr

/-- The 4 KiB pages a range touches. -/
def pagesOf (a n : Nat) : List Nat := rangeFrom (a / 4096) ((a + max n 1 - 1) / 4096 + 1 - a / 4096)

/-- Only shepherd cores and the MSP, which own them, write the fixed regions of fold SRAM and reach the register space
(R339, R344; log entry 9). -/
def firmwareMaster (m : Nat) : Bool :=
  match masterClass m with
  | .shepherd => true
  | .msp => true
  | _ => false

/-- A master that may write a region of fold SRAM: anyone the general one, of the masters the tables judge only the MSP the column table (R82),
and firmware the others (R344; log entry 9). -/
def ownsRegion (r : SramRegion) (m : Nat) : Bool :=
  match r with
  | .general => true
  | .columnTable => masterClass m = .msp
  | _ => firmwareMaster m

/-- Judge a module-memory request as a whole (R364, R365, R344, R339). -/
def State.memCheck (s : State) (master right a n : Nat) : Chk :=
  let ps := pagesOf a n
  let places := ps.map fun p => placeOf s.stripe (p * 4096)
  if places.any (· == .unbacked) || 2 ^ 40 < a + n then .unbacked
  else
    let bad := (List.range 10).find? fun t =>
      let mine := ps.filter fun p => (placeOf s.stripe (p * 4096)).target = some t
      mine != [] && !s.aclAllows t right master (mine.headD 0) (mine.getLastD 0)
    match bad with
    | some t => .denied t (a / 4096)
    | none =>
      let fixed := places.any fun p => match p with
        | .sram _ o => (right = rightW || right = rightAtomic) && !ownsRegion (sramRegion o) master
        | .regs _ => !firmwareMaster master
        | _ => false
      if fixed then (match places.headD .unbacked with
        | .sram f _ => .denied (8 + f) (a / 4096)
        | .regs off => .denied (20 + (regBlock off).1) ((regBlock off).2 / 4096)
        | .stack k _ => .denied k (a / 4096)
        | .unbacked => .denied 0 (a / 4096))
      else .ok

/-- The effects of a refused request (R339, R364). -/
def State.refuse (s : State) (c : Chk) (right master a : Nat) : State :=
  match c with
  | .ok => s
  | .denied t u => s.deny t right master u
  | .unbacked => s.eventF (if sramBase 1 ≤ a then 1 else 0) 0x46 0 1

/-- The line a module-local address lies in, as the key of its marks. -/
def State.lineKey (s : State) (a : Nat) : Option Nat := ((placeOf s.stripe a).key).map (· / 64)

/-- The errors of a poisoned line: on a stack each check symbol XORed with 0xA5, in fold SRAM the poison bit (R348). -/
def poisonErrs : Errs := (rangeFrom 64 8).map fun i => (i, 0xA5)
def sramPoison : Errs := [(8, 1)]

/-- The decoder beyond its guarantee (R345; log entry 143). -/
def beyond (line : Nat) (es : Errs) : Mark :=
  match Config.beyond line es with
  | none => .bad
  | some (f, bs) => .wrong f bs

/-- What the RS(72, 64) decoder makes of a stack line (R345, R348); `zero` says that its data symbols are all zero. -/
def stackMark (line : Nat) (zero : Bool) (es : Errs) : Mark :=
  if es.length = 0 then .good
  else if es.length ≤ 3 then .fixed ((es.getLast?.map (·.1)).getD 0)
  else if es = poisonErrs && zero then .poison
  else if es.length ≤ 5 then .bad
  else beyond line es

/-- What the SECDED decoders of the words of a fold SRAM line make of it, and its poison bit (R347, R348). -/
def sramMark (line : Nat) (es : Errs) : Mark :=
  if es.length = 0 then .good
  else if es.any fun e => e.1 = 8 then .poison
  else if es.any fun e => popcount 72 e.2 = 2 then .bad
  else if es.any fun e => 2 < popcount 72 e.2 then beyond line es
  else .fixed es.length

/-- The line of its channel that a stack offset lies in. -/
def channelLine (o : Nat) : Nat := (channelOf o).2 / 64

/-- What an unlisted line holds: a valid codeword, or poison where a migration from a silent channel lost the line (R359, R361). -/
def State.errDefault (s : State) : Place → Errs
  | .stack k o =>
    match mapGet none s.mem.blank (32 * k + (channelOf o).1) with
    | some n => if n ≤ channelLine o then poisonErrs else []
    | none => []
  | _ => []

/-- The errors of a line. -/
def State.errsIn (s : State) (p : Place) : Errs :=
  match p.key with
  | some key => mapGet (s.errDefault p) s.mem.errs (key / 64)
  | none => []

/-- The data bytes of a line by its key are all zero. -/
def State.zeroLine (s : State) (line : Nat) : Bool := (List.range 64).all fun i => memByte s.mem.cells (64 * line + i) = 0

/-- The physical channel that serves a logical channel of a stack. -/
def State.pch (s : State) (k c : Nat) : Nat := s.fld (0x1401000 + 128 * k + 4 * c) 4 0

/-- A physical channel no longer answers. -/
def State.silent (s : State) (k p : Nat) : Bool := mapGet false s.mem.silent (32 * k + p)

/-- What a read makes of the line of a place: a line of an unmapped logical channel reads as poisoned (R361), and a channel that no longer
answers gives no line. -/
def State.markIn (s : State) (p : Place) : Mark :=
  match p with
  | .stack k o =>
    let c := (channelOf o).1
    let line := (2 ^ 37 * k + o) / 64
    if mapGet false s.mem.unmapped (32 * k + c) then .poison
    else if s.silent k (s.pch k c) then .bad
    else stackMark line (s.zeroLine line) (s.errsIn p)
  | .sram f o => sramMark ((2 ^ 40 + 2 ^ 28 * f + o) / 64) (s.errsIn p)
  | _ => .good

def State.mark (s : State) (a : Nat) : Mark := s.markIn (placeOf s.stripe a)

def Mark.lost : Mark → Bool
  | .poison => true
  | .bad => true
  | _ => false

/-- The migration that copies a logical channel of a stack now. -/
def State.copying (s : State) (k c : Nat) : Option Mig := (mapGet none s.mem.migs k).filter fun m => !m.off && m.lch = c

/-- What an unlisted line of a channel that serves no logical channel holds: a valid codeword, or poison where a migration to it has copied a
lost line. -/
def State.spareDefault (s : State) (k p line : Nat) : Errs :=
  match mapGet none s.mem.migs k with
  | some m =>
    match m.lostFrom with
    | some n => if !m.off && m.pch = p && n ≤ line && line < m.lines then poisonErrs else []
    | none => []
  | none => []

/-- The errors of a line of a physical channel that serves no logical channel. -/
def spareKey (k p line : Nat) : Nat := 2 ^ 26 * (32 * k + p) + line
def State.spareErrs (s : State) (k p line : Nat) : Errs := mapGet (s.spareDefault k p line) s.mem.spare (spareKey k p line)

def State.setSpare (s : State) (k p line : Nat) (es : Errs) : State :=
  { s with mem := { s.mem with spare := mapSet (s.spareDefault k p line) s.mem.spare (spareKey k p line) es } }

/-- The line of a place gets a codeword with errors; a write to a channel under migration goes to both channels (R359). -/
def State.setErrsIn (s : State) (es : Errs) (p : Place) : State :=
  match p.key with
  | none => s
  | some key =>
    let s1 := { s with mem := { s.mem with errs := mapSet (s.errDefault p) s.mem.errs (key / 64) es } }
    match p with
    | .stack k o =>
      match s.copying k (channelOf o).1 with
      | some m => s1.setSpare k m.pch (channelLine o) es
      | none => s1
    | _ => s1

def State.setErrs (s : State) (a : Nat) (es : Errs) : State := s.setErrsIn es (placeOf s.stripe a)

/-- A line is written with a valid codeword. -/
def State.setGood (s : State) (a : Nat) : State := s.setErrs a []

/-- The 64-byte lines a range touches, by first address. -/
def linesOf (a n : Nat) : List Nat :=
  if n = 0 then [] else (rangeFrom (a / 64) ((a + n - 1) / 64 + 1 - a / 64)).map (· * 64)

/-- The byte that a read of a place returns. -/
def State.byteIn (s : State) (p : Place) : Byte :=
  match p.key with
  | none => 0
  | some key =>
    match s.markIn p with
    | .wrong _ bs => bs.getD (key % 64) 0
    | _ => memByte s.mem.cells key

/-- The bytes of a range without any effect. -/
def State.peek (s : State) (a n : Nat) : List Byte := (List.range n).map fun i => s.byteIn (placeOf s.stripe (a + i))

/-- A range holds a poisoned or uncorrectable line. -/
def State.rangeBad (s : State) (a n : Nat) : Bool := (linesOf a n).any fun l => (s.mark l).lost

/-- Where MEM_UE says an error lies (Table 10-10). -/
def State.ueInfo (s : State) : Place → Nat
  | .stack k o => 2 ^ 25 * k + 2 ^ 20 * s.pch k (channelOf o).1
  | .sram f _ => 2 ^ 25 * f + 2 ^ 19
  | _ => 0

/-- Log the first uncorrectable error (R351, Table 10-10). -/
def State.logUe (s : State) (kind master a : Nat) : State :=
  if s.bit 0x1400030 31 then s
  else
    let info := s.ueInfo (placeOf s.stripe a)
    (((s.setReg 0x1400030 (BitVec.ofNat 32 (2 ^ 31 + 2 ^ 28 * kind + info + master % 65536))).setReg 0x1400034
      (BitVec.ofNat 32 (a / 64 * 64))).setReg 0x1400038 (BitVec.ofNat 32 (a / 2 ^ 32 % 256))).raiseIrq 5

/-- Free spare channels of a stack (R338). -/
def State.spares (s : State) (k : Nat) : List Nat :=
  (List.range 32).filter fun p => !s.bit (0x1402000 + 128 * k + 4 * p) 31 &&
    (List.range 30).all fun c => s.pch k c != p

/-- The state of a stack as MEM_STK_STAT reports it, from its channels. -/
def State.refreshStack (s : State) (k st : Nat) : State :=
  let off := 0x1400100 + 4 * k
  let free := (s.spares k).length - (match mapGet none s.mem.migs k with | some m => b2n !m.off | none => 0)
  let ret := ((List.range 32).filter fun p => s.bit (0x1402000 + 128 * k + 4 * p) 31).length
  let cap := 120 - 4 * ((List.range 30).filter fun c => mapGet false s.mem.unmapped (32 * k + c)).length
  let prog := match mapGet none s.mem.migs k with | some m => m.lines * 64 / 2 ^ 20 | none => 0
  s.setReg off (BitVec.ofNat 32 (2 ^ 28 * st + 2 ^ 26 * (min free 2) + 2 ^ 20 * ret + cap * 2 ^ 13 + prog))

/-- Retirement of the channel that serves a logical channel begins: a migration to a free spare, or, with no spare, a
degraded stack flagged for drain, whose channel is unmapped where it no longer answers (R358, R361). -/
def State.retireChannel (s : State) (k c : Nat) : State :=
  let p := s.pch k c
  if (mapGet none s.mem.migs k).isSome then s
  else
    match s.spares k with
    | d :: _ =>
      let s1 := { s with mem := { s.mem with migs := mapSet none s.mem.migs k (some { lch := c, pch := d }) } }
      let s2 := (s1.setFld (0x1401000 + 128 * k + 4 * c) 9 5 d).setBit (0x1401000 + 128 * k + 4 * c) 30
      s2.refreshStack k 3
    | [] =>
      let s1 := if !s.silent k p then s
        else ({ s with mem := { s.mem with unmapped := mapSet false s.mem.unmapped (32 * k + c) true } } : State).clrBit
          (0x1401000 + 128 * k + 4 * c) 31
      let s2 := { s1 with mem := { s1.mem with degraded := mapSet false s1.mem.degraded k true } }
      ((s2.refreshStack k 4).raiseFault 3 0x0203 (k * 32 + p) []).drain true

/-- The logical channel that a physical channel serves. -/
def State.channelServed (s : State) (k p : Nat) : Option Nat := (List.range 30).find? fun c => s.pch k c = p

/-- A physical channel is marked retired, for good (R358, R360). -/
def State.markRetired (s : State) (k p : Nat) : State :=
  let s1 := s.setBit (0x1402000 + 128 * k + 4 * p) 31
  { s1 with mem := { s1.mem with retired := mapSet false s1.mem.retired (32 * k + p) true } }

/-- A physical channel is to be retired (R358): one that serves a logical channel by migration, after the migration that runs in its stack;
a free spare by being marked so. -/
def State.orderRetire (s : State) (k p : Nat) : State :=
  if s.bit (0x1402000 + 128 * k + 4 * p) 31 || s.mem.retireWait.contains (32 * k + p) then s
  else
    let target := (mapGet none s.mem.migs k).any fun m => m.pch = p
    match s.channelServed k p with
    | some c =>
      if (mapGet none s.mem.migs k).any fun m => m.lch = c then s
      else if (mapGet none s.mem.migs k).isSome then { s with mem := { s.mem with retireWait := s.mem.retireWait ++ [32 * k + p] } }
      else s.retireChannel k c
    | none =>
      if target then { s with mem := { s.mem with retireWait := s.mem.retireWait ++ [32 * k + p] } }
      else
        let s1 := s.markRetired k p
        s1.refreshStack k (s1.fld (0x1400100 + 4 * k) 31 28)

/-- A corrected read of a physical channel (R346), with its threshold. -/
def State.correctedRead (s : State) (k p sym : Nat) : State :=
  let off := 0x1402000 + 128 * k + 4 * p
  let s1 := ((s.satAdd off 23 0 1).setFld off 30 24 sym).eventF (foldOf k) 0x42 (k % 4) 1
  let r := s1.threshold 0 (k * 32 + p) 1
  if r.1 then r.2.orderRetire k p else r.2

/-- n words of a fold SRAM corrected (R347), with their threshold. -/
def State.correctedSram (s : State) (f n : Nat) : State :=
  let r := (s.eventF f 0x47 0 n).threshold 12 f n
  if r.1 then r.2.drain false else r.2

/-- What a read of a line takes account of (R346, R347, R351): corrections, poison and uncorrectable errors. -/
def State.noteRead (s : State) (kind master a : Nat) (m : Mark) : Place → State
  | .stack k o =>
    match m with
    | .good => s
    | .fixed sym => s.correctedRead k (s.pch k (channelOf o).1) sym
    | .wrong (some sym) _ => s.correctedRead k (s.pch k (channelOf o).1) sym
    | .wrong none _ => s
    | .poison => s.eventF (foldOf k) 0x44 (k % 4) 1
    | .bad => (s.eventF (foldOf k) 0x43 (k % 4) 1).logUe kind master a
  | .sram f _ =>
    match m with
    | .fixed n => s.correctedSram f n
    | .wrong (some _) _ => s.correctedSram f 1
    | .bad => s.logUe kind master a
    | _ => s
  | _ => s

/-- An event counted for the stack of a place, if it is one. -/
def State.stackEvent (s : State) (src : Nat) : Place → State
  | .stack k _ => s.eventF (foldOf k) src (k % 4) 1
  | _ => s

/-- One line read at its place. -/
def State.readLineIn (s : State) (kind master a : Nat) (p : Place) : State :=
  (s.stackEvent 0x40 p).noteRead kind master a (s.markIn p) p

def State.readLine (s : State) (kind master a : Nat) : State := s.readLineIn kind master a (placeOf s.stripe a)

/-- The fold die where the requests of a master originate (R17, R390; log entry 85). -/
def masterDie (m : Nat) : Nat :=
  let i := m % 4096
  match masterClass m with
  | .hostPf => i % 2
  | .hostVf => i / 64 % 2
  | .shepherd => i / 16 % 2
  | .drover => i / 20 % 2
  | .shearer => i / 4 % 2
  | .dma => 0
  | .msp => 0
  | .reserved => 0
  | .remote => 0

/-- Tags of a fold die that are in use between commands: those of fabric requests that are out (R362). -/
def State.tagsHeld (s : State) (f : Nat) : Nat := (s.fab.reqs.filter fun r => r.die = f).length

/-- A tag of a fold die is taken: the highest count in use (Table 10-9). -/
def State.noteTag (s : State) (f : Nat) : State :=
  let off := 0x1400028 + 4 * f
  s.setFld off 28 16 (max (s.fld off 28 16) (min (s.tagsHeld f + 1) 4096))

/-- Read a range of module memory with every effect of the read. Its tag is given back when the data have returned (R362). -/
def State.readMem (s : State) (kind master a n : Nat) : List Byte × Bool × State :=
  (s.peek a n, s.rangeBad a n, (linesOf a n).foldl (fun t l => t.readLine kind master l) (s.noteTag (masterDie master)))

/-- The memory with a byte under a key, if any. -/
def putByteAt (m : List Host.Cell) (b : Byte) : Option Nat → List Host.Cell
  | some k => memSetByte m k b
  | none => m

/-- Store bytes whatever the marks of their lines, one by one at rising addresses. -/
def pokeCells (z : Nat) (m : List Host.Cell) (a : Nat) : List Byte → List Host.Cell
  | [] => m
  | b :: bs => pokeCells z (putByteAt m b (placeOf z a).key) (a + 1) bs

def State.poke (s : State) (a : Nat) (bs : List Byte) : State :=
  { s with mem := { s.mem with cells := pokeCells s.stripe s.mem.cells a bs } }

/-- A line becomes poisoned; a stack line then holds all-zero data (R348). -/
def State.poisonLine (s : State) (l : Nat) : State :=
  if (placeOf s.stripe l).onStack then (s.poke l (List.replicate 64 0)).setErrs l poisonErrs else s.setErrs l sramPoison

/-- A place on an unmapped logical channel (R361). -/
def State.unmappedIn (s : State) : Place → Bool
  | .stack k o => mapGet false s.mem.unmapped (32 * k + (channelOf o).1)
  | _ => false

/-- Write the part of a range that lies in one line: a whole line replaces it, a part is read, merged and written, and a part of a lost
line is dropped and leaves it poisoned (R350); an unmapped channel drops writes (R361). -/
def State.writeLine (s : State) (master a : Nat) (bs : List Byte) : State :=
  let l := a / 64 * 64
  let p := placeOf s.stripe a
  let s0 := s.stackEvent 0x41 p
  if bs.length = 64 then (if s.unmappedIn p then s0 else (s0.poke a bs).setGood l)
  else
    let s1 := s0.noteRead 3 master l (s.mark l) p
    match s.mark l with
    | .poison => s1.stackEvent 0x45 p
    | .bad => (s1.poisonLine l).stackEvent 0x45 p
    | .wrong _ d => ((s1.poke l (padTo 64 0 d)).poke a bs).setGood l
    | _ => (s1.poke a bs).setGood l

/-- Write a range line by line. The fuel is the number of lines. -/
def State.writeLines (s : State) (master : Nat) : Nat → Nat → List Byte → State
  | 0, _, _ => s
  | fuel + 1, a, bs =>
    if bs.isEmpty then s
    else
      let n := 64 - a % 64
      (s.writeLine master a (bs.take n)).writeLines master fuel (a + n) (bs.drop n)

/-- Write bytes to module memory. The tag is given back when the controller has accepted the write (R362). -/
def State.writeMem (s : State) (master a : Nat) (bs : List Byte) : State :=
  (s.noteTag (masterDie master)).writeLines master (bs.length / 64 + 2) a bs

/-- Write the lines a range touches as poisoned (R349). -/
def State.poisonLines (s : State) (a n : Nat) : State := (linesOf a n).foldl (fun t l => t.poisonLine l) s

/-- A descriptor address (Table 11-4). -/
inductive DAddr
  | mod (a : Nat)
  | glob (a : Nat)
  | host (a : Nat)
  | bad
  deriving DecidableEq, Repr

def daddr (w : Nat) : DAddr :=
  match fld w 63 62 with
  | 0 => .mod (w % 2 ^ 40)
  | 1 => .glob (w % 2 ^ 54)
  | 2 => .host (w % 2 ^ 62)
  | _ => .bad

/-- A module-local or host address, the spaces a field takes unless it says otherwise (R373). -/
def localOrHost (w : Nat) : Bool :=
  match daddr w with
  | .mod _ => true
  | .host _ => true
  | _ => false

/-- Offset added to a descriptor address within its space. -/
def DAddr.plus (d : DAddr) (n : Nat) : DAddr :=
  match d with
  | .mod a => .mod (a + n)
  | .glob a => .glob (a + n)
  | .host a => .host (a + n)
  | .bad => .bad

def DAddr.off (d : DAddr) : Nat :=
  match d with
  | .mod a => a
  | .glob a => a
  | .host a => a
  | .bad => 0

def State.linkUp (s : State) (l : Nat) : Bool := if l = 0 then s.host.up0 else s.host.up1

/-- The requester of a descriptor's accesses: master ID and host link (R374, R376). -/
structure Who where
  master : Nat
  link : Nat
  deriving DecidableEq, Repr

/-- What a request came to: data (lost where a line was), denied, or cut by the loss of the link. -/
inductive Got
  | data (bs : List Byte) (lost : Bool)
  | denied
  | linkLost
  deriving DecidableEq, Repr

/-- One read request at a descriptor address. -/
def State.request (s : State) (w : Who) (kind : Nat) (d : DAddr) (n : Nat) : Got × State :=
  match d with
  | .mod a =>
    match s.memCheck w.master rightR a n with
    | .ok =>
      let r := s.readMem kind w.master a n
      (.data r.1 r.2.1, r.2.2)
    | c => (.denied, s.refuse c rightR w.master a)
  | .host a =>
    let c := s.aclCheck (34 + w.link) rightR w.master (a / 4096) ((a + max n 1 - 1) / 4096)
    if !c.1 then (.denied, c.2)
    else if !s.linkUp w.link then (.linkLost, c.2)
    else (.data (memReadAt s.mem.host a n) false, c.2)
  | _ => (.denied, s)

/-- One write request at a descriptor address. Writes to host memory are dropped while the link is down (R398). -/
def State.store (s : State) (w : Who) (d : DAddr) (bs : List Byte) : Got × State :=
  match d with
  | .mod a =>
    match s.memCheck w.master rightW a bs.length with
    | .ok => (.data [] false, s.writeMem w.master a bs)
    | c => (.denied, s.refuse c rightW w.master a)
  | .host a =>
    let c := s.aclCheck (34 + w.link) rightW w.master (a / 4096) ((a + max bs.length 1 - 1) / 4096)
    if !c.1 then (.denied, c.2)
    else if !s.linkUp w.link then (.linkLost, c.2)
    else (.data [] false, { c.2 with mem := { c.2.mem with host := memWriteAt c.2.mem.host a bs } })
  | _ => (.denied, s)

end Sys2Proof.Machine
end

