-- ==== Sys2Proof/Machine/Telemetry.lean ====
section
/-! DEFINITION. Latching the event counters and the telemetry ring (R542, R545 to R548), and the close of a step (R263). -/

namespace Sys2Proof.Machine

/-- Shearer unit k. -/
def State.shr (s : State) (k : Nat) : Shr := mapGet {} s.shrs k
def State.setShr (s : State) (k : Nat) (x : Shr) : State := { s with shrs := mapSet {} s.shrs k x }

/-- The dies a mask names, by ascending die code: P0 to P7, F0, F1. -/
def diesOf (mask : Nat) : List Nat := bitsSet 10 mask

/-- The counter words of the named dies: value, index and die (Table 11-11). -/
def State.cntWords (s : State) (mask : Nat) : List Nat :=
  (diesOf mask).flatMap fun d => (List.range (cntCount d)).map fun i =>
    mapGet 0 s.cnt.val (64 * d + i) + 2 ^ 48 * i + 2 ^ 56 * d

/-- Set the counters of the named dies that a predicate selects to 0 (R542). -/
def State.cntClear (s : State) (mask : Nat) (f : Nat → Nat → Bool) : State :=
  { s with cnt := { s.cnt with val := (diesOf mask).foldl (fun m d =>
      (List.range (cntCount d)).foldl (fun m i => if f d i then mapErase m (64 * d + i) else m) m) s.cnt.val } }

/-- The requester of the MSP's host accesses (R374). -/
def State.mspWho (s : State) : Who := ⟨mspMaster, s.fld oIrqRoute 0 0⟩

/-- The snapshot of a close is written into the ring (R545, R546); a refused or poisoned write turns the ring off (R548). The buffer writes until
the next cycle. -/
def State.ringWrite (s : State) (kind decision : Nat) : State :=
  let ctl := s.reg 0x1C0A004
  let mask := wfld ctl 25 16
  let ws := s.cntWords mask
  let seq := (s.reg 0x1C0A010).toNat
  let slots := if wfld ctl 15 0 = 0 then 65536 else wfld ctl 15 0
  let size := 64 * ceilDiv (32 + 8 * ws.length) 64
  let hdr := leBytes 8 s.ts ++ leBytes 4 s.stepNo ++ leBytes 2 mask ++ leBytes 2 ws.length ++ leBytes 1 kind ++
    leBytes 1 decision ++ leBytes 2 0 ++ leBytes 4 seq ++ leBytes 8 0
  let bs := hdr ++ ws.flatMap (leBytes 8)
  let base := daddr (2 ^ 32 * (s.reg 0x1C0A00C).toNat + 4096 * ((s.reg 0x1C0A008).toNat / 4096))
  let s1 := s.cntClear mask fun d i => s.bit (cntCfg d i) 27
  let s0 := { s1 with cnt := { s1.cnt with ringBusy := true } }
  let a := base.plus (seq % slots * size)
  let lost := match a with | .mod x => s.rangeBad x bs.length | _ => false
  let r := s0.store s.mspWho a bs
  match r.1, lost with
  | .data _ _, false => r.2.setReg 0x1C0A010 (BitVec.ofNat 32 (seq + 1))
  | _, _ => (r.2.clrBit 0x1C0A004 31).setBit 0x1C0A014 31

/-- A record of the telemetry ring at the close of a step (kind 0) or a pass (kind 1); where no cycle has passed since the last, a free value
says whether the snapshot buffer still writes it, and the snapshot is lost (R545, R547; log entry 174). -/
def State.ringRecord (s : State) (kind decision : Nat) : State :=
  if !s.bit 0x1C0A004 31 || s.failSafe then s
  else if !s.cnt.ringBusy then s.ringWrite kind decision
  else
    let v := s.takeFree
    if v.1 % 2 = 1 then v.2.satAdd 0x1C0A014 15 0 1 else v.2.ringWrite kind decision

def State.die (s : State) (p : Nat) : Die := mapGet {} s.dies p
def State.port (s : State) (p : Nat) : Port := (s.die p).port

/-- PST_DIE_CTL.QUIESCE (Table 3-14). -/
def State.quiesced (s : State) (p : Nat) : Bool := s.bit (pst p + 0x10) 12

/-- A step is in progress: from STEP_BEGIN until the last descriptor of the step completes (R136). -/
def State.stepOpen (s : State) : Bool := s.trn.opened

/-- A maintenance window of a die: RUN with no step in progress, or QUIESCE; an evaluation opens none (R136). -/
def State.maintenance (s : State) (p : Nat) : Bool :=
  (s.die p).state = .run && !s.trn.evalOpen && (!s.stepOpen || s.quiesced p)

/-- A PROGRAM phase of a die is open (R136). -/
def State.phaseOpen (s : State) (p : Nat) : Bool :=
  (s.die p).state = .run && !s.trn.evalOpen && (s.port p).flush.isSome

/-- A requester may be granted in the die's state (R136, R137, R145). -/
def State.permitted (s : State) (p i : Nat) : Bool :=
  !s.failSafe && !s.trn.evalOpen &&
  match (s.die p).state with
  | .hold => i = 1 || i = 2
  | .run => if i = 4 then s.maintenance p else s.phaseOpen p || s.maintenance p
  | _ => false

/-- A COLUMN_RESCALE executes: a column of it is under a rescale scope, or its die's port is open to it; else it waits for a window
(R146, R264). -/
def State.rescaleRuns (s : State) (c ptr : Nat) : Bool :=
  (List.range 8).any fun p => (s.port p).jobs.any fun j =>
    (match j.desc with | some (a, b, _) => a = c && b = ptr | none => false) &&
    (s.permitted p 1 || (s.port p).scopes.any fun sc => sc.owner = 1 && sc.tile = j.tile && sc.col = j.col)

def State.pdUpd (s : State) (i b : Nat) (f : PdCopy → PdCopy) : State :=
  { s with save := { s.save with copies := mapUpd {} s.save.copies (2 * i + b) f } }

/-- A step is committed, as both copies of the wear counters will be told at a restore (R141). -/
def State.noteCommit (s : State) : State :=
  if !s.save.live then s
  else [0, 1].foldl (fun t b => t.pdUpd 3 b fun c => { c with steps := c.steps + 1 }) s

/-- A window in which cells of a die were pulsed ends (R141). -/
def State.noteWindow (s : State) (p : Nat) : State :=
  if !s.save.live || (s.die p).pulsed = [] then s
  else [0, 1].foldl (fun t b => t.pdUpd 3 b fun c => { c with wins := mapUpd 0 c.wins p (· + 1) }) s

/-- A step or pass opens or closes: no read of a die has started in the next (R154); a window opens or ends on every die that is not
quiesced, whose window goes on, and columns pulsed in the next count anew (R136, R140). -/
def State.newWindows (s : State) : State :=
  (List.range 8).foldl (fun (t : State) p =>
    let u := if t.quiesced p then t else t.noteWindow p
    { u with dies := mapUpd {} u.dies p fun d => { d with stepRead := false, pulsed := if u.quiesced p then d.pulsed else [] } }) s

/-- The open step closes: a ring record is written, and the step registers report no step (R263, R545). -/
def State.closeStep (s : State) : State :=
  let t := (s.ringRecord 0 s.trn.decision).newWindows
  { (t.setReg oStepStat (BitVec.ofNat 32 (t.fld oStepStat 23 12 * 4096))) with
      trn := { t.trn with opened := false, barrier := none, dropped := [], loans := [] } }

end Sys2Proof.Machine
end

