-- ==== Sys2Proof/Machine/Rings.lean ====
section
/-! DEFINITION. Contexts and rings: configuration, doorbells, fetch, completion entries and their interrupts (R375 to
R388, R396, R397). -/

namespace Sys2Proof.Machine

def ctxBase (c : Nat) : Nat := 0x200000 + 64 * c

def State.ctx (s : State) (c : Nat) : Ctx := mapGet {} s.host.ctxs c

def State.setCtx (s : State) (c : Nat) (x : Ctx) : State :=
  { s with host := { s.host with ctxs := mapSet {} s.host.ctxs c x } }

/-- CTX_CTL fields (Table 11-18). -/
def State.ctxCtl (s : State) (c hi lo : Nat) : Nat := s.fld (ctxBase c + 16) hi lo
def State.ctxLink (s : State) (c : Nat) : Nat := s.ctxCtl c 22 22
def State.ctxFunc (s : State) (c : Nat) : Nat := s.ctxCtl c 21 16
def State.sqSize (s : State) (c : Nat) : Nat := 2 ^ (s.ctxCtl c 7 4 + 4)
def State.cqSize (s : State) (c : Nat) : Nat := 2 ^ (s.ctxCtl c 3 0 + 4)

/-- The master ID a context's accesses are judged under (R376). -/
def State.ctxMaster (s : State) (c : Nat) : Nat :=
  let f := s.ctxFunc c
  if f = 0 then s.fld (ctxBase c + 20) 15 0 else 0x1000 + s.ctxLink c * 64 + f

def State.ctxWho (s : State) (c : Nat) : Who := ⟨s.ctxMaster c, s.ctxLink c⟩

def State.sqAddr (s : State) (c : Nat) : DAddr :=
  daddr (2 ^ 32 * (s.reg (ctxBase c + 4)).toNat + 4096 * ((s.reg (ctxBase c)).toNat / 4096))

def State.cqAddr (s : State) (c : Nat) : DAddr :=
  daddr (2 ^ 32 * (s.reg (ctxBase c + 12)).toNat + 4096 * ((s.reg (ctxBase c + 8)).toNat / 4096))

/-- Header fields of a descriptor (Table 11-6). -/
def Desc.op (d : Desc) : Nat := leAt d.bytes 0 1
def Desc.b1 (d : Desc) : Nat := leAt d.bytes 1 1
def Desc.chain (d : Desc) : Bool := d.b1.testBit 2
def Desc.fenceBefore (d : Desc) : Bool := d.b1.testBit 1
def Desc.irq (d : Desc) : Bool := d.b1.testBit 0
def Desc.tag (d : Desc) : Nat := leAt d.bytes 2 2
def Desc.epoch (d : Desc) : Nat := leAt d.bytes 4 4
def Desc.u8 (d : Desc) (i : Nat) : Nat := leAt d.bytes i 1
def Desc.u16 (d : Desc) (i : Nat) : Nat := leAt d.bytes i 2
def Desc.u32 (d : Desc) (i : Nat) : Nat := leAt d.bytes i 4
def Desc.u64 (d : Desc) (i : Nat) : Nat := leAt d.bytes i 8

/-- Status codes (Table 11-9). -/
def stSuccess : Nat := 0
def stSkipped : Nat := 1
def stChainAborted : Nat := 2
def stAborted : Nat := 3
def stBadVersion : Nat := 0x10
def stUnknownOpcode : Nat := 0x11
def stInvalidField : Nat := 0x12
def stUnsupported : Nat := 0x13
def stDenied : Nat := 0x20
def stDataError : Nat := 0x21
def stLinkLost : Nat := 0x22
def stPhase : Nat := 0x30
def stMismatch : Nat := 0x31
def stNotCommitted : Nat := 0x32
def stTorn : Nat := 0x33
def stTimeout : Nat := 0x34
def stNotInService : Nat := 0x40
def stKernelFault : Nat := 0x41
def stNotResident : Nat := 0x42
def stExhausted : Nat := 0x43
def stBadImage : Nat := 0x44
def stFailSafe : Nat := 0x50

/-- The status a request's outcome ends a descriptor with, where its own rule gives no other (R386). -/
def Got.status : Got → Nat
  | .data _ lost => if lost then stDataError else stSuccess
  | .denied => stDenied
  | .linkLost => stLinkLost

def Got.bytes : Got → List Byte
  | .data bs _ => bs
  | _ => []

/-- The 16 bytes of a completion entry (Table 11-8). -/
def cqEntry (d : Desc) (status sqHead sqGen phase : Nat) : List Byte :=
  d.bytes.drop 8 |>.take 8 |>.append (leBytes 2 d.tag ++ leBytes 2 status ++ leBytes 2 sqHead ++
    leBytes 1 (sqGen * 2 + phase) ++ leBytes 1 d.op)

/-- A context in RUN enters ERROR with a code; in another state it keeps its course; a code already held stays
(R380). -/
def State.ctxError (s : State) (c code : Nat) : State :=
  let x := s.ctx c
  let x1 := if x.err = 0 then { x with err := code } else x
  if x.state = .run then (s.setCtx c { x1 with state := .error }).raiseIrq 7 else s.setCtx c x1

/-- A span that the committed step has left without its whole update (R321). -/
def State.spanLeft (s : State) (k : Nat) : Option Nat :=
  let x := s.shr k
  (List.range x.spans.length).find? fun i =>
    mapGet (0, 0) x.marks i != (s.stepNo + 1, ceilDiv (x.spans.getD i {}).k 60)

/-- The step of a context lost to a reset ends with it: not committed before its decision; after it, units with spans left
without update hold torn state (R403). -/
def State.abandon (s : State) (c : Nat) : State :=
  if !(s.trn.opened && s.trn.ctx = c && s.trn.lostCtx) then s
  else if s.fld oStepStat 31 28 = 4 then
    (List.range 8).foldl (fun t k => match t.spanLeft k with
      | some i => if t.bit (0x1001018 + 64 * k) 27 then t else
          ((t.setBit (0x1001018 + 64 * k) 27).setFld (0x1001018 + 64 * k) 12 0 i).raiseFault 3 0x0503 k [i]
      | none => t) s
  else (({ s with trn := { s.trn with decision := 1 } } : State).eventF 0 0x73 0 1).closeStep

/-- A DRAINING context whose last fetched descriptor has completed becomes DISABLED (R378). -/
def State.settle (s : State) (c : Nat) : State :=
  let x := s.ctx c
  if x.state = .draining ∧ x.infl = [] then (s.setCtx c { x with state := .disabled, discard := false }).abandon c else s

/-- The interrupt of a completion, held back while the context's gap runs (R397). -/
def State.ctxIrq (s : State) (c : Nat) : State :=
  let x := s.ctx c
  if x.gap then s.setCtx c { x with gapPend := true }
  else
    let s1 := s.sendMsi (s.ctxLink c) (s.ctxFunc c) (s.ctxCtl c 27 23)
    if s.fld (ctxBase c + 24) 15 0 = 0 then s1 else s1.setCtx c { x with gap := true }

/-- The completion ring has a free slot (R383). -/
def State.cqFree (s : State) (c : Nat) : Bool :=
  let x := s.ctx c
  let n := s.cqSize c
  (x.cqTail + 2 * n - x.cqHead) % (2 * n) < n

/-- Completions wait while the owning link is down (R398). -/
def State.cqStalled (s : State) (c : Nat) : Bool := (s.ctx c).state = .suspended || !s.linkUp (s.ctxLink c)

/-- A descriptor of the step that only waits for the step to close: a CONFIG_COMMIT, a PROGRAM_DIRECT, and a COLUMN_RESCALE that waits for
a window (R264). -/
def State.awaitsClose (s : State) (c : Nat) (d : Desc) : Bool :=
  d.op = 0x51 || d.op = 0x31 || (d.op = 0x32 && d.started && !s.rescaleRuns c d.ptr)

/-- A PROGRAM_FLUSH of the committed step has completed and nothing else of the step context is in execution (R263, R264). -/
def State.flushCloses (s : State) (c : Nat) (d : Desc) : Bool :=
  d.op = 0x30 && d.step && d.started && s.trn.opened && s.trn.ctx = c && s.fld oStepStat 31 28 = 4 &&
  !(s.ctx c).infl.any fun e => e.started && !s.awaitsClose c e

/-- Bookkeeping once a descriptor counts as completed: it leaves the context, its chain is aborted where it failed
(R385), a failed descriptor of an open step sets the ERR cause (Table 8-11), and the source counts it. -/
def State.retire (s : State) (c : Nat) (d : Desc) (status : Nat) : State :=
  let x := s.ctx c
  let bad := status != stSuccess && status != stSkipped
  let n := 2 * s.sqSize c
  let before := (x.infl.takeWhile (·.ptr != d.ptr)).map (·.ptr)
  let x1 := { x with infl := (x.infl.filter (·.ptr != d.ptr)).map fun e => if before.contains e.ptr && e.tag = d.tag then { e with passed := true } else e,
                     aborts := (x.aborts.filter (· != d.ptr)) ++ (if d.chain && bad then [(d.ptr + 1) % n] else []) }
  let s1 := (s.setCtx c x1).eventF (s.ctxLink c) 0x50 0 1
  let s2 := if bad && d.step && s.trn.opened then
      { s1 with trn := { s1.trn with causes := s1.trn.causes ||| 1 } } else s1
  (if s2.flushCloses c d then s2.closeStep else s2).settle c

/-- Write the completion entry of a descriptor, into the slot at the completion tail with the current phase (R383). A
write that fails consumes its slot (R380). Completions of a context whose functions were reset are discarded (R402). -/
def State.writeCompletion (s : State) (c : Nat) (d : Desc) (status : Nat) : State :=
  let x := s.ctx c
  if x.discard then s.retire c d status
  else
    let n := s.cqSize c
    let idx := x.cqTail % n
    let phase := if x.cqTail < n then 1 else 0
    let f := x.fetch
    let e := cqEntry d status (f % s.sqSize c) (f / s.sqSize c) phase
    let r := s.store (s.ctxWho c) ((s.cqAddr c).plus (16 * idx)) e
    let s1 := r.2.setCtx c { (r.2.ctx c) with cqTail := (x.cqTail + 1) % (2 * n) }
    match r.1 with
    | .data _ _ =>
      let s2 := s1.retire c d status
      if d.irq then s2.ctxIrq c else s2
    | _ => (s1.ctxError c 3).retire c d status

/-- A descriptor completes: its entry is written, or held while the ring is full or the link is down (R383, R398). -/
def State.complete (s : State) (c ptr status : Nat) : State :=
  let x := s.ctx c
  match x.infl.find? (·.ptr = ptr) with
  | none => s
  | some d =>
    if (!s.cqFree c || s.cqStalled c) && !x.discard then
      s.setCtx c { x with infl := x.infl.map fun e => if e.ptr = ptr then { e with held := some status } else e }
    else s.writeCompletion c d status

/-- Held completions of a context written while space and the link allow (R383, R399). -/
def State.releaseHeld (s : State) (c : Nat) : Nat → State
  | 0 => s
  | fuel + 1 =>
    if (!s.cqFree c || s.cqStalled c) && !(s.ctx c).discard then s
    else
      match (s.ctx c).infl.find? (·.held.isSome) with
      | none => s
      | some d => (s.writeCompletion c d (d.held.getD 0)).releaseHeld c fuel

/-- The started descriptor at a ring pointer of a context that a command names. -/
def State.started (s : State) (c ptr : Nat) : Option Desc :=
  (s.ctx c).infl.find? fun d => d.ptr = ptr && d.started && d.held.isNone

/-- Change the descriptor at a ring pointer. -/
def State.updDesc (s : State) (c ptr : Nat) (f : Desc → Desc) : State :=
  let x := s.ctx c
  s.setCtx c { x with infl := x.infl.map fun e => if e.ptr = ptr then f e else e }

/-- Mark a started descriptor as handed to the units that carry it out. -/
def State.working (s : State) (c ptr : Nat) : State := s.updDesc c ptr fun d => { d with working := true }

/-- Descriptors fetched and not completed, over the module (R379). -/
def State.inflightAll (s : State) : Nat := (s.host.ctxs.map fun kv => kv.2.infl.length).foldl (· + ·) 0

/-- A started descriptor of an opcode whose work a command carries out, run by that command: no effect where no such
descriptor has started or its work is already in hand. -/
def State.runDesc (s : State) (c ptr op : Nat) (f : Desc → State → State) : State :=
  match s.started c ptr with
  | some d => if d.op = op && !d.working && !s.failSafe then f d s else s
  | none => s

/-- Contexts exist by number 0 to 4,095. -/
def ctxOk (c : Nat) : Bool := c < 4096

/-- Read a record or list that a descriptor names (R568): its bytes, or the status the descriptor completes with. -/
def State.readRecord (s : State) (w : Who) (addr n : Nat) : (Nat ⊕ List Byte) × State :=
  let r := s.request w 1 (daddr addr) n
  match r.1 with
  | .data bs lost => if lost then (.inl stDataError, r.2) else (.inr bs, r.2)
  | .denied => (.inl stDenied, r.2)
  | .linkLost => (.inl stLinkLost, r.2)

end Sys2Proof.Machine
end

