-- ==== Sys2Proof/Machine/Host.lean ====
section
/-! DEFINITION. Commands of the host interface: doorbells, contexts, descriptor fetch, mailboxes, access tables,
interrupts, link events and function resets (R375 to R403). -/

namespace Sys2Proof.Machine

/-- Registers take host writes: not in module reset, and in the fail-safe state only the two registers of R405. -/
def State.hostWritable (s : State) (off : Nat) : Bool :=
  let st := s.bootState
  let b := (regBlock off).1
  if s.failSafe then off = 0x14 || off = 0x20
  else st = 5 || (st != 0 && (b = 0 || b = 1 || b = 3 || b = 11))

/-- Doorbells are taken: the module is ready and not in the fail-safe state (R404, R405). -/
def State.doorbells (s : State) : Bool := s.ready && !s.failSafe

/-- Contexts whose CTX_CTL has been written. -/
def State.setContexts (s : State) : List Nat :=
  s.regs.filterMap fun kv =>
    if ctxBase 0 ≤ kv.1 ∧ kv.1 < ctxBase 4096 ∧ (kv.1 - ctxBase 0) % 64 = 16 then some ((kv.1 - ctxBase 0) / 64) else none

/-- The context a doorbell page names, where the page belongs to the owning function (R375). -/
def State.pageCtx (s : State) (link func page : Nat) : Option Nat :=
  if func = 0 then (if page < 4096 && s.ctxFunc page = 0 && s.ctxLink page = link then some page else none)
  else s.setContexts.find? fun c => s.ctxLink c = link && s.ctxFunc c = func && s.ctxCtl c 15 10 = page

/-- A doorbell value as a pointer of a ring of size n; none where the index lies beyond the ring (R381). -/
def doorPtr (n v : Nat) : Option Nat :=
  let i := v % 65536
  if i < n then some (fld v 16 16 * n + i) else none

/-- A tail doorbell (R382). -/
def State.tailDoor (s : State) (c v : Nat) : State :=
  let x := s.ctx c
  let n := s.sqSize c
  if x.state = .run ∨ x.state = .suspended then
    match doorPtr n v with
    | none => s.ctxError c 1
    | some t =>
      let p := (x.tail + 2 * n - x.fetch) % (2 * n)
      let d := (t + 2 * n - x.fetch) % (2 * n)
      if n < d then s.ctxError c 1
      else if d < p then s.eventF (s.ctxLink c) 0x51 0 1
      else s.setCtx c { x with tail := t }
  else s.eventF (s.ctxLink c) 0x51 0 1

/-- A head doorbell, against the completion tail; accepted space releases held completions (R382, R383). -/
def State.headDoor (s : State) (c v : Nat) : State :=
  let x := s.ctx c
  let n := s.cqSize c
  if x.state = .disabled then s
  else
    match doorPtr n v with
    | none => s.ctxError c 1
    | some h =>
      let unread := (x.cqTail + 2 * n - x.cqHead) % (2 * n)
      let d := (h + 2 * n - x.cqHead) % (2 * n)
      if d ≤ unread then (s.setCtx c { x with cqHead := h }).releaseHeld c 256
      else if d ≤ n then s.ctxError c 1
      else s.eventF (s.ctxLink c) 0x51 0 1

def State.doorbell (s : State) (link func page : Nat) (f : State → Nat → State) : State :=
  if !s.doorbells then s
  else
    match s.pageCtx link func page with
    | some c => f s c
    | none => s.eventF link 0x52 0 1

def execDoorbellTail (link func page v : Nat) (s : State) : Res :=
  onUnit (link < 2 && func < 64) (s.doorbell link func page fun s c => s.tailDoor c v)

def execDoorbellHead (link func page v : Nat) (s : State) : Res :=
  onUnit (link < 2 && func < 64) (s.doorbell link func page fun s c => s.headDoor c v)

/-- The limits of R379 leave room for the next announced descriptor. -/
def State.mayFetch (s : State) (c : Nat) : Bool :=
  let x := s.ctx c
  x.state = .run && x.fetch != x.tail && decide (x.infl.length < 256) && decide (s.inflightAll < 8192)

/-- A fetched descriptor joins its context. -/
def State.takeDesc (s : State) (c : Nat) (bs : List Byte) : State :=
  let y := s.ctx c
  s.setCtx c { y with fetch := (y.fetch + 1) % (2 * s.sqSize c), infl := y.infl ++ [{ ptr := y.fetch, bytes := bs }] }

/-- Fetch the next announced descriptor, and whether the fetch goes on; a failed ring read is code 2 (R380). -/
def State.fetchOne (s : State) (c : Nat) : Bool × State :=
  if !s.mayFetch c then (false, s)
  else
    let r := s.request (s.ctxWho c) 1 ((s.sqAddr c).plus (64 * ((s.ctx c).fetch % s.sqSize c))) 64
    match r.1 with
    | .data bs false => (true, r.2.takeDesc c bs)
    | _ => (false, r.2.ctxError c 2)

/-- Fetch announced descriptors (R379). -/
def State.fetchRing (s : State) (c : Nat) : Nat → State
  | 0 => s
  | fuel + 1 => if (s.fetchOne c).1 then (s.fetchOne c).2.fetchRing c fuel else (s.fetchOne c).2

def execDescriptorFetch (c : Nat) (s : State) : Res :=
  onUnit (ctxOk c) (if s.failSafe then s else s.fetchRing c 256)

def execIrqGapExpiry (c : Nat) (s : State) : Res :=
  let x := s.ctx c
  onUnit (ctxOk c)
    (if !x.gap then s
     else if x.gapPend then
       (s.setCtx c { x with gapPend := false }).sendMsi (s.ctxLink c) (s.ctxFunc c) (s.ctxCtl c 27 23)
     else s.setCtx c { x with gap := false })

/-- A vector is unmasked with its function's MSI-X enabled: a pending message is sent (R396). -/
def State.msixOpen (s : State) (link func vec : Nat) : State :=
  let k := link * 64 + func
  let m := mapGet {} s.host.msix k
  let pend := m.pend.testBit vec && !s.failSafe
  let m' : Msix := { open_ := m.open_ ||| 2 ^ vec, pend := if pend then m.pend - 2 ^ vec else m.pend }
  let s1 := { s with host := { s.host with msix := mapSet {} s.host.msix k m' } }
  if pend then s1.emit (.msi link func vec) else s1

def execMsixUnmask (link func vec : Nat) (s : State) : Res :=
  onUnit (link < 2 && func < 64 && vec < 32) (s.msixOpen link func vec)

/-- The error code an EN write takes (R375, R376, R380, R396, R404); 0 where the configuration is valid. -/
def State.enableErr (s : State) (c : Nat) : Nat :=
  let f := s.ctxFunc c
  let cls := masterClass (s.fld (ctxBase c + 20) 15 0)
  let space (off : Nat) := s.fld off 31 30
  let okSpace (off : Nat) := space off = 0 || space off = 2
  if f != 0 && s.setContexts.any (fun d => d != c && (s.ctx d).state != .disabled && s.ctxLink d = s.ctxLink c &&
      s.ctxFunc d = f && s.ctxCtl d 15 10 = s.ctxCtl c 15 10) then 4
  else if !s.ready || 12 < s.ctxCtl c 7 4 || 12 < s.ctxCtl c 3 0 || !okSpace (ctxBase c + 4) ||
      !okSpace (ctxBase c + 12) || (f = 0 && s.ctxCtl c 27 23 ≤ 1) || (f = 0 && cls != .hostPf && cls != .dma) then 5
  else 0

/-- The master may write a context's registers: the PF of the owning link, or a firmware master (R375). -/
def State.ownsCtx (s : State) (master c : Nat) : Bool :=
  match masterClass master with
  | .hostPf => master % 4096 = s.ctxLink c
  | .shepherd => true
  | .msp => true
  | _ => false

/-- A register write that passes its access check and the operating state takes the effect given. The operating state binds the host,
not the firmware (R404, R405). -/
def State.guardedWrite (s : State) (master off : Nat) (f : State → State) : State :=
  if !s.hostWritable off && !(firmwareMaster master && s.bootState != 0) then s
  else
    let r := s.regWriteCheck master off
    if r.1 then f r.2 else r.2

/-- The fields of CTX_CTL other than EN, written in DISABLED (R378). -/
def State.putCtl (s : State) (c : Nat) (w : Word) : State :=
  s.setReg (ctxBase c + 16) ((w &&& 0x7FFFFCFF#32) ||| (s.reg (ctxBase c + 16) &&& 0x80000000#32))

/-- Writing CTX_CTL with EN = 1 to a DISABLED context (R378). -/
def State.enableCtx (s : State) (master c : Nat) (w : Word) : State :=
  if (s.ctx c).state != .disabled then s
  else
    let s1 := s.putCtl c w
    if !s1.ownsCtx master c then s
    else
      let e := s1.enableErr c
      if e != 0 then s1.setCtx c { s1.ctx c with err := e }
      else (s1.setBit (ctxBase c + 16) 31).setCtx c { state := .run }

/-- A write of EN = 1. EN before READY fails with code 5 (R404): the context block does not answer otherwise. -/
def State.writeEnable (s : State) (master c : Nat) (w : Word) : State :=
  if s.ready && !s.failSafe then s.guardedWrite master (ctxBase c + 16) fun t => t.enableCtx master c w
  else if s.failSafe || s.bootState = 0 then s
  else s.setCtx c { s.ctx c with err := 5 }

def execContextEnable (master c : Nat) (w : Word) (s : State) : Res := onUnit (ctxOk c) (s.writeEnable master c w)

/-- Descriptors not started complete with the aborted status (R378). -/
def State.abortWaiting (s : State) (c : Nat) : State :=
  (s.ctx c).infl.foldl (fun t d => if d.started || d.held.isSome then t else t.complete c d.ptr stAborted) s

/-- A context leaves service: EN clears, it drains, and becomes DISABLED once nothing fetched is left (R378). -/
def State.drainCtx (s : State) (c : Nat) (discard : Bool) : State :=
  let x := s.ctx c
  if x.state = .disabled then s
  else
    let s1 := (s.clrBit (ctxBase c + 16) 31).setCtx c { x with state := .draining, discard := x.discard || discard }
    ((if discard then s1.releaseHeld c 256 else s1).abortWaiting c).settle c

def State.disableCtx (s : State) (master c : Nat) (w : Word) : State :=
  if (s.ctx c).state = .disabled then
    let s1 := s.putCtl c w
    if s1.ownsCtx master c then s1 else s
  else if s.ownsCtx master c then s.drainCtx c false else s

def execContextDisable (master c : Nat) (w : Word) (s : State) : Res :=
  onUnit (ctxOk c) (s.guardedWrite master (ctxBase c + 16) fun t => t.disableCtx master c w)

/-- The PF of the surviving link takes over a SUSPENDED context of the lost link's PF (R400). -/
def State.rebind (s : State) (link c : Nat) : State :=
  let x := s.ctx c
  if x.state = .suspended ∧ s.ctxFunc c = 0 ∧ s.ctxLink c ≠ link ∧ s.linkUp link = true then
    ((s.setFld (ctxBase c + 16) 22 22 link).setCtx c { x with state := .run }).releaseHeld c 256
  else s

def execContextRebind (link c : Nat) (s : State) : Res :=
  onUnit (ctxOk c && link < 2) (s.guardedWrite link (ctxBase c + 16) fun t => t.rebind link c)

/-- Mailbox banks by direction: host to firmware, firmware to host, core to core. -/
def State.mbx (s : State) (dir f n : Nat) : Mbx :=
  mapGet {} (if dir = 0 then s.host.h2f else if dir = 1 then s.host.f2h else s.host.c2c) (64 * f + n)

def State.setMbx (s : State) (dir f n : Nat) (m : Mbx) : State :=
  let k := 64 * f + n
  if dir = 0 then { s with host := { s.host with h2f := mapSet {} s.host.h2f k m } }
  else if dir = 1 then { s with host := { s.host with f2h := mapSet {} s.host.f2h k m } }
  else { s with host := { s.host with c2c := mapSet {} s.host.c2c k m } }

def oMbxDrop (f : Nat) : Nat := 0x400208 + 0x10000 * f

/-- A write of DATA (R394): stored with FULL set and the receiver's interrupt, or dropped and counted while FULL. -/
def State.postMbx (s : State) (dir f n : Nat) (w : Word) : State :=
  if (s.mbx dir f n).full then
    if dir = 0 then s.satAdd (oMbxDrop f) 15 0 1 else if dir = 1 then s.satAdd (oMbxDrop f) 31 16 1 else s
  else
    let s1 := s.setMbx dir f n ⟨w, true⟩
    if dir = 1 && s.bit (0x400204 + 0x10000 * f) n then s1.raiseIrq f else s1

/-- The firmware that serves the mailboxes runs. -/
def State.fwRuns (s : State) : Bool := s.ready && s.boot.msp == .running

/-- The firmware takes host-to-firmware words: a PING is answered in firmware-to-host word 0 (R395), word 1 of type 5
is left for the held barrier (R296), every other word is read and discarded. -/
def State.serveMbx (s : State) (f n : Nat) : State :=
  let m := s.mbx 0 f n
  if !s.fwRuns || !m.full then s
  else
    let ty := wfld m.data 31 28
    if n = 1 && ty = 5 then s
    else
      let s1 := s.setMbx 0 f n { m with full := false }
      if n = 0 && ty = 3 then s1.postMbx 1 f 0 (BitVec.ofNat 32 (3 * 2 ^ 28 + wfld m.data 23 0)) else s1

/-- The firmware, once it runs again, takes the words that waited (R394, R406). -/
def State.serveAllMbx (s : State) : State :=
  (List.range 64).foldl (fun t i => t.serveMbx (i / 32) (i % 32)) s

/-- Sizes of the mailbox banks. -/
def mbxOk (dir f n : Nat) : Bool := f < 2 && (if dir = 0 || dir = 1 then n < 32 else dir = 2 && n < 16)

/-- A host-to-firmware word needs the W right on it in the bank's table (R389); firmware writes the other banks. -/
def State.writeMbx (s : State) (master dir f n : Nat) (w : Word) : State :=
  if dir = 0 then
    if s.bootState = 0 || s.failSafe then s
    else
      let r := s.aclCheck (18 + f) rightW master n n
      if r.1 then (r.2.postMbx 0 f n w).serveMbx f n else r.2
  else if firmwareMaster master then s.postMbx dir f n w else s

def execMailboxWrite (master dir f n : Nat) (w : Word) (s : State) : Res :=
  onUnit (mbxOk dir f n) (s.writeMbx master dir f n w)

/-- The FAULT word that waited for word 0 of F0 is posted with the number of the last record sent, once the word is empty and the
MSP runs (R481). -/
def State.postFault (s : State) : State :=
  if s.flt.wordPend && !(s.mbx 1 0 0).full && s.boot.msp == .running then
    ({ s with flt := { s.flt with wordPend := false } } : State).postMbx 1 0 0 (BitVec.ofNat 32 (2 * 2 ^ 28 + s.fld oFltSeq 23 0))
  else s

/-- The receiver reads a word: it is returned and FULL clears (R394). -/
def State.readMbx (s : State) (dir f n : Nat) : State :=
  let m := s.mbx dir f n
  ((s.setMbx dir f n { m with full := false }).emit (.readData m.data)).postFault

/-- The host reads firmware-to-host words under the register block's table; a denied read returns 0 (R372). -/
def State.hostReadMbx (s : State) (master dir f n : Nat) : State :=
  if dir = 1 && !firmwareMaster master then
    let r := s.regCheck rightR master (0x400100 + 0x10000 * f + 4 * n)
    if r.1 then r.2.readMbx dir f n else r.2.emit (.readData 0)
  else if dir = 1 || firmwareMaster master then s.readMbx dir f n
  else s.emit (.readData 0)

def execMailboxRead (master dir f n : Nat) (s : State) : Res :=
  onUnit (mbxOk dir f n) (s.hostReadMbx master dir f n)

/-- Word 0 of an entry as it reads. -/
def AclEnt.word0 (x : AclEnt) : Nat :=
  2 ^ 31 * (b2n x.valid) + 2 ^ 30 * (b2n x.anyidx) + x.rights * 65536 + x.master

/-- Words 0 to 3 of an entry in force (Table 11-14). -/
def AclEnt.word (x : AclEnt) (i : Nat) : Nat :=
  match i with
  | 0 => x.word0
  | 1 => x.base % 2 ^ 32
  | 2 => x.limit % 2 ^ 32
  | _ => x.limit / 2 ^ 32 * 65536 + x.base / 2 ^ 32

/-- A word of an entry that ACL_ENT0 will put in force: its shadow, or the word in force (R392). -/
def State.aclWord (s : State) (k i : Nat) : Nat :=
  match mapFind s.host.aclShadow (4 * k + i) with
  | some w => w.toNat
  | none => (mapGet (aclDefault k) s.host.acl k).word i

/-- Put a whole entry in force together with its shadowed words (R392). -/
def State.putAcl (s : State) (k : Nat) (w : Word) : State :=
  let w1 := s.aclWord k 1
  let w2 := s.aclWord k 2
  let w3 := s.aclWord k 3
  let x : AclEnt := { valid := w.getLsbD 31, anyidx := w.getLsbD 30, rights := wfld w 20 16, master := wfld w 15 0,
                      base := 2 ^ 32 * (w3 % 65536) + w1, limit := 2 ^ 32 * (w3 / 65536) + w2 }
  let sh := mapErase (mapErase (mapErase s.host.aclShadow (4 * k + 1)) (4 * k + 2)) (4 * k + 3)
  { s with host := { s.host with acl := mapSet (aclDefault k) s.host.acl k x, aclShadow := sh } }

/-- Offset of the words of entry e of target t. -/
def oAcl (t e : Nat) : Nat := 0x500000 + 1024 * t + 16 * e

/-- Entries 62 and 63 are fixed, and targets 36 to 63 are reserved (R392, Table 11-13). -/
def aclWritable (t e : Nat) : Bool := t < 36 && e < 62

def execAclShadowWrite (master t e word : Nat) (w : Word) (s : State) : Res :=
  onUnit (t < 64 && e < 64 && 1 ≤ word && word ≤ 3)
    (s.guardedWrite master (oAcl t e) fun u =>
      if aclWritable t e then
        { u with host := { u.host with aclShadow := mapIns u.host.aclShadow (4 * (64 * t + e) + word) w } }
      else u)

def execAclEntryWrite (master t e : Nat) (w : Word) (s : State) : Res :=
  onUnit (t < 64 && e < 64)
    (s.guardedWrite master (oAcl t e) fun u => if aclWritable t e then u.putAcl (64 * t + e) w else u)

/-- ACL_SYNC.GO: BUSY reads 1 until the requests checked earlier have completed (R392). -/
def execAclSync (master : Nat) (s : State) : Res :=
  .next (s.guardedWrite master 0x510000 fun u => u.setBit 0x510000 31)

def execAclDrainDone (s : State) : Res := .next (s.clrBit 0x510000 31)

/-- Contexts owned by functions of a link, with a predicate on the function number. -/
def State.linkContexts (s : State) (link : Nat) (f : Nat → Bool) : List Nat :=
  s.host.ctxs.filterMap fun kv => if s.ctxLink kv.1 = link && f (s.ctxFunc kv.1) then some kv.1 else none

def State.setLink (s : State) (link : Nat) (up : Bool) : State :=
  if link = 0 then { s with host := { s.host with up0 := up } } else { s with host := { s.host with up1 := up } }

/-- A link goes down without a reset: its running contexts are SUSPENDED, and interrupts routed to it move to the other
PF when that PF's MSI-X is enabled (R398). -/
def State.linkFalls (s : State) (link : Nat) : State :=
  if !s.linkUp link then s
  else
    let s1 := s.setLink link false
    let s2 := (s1.linkContexts link fun _ => true).foldl (fun t c =>
      if (t.ctx c).state = .run then t.setCtx c { t.ctx c with state := .suspended } else t) s1
    let other := 1 - link
    let s3 := if s2.fld oIrqRoute 0 0 = link && (mapGet {} s2.host.msix (other * 64)).open_ != 0
      then s2.setFld oIrqRoute 0 0 other else s2
    s3.raiseIrq 9

def execLinkDown (link : Nat) (s : State) : Res := onUnit (link < 2) (s.linkFalls link)

/-- A link comes up again without a reset: its SUSPENDED contexts return to RUN and held completions are written
(R399). -/
def State.linkRises (s : State) (link : Nat) : State :=
  if s.linkUp link then s
  else
    let s1 := s.setLink link true
    let s2 := (s1.linkContexts link fun _ => true).foldl (fun t c =>
      (if (t.ctx c).state = .suspended then t.setCtx c { t.ctx c with state := .run } else t).releaseHeld c 256) s1
    s2.raiseIrq 9

def execLinkUp (link : Nat) (s : State) : Res := onUnit (link < 2) (s.linkRises link)

/-- Contexts of reset functions are disabled with their completions discarded, and the functions' MSI-X tables return
to their reset state (R402). A step context lost before its step's decision leaves the step not committed (R403). -/
def State.resetFunctions (s : State) (link : Nat) (f : Nat → Bool) : State :=
  let s1 := (s.linkContexts link f).foldl (fun t c =>
    let lost := t.trn.opened && t.trn.ctx = c && (t.ctx c).state != .disabled
    (if lost then { t with trn := { t.trn with lostCtx := true } } else t).drainCtx c true) s
  { s1 with host := { s1.host with
      msix := s1.host.msix.filter fun kv => !(kv.1 / 64 = link && f (kv.1 % 64)),
      vfEnable := if f 0 then mapErase s1.host.vfEnable link else s1.host.vfEnable } }

/-- A fundamental reset holds GLB_PERSTh_N low; a hot reset or link disable leaves the pin high (R402, R558). -/
def State.holdPerst (s : State) (link : Nat) (perst : Bool) : State :=
  if !perst then s
  else { s with pwr := if link = 0 then { s.pwr with perst0 := true } else { s.pwr with perst1 := true } }

def execHostLinkReset (link : Nat) (perst : Bool) (s : State) : Res :=
  onUnit (link < 2) (((s.resetFunctions link fun _ => true).setLink link false).holdPerst link perst)

def execPfFlr (link : Nat) (s : State) : Res := onUnit (link < 2) (s.resetFunctions link fun _ => true)

def execVfFlr (link vf : Nat) (s : State) : Res :=
  onUnit (link < 2 && 1 ≤ vf && vf < 64) (s.resetFunctions link fun f => f = vf)

/-- The link trains and answers again, once module reset has ended (R399, R557, Table 18-6). -/
def State.linkAnswers (s : State) (link : Nat) : State :=
  let s1 := { s with pwr := if link = 0 then { s.pwr with perst0 := false } else { s.pwr with perst1 := false } }
  if s.bootState = 0 then s1 else s1.setLink link true

def execHostLinkResetExit (link : Nat) (s : State) : Res := onUnit (link < 2) (s.linkAnswers link)

end Sys2Proof.Machine
end

