-- ==== Sys2Proof/Machine/Counters.lean ====
section
/-! DEFINITION. Snapshots, the telemetry ring and the register side of the event counters (R389, R542 to R548). -/

namespace Sys2Proof.Machine

/-- The counter exists: 16 per pasture die, 64 per fold die. -/
def cntOk (d i : Nat) : Bool := d < 10 && i < cntCount d

/-- Writing CNT_VAL_LO loads the counter with this word and the held high word (R542). -/
def execCounterLoad (master d i : Nat) (w : Word) (s : State) : Res :=
  onUnit (cntOk d i) (s.guardedWrite master (cntCfg d i + 0xC) fun t =>
    { t with cnt := { t.cnt with
        val := mapSet 0 t.cnt.val (64 * d + i) (2 ^ 32 * mapGet 0 t.cnt.wrHold (64 * d + i) + w.toNat) } })

/-- Registers answer host reads: some block at any time after reset, every block once READY (R404, R405). -/
def State.hostReadable (s : State) (off : Nat) : Bool :=
  let b := (regBlock off).1
  let st := s.bootState
  st = 5 || st = 7 || (st != 0 && (b = 0 || b = 1 || b = 3 || b = 11))

/-- A register read that passes its check returns a word and takes the effect given; a denied one returns 0 (R372). -/
def State.guardedRead (s : State) (master off : Nat) (w : State → Word) (f : State → State) : State :=
  if !s.hostReadable off && !(firmwareMaster master && s.bootState != 0) then s.emit (.readData 0)
  else
    let r := s.regCheck rightR master off
    if r.1 then (f r.2).emit (.readData (w r.2)) else r.2.emit (.readData 0)

/-- Reading CNT_VAL_LO latches the high word (R542, Table 17-6). -/
def execCounterReadLatch (master d i : Nat) (s : State) : Res :=
  let v := mapGet 0 s.cnt.val (64 * d + i)
  onUnit (cntOk d i) (s.guardedRead master (cntCfg d i + 0xC) (fun _ => BitVec.ofNat 32 v) fun t =>
    { t with cnt := { t.cnt with rdLatch := mapSet 0 t.cnt.rdLatch (64 * d + i) (v / 2 ^ 32) } })

/-- Writing CNT_CTL.FREEZE stops every counter of the module, or lets them run again (R539). -/
def execCounterFreeze (master : Nat) (freeze : Bool) (s : State) : Res :=
  .next (s.guardedWrite master 0x1C0A000 fun t => t.setFld 0x1C0A000 0 0 (b2n freeze))

/-- Snapshot checks on a COUNTER_SNAPSHOT: the record is 64-byte aligned, local or host (Table 11-10). -/
def chkSnapshot (d : Desc) : Nat :=
  if d.u16 16 % 1024 = 0 then 0
  else if d.u64 24 % 64 != 0 || !localOrHost (d.u64 24) then stInvalidField else 0

/-- Latch, optionally clear, and write the snapshot record (R389). -/
def State.snapshot (s : State) (c : Nat) (d : Desc) : State :=
  let mask := d.u16 16 % 1024
  let w := s.ctxWho c
  if mask = 0 then s.complete c d.ptr stSuccess
  else
    let pg := diesOf mask
    let r := s.aclCheck 30 rightR w.master (pg.headD 0) (pg.getLastD 0)
    let r2 := if r.1 && d.u8 18 % 2 = 1 then r.2.aclCheck 30 rightCfg w.master (pg.headD 0) (pg.getLastD 0) else r
    if !r2.1 then r2.2.complete c d.ptr stDenied
    else
      let ws := s.cntWords mask
      let bs := leBytes 8 s.ts ++ leBytes 4 s.stepNo ++ leBytes 2 mask ++ leBytes 2 ws.length ++ leBytes 16 0 ++
        ws.flatMap (leBytes 8)
      let s1 := if d.u8 18 % 2 = 1 then r2.2.cntClear mask fun _ _ => true else r2.2
      let st := s1.store w (daddr (d.u64 24)) bs
      st.2.complete c d.ptr st.1.status

def execCounterSnapshot (c n : Nat) (s : State) : Res :=
  onUnit (ctxOk c) (s.runDesc c n 0x05 fun d t => t.snapshot c d)

end Sys2Proof.Machine
end

