-- ==== Sys2Proof/Machine/Common.lean ====
section
/-! DEFINITION. The common descriptors (R389): NOP, COPY, FILL, FENCE, MAILBOX_POST, and reserved opcodes (R9). -/

namespace Sys2Proof.Machine

def execNop (c n : Nat) (s : State) : Res :=
  onUnit (ctxOk c) (s.runDesc c n 0x00 fun d t => t.complete c d.ptr stSuccess)

/-- Lengths of the requests a run of n bytes is issued as: no request crosses a 4 KiB page of either address (log entry
10). -/
def chunks (src dst : Nat) : Nat → Nat → List (Nat × Nat)
  | 0, _ => []
  | fuel + 1, n =>
    if n = 0 then []
    else
      let k := min n (min (4096 - src % 4096) (4096 - dst % 4096))
      (0, k) :: (chunks (src + k) (dst + k) fuel (n - k)).map fun p => (p.1 + k, p.2)

/-- A move in progress: the state, whether it was stopped by a denial, met lost lines, or lost its link. -/
structure Move where
  s : State
  denied : Bool := false
  lost : Bool := false
  cut : Bool := false

def Move.status (m : Move) : Nat :=
  if m.denied then stDenied else if m.cut then stLinkLost else if m.lost then stDataError else stSuccess

/-- Bytes of a descriptor address without any effect. -/
def State.look (s : State) (d : DAddr) (n : Nat) : List Byte :=
  match d with
  | .mod a => s.peek a n
  | .host a => memReadAt s.mem.host a n
  | _ => []

/-- Two descriptor addresses lie in the same space. -/
def DAddr.same (a b : DAddr) : Bool :=
  match a, b with
  | .mod _, .mod _ => true
  | .host _, .host _ => true
  | _, _ => false

/-- Bytes that an earlier row of the same move has written take free values (R389). -/
def freeOver (s : State) (hit : Nat → Bool) : Nat → List Byte → List Byte × State
  | _, [] => ([], s)
  | i, b :: bs =>
    if hit i then
      let v := s.takeFree
      let r := freeOver v.2 hit (i + 1) bs
      (BitVec.ofNat 8 v.1 :: r.1, r.2)
    else
      let r := freeOver s hit (i + 1) bs
      (b :: r.1, r.2)

/-- Destination lines of the lost source lines of a piece are written poisoned, or sent poisoned to the host (R349). -/
def State.carryPoison (s s0 : State) (src dst : DAddr) (n : Nat) : State :=
  match src with
  | .mod a => (linesOf a n).foldl (fun t l =>
      if (s0.mark l).lost then
        let lo := max l a
        let k := min (l + 64) (a + n) - lo
        match dst.plus (lo - a) with
        | .mod b => t.poisonLines b k
        | .host b => t.emit (.hostPoison b k)
        | _ => t
      else t) s
  | _ => s

/-- One request of a raw move: a read, then a write (R389). The data are those of the source before the move. -/
def moveChunk (w : Who) (s0 : State) (src dst : DAddr) (hit : Nat → Bool) (n : Nat) (m : Move) : Move :=
  if m.denied then m
  else
    let r := m.s.request w 1 src n
    match r.1 with
    | .denied => { m with s := r.2, denied := true }
    | .linkLost => { m with s := r.2, cut := true }
    | .data _ _ =>
      let f := freeOver r.2 hit 0 (s0.look src n)
      let lost := match src with | .mod a => s0.rangeBad a n | _ => false
      let q := f.2.store w dst f.1
      match q.1 with
      | .denied => { m with s := q.2, denied := true }
      | .linkLost => { m with s := q.2, cut := true, lost := m.lost || lost }
      | .data _ _ => { m with s := q.2.carryPoison s0 src dst n, lost := m.lost || lost }

/-- One row of a raw move. -/
def moveRow (w : Who) (s0 : State) (src dst : DAddr) (len : Nat) (hit : Nat → Bool) (m : Move) : Move :=
  (chunks src.off dst.off (len / 2048 + 4) len).foldl (fun m p =>
    moveChunk w s0 (src.plus p.1) (dst.plus p.1) (fun i => hit (p.1 + i)) p.2 m) m

/-- A raw move of rows of bytes (R389). -/
def moveRows (w : Who) (src dst : DAddr) (len rows sp dp : Nat) (s : State) : Move :=
  (List.range rows).foldl (fun m r =>
    let a := src.plus (r * sp)
    let hit (i : Nat) : Bool := rows != 1 && src.same dst && (List.range r).any fun q =>
      decide (dst.off + q * dp ≤ a.off + i) && decide (a.off + i < dst.off + q * dp + len)
    moveRow w s a (dst.plus (r * dp)) len hit m) { s := s }

def chkCopy (d : Desc) : Nat :=
  let src := d.u64 16
  let dst := d.u64 24
  let isMod (w : Nat) := match daddr w with | .mod _ => true | _ => false
  if !localOrHost src || !localOrHost dst || !(isMod src || isMod dst) || d.u32 32 = 0 || d.u32 36 % 2 ^ 24 = 0
  then stInvalidField else 0

def State.copy (s : State) (c : Nat) (d : Desc) : State :=
  let m := moveRows (s.ctxWho c) (daddr (d.u64 16)) (daddr (d.u64 24)) (d.u32 32) (d.u32 36 % 2 ^ 24) (d.u32 40)
    (d.u32 44) s
  m.s.complete c d.ptr m.status

def execCopy (c n : Nat) (s : State) : Res := onUnit (ctxOk c) (s.runDesc c n 0x01 fun d t => t.copy c d)

def chkFill (d : Desc) : Nat :=
  if !localOrHost (d.u64 24) || d.u32 32 = 0 || d.u32 36 % 2 ^ 24 = 0 then stInvalidField else 0

/-- One request of a fill: byte a of the row takes byte a mod 8 of the pattern. -/
def fillChunk (w : Who) (pat : List Byte) (dst : DAddr) (off n : Nat) (m : Move) : Move :=
  if m.denied then m
  else
    let q := m.s.store w (dst.plus off) ((List.range n).map fun i => pat.getD ((off + i) % 8) 0)
    match q.1 with
    | .denied => { m with s := q.2, denied := true }
    | .linkLost => { m with s := q.2, cut := true }
    | .data _ _ => { m with s := q.2 }

def State.fill (s : State) (c : Nat) (d : Desc) : State :=
  let dst := daddr (d.u64 24)
  let len := d.u32 32
  let pat := d.bytes.drop 16 |>.take 8
  let m := (List.range (d.u32 36 % 2 ^ 24)).foldl (fun m r =>
    let a := dst.plus (r * d.u32 44)
    (chunks a.off a.off (len / 2048 + 4) len).foldl (fun m p => fillChunk (s.ctxWho c) pat a p.1 p.2 m) m)
    ({ s := s } : Move)
  m.s.complete c d.ptr m.status

def execFill (c n : Nat) (s : State) : Res := onUnit (ctxOk c) (s.runDesc c n 0x02 fun d t => t.fill c d)

def chkFence (d : Desc) : Nat := if 3 < d.u8 16 then stInvalidField else 0

/-- Every earlier descriptor has completed when a FENCE starts, and with it its writes; scope 2 reads over the link
(R389). -/
def State.fence (s : State) (c : Nat) (d : Desc) : State :=
  s.complete c d.ptr (if d.u8 16 = 2 && !s.linkUp (s.ctxLink c) then stLinkLost else stSuccess)

def execFence (c n : Nat) (s : State) : Res := onUnit (ctxOk c) (s.runDesc c n 0x03 fun d t => t.fence c d)

def chkPost (d : Desc) : Nat := if 31 < d.u8 17 then stInvalidField else 0

/-- A mailbox word posted as a register write would, successful whether or not it was dropped (R389). -/
def State.mailboxPost (s : State) (c : Nat) (d : Desc) : State :=
  let f := d.u8 16 % 2
  let r := s.aclCheck (18 + f) rightW (s.ctxMaster c) (d.u8 17) (d.u8 17)
  if r.1 then
    ((r.2.postMbx 0 f (d.u8 17) (BitVec.ofNat 32 (d.u32 20))).serveMbx f (d.u8 17)).complete c d.ptr stSuccess
  else r.2.complete c d.ptr stDenied

def execMailboxPost (c n : Nat) (s : State) : Res := onUnit (ctxOk c) (s.runDesc c n 0x04 fun d t => t.mailboxPost c d)

/-- The opcodes that Table 11-7 lists. -/
def opcodeListed (op : Nat) : Bool :=
  op ≤ 5 || (0x10 ≤ op && op ≤ 0x18) || op = 0x20 || (0x28 ≤ op && op ≤ 0x2B) || (0x30 ≤ op && op ≤ 0x32) ||
  op = 0x38 || op = 0x39 || (0x40 ≤ op && op ≤ 0x42) || (0x48 ≤ op && op ≤ 0x4A) || op = 0x50 || op = 0x51

def diagOpcode (op : Nat) : Bool := 0xF0 ≤ op && op ≤ 0xFF

/-- A fetched descriptor with a reserved or unserved opcode completes with the unknown-opcode status (R9, R386). A
diagnostic opcode that a loaded diagnostic image serves has no meaning in the spec. -/
def execReservedOpcode (c n : Nat) (s : State) : Res :=
  match (s.ctx c).infl.find? fun d => d.ptr = n && d.held.isNone && !d.started with
  | none => onUnit (ctxOk c) s
  | some d =>
    if ctxOk c && diagOpcode d.op && s.boot.diag then .refused .diagnosticOpcode
    else onUnit (ctxOk c)
      (if opcodeListed d.op then s
       else s.complete c n (if d.b1 / 16 = 1 then stUnknownOpcode else stBadVersion))

end Sys2Proof.Machine
end

