-- ==== Sys2Proof/Machine/Crc.lean ====
section
/-! DEFINITION. The reflected cyclic redundancy checks of tiles, kernel images and frames (R206, R252). -/

namespace Sys2Proof.Machine

/-- The low n bits of a number in reverse order. -/
def revBits (n w : Nat) : Nat := (List.range n).foldl (fun a i => 2 * a + b2n (w.testBit i)) 0

/-- One bit step of a reflected CRC with the reflected polynomial. -/
def crcBit (poly c : Nat) : Nat := if c % 2 = 1 then (c / 2) ^^^ poly else c / 2

/-- One byte of a reflected CRC. -/
def crcByte (poly c : Nat) (b : Byte) : Nat :=
  crcBit poly (crcBit poly (crcBit poly (crcBit poly (crcBit poly (crcBit poly (crcBit poly (crcBit poly
    (c ^^^ b.toNat))))))))

/-- A reflected CRC of n bits with initial value and final XOR all ones, from its polynomial as written. -/
def crcRefl (n poly : Nat) (bs : List Byte) : Nat :=
  (bs.foldl (crcByte (revBits n poly)) (2 ^ n - 1)) ^^^ (2 ^ n - 1)

/-- The CRC of a tile (R206). -/
def crc64 (bs : List Byte) : Nat := crcRefl 64 0x42F0E1EBA9EA3693 bs

/-- The CRC-32 of kernel code (Table 7-16). -/
def crc32 (bs : List Byte) : Nat := crcRefl 32 0x04C11DB7 bs

end Sys2Proof.Machine
end

