-- ==== Sys2Proof/Machine/Tiles.lean ====
section
/-! DEFINITION. Pasture dies: tiles, maps, cells and column records (chapter 3), the codes and tallies of a weight
(R101 to R107), where a span keeps a weight (R272, R307, R309), and when the program port may act (R136, R137). -/

namespace Sys2Proof.Machine

def State.setDie (s : State) (p : Nat) (d : Die) : State := { s with dies := mapSet {} s.dies p d }

def State.updDie (s : State) (p : Nat) (f : Die → Die) : State := s.setDie p (f (s.die p))
def State.updTrn (s : State) (f : Trn → Trn) : State := { s with trn := f s.trn }

def State.updPort (s : State) (p : Nat) (f : Port → Port) : State :=
  s.updDie p fun d => { d with port := f d.port }

def State.tile (s : State) (p n : Nat) : Tile := mapGet {} (s.die p).tiles n

def State.updTile (s : State) (p n : Nat) (f : Tile → Tile) : State :=
  s.updDie p fun d => { d with tiles := mapUpd {} d.tiles n f }

def tileCfgOff (p n : Nat) : Nat := pst p + 0x100000 + 4 * n
def tileStatOff (p n : Nat) : Nat := pst p + 0x110000 + 4 * n
def tileMapOff (p n : Nat) : Nat := pst p + 0x120000 + 4 * n
def musTileOff (p n : Nat) : Nat := pst p + 0x130000 + 4 * n
def colMapOff (p n sp : Nat) : Nat := pst p + 0x200000 + 64 * n + 4 * sp

/-- The physical tile that serves a logical tile, as field × 130 + slot (R60, R100). -/
def State.ptile (s : State) (p n : Nat) : Option Nat :=
  if s.bit (tileMapOff p n) 31 then some (s.fld (tileMapOff p n) 12 7 * 130 + s.fld (tileMapOff p n) 6 0) else none

/-- Map a logical tile to a physical tile. -/
def State.setPtile (s : State) (p n pt : Nat) : State :=
  s.setReg (tileMapOff p n) (BitVec.ofNat 32 (2 ^ 31 + pt / 130 * 128 + pt % 130))

/-- The physical weight-column that serves a home column: the spare in use for it, or the column itself (R87). -/
def State.servedBy (s : State) (p n col : Nat) : Nat :=
  match (List.range 16).find? fun i =>
      s.fld (colMapOff p n i) 31 30 = 1 && s.fld (colMapOff p n i) 8 0 = col with
  | some i => 512 + i
  | none => col

/-- The tile is in replica mode (R89). -/
def State.replica (s : State) (p n : Nat) : Bool := s.bit (tileCfgOff p n) 9

/-- Logical weight-columns a tile offers. -/
def State.tileCols (s : State) (p n : Nat) : Nat := if s.replica p n then 256 else 512

/-- The physical columns that hold a logical column (R87, R89). -/
def State.pcols (s : State) (p n col : Nat) : List Nat :=
  if s.replica p n then [s.servedBy p n col, s.servedBy p n (col + 256)] else [s.servedBy p n col]

def cellKey (pt row pcol : Nat) : Nat := (pt * 480 + row) * 536 + pcol

def State.cells (s : State) (p pt row pcol : Nat) : Cells :=
  mapGet (cellsDefault pcol) (s.die p).cells (cellKey pt row pcol)

def State.setCells (s : State) (p pt row pcol : Nat) (c : Cells) : State :=
  s.updDie p fun d => { d with cells := mapSet (cellsDefault pcol) d.cells (cellKey pt row pcol) c }

/-- The weight code of four cells (R66). -/
def Cells.code (c : Cells) : Int := 8 * ((c.mp : Int) - c.mm) + ((c.np : Int) - c.nm)

/-- The level of one of the four cells, in the order M+, M−, m+, m−. -/
def Cells.level (c : Cells) (i : Nat) : Nat :=
  match i with
  | 0 => c.mp
  | 1 => c.mm
  | 2 => c.np
  | _ => c.nm

def Cells.set (c : Cells) (i l : Nat) : Cells :=
  match i with
  | 0 => { c with mp := l }
  | 1 => { c with mm := l }
  | 2 => { c with np := l }
  | _ => { c with nm := l }

/-- Nominal conductance of a level, in units of 0.01 µS (R65). -/
def nominal (l : Nat) : Nat := 200 + 250 * l

/-- The level nearest to a conductance (R116); halfway takes the upper level (DESIGN CHOICE, log entry 13). -/
def nearest (g : Nat) : Nat := if g < 200 then 0 else min ((g - 200 + 125) / 250) 15

/-- The canonical cells of a pair of differences (R101). -/
def canonCells (dM dm : Int) : Cells := ⟨dM.toNat, (-dM).toNat, dm.toNat, (-dm).toNat⟩

/-- Ceiling of (|x| − 12) / 8 for |x| > 12, with the sign of x (R102). -/
def carryOf (x : Int) : Int :=
  let c : Int := (((x.natAbs - 12) + 7) / 8 : Nat)
  if x < 0 then -c else c

/-- New differences for a move to a target code from a found major difference (Table 4-1). -/
def movePair (dM w : Int) : Int × Int :=
  let x := w - 8 * dM
  let c := carryOf x
  if x.natAbs ≤ 12 then (dM, x)
  else if (dM + c).natAbs ≤ 15 then (dM + c, x - 8 * c)
  else
    let d : Int := if c < 0 then -15 else 15
    (d, w - 8 * d)

/-- The differences of a whole-column write (R103). -/
def wholePair (w : Int) : Int × Int :=
  let dM := clampI ((w + 4) / 8) (-15) 15
  (dM, w - 8 * dM)

/-- Target cells from found cells: a pair whose difference does not change is left alone (R101). -/
def Aim.target (a : Aim) (f : Cells) : Cells :=
  match a with
  | .levels c => c
  | .keep => f
  | _ =>
    let dM : Int := (f.mp : Int) - f.mm
    let dm : Int := (f.np : Int) - f.nm
    let t := match a with
      | .request w => movePair dM w
      | .canon w => wholePair w
      | .levels _ => (dM, dm)
      | .keep => (dM, dm)
    let c := canonCells t.1 t.2
    { mp := if t.1 = dM then f.mp else c.mp, mm := if t.1 = dM then f.mm else c.mm,
      np := if t.2 = dm then f.np else c.np, nm := if t.2 = dm then f.nm else c.nm }

/-- A move changes the major pair (Table 4-1, locked carry). -/
def Aim.carries (a : Aim) (f : Cells) : Bool :=
  match a with
  | .request _ =>
    let t := a.target f
    t.mp != f.mp || t.mm != f.mm
  | _ => false

/-- Address of a column record in the column table (R82). -/
def recAddr (p n col : Nat) : Nat := sramBase (p / 4) + 2 ^ 24 * (p % 4) + n * 2048 + col * 4

def State.colRec (s : State) (p n col : Nat) : Nat := leNat (s.peek (recAddr p n col) 4)

def State.setColRec (s : State) (p n col v : Nat) : State :=
  (s.poke (recAddr p n col) (leBytes 4 v)).setGood (recAddr p n col)

/-- s_col in FP16, and its value (Table 3-6). -/
def State.scolBits (s : State) (p n col : Nat) : Nat := s.colRec p n col % 65536
def State.scol (s : State) (p n col : Nat) : FVal := fp16.decode (s.scolBits p n col)

def State.setScol (s : State) (p n col v : Nat) : State :=
  s.setColRec p n col (s.colRec p n col / 65536 * 65536 + v % 65536)

/-- The one FP32 quotient a code or tally derives from: (8 × w) / s (R105). -/
def quotX (w : Nat) (sc : FVal) : FVal :=
  fp32.decode (fp32.round .rne (((fp32.decode w).scale 3).div sc)).1

/-- The code of a quotient: clamped to ±135, an infinity to the limit of its sign, NaN to 0 (R105). -/
def codeOfX (x : FVal) : Int :=
  match x with
  | .nan => 0
  | .inf n => if n then -135 else 135
  | v => clampI v.toIntRne (-135) 135

/-- The tally of a weight (R105). -/
def tallyOf (w : Nat) (sc : FVal) (code : Int) : Int :=
  match quotX w sc with
  | .nan => 0
  | .inf n => if n then -32768 else 32767
  | x => clampI (((x.sub (FVal.ofInt code)).scale 8).toIntRne) (-32768) 32767

/-- The code recovered from a stored tally (R106). -/
def recoverW (w : Nat) (sc : FVal) (t : Int) : Int :=
  match quotX w sc with
  | .nan => 0
  | .inf n => if n then -135 else 135
  | x => clampI ((x.sub ((FVal.ofInt t).scale (-8))).toIntRne) (-135) 135


/-- The master ID of shearer unit k. -/
def shrMaster (k : Nat) : Nat := 0x4000 + k

/-- Row blocks of a span (Table 9-1). -/
def Span.rb (sp : Span) : Nat := ceilDiv sp.k 480

/-- Stride in bytes of a row of elements of e bytes (R309). -/
def Span.stride (sp : Span) (e : Nat) : Nat := 64 * ceilDiv (e * sp.n) 64

/-- Addresses of the master weight and the tally of an element, and of the state of a column (R309). -/
def Span.masterAt (sp : Span) (r c : Nat) : Nat := sp.master + r * sp.stride 4 + 4 * c
def Span.tallyAt (sp : Span) (r c : Nat) : Nat := sp.tally + r * sp.stride 2 + 2 * c
def Span.colstAt (sp : Span) (c : Nat) : Nat := sp.colst + 4 * c

/-- Where the tile directory finds a weight of a logical tile: its span, row and column in the matrix (R307). -/
def State.locate (s : State) (p n row col : Nat) : Option (Span × Nat × Nat) :=
  ((s.shr p).spans.filter fun sp => sp.valid && sp.kind = 0).findSome? fun sp =>
    match sp.tiles.findIdx? (· == p * 8192 + n) with
    | none => none
    | some i =>
      let r := 480 * (i % sp.rb) + row
      let c := 512 * (i / sp.rb) + col
      if r < sp.k && c < sp.n then some (sp, r, c) else none

/-- A column is covered by a span when its first row is (R569). -/
def State.covered (s : State) (p n col : Nat) : Bool := (s.locate p n 0 col).isSome

/-- A consumer meets a lost line: it stops, the line is logged where it is a new error, and the module's reset follows
(R352). The first consumption is kept. -/
def State.consume (s : State) (c : Consumed) : State :=
  match s.mem.consumed with
  | some _ => s
  | none => { s with mem := { s.mem with consumed := some c } }

/-- The first lost line of a range. -/
def State.firstLost (s : State) (a n : Nat) : Option Nat := (linesOf a n).find? fun l => (s.mark l).lost

/-- Read bytes for computation, as the access tables allow: none where they deny the read, which returns no data (R364), or where a line
is lost, which stops the reader (R352). -/
def State.fetch (s : State) (master a n : Nat) : Option (List Byte) × State :=
  match s.memCheck master rightR a n with
  | .ok =>
    let r := s.readMem 0 master a n
    match s.firstLost a n with
    | some l => (none, r.2.2.consume { master := master, line := l })
    | none => (some r.1, r.2.2)
  | c => (none, s.refuse c rightR master a)

/-- The access tables let a master read a range. -/
def State.mayRead (s : State) (master a n : Nat) : Bool := s.memCheck master rightR a n = .ok

/-- Write bytes as the access tables allow; a denied write is dropped (R364). -/
def State.put (s : State) (master a : Nat) (bs : List Byte) : State :=
  match s.memCheck master rightW a bs.length with
  | .ok => s.writeMem master a bs
  | c => s.refuse c rightW master a

/-- The master weights of the rows of a column of a tile through the rescale path; none for the rows beyond the span
(R121). The last answer says that no line of them was lost. -/
def State.masters (s : State) (p n col : Nat) : List (Option Nat) × Bool × State :=
  (List.range 480).foldl (fun (acc : List (Option Nat) × Bool × State) row =>
    match acc.2.2.locate p n row col with
    | none => (acc.1 ++ [none], acc.2.1, acc.2.2)
    | some (sp, r, c) =>
      let q := acc.2.2.fetch (shrMaster p) (sp.masterAt r c) 4
      match q.1 with
      | some bs => (acc.1 ++ [some (leNat bs)], acc.2.1, q.2)
      | none => (acc.1 ++ [none], false, q.2)) ([], true, s)

/-- Write the tally of a weight formed from its master, a scale and a code; a weight no span covers has none (R105,
R569). -/
def State.writeTally (s : State) (p n row col : Nat) (sc : FVal) (code : Int) : State :=
  match s.locate p n row col with
  | none => s
  | some (sp, r, c) =>
    let q := s.fetch (shrMaster p) (sp.masterAt r c) 4
    match q.1 with
    | none => q.2
    | some bs => q.2.put (shrMaster p) (sp.tallyAt r c) (leBytes 2 (ofInt 16 (tallyOf (leNat bs) sc code)))

/-- The saturation count of a logical column (R108, R309). -/
def State.satCount (s : State) (p n col : Nat) : Nat :=
  match s.locate p n 0 col with
  | none => 0
  | some (sp, _, c) => leNat (s.peek (sp.colstAt c) 2)

def State.setSatCount (s : State) (p n col v : Nat) : State :=
  match s.locate p n 0 col with
  | none => s
  | some (sp, _, c) => s.put (shrMaster p) (sp.colstAt c) (leBytes 2 (min v 65535))

/-- A column already stands in the rescale queue of a die. -/
def Port.queued (q : Port) (n col : Nat) : Bool := q.jobs.any fun j => j.tile = n && j.col = col && j.desc.isNone

/-- The shearer unit reads a column's saturation count; false where its line is lost (R352). -/
def State.satRead (s : State) (p n col : Nat) : Bool × State :=
  match s.locate p n 0 col with
  | none => (true, s)
  | some (sp, _, c) => let q := s.fetch (shrMaster p) (sp.colstAt c) 2; (q.1.isSome, q.2)

/-- Saturation events one by one: the count, and the postings, for which a queue has room left (R108). -/
def satEvents (th : Nat) : Nat → Nat → Nat → Nat × Nat
  | 0, v, _ => (v, 0)
  | k + 1, v, room =>
    let w := min (v + 1) 65535
    if th != 0 && th ≤ w && room != 0 then
      let r := satEvents th k 0 (room - 1)
      (r.1, r.2 + 1)
    else satEvents th k w room

/-- Saturation events of a column: counted, and at the threshold the column is posted to the rescale queue, of 64
columns, and its count cleared (R108). -/
def State.saturate (s : State) (p n col k : Nat) : State :=
  if k = 0 then s
  else
    let q := s.satRead p n col
    if !q.1 then q.2
    else
      let r := satEvents (s.fld (pst p + 0x208) 22 15) k (q.2.satCount p n col) (64 - ((s.port p).jobs.filter (·.desc.isNone)).length)
      (q.2.setSatCount p n col r.1).updPort p fun t => { t with jobs := t.jobs ++ List.replicate r.2 { tile := n, col := col } }

/-- PST_PP_STAT.OPEN: a PROGRAM phase or maintenance window is open, die state HOLD counting as one (R136, R137). -/
def State.portOpen (s : State) (p : Nat) : Bool :=
  !s.failSafe && ((s.die p).state = .hold || s.phaseOpen p || s.maintenance p)

/-- Tiles that take places of the activity limit: with MVMs begun, in muster, or in test, a physical tile that serves no index among them
(R91). -/
def State.activeTiles (s : State) (p : Nat) : Nat :=
  let d := s.die p
  ((d.reads.filter fun r => r.begun && (r.todo != [] || r.busy != [])).map (·.tile)).eraseDups.length +
    (d.tiles.filter fun kv => kv.2.st = .muster || kv.2.st = .test).length +
    (s.tests.filter fun t => t.running && t.cls = 2 && t.unit_ / 16384 = p && t.from_ = 7).length

/-- The activity limit in force: ACT_LIMIT at most 1,024, scaled by the throttle level (R91, R92, R501). -/
def State.actLimit (s : State) (p : Nat) : Nat :=
  let a := min (s.fld (pst p + 0x10) 10 0) 1024
  if a = 0 then 0 else max 1 (a * (16 - min (s.fld oPwrStat 31 28) 12) / 16)

/-- Slices of a whole test (Table 5-6): of kinds REF and CONVERTER 1, of COLUMN one for each 64 columns, of SPARE 4. -/
def Test.whole (t : Test) : Nat :=
  if 3 ≤ t.cls then 1
  else b2n (t.kinds % 4 != 0) + (if t.kinds.testBit 2 then ceilDiv (t.hi + 1 - t.lo) 64 else 0) + (if t.kinds.testBit 3 then 4 else 0)

/-- The die of a tile's test, none for a matrix unit or drover engine. -/
def Test.die (t : Test) : Option Nat := if t.cls < 2 then some (t.unit_ / 8192) else if t.cls = 2 then some (t.unit_ / 16384) else none

/-- The next slice, or the one running, is of kind COLUMN or SPARE, which needs the program port (R174, R180). -/
def Test.onPort (t : Test) : Bool := t.cls < 3 && t.slices != 0 && (decide (t.slices < t.whole) || t.kinds % 4 = 0)

/-- A slice that holds the port of a die is running (R174). -/
def State.sliceOnPort (s : State) (p : Nat) : Bool := s.tests.any fun t => t.running && t.onPort && t.die = some p

/-- The phase of the open step (Table 8-1). -/
def State.phase (s : State) : Nat := s.fld oStepStat 27 24

/-- An array-idle interval of a die: after a step's last read of it, from NORM on, until the next step's first, or a maintenance window
(R154; log entry 161). -/
def State.arrayIdle (s : State) (p : Nat) : Bool :=
  let d := s.die p
  (d.state = .run && d.reads = [] &&
    (!(s.trn.opened || s.trn.evalOpen) || !d.stepRead || (s.trn.opened && !s.trn.evalOpen && decide (4 ≤ s.phase)))) ||
  s.maintenance p

/-- A tile's test may run on its die now: at the port, in an array-idle interval, or outside the rules of R174 (R174, R175, R180). -/
def State.testThere (s : State) (t : Test) (p : Nat) : Bool :=
  let q := s.port p
  if t.onPort then q.owner = some 3 && !q.yielding && s.permitted p 3
  else (s.die p).state = .run && (t.forced || s.arrayIdle p) || (s.die p).state = .hold && t.forced

/-- A tile's state lets a test slice start on it. -/
def Test.takes (t : Test) (st : TileState) : Bool :=
  st = .ready || (st = .fenced && (t.forced || t.onPort)) || (st = .hold && t.forced)

/-- A muster may take a tile from its state (Table 5-2). -/
def State.musterMay (s : State) (p n : Nat) : Bool :=
  let st := (s.tile p n).st
  st = .ready || st = .fenced || (st = .hold && (s.die p).state = .hold)

/-- A tile is ready to start a read, a muster or a test slice, but for a place. -/
def State.wantsPlace (s : State) (p n : Nat) : Bool :=
  let d := s.die p
  let st := (s.tile p n).st
  ((st = .ready || st = .read) && d.state = .run && !s.quiesced p && d.reads.any fun r => r.tile = n && r.todo != []) ||
    (s.musterMay p n && d.mus.runs.any (·.want.contains n)) ||
    s.tests.any fun t => !t.running && t.slices != 0 && t.cls < 2 && t.unit_ = p * 8192 + n && s.testThere t p && t.takes st

/-- The tiles that still wait at the activity limit. -/
def State.waiters (s : State) (p : Nat) : List Nat := (s.die p).waitAct.filter (s.wantsPlace p)

/-- A tile may take a place: one is free, and no waiting tile comes before it in round-robin order of logical field, and within a field in
the order in which they came (R91, R92; log entry 153). -/
def State.placeFree (s : State) (p n : Nat) : Bool :=
  let ws := s.waiters p
  let turn (m : Nat) : Nat := (m / 128 + 64 - (s.die p).rrField % 64) % 64
  decide (s.activeTiles p < s.actLimit p) &&
    ((ws.all fun m => m = n || decide (turn n < turn m) || (turn n = turn m && !(ws.takeWhile (· != n)).contains m)))

/-- A tile takes a place: the pointer moves past its field where it had waited. -/
def State.takePlaceOf (s : State) (p n : Nat) : State :=
  s.updDie p fun d => { d with
    waitAct := (s.waiters p).filter (· != n), rrField := if s.waiters p = [] then d.rrField else (n / 128 + 1) % 64 }

/-- A tile ready to start waits at the limit: ACT_STALL, and the event source (R92). -/
def State.waitPlace (s : State) (p n : Nat) : State :=
  ((s.updDie p fun d => { d with waitAct := if (s.waiters p).contains n then s.waiters p else s.waiters p ++ [n] }).event p 0x104 (n / 128) 1).setBit
    (tileStatOff p n) 3

/-- A free physical tile's test may take a place: one is free and no tile waits (R91, R92; log entry 153). -/
def State.placeSpare (s : State) (p : Nat) : Bool := decide (s.activeTiles p < s.actLimit p) && s.waiters p = []

def State.mus (s : State) (p : Nat) : Mus := (s.die p).mus

def State.updMus (s : State) (p : Nat) (f : Mus → Mus) : State := s.updDie p fun d => { d with mus := f d.mus }

/-- A tile that a run wants is taken where its state and the activity limit allow; at the limit it waits (R92, R158, R162). -/
def State.takeTile (s : State) (p : Nat) (r : MRun) (n : Nat) : State × MRun :=
  if !s.musterMay p n then (s, r)
  else if s.placeFree p n then
    ((s.takePlaceOf p n).updTile p n fun t => { t with st := .muster },
     { r with want := r.want.filter (· != n), busy := r.busy ++ [(n, (s.tile p n).st.code)] })
  else (if (s.waiters p).contains n then s else s.waitPlace p n, r)

/-- The runs of a die take those of the named tiles that they want. -/
def State.takeRuns (s : State) (p : Nat) (pick : Nat → Bool) : State :=
  let r := (s.mus p).runs.foldl (fun (a : State × List MRun) r =>
    let q := (r.want.filter pick).foldl (fun (b : State × MRun) n => b.1.takeTile p b.2 n) (a.1, r)
    (q.1, a.2 ++ [q.2])) (s, [])
  r.1.updMus p fun m => { m with runs := r.2 }

def State.musterTake (s : State) (p : Nat) : State := s.takeRuns p fun _ => true

/-- A tile enters a state; one that is test-overdue enters FENCED in place of READY or HOLD (R175), and a muster that wants the tile takes
it at once (R154). -/
def State.setTileState (s : State) (p n : Nat) (st : TileState) : State :=
  let s1 := s.updTile p n fun t =>
    if t.fence && (st = .ready || st = .hold || st = .fenced) then { t with st := .fenced, fence := false } else { t with st := st }
  if (s.mus p).runs.any (·.want.contains n) then s1.takeRuns p (· = n) else s1

/-- A tile is fenced: at once, or when the engine or read that has it lets it go (R175). -/
def State.fenceTile (s : State) (p n : Nat) : State :=
  match (s.tile p n).st with
  | .ready => s.setTileState p n .fenced
  | .hold => s.setTileState p n .fenced
  | .fenced => s
  | _ => s.updTile p n fun x => { x with fence := true }

/-- Physical field of a physical tile. -/
def fieldOf (pt : Nat) : Nat := pt / 130

def dieOk (p : Nat) : Bool := p < 8
def tileOk (p n : Nat) : Bool := p < 8 && n < 8192

end Sys2Proof.Machine
end

