-- ==== Sys2Proof/Machine/Port.lean ====
section
/-! DEFINITION. The program port of a pasture die: its arbiter and scopes (R124 to R138), batches of program-and-verify
(R111 to R119), the reconcile buffer (R133 to R135), wear (R140), and the VPROG switch as the port sees it (R497, R498). -/

namespace Sys2Proof.Machine

/-- Rank of a requester (Table 4-12). -/
def State.rank (s : State) (p i : Nat) : Nat :=
  s.fld (pst p + 0x204) (3 * i + 2) (3 * i)

def State.lockEn (s : State) (p i : Nat) : Bool := s.bit (pst p + 0x204) (24 + i)

def State.fenced (s : State) (p i : Nat) : Bool := s.bit (pst p + 0x214) i

/-- Entries of the die's request list not yet handed to a batch (R320). -/
def State.listLeft (s : State) (p : Nat) : Nat := (s.shr p).fill - (s.port p).pos

/-- Every UPDATE_APPLY of the step before a PROGRAM_FLUSH in its ring that names shearer unit p has completed (R144). -/
def State.flushReady (s : State) (p : Nat) : Bool :=
  match (s.port p).flush with
  | none => false
  | some f =>
    match f.desc with
    | none => true
    | some (c, ptr) =>
      !((s.ctx c).infl.takeWhile (·.ptr != ptr)).any fun d =>
        d.op = 0x29 && d.step && d.held.isNone && (d.u8 16).testBit p

/-- The remap and rescale engine may run queued rescales, or remaps, now (R144, R146). -/
def State.mayRescale (s : State) (p : Nat) : Bool :=
  s.maintenance p || (s.die p).state = .hold || (match (s.port p).flush with | some f => f.rescale | none => false)

def State.mayRemap (s : State) (p : Nat) : Bool :=
  s.maintenance p || (s.die p).state = .hold || (match (s.port p).flush with | some f => f.remap | none => false)

/-- A requester's request is asserted (Table 4-5). -/
def State.asserted (s : State) (p i : Nat) : Bool :=
  let q := s.port p
  match i with
  | 0 => s.flushReady p && s.listLeft p != 0
  | 1 => q.jobs.any (fun j => j.desc.isSome || j.unfence || s.mayRescale p) || (s.mayRemap p && (q.remaps != [] || q.retiring != []))
  | 2 => q.restore != []
  | 3 => s.tests.any fun t => t.onPort && t.die = some p
  | 4 => match q.direct with | some d => decide (d.pos < d.entries.length) | none => false
  | _ => false

/-- Requesters the arbiter considers (R125, R132). -/
def State.eligible (s : State) (p : Nat) : List Nat :=
  (List.range 5).filter fun i => s.asserted p i && s.permitted p i && !s.fenced p i

/-- The first of a list of requesters at or after a pointer in cyclic index order (R125). -/
def firstFrom (ptr : Nat) (xs : List Nat) : Option Nat :=
  (List.range 5).findSome? fun k => let i := (ptr + k) % 5; if xs.contains i then some i else none

/-- The winner of an arbitration and its rank. -/
def State.winner (s : State) (p : Nat) : Option (Nat × Nat) :=
  let es := s.eligible p
  let top := (es.map (s.rank p)).foldl max 0
  (firstFrom (mapGet 0 (s.port p).rr top) (es.filter fun i => s.rank p i = top)).map fun i => (i, top)

/-- The port is held above every rank by reconcile reads (R133). -/
def Port.reconHeld (q : Port) : Bool := q.toRecon != []

/-- Grant the port to the winner, if any (R125). -/
def State.arbitrate (s : State) (p : Nat) : State :=
  match s.winner p with
  | none => s
  | some (i, r) =>
    s.updPort p fun q => { q with owner := some i, issued := false, yielding := false,
                                  rr := mapSet 0 q.rr r ((i + 1) % 5) }

def execPortArbitrate (p : Nat) (s : State) : Res :=
  let q := s.port p
  let t := if q.owner.isNone && !q.reconHeld then s.arbitrate p else s
  let wait := (List.range 5).filter fun i => t.asserted p i && (t.port p).owner != some i
  onUnit (dieOk p) (wait.foldl (fun u i => u.event p 0x116 i 1) t)

/-- A requester of strictly higher rank than the owner is eligible (R126). -/
def State.outranked (s : State) (p : Nat) : Bool :=
  match (s.port p).owner with
  | none => false
  | some o => (s.eligible p).any fun i => i != o && decide (s.rank p o < s.rank p i)

/-- A batch whose retry is still to start (R117). -/
def Batch.atRetry (b : Batch) : Bool := b.retry && b.phase = .reading

/-- No batch of the port runs: between a batch and its retry a grant without LOCK may pass (R120). -/
def Port.idle (q : Port) : Bool := q.batches.all Batch.atRetry

/-- The grant of a preempted owner passes: tiles between a batch and its retry go back to READY, and the retry follows once the owner is
granted again (R120, R126, R127). -/
def State.passGrant (s : State) (p : Nat) : State :=
  let home : TileState := if (s.die p).state = .hold then .hold else .ready
  ((s.port p).batches.foldl (fun t b => t.setTileState p b.tile home) s).updPort p fun q =>
    { q with owner := none, issued := false, yielding := false }

/-- With no LOCK set, the owner issues no further batch, and the grant passes once its batches have ended (R126). -/
def State.preempt (s : State) (p : Nat) : State :=
  let q := s.port p
  if q.scopes = [] && s.outranked p then
    if q.idle && !s.sliceOnPort p then (s.passGrant p).arbitrate p
    else s.updPort p fun q => { q with yielding := true }
  else s

def execPortPreempt (p : Nat) (s : State) : Res := onUnit (dieOk p) (s.preempt p)

/-- The owner drops its request (R126, R129). -/
def State.dropRequest (s : State) (p : Nat) : State :=
  let q := s.port p
  if q.owner.isSome && q.batches = [] && q.scopes = [] && !s.sliceOnPort p then
    s.updPort p fun q => { q with owner := none, issued := false, yielding := false }
  else s

def execRequestDrop (p : Nat) (s : State) : Res := onUnit (dieOk p) (s.dropRequest p)

/-- Tiles programming at once (R115): of the flush in hand for the shearer unit, else of PST_PP_CTL. -/
def State.tileLim (s : State) (p : Nat) : Nat :=
  let r := min (s.fld (pst p + 0x200) 8 0) 256
  match (s.port p).owner, (s.port p).flush with
  | some 0, some f => if f.lim = 0 then r else min f.lim 256
  | _, _ => r

/-- An owner whose LOCKEN is 1 sets a scope, at most one on each tile and TILE_LIM in all; the tile takes or keeps state
PROGRAM (R127). -/
def State.lockSet (s : State) (p : Nat) (n col : Nat) (kind : ScopeKind) : State :=
  let q := s.port p
  match q.owner with
  | none => s
  | some o =>
    if s.lockEn p o && !q.scopes.any (·.tile = n) && decide (q.scopes.length < s.tileLim p) then
      s.updPort p fun q => { q with scopes := q.scopes ++ [⟨n, col, kind, o⟩] }
    else s

def execLockSet (p n col : Nat) (kind : ScopeKind) (s : State) : Res := onUnit (tileOk p n) (s.lockSet p n col kind)

/-- The state a programmed tile returns to (R127, R137). -/
def State.homeState (s : State) (p : Nat) : TileState := if (s.die p).state = .hold then .hold else .ready

/-- A tile leaves PROGRAM unless a scope or a batch still holds it. -/
def State.leaveProgram (s : State) (p n : Nat) : State :=
  let q := s.port p
  if (s.tile p n).st = .program && !q.scopes.any (·.tile = n) && !q.batches.any (·.tile = n) then
    s.setTileState p n (s.homeState p)
  else s

def State.lockClear (s : State) (p n : Nat) : State :=
  (s.updPort p fun q => { q with scopes := q.scopes.filter (·.tile != n) }).leaveProgram p n

def execLockClear (p n : Nat) (s : State) : Res := onUnit (tileOk p n) (s.lockClear p n)

/-- Base of a die's request list in force (R320). -/
def State.listBase (s : State) (p : Nat) : Nat :=
  2 ^ 32 * ((s.reg (0x1001010 + 64 * p)).toNat % 256) + 64 * ((s.reg (0x100100C + 64 * p)).toNat / 64)

/-- Fields of a program request entry (Table 4-2). -/
def reqTile (e : Nat) : Nat := fld e 12 0
def reqRow (e : Nat) : Nat := fld e 21 13
def reqCol (e : Nat) : Nat := fld e 30 22
def reqNew (e : Nat) : Int := sext 9 (fld e 39 31)
def reqOld (e : Nat) : Int := sext 9 (fld e 48 40)

/-- The physical tile an entry names, where it names a weight of a mapped tile. -/
def State.entryTile (s : State) (p e : Nat) : Option Nat :=
  if reqRow e < 480 && reqCol e < s.tileCols p (reqTile e) then s.ptile p (reqTile e) else none

/-- Items a batch holds: four cells each, 60 in all, both columns of a replica together (R115, R121). -/
def State.batchItems (s : State) (p n : Nat) : Nat := if s.replica p n then 7 else 15

/-- The entries that join a batch after its first: the same tile and row group, no weight twice (R112). -/
def packRun (ok : Nat → Bool) (n g room : Nat) (seen : List (Nat × Nat)) : List Nat → Nat
  | [] => 0
  | e :: es =>
    if room = 0 then 0
    else if reqTile e = n && reqRow e / 60 = g && ok e && !seen.contains (reqRow e, reqCol e) then
      1 + packRun ok n g (room - 1) ((reqRow e, reqCol e) :: seen) es
    else 0

/-- The run of entries at the head of a list that makes the next batch. -/
def State.nextRun (s : State) (p : Nat) (es : List Nat) : List Nat :=
  match es with
  | [] => []
  | e :: _ => es.take (packRun (fun x => (s.entryTile p x).isSome) (reqTile e) (reqRow e / 60) (s.batchItems p (reqTile e)) [] es)

/-- A weight lies in a scope (R127). -/
def Scope.has (sc : Scope) (row col : Nat) : Bool :=
  sc.col = col && match sc.kind with | .weight r => r = row | _ => true

/-- The tile may take a batch of the owner with these weights now: in READY, or in HOLD with the die, or in PROGRAM under a scope of the
owner that the batch belongs to (R127, R136, R137). -/
def State.tileTakes (s : State) (p n : Nat) (ws : List (Nat × Nat)) : Bool :=
  let q := s.port p
  let st := (s.tile p n).st
  !q.batches.any (·.tile = n) &&
  (st = .ready || (st = .hold && (s.die p).state = .hold) ||
    (st = .program && q.scopes.any fun sc => sc.tile = n && q.owner = some sc.owner && ws.all fun w => sc.has w.1 w.2))

/-- The reconcile buffer has room for every weight of a further batch (R133). -/
def Port.room (q : Port) (n : Nat) : Bool :=
  decide (q.recon.length + ((q.batches.map fun b => b.items.length).foldl (· + ·) 0) + n ≤ 2048)

/-- Put a batch in flight with its level read (R116). -/
def State.launch (s : State) (p owner n pt : Nat) (items : List Item) : State :=
  let s1 := s.updPort p fun q =>
    { q with batches := q.batches ++ [{ owner := owner, tile := n, ptile := pt, items := items }], issued := true }
  (s1.setTileState p n .program).event p 0x110 0 1

/-- The conditions common to every batch. -/
def State.mayBatch (s : State) (p n : Nat) (run : List Nat) : Bool :=
  let q := s.port p
  s.tileTakes p n (run.map fun e => (reqRow e, reqCol e)) && !q.yielding && decide (q.batches.length < s.tileLim p) && q.room run.length

/-- One more exception counted for the flush in hand. -/
def Port.exceptions (q : Port) (n : Nat) : Port :=
  { q with flush := q.flush.map fun f => { f with except := f.except + n } }

/-- An entry of the list passed over as an exception. -/
def Port.passOver (q : Port) : Port := { q with pos := q.pos + 1 }.exceptions 1

/-- The next batch of the shearer unit, from the request list in list order (R112). Entries of a rescaled column are
superseded (R121); an entry whose tile is not mapped counts as an exception and programs nothing. -/
def State.batchFromList (s : State) (p : Nat) : State :=
  let q := s.port p
  let left := min (s.listLeft p) 16
  let r := s.fetch (shrMaster p) (s.listBase p + 8 * q.pos) (8 * left)
  match r.1 with
  | none => r.2
  | some bs =>
    let es := (List.range left).map fun i => leAt bs (8 * i) 8
    match es with
    | [] => s
    | e :: _ =>
      if q.super.contains (reqTile e, reqCol e) then
        (r.2.updPort p Port.passOver).event p 0x118 0 1
      else
        match s.entryTile p e with
        | none => r.2.updPort p Port.passOver
        | some pt =>
          let run := (s.nextRun p es).takeWhile fun x => !q.super.contains (reqTile x, reqCol x)
          let n := reqTile e
          if s.mayBatch p n run then
            let items : List Item := run.map fun x =>
              ⟨reqRow x, reqCol x, s.pcols p n (reqCol x), .request (reqNew x), some (reqOld x), 0⟩
            (r.2.updPort p fun q => { q with pos := q.pos + run.length }).launch p 0 n pt items
          else s

/-- The aim of a PROGRAM_DIRECT entry (R145). In MASTER mode a weight's aim is its master's canonical code, and a weight no
span covers is left (R569). -/
def State.directAim (s : State) (p : Nat) (master : Bool) (e : Nat) : Aim × State :=
  if !master then (.levels ⟨Machine.fld e 35 32, Machine.fld e 39 36, Machine.fld e 43 40, Machine.fld e 47 44⟩, s)
  else
    match s.locate p (reqTile e) (reqRow e) (reqCol e) with
    | none => (.keep, s)
    | some (sp, r, c) =>
      let q := s.fetch (shrMaster p) (sp.masterAt r c) 4
      match q.1 with
      | none => (.keep, q.2)
      | some bs => (.canon (codeOfX (quotX (leNat bs) (s.scol p (reqTile e) (reqCol e)))), q.2)

/-- The next batch of PROGRAM_DIRECT. An entry that names no weight of a mapped tile programs nothing, and its result is code 0 with FAIL
(DESIGN CHOICE, log entry 154). -/
def State.batchFromDirect (s : State) (p : Nat) (d : Direct) : State :=
  match d.entries.drop d.pos with
  | [] => s
  | e :: es =>
    let n := reqTile e
    match s.entryTile p e with
    | none =>
      let d' := { d with pos := d.pos + 1, results := mapSet 0 d.results d.pos (2 ^ 15) }
      s.updPort p fun q => { q with direct := some d' }
    | some pt =>
      let run := s.nextRun p (e :: es)
      if s.mayBatch p n run then
        let r := run.foldl (fun (acc : List Item × State) x =>
          let a := acc.2.directAim p d.master x
          (acc.1 ++ [⟨reqRow x, reqCol x, s.pcols p n (reqCol x), a.1, none, d.pos + acc.1.length⟩], a.2)) ([], s)
        (r.2.updPort p fun q => { q with direct := some { d with pos := d.pos + run.length } }).launch p 4 n pt r.1
      else s

/-- The port's owner starts its next batch. The sequences of the engines are commands of their own. -/
def State.batchStart (s : State) (p : Nat) : State :=
  let q := s.port p
  match q.owner with
  | some 0 => if s.permitted p 0 && s.flushReady p then s.batchFromList p else s
  | some 4 =>
    match q.direct with
    | some d => if s.permitted p 4 then s.batchFromDirect p d else s
    | none => s
  | _ => s

/-- Verify tolerance in units of 0.01 µS (Table 4-11). -/
def State.vtol (s : State) (p : Nat) : Nat := 5 * max 2 (s.fld (pst p + 0x200) 23 20)

/-- A conductance lies within a tolerance of a level's nominal. -/
def passes (tol g l : Nat) : Bool := decide (g ≤ nominal l + tol) && decide (nominal l ≤ g + tol)

/-- Count one wear event of a physical weight-column; at the wear limit the column waits for remap (R140, R142). -/
def State.wearOne (s : State) (p pt pcol : Nat) : State :=
  let k := pt * 536 + pcol
  let v := min ((s.die p).worn k + 1) (2 ^ 24 - 1)
  let s1 := s.updDie p fun d => { d with wear := mapSet d.wear0 d.wear k v }
  let lim := min (s.fld (pst p + 0x20C) 23 0) 1000000
  if lim ≤ v && !(s.port p).remaps.contains (pt, pcol) && pcol < 528 then
    s1.updPort p fun q => { q with remaps := q.remaps ++ [(pt, pcol)] }
  else s1

/-- A column receives a pulse: counted once in a PROGRAM phase or window (R140). -/
def State.wearPulse (s : State) (p pt pcol : Nat) : State :=
  let k := pt * 536 + pcol
  if (s.die p).pulsed.contains k then s
  else (s.updDie p fun d => { d with pulsed := k :: d.pulsed }).wearOne p pt pcol

/-- A PROGRAM phase of a die ends, or a new phase or maintenance window begins (R140). -/
def State.endPhase (s : State) (p : Nat) : State := s.updDie p fun d => { d with pulsed := [] }
def State.newWindow (s : State) (p : Nat) : State := (s.noteWindow p).endPhase p

/-- PST_DIE_CTL.QUIESCE changes: within a step that opens or ends a maintenance window of the die (R136, R140). -/
def State.afterQuiesce (s : State) (p : Nat) (was : Bool) : State :=
  if s.quiesced p != was && s.stepOpen then s.newWindow p else s

def State.setDieQuiesce (s : State) (p : Nat) (on : Bool) : State := (s.setFld (pst p + 0x10) 12 12 (b2n on)).afterQuiesce p (s.quiesced p)

/-- The pulse a pending cell gets next (R116, R117). -/
def BCell.pulse (c : BCell) (first2 : Bool) : BCell :=
  if c.done then c
  else
    let pol := decide (c.g < nominal c.target)
    let k := if first2 then 2 else if c.pol != some pol then 0 else min (c.k + 1) 5
    { c with pol := some pol, k := k, pulses := c.pulses + 1 }

/-- Give every pending cell its next pulse, or end the batch's sequence where none is pending. -/
def State.nextPulse (s : State) (p : Nat) (b : Batch) (first2 : Bool) : State :=
  let pend := b.cells.filter (!·.done)
  let b' := if pend = [] then { b with phase := .ended }
    else { b with phase := .pulsing, cells := b.cells.map (·.pulse first2) }
  let s1 := s.updPort p fun q => { q with batches := q.batches.map fun x => if x.tile = b.tile then b' else x }
  ((pend.map (·.pcol)).eraseDups.foldl (fun t pc => t.wearPulse p b.ptile pc) s1).event p 0x111 0 pend.length

/-- The conductances a read of a batch's cells gives, a missing one as the cell's stored level is nominally. -/
def readOr (g : List Nat) (i dflt : Nat) : Nat := g.getD i dflt

/-- Cells of the four of a weight in one column, found at the conductances from position k of a read. -/
def State.itemCells (s : State) (p : Nat) (b : Batch) (i : Nat) (it : Item) (k pcol : Nat) (g : List Nat) :
    List BCell × Cells :=
  let old := s.cells p b.ptile it.row pcol
  let gs := (List.range 4).map fun j => readOr g (k + j) (nominal (old.level j))
  let f : Cells := ⟨nearest (gs.getD 0 0), nearest (gs.getD 1 0), nearest (gs.getD 2 0), nearest (gs.getD 3 0)⟩
  let t := it.aim.target f
  ((List.range 4).map fun j =>
    { item := i, pcol := pcol, which := j, target := t.level j, g0 := gs.getD j 0, g := gs.getD j 0,
      done := t.level j = f.level j }, f)

/-- Every cell of a batch at its first level read, with the items whose found code differs from W_OLD and the first item
that carries: of several in one batch only its weight is locked, as a tile holds one scope (R127; DESIGN CHOICE, log entry 42). -/
def State.levelCells (s : State) (p : Nat) (b : Batch) (g : List Nat) : List BCell × Nat × Option Item :=
  (List.range b.items.length).foldl (fun (acc : List BCell × Nat × Option Item) i =>
    let it := b.items.getD i {}
    let r := it.pcols.foldl (fun (a : List BCell × Bool × Bool) pcol =>
      let q := s.itemCells p b i it a.1.length pcol g
      (a.1 ++ q.1, a.2.1 || (match it.wOld with | some w => decide (w ≠ q.2.code) | none => false),
        a.2.2 || it.aim.carries q.2)) (acc.1, false, false)
    (r.1, acc.2.1 + b2n r.2.1, if r.2.2 && acc.2.2.isNone then some it else acc.2.2)) ([], 0, none)

/-- A physical column in use: it serves its own home, or a home it took over (R87). -/
def State.colInUse (s : State) (p n pcol : Nat) : Bool :=
  if pcol < 512 then s.servedBy p n pcol = pcol else s.fld (colMapOff p n (pcol - 512)) 31 30 = 1

/-- The level read of a batch ends: targets are derived and the cells that differ are pulsed; a carry locks its weight
(R102, R113, R116, R120). The level read of a retry judges the failing cells anew, each starting at ladder step 2
(R117). -/
def State.levelRead (s : State) (p : Nat) (b : Batch) (g : List Nat) : State :=
  if b.retry then
    let cs := (List.range b.cells.length).map fun i =>
      let c := b.cells.getD i {}
      if c.done then c
      else
        let v := readOr g i c.g
        { c with g := v, done := passes (s.vtol p) v c.target }
    s.nextPulse p { b with cells := cs } true
  else
    let r := s.levelCells p b g
    let s1 := s.event p 0x114 0 r.2.1
    let s2 := match r.2.2 with
      | some it => s1.lockSet p b.tile it.col (.weight it.row)
      | none => s1
    s2.nextPulse p { b with cells := r.1 } false

/-- The batch in flight on a tile in a phase. -/
def State.batchOn (s : State) (p n : Nat) (ph : BPhase) : Option Batch :=
  (s.port p).batches.find? fun b => b.tile = n && b.phase = ph

/-- A level read ends. The one of a retry runs once its owner holds the port and gives it up to none (R120). -/
def execLevelReadDone (p n : Nat) (g : List Nat) (s : State) : Res :=
  onUnit (tileOk p n) (match s.batchOn p n .reading with
    | some b =>
      if !b.retry then s.levelRead p b g
      else if (s.port p).owner = some b.owner && (!(s.port p).yielding || (s.port p).scopes.any (·.tile = n)) &&
          ((s.tile p n).st = .program || (s.tile p n).st = s.homeState p) then (s.setTileState p n .program).levelRead p b g
      else s
    | none => s)

/-- A verify read ends: every cell is judged; pending cells get the next pulse; after the sixth, a retry or the end
(R116 to R118). -/
def State.verifyRead (s : State) (p : Nat) (b : Batch) (g : List Nat) : State :=
  let cs := (List.range b.cells.length).map fun i =>
    let c := b.cells.getD i {}
    let v := readOr g i c.g
    { c with g := v, done := c.done || passes (s.vtol p) v c.target }
  let b1 := { b with cells := cs, iter := b.iter + 1 }
  let fail := cs.filter (!·.done)
  if fail = [] || b1.iter < 6 then s.nextPulse p b1 false
  else
    let s1 := if b.retry then s else s.event p 0x112 0 fail.length
    if s.bit (pst p + 0x200) 24 && !b.retry then
      let b2 := { b1 with retry := true, phase := .reading, iter := 0 }
      let s2 := s1.updPort p fun q => { q with batches := q.batches.map fun x => if x.tile = b.tile then b2 else x }
      (fail.map (·.pcol)).eraseDups.foldl (fun t pc => t.wearOne p b.ptile pc) s2
    else
      s1.updPort p fun q => { q with batches := q.batches.map fun x =>
        if x.tile = b.tile then { b1 with phase := .ended } else x }

/-- A verify read follows its pulse, which starts only while VPROG lies in its window (R497). -/
def execVerifyReadDone (p n : Nat) (g : List Nat) (s : State) : Res :=
  onUnit (tileOk p n) (match s.batchOn p n .pulsing with
    | some b => if (s.port p).vIn then s.verifyRead p b g else s
    | none => s)

/-- The stored levels after a batch: a cell that passed holds its target, another the level nearest the conductance
reached, as its last read gave it, also where a pulse without a read followed (R119, R132; DESIGN CHOICE, log entry 155). -/
def State.storeLevels (s : State) (p : Nat) (b : Batch) : State :=
  b.cells.foldl (fun t c =>
    let row := (b.items.getD c.item {}).row
    t.setCells p b.ptile row c.pcol ((t.cells p b.ptile row c.pcol).set c.which
      (if c.done then c.target else nearest c.g))) s

/-- A cell is stuck: after all its pulses its conductance lies within 1.25 µS of its first level read (R118). -/
def BCell.stuck (c : BCell) : Bool := !c.done && decide (c.g ≤ c.g0 + 125) && decide (c.g0 ≤ c.g + 125)

/-- A physical column is entered for remap. -/
def State.askRemap (s : State) (p pt pcol : Nat) : State :=
  if (s.port p).remaps.contains (pt, pcol) then s
  else s.updPort p fun q => { q with remaps := q.remaps ++ [(pt, pcol)] }

/-- Subject of a physical weight-column in the threshold table. -/
def colSubject (p pt pcol : Nat) : Nat := (p * 2 ^ 14 + pt) * 1024 + pcol

/-- Failing cells of one item: verify failures of its columns, and where the batch gave all its pulses stuck cells and their remaps (R118,
R119). -/
def State.failItem (s : State) (p : Nat) (b : Batch) (i : Nat) : State :=
  let cs := b.cells.filter fun c => c.item = i && !c.done
  (cs.map (·.pcol)).eraseDups.foldl (fun t pc =>
    let stuck := if b.phase = .ended then (cs.filter fun c => c.pcol = pc && c.stuck).length else 0
    let t1 := t.event p 0x113 0 stuck
    let t2 := if stuck != 0 && s.bit (pst p + 0x200) 16 then t1.askRemap p b.ptile pc else t1
    let r := t2.threshold 4 (colSubject p b.ptile pc) 1
    if r.1 then r.2.askRemap p b.ptile pc else r.2) s

/-- The code of an item's cells as stored; in replica mode that of the first of its two columns (DESIGN CHOICE, log entry 156). -/
def State.itemCode (s : State) (p : Nat) (b : Batch) (it : Item) : Int :=
  (s.cells p b.ptile it.row (it.pcols.headD it.col)).code

/-- What the requester counts of one weight: the flush its requests and exceptions, PROGRAM_DIRECT its result word. -/
def Port.account (q : Port) (owner : Nat) (bad : Bool) (idx word : Nat) : Port :=
  match owner with
  | 0 => { q with flush := q.flush.map fun f => { f with applied := f.applied + 1, except := f.except + b2n bad } }
  | 4 => { q with direct := q.direct.map fun d => { d with results := mapSet 0 d.results idx word } }
  | _ => q

/-- One weight of an ended batch: failures handled, the reconcile entry made where a cell failed or the weight was
programmed directly, and the requester's count kept (R119, R144, R145). -/
def State.endItem (s : State) (p : Nat) (b : Batch) (i : Nat) : State :=
  let it := b.items.getD i {}
  let bad := b.cells = [] || b.cells.any fun c => c.item = i && !c.done
  let keep := it.aim = .keep
  let s1 := if bad then s.failItem p b i else s
  let w := s1.itemCode p b it
  let s2 := if bad || (b.owner = 4 && !keep) then
      s1.updPort p fun q => { q with recon := q.recon ++ [⟨b.tile, it.row, it.col, w⟩] }
    else s1
  s2.updPort p fun q => q.account b.owner bad it.idx (ofInt 9 w + 2 ^ 15 * b2n (bad || keep))

/-- A flush has applied its die's list and what else it orders (R144). -/
def State.flushDone (s : State) (p : Nat) : Bool :=
  let q := s.port p
  match q.flush with
  | none => true
  | some f => s.flushReady p && s.listLeft p = 0 && !q.batches.any (·.owner = 0) &&
      (!f.rescale || !q.jobs.any (·.desc.isNone)) && (!f.remap || q.remaps = []) && (!f.waitRecon || q.recon = [])

/-- Empty a list that has been applied: the next entry is written at the base again (R320). -/
def State.resetList (s : State) (p : Nat) : State :=
  if s.listLeft p = 0 && !(s.port p).batches.any (·.owner = 0) then
    (s.setShr p { s.shr p with fill := 0 }).updPort p fun q => { q with pos := 0, super := [] }
  else s

/-- Dies named in a mask, rising. -/
def dieList (mask : Nat) : List Nat := bitsSet 8 mask

/-- Complete the PROGRAM_FLUSH of a descriptor once every named die is done: the result record is written and the phases
close (R144). -/
def State.finishFlush (s : State) (c : Nat) (d : Desc) : State :=
  let ds := dieList (d.u8 16)
  let mine (p : Nat) : Bool := match (s.port p).flush with
    | some f => f.desc = some (c, d.ptr)
    | none => false
  if ds.all fun p => mine p && s.flushDone p then
    let words := ds.flatMap fun p => match (s.port p).flush with
      | some f => leBytes 4 f.applied ++ leBytes 4 f.except
      | none => []
    let s1 := ds.foldl (fun t p => ((t.resetList p).updPort p fun q => { q with flush := none }).endPhase p) s
    if d.u64 24 = 0 then s1.complete c d.ptr stSuccess
    else
      let r := s1.store (s.ctxWho c) (daddr (d.u64 24)) words
      r.2.complete c d.ptr r.1.status
  else s

/-- Complete a PROGRAM_DIRECT whose entries have all ended (R145). -/
def State.finishDirect (s : State) (p : Nat) : State :=
  match (s.port p).direct with
  | none => s
  | some x =>
    if x.pos < x.entries.length || (s.port p).batches.any (·.owner = 4) then s
    else
      let s1 := s.updPort p fun q => { q with direct := none }
      match s.started x.ctx x.ptr with
      | none => s1
      | some d =>
        if d.u64 32 = 0 then s1.complete x.ctx x.ptr stSuccess
        else
          let bs := (List.range x.entries.length).flatMap fun i => leBytes 2 (mapGet 0 x.results i)
          let r := s1.store (s.ctxWho x.ctx) (daddr (d.u64 32)) bs
          r.2.complete x.ctx x.ptr r.1.status

/-- What follows when work of a port has ended: the list empties, a flush or a PROGRAM_DIRECT completes. -/
def State.portSettle (s : State) (p : Nat) : State :=
  let s1 := s.finishDirect p
  match (s1.port p).flush with
  | none => s1
  | some f =>
    match f.desc with
    | some (c, ptr) =>
      match s1.started c ptr with
      | some d => s1.finishFlush c d
      | none => if s1.flushDone p then ((s1.resetList p).updPort p fun q => { q with flush := none }).endPhase p else s1
    | none => if s1.flushDone p then ((s1.resetList p).updPort p fun q => { q with flush := none }).endPhase p else s1

/-- A scope is the weight of a carry that a batch holds. -/
def Scope.within (sc : Scope) (b : Batch) : Bool :=
  sc.tile = b.tile && match sc.kind with
    | .weight row => b.items.any fun it => it.row = row && it.col = sc.col
    | _ => false

/-- A batch ends: levels stored, failures entered, the carry's scope cleared, the tile released, and the grant passed where
a higher rank waits (R119, R126, R127). -/
def State.batchEnd (s : State) (p : Nat) (b : Batch) : State :=
  let s1 := s.storeLevels p b
  let s2 := (List.range b.items.length).foldl (fun t i => t.endItem p b i) s1
  let s3 := s2.updPort p fun q =>
    { q with batches := q.batches.filter (·.tile != b.tile), scopes := q.scopes.filter fun sc => !sc.within b }
  let s4 := s3.leaveProgram p b.tile
  let s5 := if (s4.port p).yielding && (s4.port p).idle then s4.passGrant p else s4
  s5.portSettle p

/-- The port's owner starts its next batch; entries passed over may have been the last (R144, R145). -/
def execBatchStart (p : Nat) (s : State) : Res := onUnit (dieOk p) ((s.batchStart p).portSettle p)

def execBatchEnd (p n : Nat) (s : State) : Res :=
  onUnit (tileOk p n) (match s.batchOn p n .ended with
    | some b => s.batchEnd p b
    | none => s)

/-- The rescales of a list of scopes, to run again when the engine next holds the port and to take their tiles out of FENCED (R135). -/
def rescalesAgain (scs : List Scope) : List RsJob :=
  scs.filterMap fun sc => match sc.kind with
    | .rescale mode scol => some { tile := sc.tile, col := sc.col, mode := mode, scol := scol, unfence := true : RsJob }
    | _ => none

/-- Revoked rescales stand in the queue again: those still in it go on, and others are added. -/
def Port.requeue (q : Port) (js : List RsJob) : Port :=
  let same (j x : RsJob) : Bool := j.tile = x.tile && j.col = x.col
  { q with jobs := q.jobs.map (fun x => if js.any fun j => same j x then { x with unfence := true } else x) ++
                   js.filter fun j => !q.jobs.any (same j) }

/-- The liveness monitor revokes a locked grant (R131, R132, R135): the owner is fenced, its batches end where they stand,
their unfinished weights as verify failures (DEDUCED, log entry 14), its scopes go to the reconcile read, after which the record is sent;
the tile of a revoked rescale is fenced and the rescale queued again. -/
def State.revoke (s : State) (p o : Nat) : State :=
  let q := s.port p
  let mine := q.scopes
  let again := rescalesAgain mine
  let s1 := (s.setBit (pst p + 0x214) o).event p 0x117 0 1
  let tiles := (q.batches.map (·.tile) ++ mine.map (·.tile)).eraseDups
  let s2 := q.batches.foldl (fun t b => t.batchEnd p b) s1
  let s3 := s2.updPort p fun q =>
    { q.requeue again with batches := [], scopes := [], toRecon := q.toRecon ++ mine, revoked := some (o, mine), owner := none,
                           issued := false, yielding := false }
  let s4 := tiles.foldl (fun t n => t.leaveProgram p n) s3
  let s5 := (again.foldl (fun t j => t.setTileState p j.tile .fenced) s4).moduleStrike 1
  let r := s5.threshold 11 (8 * p + o) 1
  if r.1 then r.2.drain false else r.2

def execLivenessRevoke (p : Nat) (s : State) : Res :=
  onUnit (dieOk p) (match (s.port p).owner with
    | some o => if (s.port p).scopes = [] then s else s.revoke p o
    | none => s)

/-- Rows a scope covers. -/
def Scope.rows (sc : Scope) : List Nat :=
  match sc.kind with
  | .weight row => [row]
  | _ => List.range 480

/-- The levels that a reconcile read finds in one column of a weight, from the conductances given or as stored. -/
def State.foundCells (s : State) (p pt row pc k : Nat) (g : List Nat) : Cells :=
  let old := s.cells p pt row pc
  let l (j : Nat) : Nat := nearest (readOr g (k + j) (nominal (old.level j)))
  ⟨l 0, l 1, l 2, l 3⟩

/-- One weight of a reconcile read: the code found (R133), in replica mode of the first of its columns (log entry 156). -/
def State.foundCode (s : State) (p n row col k : Nat) (g : List Nat) : Int :=
  match s.ptile p n with
  | none => 0
  | some pt => (s.foundCells p pt row ((s.pcols p n col).headD col) k g).code

/-- The levels found by a reconcile read are what the cells of the weight hold, in every column of it. -/
def State.storeFound (s : State) (p n row col k : Nat) (g : List Nat) : State :=
  match s.ptile p n with
  | none => s
  | some pt =>
    let pcs := s.pcols p n col
    (List.range pcs.length).foldl (fun t i =>
      let pc := pcs.getD i 0
      t.setCells p pt row pc (s.foundCells p pt row pc (k + 4 * i) g)) s

/-- The word of a scope in a fault record: tile in [12:0], column in [21:13], row in [30:22], 511 for the whole column (log entry 157). -/
def Scope.word (sc : Scope) : Nat := sc.tile + 2 ^ 13 * sc.col + 2 ^ 22 * (match sc.kind with | .weight row => row | _ => 511)

/-- The reconcile reads of a revocation have ended: its record is sent and the port returns to arbitration (R132). -/
def State.endRevoke (s : State) (p : Nat) : State :=
  match (s.port p).revoked with
  | some (o, scs) =>
    if (s.port p).toRecon != [] then s
    else (s.updPort p fun q => { q with revoked := none }).raiseFault 1 0x0301 o (scs.map Scope.word)
  | none => s

/-- The reconcile read of the oldest revoked scope, once the buffer takes its entries (R133). -/
def State.reconcileRead (s : State) (p : Nat) (g : List Nat) : State :=
  let q := s.port p
  match q.toRecon with
  | [] => s
  | sc :: rest =>
    let rows := sc.rows
    let wide := 4 * (s.pcols p sc.tile sc.col).length
    if q.recon.length + rows.length ≤ 2048 then
      let es := (List.range rows.length).map fun i =>
        ({ tile := sc.tile, row := rows.getD i 0, col := sc.col,
           w := s.foundCode p sc.tile (rows.getD i 0) sc.col (wide * i) g } : Recon)
      let s1 := (List.range rows.length).foldl (fun t i => t.storeFound p sc.tile (rows.getD i 0) sc.col (wide * i) g) s
      (s1.updPort p fun q => { q with recon := q.recon ++ es, toRecon := rest }.exceptions es.length).endRevoke p
    else s

/-- The reconcile read is granted where the port's engines are: in a PROGRAM phase, a window, or die state HOLD (R136, R137). -/
def execReconcileRead (p : Nat) (g : List Nat) (s : State) : Res :=
  onUnit (dieOk p) (if s.permitted p 1 then s.reconcileRead p g else s)

/-- Empty the reconcile buffer: every entry's tally is written from its master, the scale in force and the code found
(R134); an uncovered weight's entry is dropped (R569). -/
def State.drainRecon (s : State) (p : Nat) : State :=
  let es := (s.port p).recon
  let s1 := es.foldl (fun t e => t.writeTally p e.tile e.row e.col (t.scol p e.tile e.col) e.w) s
  s1.updPort p fun q => { q with recon := [] }

/-- The remap and rescale engine empties the buffer unless it is itself fenced (R134); no tally changes in an evaluation pass (R301). -/
def execReconcileDrain (p : Nat) (s : State) : Res :=
  onUnit (dieOk p) (if s.fenced p 1 || s.trn.evalOpen then s else (s.drainRecon p).portSettle p)

/-- The conditions under which a die's VPROG switch may be closed (R497). -/
def State.vprogMay (s : State) (p : Nat) : Bool :=
  !s.failSafe && s.pgood && ((s.die p).state = .run || (s.die p).state = .hold) && (s.port p).owner.isSome &&
    ((s.port p).batches != [] || (List.range 5).any fun i => (s.port p).owner = some i && s.asserted p i)

def execVprogClose (p : Nat) (s : State) : Res :=
  onUnit (dieOk p) (if s.vprogMay p then s.updPort p fun q => { q with vClosed := true } else s)

/-- VPROG reaches its window once the switch is closed (R497). -/
def execVprogInWindow (p : Nat) (s : State) : Res :=
  onUnit (dieOk p) (if (s.port p).vClosed then s.updPort p fun q => { q with vIn := true } else s)

/-- After 1 ms outside its window the switch opens and every batch in flight ends, its unfinished cells as verify failures
(R498). -/
def State.vprogOut (s : State) (p : Nat) : State :=
  let q := s.port p
  let s1 := s.updPort p fun q => { q with vClosed := false, vIn := false }
  q.batches.foldl (fun t b =>
    (t.event p 0x112 0 (if b.phase = .ended || b.retry then 0 else (b.cells.filter (!·.done)).length)).batchEnd p b) s1

def execVprogOutOfWindow (p : Nat) (s : State) : Res :=
  onUnit (dieOk p) (if (s.port p).vClosed then s.vprogOut p else s)

def execVprogIdleOpen (p : Nat) (s : State) : Res :=
  onUnit (dieOk p) (if (s.port p).batches = [] then s.updPort p fun q => { q with vClosed := false, vIn := false } else s)

end Sys2Proof.Machine
end

