-- ==== Sys2Proof/Machine/Columns.lean ====
section
/-! DEFINITION. Whole-column sequences of the program port: rescale (R121 to R123), remap to a spare column (R142), tile
retirement (R143), reference restore (R160), with what R569 says of columns that no span covers; and the program
descriptors (R144 to R146). -/

namespace Sys2Proof.Machine

/-- A whole-column write of a physical column with failing cells: the events of the cells, one verify failure per failing weight in
threshold row 4, and the remap (R118, R119). -/
def State.failColumn (s : State) (p pt pcol fails stuck weights : Nat) : State :=
  let t1 := (s.event p 0x112 0 fails).event p 0x113 0 stuck
  let t2 := if stuck != 0 && s.bit (pst p + 0x200) 16 then t1.askRemap p pt pcol else t1
  let r := t2.threshold 4 (colSubject p pt pcol) weights
  if r.1 then r.2.askRemap p pt pcol else r.2

/-- Write one row of one physical column canonically to a code, a failing cell to the level it reached (R101, R103). Counts
the cells that had to be pulsed. -/
def State.writeRow (s : State) (p pt pcol row copy : Nat) (code : Int) (bad : List BadCell) (n : Nat) : Nat × State :=
  let f := s.cells p pt row pcol
  let t := (Aim.canon code).target f
  let diff := ((List.range 4).filter fun j => t.level j != f.level j).length
  let c := (bad.filter fun b => b.row = row && b.copy = copy).foldl (fun (c : Cells) b => c.set b.which (min b.level 15)) t
  (n + diff, s.setCells p pt row pcol c)

/-- Write physical columns to one code per row; a row without a code is left. Wear, events and failures are counted
(R115, R116, R119, R140). -/
def State.writeColumn (s : State) (p pt : Nat) (pcols : List Nat) (codes : List (Option Int)) (bad : List BadCell)
    (retries : Nat) : State :=
  let s0 := s.event p 0x110 0 (32 * pcols.length)
  (List.range pcols.length).foldl (fun t i =>
    let pc := pcols.getD i 0
    let r := (List.range codes.length).foldl (fun (a : Nat × State) row =>
      match codes.getD row none with
      | none => a
      | some w => a.2.writeRow p pt pc row i w bad a.1) (0, t)
    let t1 := (if r.1 = 0 then r.2 else r.2.wearPulse p pt pc).event p 0x111 0 r.1
    let t2 := (List.range retries).foldl (fun u _ => u.wearOne p pt pc) t1
    let mine := bad.filter (·.copy = i)
    if mine = [] then t2
    else t2.failColumn p pt pc mine.length (mine.filter (·.stuck)).length (mine.map (·.row)).eraseDups.length) s0

/-- Rows that ended with a failing cell enter the reconcile buffer with the code that the physical column written holds (R119). -/
def State.badRows (s : State) (p n pt pcol col : Nat) (bad : List BadCell) : State :=
  ((bad.map (·.row)).eraseDups).foldl (fun t row =>
    t.updPort p fun q => { q with recon := q.recon ++ [⟨n, row, col, (t.cells p pt row pcol).code⟩] }) s

/-- The buffer has room, before each batch of a whole-column write, for its 15 weights beside the rows that have failed by then (R115,
R133). -/
def State.roomFor (s : State) (p : Nat) (bad : List BadCell) : Bool :=
  (s.port p).room (((bad.map (·.row)).eraseDups.filter (· < 465)).length + 15)

/-- An owner of the port may start the batches of a whole-column sequence: it gives the port up to none, and the tile limit leaves a place
(R115, R126). -/
def State.seqMay (s : State) (p i : Nat) (bad : List BadCell) : Bool :=
  let q := s.port p
  q.owner = some i && !q.yielding && s.permitted p i && decide (q.batches.length < s.tileLim p) && s.roomFor p bad

/-- Retry sequences of a whole-column write: none with RETRY_EN clear (R117). -/
def State.retried (s : State) (p n : Nat) : Nat := if s.bit (pst p + 0x200) 24 then n else 0

def finiteF (w : Nat) : Bool :=
  match fp32.decode w with
  | .fin _ _ _ => true
  | _ => false

/-- A positive, normal, finite FP16 value. -/
def scaleOk (b : Nat) : Bool := b < 0x7C00 && 0x400 ≤ b

/-- A master's quotient under a scale stays within a head room. -/
def inHead (head : Nat) (sc : Nat) (w : Nat) : Bool := (quotX w (fp16.decode sc)).abs.le (FVal.ofInt head)

/-- The new scale of a rescale, none where it is rejected (R122). AUTO takes the smallest j from 1 to 15. -/
def State.newScale (s : State) (p mode scol scur : Nat) (ws : List Nat) : Option Nat :=
  match mode with
  | 0 =>
    let head := max 64 (s.fld (pst p + 0x208) 29 23)
    if ws.all finiteF && scaleOk scur then
      match (rangeFrom 1 15).find? fun j => decide (scur / 1024 + j ≤ 30) && ws.all (inHead head (scur + j * 1024)) with
      | some j => some (scur + j * 1024)
      | none => none
    else none
  | 1 =>
    let fits (x : FVal) : Bool := match x with | .fin _ _ _ => decide (x.toIntRne.natAbs ≤ 132) | _ => false
    if ws.all finiteF && scaleOk scol && ws.all fun w => fits (quotX w (fp16.decode scol)) then some scol else none
  | _ => some scur

/-- A row of a RESTORE counts a saturation event: its code clamps, or its quotient is NaN (R122). -/
def restoreSat (x : FVal) : Bool :=
  match x with
  | .nan => true
  | .inf _ => true
  | v => decide (135 < v.toIntRne.natAbs)

/-- Result word of a rescale (Table 4-9). -/
def rsWord (scol : Nat) (done reject fail : Bool) : Nat :=
  scol + 2 ^ 16 * (b2n done) + 2 ^ 17 * (b2n reject) + 2 ^ 18 * (b2n fail)

/-- A COLUMN_RESCALE whose entries have all run writes its results and completes (R146). -/
def State.finishRescale (s : State) (p c ptr : Nat) : State :=
  if (s.port p).jobs.any fun j => match j.desc with | some (a, b, _) => a = c && b = ptr | none => false then s
  else
    match s.started c ptr with
    | none => s
    | some d =>
      if d.u64 32 = 0 then s.complete c ptr stSuccess
      else
        let bs := (List.range (d.u16 18)).flatMap fun i =>
          leBytes 4 (mapGet 0 (s.port p).results ((2 ^ 17 * c + ptr) * 1024 + i))
        let r := s.store (s.ctxWho c) (daddr (d.u64 32)) bs
        r.2.complete c ptr r.1.status

/-- A rescale job ends with its result word. -/
def State.endRescale (s : State) (p : Nat) (j : RsJob) (word : Nat) : State :=
  let s1 := s.updPort p fun q => { q with jobs := q.jobs.erase j }
  let s2 := if j.unfence then s1.setTileState p j.tile (s1.homeState p) else s1
  match j.desc with
  | none => s2.portSettle p
  | some (c, ptr, i) =>
    let k := (2 ^ 17 * c + ptr) * 1024 + i
    ((s2.updPort p fun q => { q with results := mapSet 0 q.results k word }).finishRescale p c ptr).portSettle p

/-- The saturation events a RESTORE counts once the column's count is cleared (R122). -/
def restoreEvents (mode : Nat) (sc : FVal) (ws : List (Option Nat)) : Nat :=
  if mode = 2 then ((ws.filterMap id).filter fun w => restoreSat (quotX w sc)).length else 0

/-- The column's cells, tallies, scale and saturation count under the new scale (R121, steps 2 to 6). -/
def State.rewriteColumn (s : State) (p pt : Nat) (j : RsJob) (sc' : Nat) (ws : List (Option Nat)) (bad : List BadCell)
    (retries : Nat) : State :=
  let sc := fp16.decode sc'
  let codes := ws.map fun w => w.map fun x => codeOfX (quotX x sc)
  let st := (s.tile p j.tile).st
  let s1 := ((s.setTileState p j.tile .program).writeColumn p pt (s.pcols p j.tile j.col) codes bad retries).setTileState p j.tile st
  let s2 := (List.range 480).foldl (fun t row => match codes.getD row none with
    | some w => t.writeTally p j.tile row j.col sc w
    | none => t) s1
  let s3 := (s2.setScol p j.tile j.col sc').setSatCount p j.tile j.col 0
  let s4 := s3.saturate p j.tile j.col (restoreEvents j.mode sc ws)
  let s5 := s4.badRows p j.tile pt ((s4.pcols p j.tile j.col).headD j.col) j.col bad
  if (s5.port p).flush.isSome then s5.updPort p fun q => { q with super := (j.tile, j.col) :: q.super } else s5

/-- One rescale of a column, as a locked sequence (R121, R122, R569). Of a tile that is not mapped it is rejected (DESIGN CHOICE, log entry
158). -/
def State.rescaleColumn (s : State) (p : Nat) (j : RsJob) (bad : List BadCell) (retries : Nat) : State :=
  let scur := s.scolBits p j.tile j.col
  match s.ptile p j.tile with
  | none => s.endRescale p j (rsWord scur false true false)
  | some pt =>
    if !s.covered p j.tile j.col then s.endRescale p j (rsWord scur false true false)
    else
      let r := s.masters p j.tile j.col
      if !r.2.1 then r.2.2
      else
        match s.newScale p j.mode j.scol scur (r.1.filterMap id) with
        | none => r.2.2.endRescale p j (rsWord scur false true false)
        | some sc' =>
          (r.2.2.rewriteColumn p pt j sc' r.1 bad retries).endRescale p j (rsWord sc' true false (bad != []))

/-- A whole-column sequence may start on a tile (R136, R137): on a FENCED one only where a rule orders it there, a rescale queued again
(R135) or the escalation ladder from rung 2 on (R475; log entry 159). -/
def State.columnMay (s : State) (p n : Nat) (fenced : Bool) : Bool :=
  let st := (s.tile p n).st
  st = .ready || (st = .hold && (s.die p).state = .hold) || (fenced && st = .fenced)

/-- The escalation ladder works on a physical tile (R475). -/
def State.onLadder (s : State) (p pt : Nat) : Bool := decide (2 ≤ mapGet 0 s.flt.ladder (p * 16384 + pt))

/-- A rescale may run now; one queued again does so whenever the engine holds the port (R135, R144, R146). -/
def State.jobMay (s : State) (p : Nat) (j : RsJob) : Bool :=
  (j.desc.isSome || j.unfence || s.mayRescale p) && s.columnMay p j.tile j.unfence

/-- The remap and rescale engine, owning the port, runs the next rescale it may, those queued again first. -/
def execColumnRescaleRun (p : Nat) (bad : List BadCell) (retries : Nat) (s : State) : Res :=
  let js := (s.port p).jobs
  onUnit (dieOk p) (
    if s.seqMay p 1 bad then
      match (js.filter (·.unfence) ++ js).find? (s.jobMay p) with
      | some j => s.rescaleColumn p j bad (s.retried p retries)
      | none => s
    else s)

/-- The logical tile a physical tile serves. -/
def State.servesIndex (s : State) (p pt : Nat) : Option Nat :=
  (List.range 8192).find? fun n => s.ptile p n = some pt

/-- A physical tile is free to take an index: not mapped, not retired, not being written (R62). -/
def State.spareFree (s : State) (p pt : Nat) : Bool :=
  !mapGet false (s.die p).dead pt && !(s.port p).retiring.any (·.2.1 = pt) && (s.servesIndex p pt).isNone

/-- The spare for a tile: of the same field if one is free, else of any other field of the die (R62); of several the one of the lowest
field and slot (DESIGN CHOICE, log entry 160). -/
def State.pickSpare (s : State) (p pt : Nat) : Option Nat :=
  let f := fieldOf pt
  match ((List.range 130).map (f * 130 + ·)).find? (s.spareFree p) with
  | some x => some x
  | none => (List.range 8320).find? (s.spareFree p)

/-- Retirement of a tile is entered (R143); without a spare tile the module falls below its in-service count (R16, R62). -/
def State.askRetire (s : State) (p n : Nat) : State :=
  if (s.port p).retiring.any (·.1 = n) then s
  else
    match s.ptile p n with
    | none => s
    | some pt =>
      match s.pickSpare p pt with
      | some x => s.updPort p fun q => { q with retiring := q.retiring ++ [(n, x, 0)] }
      | none => (s.setTileState p n .fenced).drain true

/-- A muster of one tile is asked for (R153). -/
def State.askMuster (s : State) (p n : Nat) : State :=
  s.updDie p fun d => { d with mus := { d.mus with asked := (d.mus.asked.filter (· != n)) ++ [n] } }

/-- Trims of a column record from factory trims of the physical column that takes it over (R142). -/
def State.factoryTrims (s : State) (p n col pt pcol : Nat) : State :=
  s.setColRec p n col (2 ^ 26 * (ofInt 6 (Config.factoryOfs p pt pcol)) + 2 ^ 16 * (Config.factoryGt p pt pcol % 1024) +
    s.scolBits p n col)

/-- The codes a column's new cells take: from the masters under s_col, or as found where no span covers it (R142, R569).
The last answer says that no master was lost. -/
def State.columnCodes (s : State) (p n pt col pcol : Nat) : List (Option Int) × Bool × State :=
  if s.covered p n col then
    let r := s.masters p n col
    (r.1.map fun w => w.map fun x => codeOfX (quotX x (s.scol p n col)), r.2.1, r.2.2)
  else ((List.range 480).map fun row => some (s.cells p pt row pcol).code, true, s)

/-- Tallies of a column written under the scale in force (R105). -/
def State.columnTallies (s : State) (p n col : Nat) (codes : List (Option Int)) : State :=
  (List.range 480).foldl (fun t row => match codes.getD row none with
    | some w => t.writeTally p n row col (s.scol p n col) w
    | none => t) s

/-- A logical column moves from its physical column to a spare (R142, R147). Of a tile in replica mode the physical columns j and j + 256
keep their own trim records (R89). -/
def State.remapTo (s : State) (p n pt home pcol sp : Nat) (bad : List BadCell) (retries : Nat) : State :=
  let col := if s.replica p n then home % 256 else home
  let r := s.columnCodes p n pt col pcol
  if !r.2.1 then r.2.2
  else
    let st := (s.tile p n).st
    let s1 := ((r.2.2.setTileState p n .program).writeColumn p pt [512 + sp] r.1 bad retries).setTileState p n st
    let s2 := s1.columnTallies p n col r.1
    let s3 := (s2.factoryTrims p n home pt (512 + sp)).askMuster p n
    let s4 := if 512 ≤ pcol then s3.setReg (colMapOff p n (pcol - 512)) (BitVec.ofNat 32 (2 ^ 31)) else s3
    let s5 := s4.setReg (colMapOff p n sp) (BitVec.ofNat 32 (2 ^ 30 + home))
    let s6 := s5.badRows p n pt (512 + sp) col bad
    (s6.updPort p fun q => { q with remaps := q.remaps.filter (· != (pt, pcol)) }).raiseFault 2 0x0302
      (p * 2 ^ 14 + pt) [pcol, 512 + sp]

/-- A remap may run: its physical tile serves no index and is not taking one, so that it is dropped, or its tile may be programmed. -/
def State.remapMay (s : State) (p : Nat) (x : Nat × Nat) : Bool :=
  match s.servesIndex p x.1 with
  | none => !(s.port p).retiring.any (·.2.1 = x.1)
  | some n => s.columnMay p n (s.onLadder p x.1)

/-- The remap of a physical column: to the first free spare; with none, the tile is retired instead (R142, R143). -/
def State.remapColumn (s : State) (p pt pcol : Nat) (bad : List BadCell) (retries : Nat) : State :=
  let gone := s.updPort p fun q => { q with remaps := q.remaps.filter (· != (pt, pcol)) }
  match s.servesIndex p pt with
  | none => gone
  | some n =>
    let home := if pcol < 512 then pcol else s.fld (colMapOff p n (pcol - 512)) 8 0
    if !s.colInUse p n pcol then
      (if pcol < 512 then gone else gone.setReg (colMapOff p n (pcol - 512)) (BitVec.ofNat 32 (2 ^ 31)))
    else
      match (List.range 16).find? fun i => s.fld (colMapOff p n i) 31 30 = 0 with
      | none => gone.askRetire p n
      | some sp => s.remapTo p n pt home pcol sp bad retries

def execColumnRemap (p : Nat) (bad : List BadCell) (retries : Nat) (s : State) : Res :=
  onUnit (dieOk p) (
    if s.seqMay p 1 bad && s.mayRemap p then
      match (s.port p).remaps.find? (s.remapMay p) with
      | some x => (s.remapColumn p x.1 x.2 bad (s.retried p retries)).portSettle p
      | none => s
    else s)

/-- Write one column of a retiring tile into its spare tile (R143). Codes come from the masters, or as found (R569). How many retry
sequences it took is free; each failing batch took one (R117). -/
def State.retireColumn (s : State) (p n old new c : Nat) (bad : List BadCell) : State :=
  let col := if s.replica p n then c % 256 else c
  let r := s.columnCodes p n old col (s.servedBy p n c)
  if !r.2.1 then r.2.2
  else
    let f := r.2.2.takeFree
    let k := max (f.1 % 33) ((bad.map fun b => b.row / 15).eraseDups).length
    ((f.2.writeColumn p new [c] r.1 bad (s.retried p k)).columnTallies p n col r.1).badRows p n new c col bad

/-- The last column is written: the spare tile takes the index, with its own spare columns free and its own factory trims,
and is mustered (R62, R100, R142, R143). -/
def State.switchTile (s : State) (p n old new : Nat) : State :=
  let s1 := (List.range 16).foldl (fun t i => t.setReg (colMapOff p n i) 0) (s.setPtile p n new)
  let s2 := (List.range 512).foldl (fun t col => t.factoryTrims p n col new col) s1
  let s3 := s2.updDie p fun d => { d with dead := mapSet false d.dead old true }
  let s4 := s3.updPort p fun q =>
    { q with retiring := q.retiring.filter (·.1 != n), remaps := q.remaps.filter (·.1 != old) }
  let s5 := if (s4.tile p n).st = .fenced then s4.setTileState p n (s4.homeState p) else s4
  let s6 := (s5.updTile p n fun t => { t with suspect := false }).setFld (pst p + 0x140000 + 4 * n) 20 16 0
  (s6.askMuster p n).raiseFault 2 0x0303 (p * 2 ^ 14 + old) [p * 2 ^ 14 + new]

/-- The remap and rescale engine writes further columns of a retiring tile; after the 512th the tile is replaced. -/
def State.retireTile (s : State) (p n cols : Nat) (bad : List BadCell) : State :=
  match (s.port p).retiring.find? (·.1 = n), s.ptile p n with
  | some (_, new, done), some old =>
    let k := min cols (512 - done)
    let s1 := (rangeFrom done k).foldl (fun t c => t.retireColumn p n old new c (if c = done then bad else [])) s
    if s1.mem.consumed != s.mem.consumed then s1
    else if done + k = 512 then s1.switchTile p n old new
    else s1.updPort p fun q =>
      { q with retiring := q.retiring.map fun x => if x.1 = n then (n, new, done + k) else x }
  | _, _ => s

def execTileRetire (p n cols : Nat) (bad : List BadCell) (s : State) : Res :=
  onUnit (tileOk p n) (
    if s.seqMay p 1 bad && s.mayRemap p && s.columnMay p n true then
      (s.retireTile p n cols bad).portSettle p
    else s)

/-- The muster engine programs an unusable reference column back to its pattern (R160). -/
def State.restoreRef (s : State) (p pt pcol : Nat) (bad : List BadCell) (retries : Nat) : State :=
  let n := (s.servesIndex p pt).getD 8192
  let st := (s.tile p n).st
  let r := (List.range 480).foldl (fun (a : Nat × State) row =>
    let f := a.2.cells p pt row pcol
    let t := cellsDefault pcol
    let c := (bad.filter (·.row = row)).foldl (fun (c : Cells) b => c.set b.which (min b.level 15)) t
    (a.1 + ((List.range 4).filter fun j => t.level j != f.level j).length, a.2.setCells p pt row pcol c)) (0, s.setTileState p n .program)
  let s1 := ((if r.1 = 0 then r.2 else r.2.wearPulse p pt pcol).event p 0x110 0 32).event p 0x111 0 r.1
  let s2 := (List.range retries).foldl (fun u _ => u.wearOne p pt pcol) s1
  let s3 := (s2.event p 0x112 0 bad.length).event p 0x113 0 (bad.filter (·.stuck)).length
  (s3.updPort p fun q => { q with restore := q.restore.filter (· != (pt, pcol)) }).setTileState p n st

/-- A reference restore may run: its tile may be programmed, or serves no index any more. -/
def State.restoreMay (s : State) (p : Nat) (x : Nat × Nat) : Bool :=
  match s.servesIndex p x.1 with
  | none => true
  | some n => s.columnMay p n (s.onLadder p x.1)

def execReferenceRestore (p : Nat) (bad : List BadCell) (retries : Nat) (s : State) : Res :=
  onUnit (dieOk p) (
    if s.seqMay p 2 bad then
      match (s.port p).restore.find? (s.restoreMay p) with
      | some x =>
        if (s.servesIndex p x.1).isSome then s.restoreRef p x.1 x.2 bad (s.retried p retries)
        else s.updPort p fun q => { q with restore := q.restore.filter (· != x) }
      | none => s
    else s)

/-- Columns in use whose wear counter stands at the limit wait for remap, however it came there (R142). -/
def State.askWorn (s : State) (p : Nat) : State :=
  let lim := min (s.fld (pst p + 0x20C) 23 0) 1000000
  let d := s.die p
  let ks := if lim ≤ d.wear0 then List.range (8320 * 536) else d.wear.map (·.1)
  ks.foldl (fun t k =>
    let pt := k / 536
    let pc := k % 536
    if lim ≤ d.worn k && pc < 528 && (match s.servesIndex p pt with | some n => s.colInUse p n pc | none => false) then t.askRemap p pt pc else t) s

/-- The program port of die p allows the master PROG over a range of tiles (R391). -/
def State.progCheck (s : State) (p master lo hi : Nat) : Bool × State := s.aclCheck (10 + p) rightProg master lo hi

/-- The access tables give a master a right on a range that a descriptor names. -/
def State.mayUse (s : State) (w : Who) (right a n : Nat) : Bool :=
  match daddr a with
  | .mod x => s.memCheck w.master right x n = .ok
  | .host x => s.aclAllows (34 + w.link) right w.master (x / 4096) ((x + max n 1 - 1) / 4096)
  | _ => false

/-- A result address can be written by the master: 0 names none. -/
def State.mayStore (s : State) (w : Who) (a n : Nat) : Bool := a = 0 || s.mayUse w rightW a n

/-- The denial a result or operand address that may not be accessed counts as. -/
def State.denyAt (s : State) (w : Who) (right a n : Nat) : State :=
  match daddr a with
  | .mod x => s.refuse (s.memCheck w.master right x n) right w.master x
  | .host x => s.deny (34 + w.link) right w.master (x / 4096)
  | _ => s

def chkProgramFlush (d : Desc) : Nat :=
  if d.u64 24 % 64 != 0 || !localOrHost (d.u64 24) then stInvalidField else 0

/-- The status PROGRAM_FLUSH ends with before it starts, or success: its rights and its dies (R140, R144). -/
def State.flushCheck (s : State) (c : Nat) (d : Desc) : Nat × State :=
  let w := s.ctxWho c
  let ds := dieList (d.u8 16)
  if ds = [] then (stSuccess, s)
  else
    match ds.find? fun p => !s.aclAllows (10 + p) rightProg w.master 0 8191 with
    | some p => (stDenied, s.deny (10 + p) rightProg w.master 0)
    | none =>
      if !s.mayStore w (d.u64 24) (8 * ds.length) then (stDenied, s.denyAt w rightW (d.u64 24) (8 * ds.length))
      else if ds.any fun p => (s.die p).state = .failSafe then (stNotInService, s)
      else (stSuccess, s)

/-- PROGRAM_FLUSH opens the PROGRAM phase of the named dies (R144). -/
def State.programFlush (s : State) (c : Nat) (d : Desc) : State :=
  let ds := dieList (d.u8 16)
  let chk := s.flushCheck c d
  if chk.1 != stSuccess then chk.2.complete c d.ptr chk.1
  else
    if ds = [] then s.complete c d.ptr stSuccess
    else
      if ds.any fun p => (s.die p).state != .run || (s.port p).flush.isSome then s
      else
        let fl : Flush := { desc := some (c, d.ptr), lim := d.u16 18, rescale := (d.u8 17).testBit 0,
                            remap := (d.u8 17).testBit 1, waitRecon := (d.u8 17).testBit 2 }
        let s1 := ds.foldl (fun t p => (t.newWindow p).updPort p fun q => { q with flush := some fl }) s
        (s1.working c d.ptr).finishFlush c d

def execProgramFlush (c n : Nat) (s : State) : Res :=
  onUnit (ctxOk c) (s.runDesc c n 0x30 fun d t => t.programFlush c d)

def chkProgramDirect (d : Desc) : Nat :=
  if 1 < d.u8 17 then stUnsupported
  else if d.u16 18 = 0 || 4096 < d.u16 18 || d.u64 24 % 8 != 0 || !localOrHost (d.u64 24) || !localOrHost (d.u64 32)
  then stInvalidField else 0

/-- The 8-byte entries of a list. -/
def entriesOf (bs : List Byte) (n : Nat) : List Nat := (List.range n).map fun i => leAt bs (8 * i) 8

/-- PROGRAM_DIRECT reads its entries, checks its rights on every tile named, and hands them to the port, where they wait
for a maintenance window (R145). -/
def State.programDirect (s : State) (c : Nat) (d : Desc) : State :=
  let w := s.ctxWho c
  let p := d.u8 16 % 8
  if (s.port p).direct.isSome then s
  else
    let r := s.readRecord w (d.u64 24) (8 * d.u16 18)
    match r.1 with
    | .inl st => r.2.complete c d.ptr st
    | .inr bs =>
      let es := entriesOf bs (d.u16 18)
      match es.find? fun e => !s.aclAllows (10 + p) rightProg w.master (reqTile e) (reqTile e) with
      | some e => (r.2.deny (10 + p) rightProg w.master (reqTile e)).complete c d.ptr stDenied
      | none =>
        if !s.mayStore w (d.u64 32) (2 * d.u16 18) then
          (r.2.denyAt w rightW (d.u64 32) (2 * d.u16 18)).complete c d.ptr stDenied
        else
          let x : Direct := { ctx := c, ptr := d.ptr, master := d.u8 17 = 1, entries := es }
          (r.2.updPort p fun q => { q with direct := some x }).working c d.ptr

def execProgramDirectLevels (c n : Nat) (s : State) : Res :=
  onUnit (ctxOk c) (s.runDesc c n 0x31 fun d t => if d.u8 17 = 0 then t.programDirect c d else t)

def execProgramDirectMaster (c n : Nat) (s : State) : Res :=
  onUnit (ctxOk c) (s.runDesc c n 0x31 fun d t => if d.u8 17 = 1 then t.programDirect c d else t)

def chkColumnRescale (d : Desc) : Nat :=
  if 2 < d.u8 17 then stUnsupported
  else if d.u16 18 = 0 || 1024 < d.u16 18 || d.u64 24 % 8 != 0 || !localOrHost (d.u64 24) || !localOrHost (d.u64 32)
  then stInvalidField else 0

/-- The rescale jobs of a COLUMN_RESCALE, one per entry (Table 4-9). -/
def rescaleJobs (c ptr mode : Nat) (es : List Nat) : List RsJob :=
  (List.range es.length).map fun i =>
    let e := es.getD i 0
    { tile := fld e 12 0, col := fld e 21 13, mode := mode, scol := fld e 47 32, desc := some (c, ptr, i) }

/-- COLUMN_RESCALE queues its columns at the remap and rescale engine (R146). -/
def State.columnRescale (s : State) (c : Nat) (d : Desc) : State :=
  let w := s.ctxWho c
  let p := d.u8 16 % 8
  let r := s.readRecord w (d.u64 24) (8 * d.u16 18)
  match r.1 with
  | .inl st => r.2.complete c d.ptr st
  | .inr bs =>
    let es := entriesOf bs (d.u16 18)
    match es.find? fun e => !s.aclAllows (10 + p) rightProg w.master (reqTile e) (reqTile e) with
    | some e => (r.2.deny (10 + p) rightProg w.master (reqTile e)).complete c d.ptr stDenied
    | none =>
      if !s.mayStore w (d.u64 32) (4 * d.u16 18) then
        (r.2.denyAt w rightW (d.u64 32) (4 * d.u16 18)).complete c d.ptr stDenied
      else (r.2.updPort p fun q => { q with jobs := q.jobs ++ rescaleJobs c d.ptr (d.u8 17) es }).working c d.ptr

def runRescale (c n mode : Nat) (s : State) : Res :=
  onUnit (ctxOk c) (s.runDesc c n 0x32 fun d t => if d.u8 17 = mode then t.columnRescale c d else t)

def execColumnRescaleAuto (c n : Nat) (s : State) : Res := runRescale c n 0 s
def execColumnRescaleExplicit (c n : Nat) (s : State) : Res := runRescale c n 1 s
def execColumnRescaleRestore (c n : Nat) (s : State) : Res := runRescale c n 2 s

end Sys2Proof.Machine
end

