-- ==== Sys2Proof/Machine/Muster.lean ====
section
/-! DEFINITION. Muster: triggers, the run of a muster over fields or tiles, acceptance, the trims it computes, and their
application at a boundary or gradually (R148 to R164, R177, R179), and the drift tracker (R157). -/

namespace Sys2Proof.Machine

/-- A quotient rounded to nearest even. -/
def rneDiv (a : Int) (b : Nat) : Int :=
  let q := a / (b : Int)
  let r := 2 * (a % (b : Int))
  if r < b then q else if (b : Int) < r then q + 1 else if q % 2 = 0 then q else q + 1

/-- Drift factor of a physical field in force, and its register (R63). -/
def driftOff (p f : Nat) : Nat := pst p + 0x100 + 4 * f
def State.drift (s : State) (p f : Nat) : Nat := s.fld (driftOff p f) 15 0

/-- A field falls due (R152); causes that fall due together count as one. -/
def State.fieldDue (s : State) (p f : Nat) : State :=
  s.updMus p fun m => { m with due := if m.due.contains f then m.due else m.due ++ [f] }

/-- The mapped logical tiles of a physical field, in logical order (R152). -/
def State.fieldTiles (s : State) (p f : Nat) : List Nat :=
  (List.range 8192).filter fun n => match s.ptile p n with
    | some pt => fieldOf pt = f
    | none => false

/-- The mean of the last 64 conversions of a temperature channel, or of those there are, to the nearest code, ties to even (R51,
R152). -/
def State.sensorMean (s : State) (p c : Nat) : Nat :=
  let xs := mapGet [] (mapGet {} s.mons p).codes c
  (rneDiv (xs.foldl (· + ·) 0 : Nat) (max 1 xs.length)).toNat

/-- A channel that reads code 0 or 0xFFF is taken as faulty (R156). -/
def State.sensorBad (s : State) (p c : Nat) : Bool :=
  match mapGet [] (mapGet {} s.mons p).codes c with
  | x :: _ => x = 0 || x = 0xFFF
  | [] => false

/-- The sensor a field uses: its assigned one, or the next of the die in cyclic order that is not faulty (R63, R156). -/
def State.fieldSensor (s : State) (p f : Nat) : Nat :=
  let a := s.fld (pst p + 0x400 + 4 * f) 18 16
  match ((List.range 8).map fun i => (a + i) % 8).find? fun c => !s.sensorBad p c with
  | some c => c
  | none => a

/-- A muster begins over whole fields and listed tiles; each field's age restarts and its muster temperature is taken
(R155). -/
def State.beginRun (s : State) (p : Nat) (r : MRun) : State :=
  let s1 := r.fields.foldl (fun t f =>
    let u := t.setFld (pst p + 0x400 + 4 * f) 31 20 (t.sensorMean p (t.fieldSensor p f))
    u.updMus p fun m => { m with began := mapSet 0 m.began f t.ts, due := m.due.filter (· != f) }) s
  (s1.updMus p fun m => { m with runs := m.runs ++ [r] }).musterTake p

def fieldRun (s : State) (p f : Nat) : MRun := { fields := [f], want := s.fieldTiles p f }

/-- A due field is mustered in an array-idle interval (R154). -/
def execMusterStart (p f : Nat) (s : State) : Res :=
  onUnit (dieOk p && f < 64) (
    if (s.mus p).due.contains f && s.bit (pst p + 0x300) 28 && s.arrayIdle p then s.beginRun p (fieldRun s p f) else s)

/-- The muster of a due field is forced: each tile is taken as soon as it is in READY (R154). -/
def execMusterForce (p f : Nat) (s : State) : Res :=
  onUnit (dieOk p && f < 64) (
    if (s.mus p).due.contains f && s.bit (pst p + 0x300) 28 && (s.die p).state = .run then
      s.beginRun p (fieldRun s p f)
    else s)

/-- The age of a field reaches the drift interval (R152). -/
def execMusterDueTimer (p f : Nat) (s : State) : Res :=
  onUnit (dieOk p && f < 64) (if s.fld (pst p + 0x300) 19 8 = 0 then s else s.fieldDue p f)

/-- A tile whose result was rejected has a retry still to come (R161, R177). -/
def State.toRetry (s : State) (p n : Nat) : Bool :=
  let rej := s.fld (musTileOff p n) 15 14
  (s.ptile p n).isSome && s.fld (musTileOff p n) 13 12 = 2 && (rej = 1 || rej = 2)

/-- A tile rejected, or that another engine asked to have mustered, is mustered alone (R153, R161). -/
def execMusterRetry (p n : Nat) (s : State) : Res :=
  let again := s.toRetry p n
  let inHand := (s.mus p).runs.any fun r => r.want.contains n || r.busy.any (·.1 = n) || r.later.any (·.contains n)
  onUnit (tileOk p n) (
    if (again || (s.mus p).asked.contains n) && !inHand && (s.ptile p n).isSome &&
       (s.arrayIdle p || (s.die p).state = .hold) then
      (s.updMus p fun m => { m with asked := m.asked.filter (· != n) }).beginRun p { want := [n] }
    else s)

/-- The head of a tile's chain (R151). -/
def State.headOf (s : State) (p n : Nat) : Nat :=
  if s.bit (musTileOff p n) 31 then s.fld (musTileOff p n) 28 16 else n

/-- Offset trim of a column: RNE(8 ĉ_M + ĉ_m) from the sums of 32 reads (R149). -/
def offsetTrim (z : Int × Int) : Int := rneDiv (8 * z.1 + z.2) 32

/-- Major and minor slot gain measured at a physical column. -/
def slotGainAt (m : Measure) (pcol : Nat) : Nat := m.slotGain.getD pcol (2 ^ 20)
def minorGainAt (m : Measure) (pcol : Nat) : Nat := m.minorGain.getD pcol (2 ^ 20)

/-- A slot's gain at trim 0, from the gain measured under the trim in force (R148). -/
def slotAtZero (g : Nat) (trim : Int) : Nat := g * 512 / (512 + trim).toNat

/-- 1/d as a fraction. -/
def invDrift (d : Nat) : Nat × Nat :=
  match fp16.decode d with
  | .fin _ m e => if m = 0 then (1, 1) else if e < 0 then (2 ^ (-e).toNat, m) else (1, m * 2 ^ e.toNat)
  | _ => (1, 1)

/-- Gain trim before its clamp: RNE(1,024 × (ā / (s × a) − 0.75)), with ā a fraction and the product s × a in units of
2^-41 (R149). -/
def gainTrim (abar : Nat × Nat) (sa : Nat) : Int :=
  if sa = 0 || abar.2 = 0 then 1024 else rneDiv ((abar.1 * 2 ^ 51 : Nat) : Int) (abar.2 * sa) - 768

/-- Slot gain of a logical column of a tile in units of 2^-21: its own, or in replica mode the mean of the pair trimmed as one
(R89). -/
def State.slotOf (s : State) (p n col : Nat) (m : Measure) : Nat :=
  if s.replica p n then slotGainAt m (s.servedBy p n (col % 256)) + slotGainAt m (s.servedBy p n (col % 256 + 256))
  else 2 * slotGainAt m (s.servedBy p n col)

/-- Gain trim a column takes against a fraction ā. -/
def State.gtOf (s : State) (p n col : Nat) (abar : Nat × Nat) (m : Measure) : Int :=
  gainTrim abar (s.slotOf p n col m * m.gain)

/-- Major slot reference trim that makes s × a × g_h × d_h = 1 (R151), from the product at trim 0 in units of 2^-40, the head column's gain
trim and the drift factor of the head's field. -/
def headTrim (base gt d : Nat) : Int :=
  let i := invDrift d
  if base = 0 then 32 else rneDiv ((512 * i.1 * 2 ^ 40 * 1024 : Nat) : Int) (base * (768 + gt) * i.2) - 512

/-- Minor slot reference trim that gives the minor slot the gain of its major slot, from both gains at trim 0 and the major slot's trim
(R149). -/
def minorTrim (major minor : Nat) (trim : Int) : Int :=
  if minor = 0 then 32 else rneDiv (major * (512 + trim)) minor - 512

/-- The gain trim of a head column and the drift factor of its field that the next application will put in force: pending values
first (R151). -/
def State.headGt (s : State) (p h col : Nat) : Nat :=
  (mapGet none (s.mus p).pend.gt (h * 512 + col)).getD (s.colRec p h col / 2 ^ 16 % 1024)

def State.headDrift (s : State) (p h : Nat) : Nat :=
  match s.ptile p h with
  | none => 0x3C00
  | some pt => (mapGet none (s.mus p).pend.drift (fieldOf pt)).getD (s.drift p (fieldOf pt))

/-- Usable reference patterns: a pattern is usable while one of its two columns is (R159, R160). -/
def usablePatterns (unusable : Nat) : Nat :=
  ((List.range 4).filter fun i => !(unusable.testBit (2 * i) && unusable.testBit (2 * i + 1))).length

/-- A tile's result is rejected by what its own measures show (R159). -/
def State.rejects (s : State) (p n pt : Nat) (m : Measure) : Bool :=
  let fg := Config.factoryGain p pt
  (List.range 512).any (fun c => let pc := s.servedBy p n c
    decide (24 < (offsetTrim (m.zero.getD pc (0, 0)) - Config.factoryOfs p pt pc).natAbs)) ||
  decide (m.gain * 5 < 4 * fg) || decide (5 * fg < 4 * m.gain) ||
  m.delay.any (fun d => d < -8 || 7 < d) ||
  decide (2048 < m.checkErr) || decide (usablePatterns m.unusable < 2)

/-- Unusable reference columns are entered in the restore list (R160). -/
def State.enterRestore (s : State) (p pt : Nat) (unusable : Nat) : State :=
  (bitsSet 8 unusable).foldl (fun t i =>
    if (t.port p).restore.contains (pt, 528 + i) then t
    else t.updPort p fun q => { q with restore := q.restore ++ [(pt, 528 + i)] }) s

/-- A tile is marked suspect: it is fenced and tested at once (R161); at the threshold it is retired (Table 14-4). -/
def State.suspect (s : State) (p n pt : Nat) : State :=
  let s1 := (s.updTile p n fun t => { t with st := .fenced, suspect := true }).raiseFault 1 0x0304 (p * 2 ^ 14 + pt) []
  let r := s1.threshold 6 (p * 2 ^ 14 + pt) 1
  let s2 := if r.1 then r.2.askRetire p n else r.2
  { s2 with tests := s2.tests ++ [{ cls := 0, unit_ := p * 8192 + n, kinds := 7, hi := 511, slices := 9, forced := true }] }

/-- The value of a pending map replaced. -/
def pendSet {α : Type} [DecidableEq α] (m : Map (Option α)) (k : Nat) (v : α) : Map (Option α) := mapSet none m k (some v)

/-- Pending column and delay trims of one accepted tile against a fraction ā, and what its muster measured of it (R149, R157). -/
def State.pendTile (s : State) (p n pt : Nat) (abar : Nat × Nat) (m : Measure) : State :=
  let s1 := (List.range 512).foldl (fun t c =>
    let pc := s.servedBy p n c
    t.updMus p fun u => { u with pend := { u.pend with
      ofs := pendSet u.pend.ofs (n * 512 + c) (clampI (offsetTrim (m.zero.getD pc (0, 0))) (-32) 31)
      gt := pendSet u.pend.gt (n * 512 + c) (clampI (s.gtOf p n c abar m) 0 1023).toNat } }) s
  let s2 := (List.range 536).foldl (fun t pc =>
    let k := pt * 1072 + 2 * pc
    t.updMus p fun u => { u with
      base := mapSet 0 (mapSet 0 u.base k (slotAtZero (slotGainAt m pc) (mapGet 0 u.slot k))) (k + 1)
        (slotAtZero (minorGainAt m pc) (mapGet 0 u.slot (k + 1))) }) s1
  let s3 := (List.range 56).foldl (fun t i =>
    t.updMus p fun u => { u with pend := { u.pend with
      delay := pendSet u.pend.delay (pt * 56 + i) (m.delay.getD i 0) } }) s2
  s3.updMus p fun u => { u with
    gain := mapSet 0 u.gain pt m.gain
    refr := mapSet (2 ^ 20) u.refr pt m.refResp
    pend := { u.pend with sigma := pendSet u.pend.sigma n (min m.sigma 1023)
                          tiles := if u.pend.tiles.contains n then u.pend.tiles else u.pend.tiles ++ [n] } }

/-- The slot reference trims a tile needs, by slot (R149, R151): of a tile that is not the head of its chain, the major slots of the columns
in service against the head's gain trims and drift factor; of every tile, the minor slots against their major slots. A slot that
no muster has measured has none. -/
def State.slotTrims (s : State) (p n pt : Nat) (gt : Nat → Nat) (d : Nat) : List (Nat × Int) :=
  let m := s.mus p
  let zero (k : Nat) : Nat := mapGet 0 m.base (pt * 1072 + k)
  let head := s.headOf p n = n
  let major (pc : Nat) : Int :=
    let inForce := mapGet 0 m.slot (pt * 1072 + 2 * pc)
    if head then inForce
    else match (List.range 512).find? fun c => s.servedBy p n c = pc with
      | some c => headTrim (zero (2 * pc) * mapGet 0 m.gain pt) (gt c) d
      | none => inForce
  ((List.range 536).filter fun pc => zero (2 * pc) != 0).flatMap fun pc =>
    [(pt * 1072 + 2 * pc, major pc), (pt * 1072 + 2 * pc + 1, minorTrim (zero (2 * pc)) (zero (2 * pc + 1)) (clampI (major pc) (-32) 31))]

/-- The same against the values that the next application will put in force, and against those in force. -/
def State.slotsToBe (s : State) (p n pt : Nat) : List (Nat × Int) :=
  s.slotTrims p n pt (s.headGt p (s.headOf p n)) (s.headDrift p (s.headOf p n))

def State.slotsNow (s : State) (p n pt : Nat) : List (Nat × Int) :=
  let h := s.headOf p n
  s.slotTrims p n pt (fun c => s.colRec p h c / 2 ^ 16 % 1024)
    (match s.ptile p h with | some q => s.drift p (fieldOf q) | none => 0x3C00)

def trimIn (x : Nat × Int) : Bool := decide (-32 ≤ x.2) && decide (x.2 ≤ 31)

/-- The slot reference trims of a tile become pending; one recomputed without a muster that lies out of range takes the nearest in it
(R151; log entry 53). -/
def State.pendSlots (s : State) (p n : Nat) : State :=
  match s.ptile p n with
  | none => s
  | some pt => s.updMus p fun u => { u with pend := { u.pend with
      slot := (s.slotsToBe p n pt).foldl (fun m x => pendSet m x.1 (clampI x.2 (-32) 31)) u.pend.slot } }

/-- The slot reference trims of a tile are recomputed against the values now in force and put in force (R151, R164). -/
def State.refit (s : State) (p n : Nat) : State :=
  match s.ptile p n with
  | none => s
  | some pt =>
    let xs := s.slotsNow p n pt
    s.updMus p fun u => { u with
      slot := xs.foldl (fun m x => mapSet 0 m x.1 (clampI x.2 (-32) 31)) u.slot
      pend := { u.pend with slot := u.pend.slot.filter fun kv => !xs.any (·.1 = kv.1) } }

/-- The tiles of chains whose head satisfies a test, heads left out. -/
def State.followers (s : State) (p : Nat) (f : Nat → Bool) : List Nat :=
  (List.range 8192).filter fun n => s.headOf p n != n && f (s.headOf p n) && (s.ptile p n).isSome

/-- A tile lies in a physical field. -/
def State.inField (s : State) (p f n : Nat) : Bool := match s.ptile p n with | some pt => fieldOf pt = f | none => false

/-- Tiles outside a field whose head lies in it: their slot reference trims follow the field's drift factor (R151). -/
def State.followDrift (s : State) (p f : Nat) : State :=
  ((s.followers p (s.inField p f)).filter fun n => !s.inField p f n).foldl (fun t n => t.pendSlots p n) s

/-- Results of a run in a field, with their physical tiles. -/
def State.accIn (s : State) (p f : Nat) (r : MRun) : List (Nat × Nat × Measure) :=
  r.acc.filterMap fun a => match s.ptile p a.1 with
    | some pt => if fieldOf pt = f then some (a.1, pt, a.2) else none
    | none => none

/-- The fraction ā of a field for the results of a run, and whether the run sets the field's drift factor (R149, R150). -/
def State.meanGain (s : State) (p f : Nat) (r : MRun) : (Nat × Nat) × Bool :=
  let xs := s.accIn p f r
  let sum := (xs.map fun x => x.2.2.gain).foldl (· + ·) 0
  if r.fields.contains f && decide (64 ≤ xs.length) && sum != 0 then ((sum, 2 ^ 20 * xs.length), true)
  else (invDrift (s.drift p f), false)

/-- The values that the results of a run propose: the drift factor of each whole field with at least 64 of them, then the trims of every
tile (R149 to R151). -/
def State.propose (s : State) (p : Nat) (r : MRun) : State :=
  let fields := (r.acc.filterMap fun a => (s.ptile p a.1).map fieldOf).eraseDups
  let s1 := fields.foldl (fun t f =>
    let a := s.meanGain p f r
    let t1 := (s.accIn p f r).foldl (fun u x => u.pendTile p x.1 x.2.1 a.1 x.2.2) t
    if a.2 then
      let d := (fp16.round .rne ((FVal.fin false a.1.2 0).div (.fin false a.1.1 0))).1
      t1.updMus p fun u => { u with pend := { u.pend with drift := pendSet u.pend.drift f d } }
    else t1) s
  let s2 := r.acc.foldl (fun t a => t.pendSlots p a.1) s1
  fields.foldl (fun t f => if (s.meanGain p f r).2 then t.followDrift p f else t) s2

/-- A result needs a trim out of range under the values its own run proposes, t (R159). -/
def State.needsMore (s t : State) (p : Nat) (r : MRun) (n : Nat) (m : Measure) : Bool :=
  match s.ptile p n with
  | none => false
  | some pt =>
    let a := (s.meanGain p (fieldOf pt) r).1
    (List.range 512).any (fun c => let g := s.gtOf p n c a m; decide (g < 0) || decide (1023 < g)) ||
      (t.slotsToBe p n pt).any fun x => !trimIn x

/-- The results of a run that are accepted, with the values they propose: those that need a trim out of range are left out, until none
does (R159; log entry 53). -/
def State.acceptRun (s : State) (p : Nat) (r : MRun) : Nat → State × MRun
  | 0 => (s, { r with acc := [] })
  | k + 1 =>
    let t := s.propose p r
    let good := r.acc.filter fun a => !s.needsMore t p r a.1 a.2
    if good.length = r.acc.length then (t, r) else s.acceptRun p { r with acc := good } k

/-- Put one pending column trim in force. -/
def State.applyOfs (s : State) (p k : Nat) (v : Int) : State :=
  let w := s.colRec p (k / 512) (k % 512)
  s.setColRec p (k / 512) (k % 512) (2 ^ 26 * (ofInt 6 v) + w % 2 ^ 26)

def State.applyGt (s : State) (p k v : Nat) : State :=
  let w := s.colRec p (k / 512) (k % 512)
  s.setColRec p (k / 512) (k % 512) (2 ^ 26 * (w / 2 ^ 26) + 2 ^ 16 * (v % 1024) + w % 2 ^ 16)

def State.applyDrift (s : State) (p f v : Nat) : State := s.setFld (driftOff p f) 15 0 v

/-- The tiles whose slot reference trims an application fits to the values it puts in force: those pending, and those that follow a head
whose values change (R151, R164). -/
def State.refitted (s : State) (p : Nat) : List Nat :=
  let q := (s.mus p).pend
  let moved (h : Nat) : Bool := match s.ptile p h with
    | some pt => (mapGet none q.drift (fieldOf pt)).isSome || ((s.mus p).gradual && q.gt.any fun kv => kv.1 / 512 = h)
    | none => false
  let own (n : Nat) : Bool := match s.ptile p n with
    | some pt => (s.mus p).gradual || !s.inField p (fieldOf pt) (s.headOf p n)
    | none => false
  ((q.tiles.filter fun n => s.headOf p n != n) ++ (s.followers p moved).filter own).eraseDups

/-- Every pending value of a die is applied together, and the slot reference trims of chains are fitted to the values then in force
(R151, R163). -/
def State.applyPending (s : State) (p : Nat) : State :=
  let q := (s.mus p).pend
  let s1 := q.ofs.foldl (fun t kv => t.applyOfs p kv.1 (kv.2.getD 0)) s
  let s2 := q.gt.foldl (fun t kv => t.applyGt p kv.1 (kv.2.getD 0)) s1
  let s3 := q.drift.foldl (fun t kv => t.applyDrift p kv.1 (kv.2.getD 0)) s2
  let s4 := q.sigma.foldl (fun t kv => t.setFld (pst p + 0x140000 + 4 * kv.1) 9 0 (kv.2.getD 0)) s3
  let s5 := s4.updMus p fun u => { u with
    slot := q.slot.foldl (fun m kv => mapSet 0 m kv.1 (kv.2.getD 0)) u.slot
    delay := q.delay.foldl (fun m kv => mapSet 0 m kv.1 (kv.2.getD 0)) u.delay
    pend := {}
    gradual := false }
  (s.refitted p).foldl (fun t n => t.refit p n) s5

/-- No value is pending. -/
def State.nonePending (s : State) (p : Nat) : Bool := (s.mus p).pend = {}

/-- A MUSTER whose runs have all closed applies the pending values of its dies where it asks for that in a maintenance window, writes its
record, 16 bytes per die, and completes (R163, R179). -/
def State.finishMuster (s : State) (c ptr : Nat) : State :=
  let mine (p : Nat) : List MRun := (s.mus p).runs.filter fun r => r.desc = some (c, ptr)
  let ds := (List.range 8).filter fun p => mine p != []
  if ds.any fun p => (mine p).any fun r => !r.closed then s
  else
    let bs := ds.flatMap fun p => (mine p).flatMap fun r =>
      leBytes 4 r.mustered ++ leBytes 4 r.rejected ++ leBytes 4 r.suspect ++ leBytes 4 0
    let s1 := ds.foldl (fun t p =>
      let u := t.updMus p fun m => { m with runs := m.runs.filter fun r => r.desc != some (c, ptr) }
      if (mine p).any (·.now) && (u.maintenance p || (u.die p).state = .hold) then u.applyPending p else u) s
    match s.started c ptr with
    | none => s1
    | some d =>
      if d.u64 32 = 0 then s1.complete c ptr stSuccess
      else
        let r := s1.store (s1.ctxWho c) (daddr (d.u64 32)) bs
        r.2.complete c ptr r.1.status

/-- A tile's result is rejected: it changes nothing, and at the third time running the tile is suspect (R159, R161). -/
def State.rejectTile (s : State) (p : Nat) (r : MRun) (n pt : Nat) : State × MRun :=
  let k := min (s.fld (musTileOff p n) 15 14 + 1) 3
  let s1 := ((s.setFld (musTileOff p n) 13 12 2).setFld (musTileOff p n) 15 14 k).event p 0x121 (fieldOf pt) 1
  if k = 3 then (s1.suspect p n pt, { r with rejected := r.rejected + 1, suspect := r.suspect + 1 })
  else (s1, { r with rejected := r.rejected + 1 })

/-- A run that has measured every tile of its batches closes: what it proposes becomes pending, the tiles are accepted or rejected, and in
HOLD the values of the start-up work are applied (R149 to R163, R177). -/
def State.closeRun (s : State) (p : Nat) (r : MRun) : State × MRun :=
  let q := s.acceptRun p r r.acc.length
  let s1 := q.2.acc.foldl (fun t a => (t.setFld (musTileOff p a.1) 13 12 1).setFld (musTileOff p a.1) 15 14 0) q.1
  let lost := r.acc.filter fun a => !q.2.acc.any (·.1 = a.1)
  let r1 := lost.foldl (fun (b : State × MRun) a => match b.1.ptile p a.1 with
    | some pt => b.1.rejectTile p b.2 a.1 pt
    | none => b) (s1, { q.2 with closed := true })
  (if r.desc.isNone && ((s.die p).state = .hold || (r.now && s.maintenance p)) then r1.1.applyPending p else r1.1, r1.2)

/-- The run at a place of a die's list goes on: its next batch starts once the last has ended, and after all of them it closes (R162). -/
def State.endRun (s : State) (p i : Nat) : State :=
  let r := (s.mus p).runs.getD i {}
  let put (t : State) (x : MRun) : State := t.updMus p fun u => { u with runs := u.runs.set i x }
  if r.want != [] || r.busy != [] || r.closed then s
  else match r.later with
    | b :: bs => (put s { r with want := b, later := bs }).musterTake p
    | [] =>
      let q := s.closeRun p r
      match r.desc with
      | some (c, ptr) => (put q.1 q.2).finishMuster c ptr
      | none => q.1.updMus p fun u => { u with runs := u.runs.eraseIdx i }

/-- One tile's muster ends: its result passes the checks of its own measures or is rejected (R159, R160). -/
def State.musterTile (s : State) (p n : Nat) (r : MRun) (m : Measure) : State × MRun :=
  let back := match r.busy.find? (·.1 = n) with | some b => b.2 | none => 1
  let st : TileState := if back = 0 then .hold else if back = 6 then .fenced else .ready
  let r1 := { r with busy := r.busy.filter (·.1 != n), mustered := r.mustered + 1 }
  let s1 := s.setTileState p n st
  match s.ptile p n with
  | none => (s1, r1)
  | some pt =>
    let s2 := (s1.event p 0x120 (fieldOf pt) 1).enterRestore p pt m.unusable
    if s2.rejects p n pt m then s2.rejectTile p r1 n pt else (s2, { r1 with acc := r1.acc ++ [(n, m)] })

def State.musterDone (s : State) (p n : Nat) (m : Measure) : State :=
  match (s.mus p).runs.findIdx? fun r => r.busy.any (·.1 = n) with
  | none => s
  | some i =>
    let r := (s.mus p).runs.getD i {}
    let q := s.musterTile p n r m
    ((q.1.updMus p fun u => { u with runs := u.runs.set i q.2 }).endRun p i).musterTake p

def execMusterComplete (p n : Nat) (m : Measure) (s : State) : Res := onUnit (tileOk p n) (s.musterDone p n m)

/-- Gradual application begins where values have been pending without a boundary (R164). -/
def execGradualApplyStart (p : Nat) (s : State) : Res :=
  onUnit (dieOk p) (
    if !s.nonePending p && s.bit (pst p + 0x300) 29 && (s.die p).state = .run then
      s.updMus p fun m => { m with gradual := true }
    else s)

/-- One unit towards a target. -/
def towards (x t : Int) : Int := if x < t then x + 1 else if t < x then x - 1 else x

/-- A pending trim of one kind moves one unit; a target reached is no longer pending (R164). -/
def State.stepOfs (s : State) (p k : Nat) (t : Int) : State :=
  let v := towards (sext 6 (s.colRec p (k / 512) (k % 512) / 2 ^ 26)) t
  let s1 := s.applyOfs p k v
  if v = t then s1.updMus p fun u => { u with pend := { u.pend with ofs := mapSet none u.pend.ofs k none } } else s1

def State.stepGt (s : State) (p k t : Nat) : State :=
  let v := (towards (s.colRec p (k / 512) (k % 512) / 2 ^ 16 % 1024 : Nat) t).toNat
  let s1 := s.applyGt p k v
  if v = t then s1.updMus p fun u => { u with pend := { u.pend with gt := mapSet none u.pend.gt k none } } else s1

def State.stepSlot (s : State) (p k : Nat) (t : Int) : State :=
  let v := towards (mapGet 0 (s.mus p).slot k) t
  s.updMus p fun u => { u with
    slot := mapSet 0 u.slot k v
    pend := { u.pend with slot := if v = t then mapSet none u.pend.slot k none else u.pend.slot } }

def State.stepDelay (s : State) (p k : Nat) (t : Int) : State :=
  let v := towards (mapGet 0 (s.mus p).delay k) t
  s.updMus p fun u => { u with
    delay := mapSet 0 u.delay k v
    pend := { u.pend with delay := if v = t then mapSet none u.pend.delay k none else u.pend.delay } }

/-- After 1,000 MVMs of a tile, each of its pending trims moves one unit; trims of the chain's other tiles follow a head
(R164). -/
def State.gradTile (s : State) (p n : Nat) : State :=
  let q := (s.mus p).pend
  let pt := (s.ptile p n).getD 0
  let s1 := (q.ofs.filter fun kv => kv.1 / 512 = n).foldl (fun t kv => t.stepOfs p kv.1 (kv.2.getD 0)) s
  let s2 := (q.gt.filter fun kv => kv.1 / 512 = n).foldl (fun t kv => t.stepGt p kv.1 (kv.2.getD 0)) s1
  let s3 := (q.slot.filter fun kv => kv.1 / 1072 = pt).foldl (fun t kv => t.stepSlot p kv.1 (kv.2.getD 0)) s2
  let s4 := (q.delay.filter fun kv => kv.1 / 56 = pt).foldl (fun t kv => t.stepDelay p kv.1 (kv.2.getD 0)) s3
  let s5 := match mapGet none q.sigma n with
    | some v => (s4.setFld (pst p + 0x140000 + 4 * n) 9 0 v).updMus p fun u =>
        { u with pend := { u.pend with sigma := mapSet none u.pend.sigma n none } }
    | none => s4
  let left := (s5.mus p).pend
  let busy := left.ofs.any (fun kv => kv.1 / 512 = n) || left.gt.any (fun kv => kv.1 / 512 = n) ||
    left.slot.any (fun kv => kv.1 / 1072 = pt) || left.delay.any (fun kv => kv.1 / 56 = pt)
  let s6 := if busy then s5 else s5.updMus p fun u =>
    { u with pend := { u.pend with tiles := u.pend.tiles.filter (· != n) } }
  let s7 := if q.gt.any fun kv => kv.1 / 512 = n then (s6.followers p (· = n)).foldl (fun t m => t.refit p m) s6 else s6
  if s7.nonePending p then s7.updMus p fun u => { u with gradual := false } else s7

/-- After 1,000 MVMs of a field, its drift factor moves one FP16 code, and the chains of its heads are fitted to it (R164). -/
def State.gradField (s : State) (p f : Nat) : State :=
  match mapGet none (s.mus p).pend.drift f with
  | none => s
  | some t =>
    let v := (towards (s.drift p f) t).toNat
    let s1 := s.applyDrift p f v
    let s2 := if v = t then s1.updMus p fun u => { u with pend := { u.pend with drift := mapSet none u.pend.drift f none } }
      else s1
    let s3 := (s2.followers p (s2.inField p f)).foldl (fun t n => t.refit p n) s2
    if s3.nonePending p then s3.updMus p fun u => { u with gradual := false } else s3

/-- A step of gradual application: of a tile's trims, or of a field's drift factor. -/
def execGradualApplyStep (p n : Nat) (field : Bool) (s : State) : Res :=
  onUnit (tileOk p n) (
    if (s.mus p).gradual && (s.die p).state = .run then (if field then s.gradField p n else s.gradTile p n) else s)

/-- The drift tracker acts on 16,384 ratios of a field (R157). -/
def State.trackDrift (s : State) (p f : Nat) : State :=
  let m := s.mus p
  let n := mapGet 0 m.ratioN f
  let sum := mapGet 0 m.ratioSum f
  if n < 16384 then s
  else
    let s1 := s.updMus p fun u => { u with ratioN := mapSet 0 u.ratioN f 0, ratioSum := mapSet 0 u.ratioSum f 0 }
    if sum * 100 < 2 ^ 20 * (97 * n) || 2 ^ 20 * (103 * n) < sum * 100 then s1.fieldDue p f
    else
      let d := s.drift p f
      let v := (fp16.round .rne (((fp16.decode d).mul (.fin false (2 ^ 20 * n) 0)).div (.fin false sum 0))).1
      if v < d + 2 && d < v + 2 then s1
      else (s1.updMus p fun u => { u with pend := { u.pend with drift := pendSet u.pend.drift f v } }).followDrift p f

def execDriftTrackerUpdate (p f : Nat) (s : State) : Res := onUnit (dieOk p && f < 64) (s.trackDrift p f)

/-- The die owns a range of registers that a descriptor needs CFG on (chapter 5, descriptor bodies). -/
def State.dieCfg (s : State) (p master : Nat) : Bool × State :=
  s.aclCheck 32 rightCfg master (p * 0x400) (p * 0x400 + 0x3FF)

def chkMuster (d : Desc) : Nat :=
  let list := d.u8 17 != 0
  if 2 < d.u8 17 || (list && popcount 8 (d.u8 16) != 1) || (list && (d.u16 20 = 0 || 1024 < d.u16 20)) ||
     (list && (d.u64 24 % 2 != 0 || !localOrHost (d.u64 24))) || !localOrHost (d.u64 32) then stInvalidField else 0

/-- A list cut into parts of n, the last one shorter. -/
def parts {α : Type} (n : Nat) (xs : List α) : List (List α) :=
  (List.range (ceilDiv xs.length n)).map fun i => (xs.drop (n * i)).take n

/-- A run over the batches that hold a tile (R162). -/
def batchRun (fields : List Nat) (bs : List (List Nat)) : MRun :=
  let xs := bs.filter (· != [])
  { fields := fields, want := xs.headD [], later := xs.tail }

/-- A die muster: every mapped tile, in batches of up to 1,024 in logical field order (R162). -/
def State.dieBatches (s : State) (p : Nat) : List (List Nat) :=
  parts 1024 ((List.range 8192).filter fun n => (s.ptile p n).isSome)

/-- The tiles or fields a MUSTER names on a die, as a run. -/
def State.musterRun (s : State) (p : Nat) (d : Desc) (c : Nat) (list : List Nat) : MRun :=
  let fields := if d.u8 17 = 0 then List.range 64 else if d.u8 17 = 1 then (list.map (· % 64)).eraseDups else []
  let bs := if d.u8 17 = 0 then s.dieBatches p
    else if d.u8 17 = 1 then fields.map (s.fieldTiles p)
    else [(list.map (· % 8192)).eraseDups.filter fun n => (s.ptile p n).isSome]
  { batchRun fields bs with desc := some (c, d.ptr), now := (d.u8 18).testBit 0 }

/-- MUSTER musters the named scope at once (R179). -/
def State.musterDesc (s : State) (c : Nat) (d : Desc) : State :=
  let w := s.ctxWho c
  let ds := dieList (d.u8 16)
  match ds.find? fun p => !s.aclAllows 32 rightCfg w.master (p * 0x400) (p * 0x400 + 0x3FF) with
  | some p => (s.deny 32 rightCfg w.master (p * 0x400)).complete c d.ptr stDenied
  | none =>
    if ds.any fun p => (s.die p).state = .failSafe then s.complete c d.ptr stNotInService
    else if !s.mayStore w (d.u64 32) (16 * ds.length) then
      (s.denyAt w rightW (d.u64 32) (16 * ds.length)).complete c d.ptr stDenied
    else
      let r := if d.u8 17 = 0 then (.inr [], s) else s.readRecord w (d.u64 24) (2 * d.u16 20)
      match r.1 with
      | .inl st => r.2.complete c d.ptr st
      | .inr bs =>
        let list := (List.range (d.u16 20)).map fun i => leAt bs (2 * i) 2
        let s1 := (r.2.working c d.ptr)
        let run (p : Nat) : MRun := s1.musterRun p d c (if d.u8 17 = 0 then [] else list)
        let s2 := ds.foldl (fun t p => t.beginRun p (run p)) s1
        let s3 := ds.foldl (fun t p => t.endRun p ((t.mus p).runs.length - 1)) s2
        if ds = [] then s3.complete c d.ptr stSuccess else s3

def execMuster (c n : Nat) (s : State) : Res :=
  onUnit (ctxOk c) (s.runDesc c n 0x38 fun d t => t.musterDesc c d)

end Sys2Proof.Machine
end

