-- ==== Sys2Proof/Machine/Shearer.lean ====
section
/-! DEFINITION. The shearer units: the span table in force (R307, R308), the norm pass (R311, R312), the update pass (R314
to R322) and their descriptors (R331 to R333), and quiescing (R337). -/

namespace Sys2Proof.Machine

/-- Parse a span record (Table 9-1); its tile list is read separately. -/
def parseSpan (b : List Byte) : Span :=
  { id := leAt b 0 2, kind := leAt b 2 1, pc := (leAt b 3 1).testBit 0, rule := leAt b 4 1 % 16, ng := leAt b 5 1,
    wcFb := leAt b 6 1, k := leAt b 8 4, n := leAt b 12 4, cb := leAt b 16 2, tlist := leAt b 24 8, tiles := [],
    master := leAt b 32 8, mom1 := leAt b 40 8, mom2 := leAt b 48 8, tally := leAt b 56 8, grad := leAt b 64 8,
    gsum := leAt b 72 8, mask := leAt b 80 8, wc := leAt b 88 8, dir := leAt b 96 8, pstate := leAt b 104 8,
    colst := leAt b 112 8 }

/-- Fields of a record lie in their ranges (cause 2 of Table 9-2). -/
def Span.fieldsOk (sp : Span) : Bool :=
  decide (sp.kind ≤ 1) && decide (1 ≤ sp.ng) && decide (sp.ng ≤ 8) && decide (fld sp.wcFb 4 3 ≤ 1) &&
  !sp.wcFb.testBit 5 && !sp.wcFb.testBit 6 && decide (1 ≤ sp.k) && decide (1 ≤ sp.n) &&
  (if sp.kind = 0 then
    decide (sp.k ≤ 245760) && decide (1 ≤ sp.cb) && decide (sp.cb ≤ 8192) && decide (sp.n ≤ 512 * sp.cb)
  else decide (sp.k ≤ 16773120) && decide (sp.n ≤ 16777216))

/-- Regions of a span: address, size, and whether the unit writes it (R307, R309). -/
def Span.regions (sp : Span) : List (Nat × Nat × Bool) :=
  let arr := sp.kind = 0
  [(sp.master, sp.k * sp.stride 4, true), (sp.mom1, sp.k * sp.stride 4, true)] ++
  (if sp.mom2 = 0 then [] else [(sp.mom2, sp.k * sp.stride 4, true)]) ++
  (if arr then [(sp.tlist, 2 * (sp.rb * sp.cb), false), (sp.tally, sp.k * sp.stride 2, true), (sp.colst, 4 * sp.n, true),
    (sp.wc, sp.n * 64 * ceilDiv sp.k 60, true)] else
    if sp.wc = 0 then [] else [(sp.wc, sp.n * 64 * ceilDiv sp.k 60, true)]) ++
  (if sp.ng = 1 then [(sp.grad, sp.k * sp.stride 2, false)]
   else [(sp.grad, 8 * sp.ng, false), (sp.gsum, sp.k * sp.stride 2, true)]) ++
  (if sp.mask = 0 then [] else [(sp.mask, sp.k * (64 * ceilDiv sp.n 512), false)]) ++
  (if sp.pc then [(sp.dir, sp.k * sp.stride 2, false), (sp.pstate, 131136 * ceilDiv sp.n 128, false)] else [])

/-- The addresses of the gradient buffers of a span, from the bytes of its list (Table 9-1). -/
def Span.bufsOf (sp : Span) (b : List Byte) : List Nat :=
  if sp.ng = 1 then [sp.grad] else (List.range sp.ng).map fun i => leAt b (8 * i) 8

def State.gradBufs (s : State) (sp : Span) : List Nat := sp.bufsOf (s.peek sp.grad (8 * sp.ng))

/-- A region lies wholly in stack k under stack-local placement and is 64-byte aligned (cause 1). -/
def State.regionOk (s : State) (k : Nat) (r : Nat × Nat × Bool) : Bool :=
  r.1 % 64 = 0 && stackLocal s.stripe k r.1 r.2.1

/-- The unit's master ID holds the rights it needs on a region (cause 6). -/
def State.regionRights (s : State) (k : Nat) (r : Nat × Nat × Bool) : Bool :=
  s.memCheck (shrMaster k) rightR r.1 r.2.1 = .ok && (!r.2.2 || s.memCheck (shrMaster k) rightW r.1 r.2.1 = .ok)

/-- Validation cause of a record given the other records of the module, 0 for a valid one, in the order 2, 1, 6, 3, 4, 5 (R308). Every
region of a unit lies in its own stack, whatever the kind of the span (R17, R305). -/
def State.spanCause (s : State) (k : Nat) (sp : Span) (others : List Span) : Nat :=
  let bufs := if sp.ng = 1 then [] else (s.gradBufs sp).map fun a => (a, sp.k * sp.stride 2, false)
  let rs := sp.regions ++ (if sp.fieldsOk then bufs else [])
  if !sp.fieldsOk then 2
  else if !rs.all (s.regionOk k) then 1
  else if !rs.all (s.regionRights k) then 6
  else if sp.tiles.any fun t => t / 8192 != k || (s.ptile k (t % 8192)).isNone then 3
  else if sp.tiles.eraseDups.length != sp.tiles.length || sp.tiles.any fun t => others.any fun o => o.tiles.contains t then 4
  else if others.any fun o => o.id = sp.id then 5
  else 0

/-- The address and record count of a unit's span table as committed. -/
def State.spanTable (s : State) (k : Nat) : Nat × Nat :=
  (2 ^ 32 * (s.reg (0x1001004 + 64 * k)).toNat + 128 * ((s.reg (0x1001000 + 64 * k)).toNat / 128),
   min (s.fld (0x1001008 + 64 * k) 12 0) 4096)

/-- The records of a span table as they stand in memory, with their tile lists. -/
def State.readSpans (s : State) (base cnt : Nat) : List Span :=
  (List.range cnt).map fun i =>
    let sp := parseSpan (s.peek (base + 128 * i) 128)
    if sp.kind = 0 && sp.fieldsOk then
      { sp with tiles := (List.range (sp.rb * sp.cb)).map fun j => leNat (s.peek (sp.tlist + 2 * j) 2) }
    else sp

/-- Validate records in order, each against every other record of the module. -/
def State.validate (s : State) (k : Nat) (base others : List Span) : List Span → List (Span × Nat)
  | [] => []
  | sp :: rest =>
    let cause := s.spanCause k sp (others ++ base ++ rest)
    ({ sp with valid := cause = 0 }, cause) :: s.validate k (base ++ [sp]) others rest

/-- The ranges a commit reads for a unit: its table, and the tile and gradient lists that records in order name (R307). -/
def State.spanReads (s : State) (k : Nat) : List (Nat × Nat) :=
  let t := s.spanTable k
  let lists := (s.readSpans t.1 t.2).flatMap fun sp =>
    if !sp.fieldsOk then []
    else (if sp.kind = 0 then [(sp.tlist, 2 * (sp.rb * sp.cb))] else []) ++ (if sp.ng = 1 then [] else [(sp.grad, 8 * sp.ng)])
  (t.1, 128 * t.2) :: lists.filter fun r => stackLocal s.stripe k r.1 r.2 && s.memCheck (shrMaster k) rightR r.1 r.2 = .ok

/-- The table of a unit can be read: it lies in stack Mk, the unit may read it, and no line of it or of a list it names is lost (cause 7;
log entry 166). -/
def State.tableOk (s : State) (k : Nat) : Bool :=
  let t := s.spanTable k
  t.2 = 0 || (match daddr (2 ^ 32 * (s.reg (0x1001004 + 64 * k)).toNat + 128 * ((s.reg (0x1001000 + 64 * k)).toNat / 128)) with
    | .mod x => stackLocal s.stripe k x (128 * t.2) && s.memCheck (shrMaster k) rightR x (128 * t.2) = .ok &&
        !(s.spanReads k).any fun r => s.rangeBad r.1 r.2
    | _ => false)

/-- The records that a commit validates for a unit: those of its new table, or of the one that stays in force. -/
def State.newSpans (s : State) (k : Nat) : List Span :=
  let t := s.spanTable k
  if s.tableOk k then s.readSpans t.1 t.2 else (s.shr k).spans

/-- A commit reads the tables and lists of a unit, with every effect of the reads (R351, R568). -/
def State.noteSpans (s : State) (k : Nat) : State :=
  (s.spanReads k).foldl (fun t r => if r.2 = 0 then t else (t.readMem 1 (shrMaster k) r.1 r.2).2.2) s

/-- A unit takes the validated records of its table in force, or keeps the previous ones where the table cannot be read (R307, R308). -/
def State.takeSpans (s : State) (k : Nat) (ok : Bool) (vs : List (Span × Nat)) : State :=
  let stat := 0x1001018 + 64 * k
  let err := 0x1001020 + 64 * k
  if !ok then (s.setBit stat 23).setReg err (BitVec.ofNat 32 (2 ^ 31 + 7 * 2 ^ 16))
  else
    let s1 := s.setShr k { s.shr k with spans := vs.map (·.1) }
    match (List.range vs.length).find? fun i => (vs.getD i ({}, 0)).2 != 0 with
    | some i => (s1.setBit stat 23).setReg err (BitVec.ofNat 32 (2 ^ 31 + 2 ^ 16 * ((vs.getD i ({}, 0)).2) + i))
    | none => (s1.clrBit stat 23).setReg err 0

/-- A configuration commit puts the span tables of all units in force together: each record is validated against every other record that
the commit leaves in force (R307, R308). -/
def State.commitSpans (s : State) : State :=
  let ks := List.range 8
  let news := ks.map s.newSpans
  let checked (k : Nat) : List (Span × Nat) :=
    s.validate k [] ((ks.filter (· != k)).flatMap fun j => news.getD j []) (news.getD k [])
  ks.foldl (fun (t : State) k =>
    if s.tableOk k && (s.spanTable k).2 = 0 then t.takeSpans k true [] else (t.noteSpans k).takeSpans k (s.tableOk k) (checked k)) s

/-- The named spans of a unit; none where the range reaches beyond its table (Table 9-7, R331). -/
def State.named (s : State) (k sp0 nsp : Nat) : Option (List Nat) :=
  let n := (s.shr k).spans.length
  if nsp = 0 then some (List.range n)
  else if sp0 + nsp ≤ n then some (rangeFrom sp0 nsp) else none

def State.spanAt (s : State) (k i : Nat) : Span := (s.shr k).spans.getD i {}

/-- Units named by a mask, with their spans; none where a range or span is not valid (R308, R331). -/
def State.namedAll (s : State) (mask sp0 nsp : Nat) : Option (List (Nat × List Nat)) :=
  let us := bitsSet 8 mask
  let rs := us.map fun k => (k, s.named k sp0 nsp)
  if rs.any (fun r => r.2.isNone) then none
  else
    let out := rs.map fun r => (r.1, r.2.getD [])
    if out.any fun r => r.2.any fun i => !(s.spanAt r.1 i).valid then none else some out

/-- A pass of the unit is in progress: it runs one at a time (R306). -/
def State.shrBusy (s : State) (k : Nat) : Bool := s.trn.passes.any fun r => r.units.any fun u => u.k = k && u.left != []

/-- A unit may begin a pass (Table 9-10, R306, R337). -/
def State.shrReady (s : State) (k : Nat) : Bool :=
  (s.shr k).state = .ready && !s.bit 0x1000010 0 && !s.failSafe && !s.shrBusy k

/-- A step of a pass over a span: whether it stopped, and that on a denied access, whether its panel or stripe has been written to, the writes
it still has where it is to stop after a number of them, the conditions raised, and the state. -/
structure Pass where
  s : State
  stop : Bool := false
  denied : Bool := false
  wrote : Bool := false
  writes : Option Nat := none
  cond : Cond := {}

/-- A read of a master for a pass. A denied one and one that meets a lost line stop the unit (R352, R364; log entry 50). -/
def Pass.readAs (x : Pass) (master a n : Nat) : List Byte × Pass :=
  if x.stop || n = 0 then ([], x)
  else
    let r := x.s.fetch master a n
    match r.1 with
    | some bs => (bs, { x with s := r.2 })
    | none => ([], { x with s := r.2, stop := true, denied := !x.s.mayRead master a n })

/-- A write of a master for a pass; a denied one is dropped and stops the unit (R364; log entry 50). -/
def Pass.writeAs (x : Pass) (master a : Nat) (bs : List Byte) : Pass :=
  if x.stop then x
  else if x.writes = some 0 then { x with stop := true }
  else if x.s.memCheck master rightW a bs.length = .ok then
    { x with s := x.s.writeMem master a bs, wrote := true, writes := x.writes.map (· - 1) }
  else { x with s := x.s.put master a bs, stop := true, denied := true }

def Pass.read (x : Pass) (k a n : Nat) : List Byte × Pass := x.readAs (shrMaster k) a n
def Pass.write (x : Pass) (k a : Nat) (bs : List Byte) : Pass := x.writeAs (shrMaster k) a bs

/-- Panels of 60 rows, blocks of 512 columns, rows: the segments of a span in the order of R314, as row, first column and
number of columns. -/
def Span.segments (sp : Span) (panel : Nat) : List (Nat × Nat × Nat) :=
  let rows := rangeFrom (60 * panel) (min 60 (sp.k - 60 * panel))
  (List.range (ceilDiv sp.n 512)).flatMap fun cb => rows.map fun r => (r, 512 * cb, min 512 (sp.n - 512 * cb))

def Span.panels (sp : Span) : Nat := ceilDiv sp.k 60

/-- Draw of the shearer site for an element of a span and a field code (R323). -/
def State.shrDraw (s : State) (sp : Span) (f r c : Nat) : Nat :=
  draw s.seed siteShearer sp.id (2 ^ 56 * f + r * sp.n + c) s.stepNo

/-- The BF16 word at position i of a row segment. -/
def bfAt (bs : List Byte) (i : Nat) : Nat := leAt bs (2 * i) 2

/-- The sum of the gradient buffers of an element, rounded to FP32 at each addition, then to BF16 stochastically
(R311). -/
def foldElem (ws : List Nat) (u : Nat) : Nat × Cond :=
  let fs := ws.map fun w => fcvt bf16 fp32 .rne w
  let sum := match fs with
    | [] => (0, Cond.none)
    | f :: rest => rest.foldl (fun (a g : Nat × Cond) =>
        let o := fp32.op2 .rne FVal.add a.1 g.1
        (o.1, (a.2.or g.2).or o.2)) f
  let o := fcvt fp32 bf16 (.sr u) sum.1
  (o.1, sum.2.or o.2)

/-- The folded gradient of a row segment: the gradient, the fold already written, or the fold formed anew (R311,
R322). -/
def Pass.gradRow (x : Pass) (k : Nat) (sp : Span) (folded : Bool) (r c n : Nat) : List Nat × Pass :=
  let off := r * sp.stride 2 + 2 * c
  if sp.ng = 1 then
    let q := x.read k (sp.grad + off) (2 * n)
    ((List.range n).map (bfAt q.1), q.2)
  else if folded then
    let q := x.read k (sp.gsum + off) (2 * n)
    ((List.range n).map (bfAt q.1), q.2)
  else
    let l := x.read k sp.grad (8 * sp.ng)
    let q := (sp.bufsOf l.1).foldl (fun (a : List (List Byte) × Pass) b =>
      let o := a.2.read k (b + off) (2 * n)
      (a.1 ++ [o.1], o.2)) ([], l.2)
    let es := (List.range n).map fun i =>
      foldElem (q.1.map fun bs => bfAt bs i) (x.s.shrDraw sp 4 r (c + i))
    (es.map (·.1), { q.2 with cond := (es.map (·.2)).foldl Cond.or q.2.cond })

/-- Frozen weights of a row segment (R309). -/
def Pass.maskRow (x : Pass) (k : Nat) (sp : Span) (r c n : Nat) : List Bool × Pass :=
  if sp.mask = 0 then (List.replicate n false, x)
  else
    let q := x.read k (sp.mask + r * (64 * ceilDiv sp.n 512) + c / 8) (ceilDiv n 8)
    ((List.range n).map fun i => ((q.1.getD (i / 8) 0).toNat).testBit (i % 8), q.2)

/-- Add the square of an element into its binary64 lane (R312). -/
def addSquare (lanes : List Nat) (c g : Nat) : List Nat × Cond :=
  let x := fcvt bf16 fp32 .rne g
  let sq := fp32.op2 .rne FVal.mul x.1 x.1
  let wide := fcvt fp32 fp64 .rne sq.1
  let o := fp64.op2 .rne FVal.add (lanes.getD (c % 128) 0) wide.1
  (lanes.set (c % 128) o.1, ((x.2.or sq.2).or wide.2).or o.2)

/-- The pairwise tree over binary64 lanes, neighbours first (R312). -/
def tree64 : Nat → List Nat → Nat
  | 0, xs => xs.headD 0
  | n + 1, xs => tree64 n ((List.range (xs.length / 2)).map fun i =>
      (fp64.op2 .rne FVal.add (xs.getD (2 * i) 0) (xs.getD (2 * i + 1) 0)).1)

/-- One segment of the norm pass: fold written back where the span has several buffers and the step folds it, squares
added (R311, R312). -/
def normSegment (k : Nat) (sp : Span) (folds : Bool) (acc : List Nat × Pass) (seg : Nat × Nat × Nat) :
    List Nat × Pass :=
  let r := seg.1
  let c := seg.2.1
  let n := seg.2.2
  let g := acc.2.gradRow k sp false r c n
  let m := g.2.maskRow k sp r c n
  let x1 := if sp.ng != 1 && folds then m.2.write k (sp.gsum + r * sp.stride 2 + 2 * c) (g.1.flatMap (leBytes 2)) else m.2
  if x1.stop then (acc.1, x1)
  else
    let all := x1.s.bit 0x1000010 1
    (List.range n).foldl (fun a i =>
      if m.1.getD i false && !all then a
      else
        let o := addSquare a.1 (c + i) (g.1.getD i 0)
        (o.1, { a.2 with cond := a.2.cond.or o.2 })) (acc.1, x1)

/-- The conditions of R29 in SHR_STAT (Table 9-15). -/
def State.shrCond (s : State) (k : Nat) (c : Cond) : State :=
  let off := 0x1001018 + 64 * k
  let b (t : State) (x : Bool) (i : Nat) : State := if x then t.setBit off i else t
  b (b (b (b s c.invalid 22) c.overflow 21) c.underflow 20) c.inFlush 19

/-- The norm pass over one span: its partial sum (R312). -/
def State.normSpan (s : State) (k i : Nat) (folds : Bool) : Nat × Pass :=
  let sp := s.spanAt k i
  let r := ((List.range sp.panels).flatMap sp.segments).foldl (normSegment k sp folds) (List.replicate 128 0, { s := s })
  (tree64 7 r.1, { r.2 with s := r.2.s.shrCond k r.2.cond })

/-- Partials of the step in ascending unit and span, with their count (R312). -/
def State.stepPartials (s : State) (stamp : Nat) : List Nat :=
  (List.range 8).flatMap fun k => ((s.shr k).partials.filter fun kv => kv.2.1 = stamp).map fun kv => kv.2.2

def sum64 (xs : List Nat) : Nat := xs.foldl (fun a b => (fp64.op2 .rne FVal.add a b).1) 0

/-- The norm of a binary64 sum, correctly rounded to FP32 (R312). -/
def normOf (sum : Nat) : Nat := (fp32.round .rne (fp64.decode sum).sqrt).1

/-- Put a sum and its norm in the registers. -/
def State.setNorm (s : State) (sum : Nat) : State :=
  ((s.setReg 0x1000020 (BitVec.ofNat 32 sum)).setReg 0x1000024 (BitVec.ofNat 32 (sum / 2 ^ 32))).setReg 0x1000028
    (BitVec.ofNat 32 (normOf sum))

/-- The norm pass of one span within a step, its partial kept with the step's stamp. -/
def normOne (inStep : Bool) (k : Nat) (acc : List Nat × Pass) (i : Nat) : List Nat × Pass :=
  if acc.2.stop then acc
  else
    let r := acc.2.s.normSpan k i inStep
    if r.2.stop then (acc.1, r.2)
    else if !inStep then (acc.1 ++ [r.1], r.2)
    else
      let st := r.2.s.stepNo + 1
      let x := r.2.s.shr k
      let fold := if (r.2.s.spanAt k i).ng = 1 then x.folded else mapSet 0 x.folded i st
      let x' := { x with partials := mapSet (0, 0) x.partials i (st, r.1), folded := fold }
      (acc.1 ++ [r.1], { r.2 with s := r.2.s.setShr k x' })

def chkUpdateNorm (d : Desc) : Nat := if !localOrHost (d.u64 24) then stInvalidField else 0

/-- The status UPDATE_NORM ends with before it starts, or success, by its spans and its right on the result (R331, R332). -/
def State.normCheck (s : State) (c : Nat) (d : Desc) : Nat × State :=
  let w := s.ctxWho c
  match s.namedAll (d.u8 16) (d.u16 18) (d.u16 20) with
  | none => (stInvalidField, s)
  | some units =>
    if units != [] && !s.mayStore w (d.u64 24) 16 then (stDenied, s.denyAt w rightW (d.u64 24) 16) else (stSuccess, s)

/-- A rule block (Table 9-3). -/
structure Rule where
  alg : Nat
  pcExp : Bool
  rootPer : Nat
  eta : FVal
  b1 : FVal
  b2 : FVal
  eps : FVal
  wd : FVal
  betaL : FVal
  epsRel : FVal
  epsAbs : FVal
  pcTol : FVal
  /-- The FP32 words of the block, ETA first. -/
  raw : List Nat
  deriving DecidableEq, Repr

def ruleAt (table : List Byte) (i : Nat) : Rule :=
  let b := table.drop (64 * i)
  let f (o : Nat) : FVal := fp32.decode (leAt b o 4)
  { alg := leAt b 0 1, pcExp := (leAt b 1 1).testBit 0, rootPer := if leAt b 2 2 = 0 then 64 else leAt b 2 2,
    eta := f 4, b1 := f 8, b2 := f 12, eps := f 16, wd := f 20, betaL := f 24, epsRel := f 28, epsAbs := f 32,
    pcTol := if leAt b 36 4 = 0 then .fin false 1 (-12) else f 36,
    raw := (List.range 9).map fun i => leAt b (4 + 4 * i) 4 }

/-- The clip factor of a step; a subnormal CLIP reads as 0 (R25, R315). -/
def clipFactor (clip norm : Nat) : Nat :=
  let n := fp32.decode norm
  let c := fp32.decode clip
  match n with
  | .fin _ m _ => if c.isZero || m = 0 || n.le c then 0x3F800000 else (fp32.round .rne (c.div n)).1
  | _ => 0x3F800000

/-- Counts of an update pass (Table 9-8). -/
structure UpdCnt where
  updated : Nat := 0
  frozen : Nat := 0
  nonfin : Nat := 0
  reqs : Nat := 0
  deferred : Nat := 0
  sats : Nat := 0
  done : Nat := 0
  missed : Nat := 0
  deriving DecidableEq, Repr

/-- One result of an update: rounded once, with the conditions of R29 over its operands. -/
def rounded (rnd : Rnd) (ops : List FVal) (v : FVal) : Nat × Cond :=
  let o := fp32.round rnd v
  (o.1, o.2.or (invalidOf ops v))

/-- The new master, moments and the conditions of one weight; none where a value is not finite (R29, R316, R317). -/
def updWeight (rule : Rule) (clip : FVal) (gin w m v : Nat) (u0 u1 u2 : Nat) : Option (Nat × Nat × Nat) × Cond :=
  let one := FVal.one
  let adam := rule.alg = 0
  let W := fp32.decode w
  let M := fp32.decode m
  let V := fp32.decode v
  let g := rounded .rne [clip, bf16.decode gin] (clip.mul (bf16.decode gin))
  let G := fp32.decode g.1
  let m1 := rounded (.sr u1) [rule.b1, M, G] ((rule.b1.mul M).add ((one.sub rule.b1).mul G))
  let M1 := fp32.decode m1.1
  let v1 := if adam then rounded (.sr u2) [rule.b2, V, G] ((rule.b2.mul V).add (((one.sub rule.b2).mul G).mul G)) else (v, Cond.none)
  let V1 := fp32.decode v1.1
  let root := if adam then rounded .rne [V1] V1.sqrt else (0, Cond.none)
  let den := if adam then rounded .rne [fp32.decode root.1, rule.eps] ((fp32.decode root.1).add rule.eps) else (0, Cond.none)
  let u := if adam then rounded .rne [M1, fp32.decode den.1] (M1.div (fp32.decode den.1)) else (m1.1, Cond.none)
  let U := fp32.decode u.1
  let w1 := rounded (.sr u0) [W, U, rule.eta, rule.wd] ((W.sub (rule.eta.mul U)).sub ((rule.eta.mul rule.wd).mul W))
  let fin := finiteF g.1 && finiteF m1.1 && finiteF v1.1 && finiteF u.1 && finiteF w1.1
  let flush := ((flushOf bf16 [gin]).or (flushOf fp32 (if adam then [w, m, v] else [w, m]))).or (flushOf fp32 (rule.raw.take 5))
  let cond := [g, m1, v1, root, den, u, w1].foldl (fun (a : Cond) x => a.or x.2) flush
  (if fin then some (w1.1, m1.1, v1.1) else none, cond)

/-- Entry n of the request list of unit k has a place: below the capacity, and in the unit's own stack (R17, R320; log entry 167). -/
def State.listRoom (s : State) (k n : Nat) : Bool :=
  decide (n < s.fld (0x1001014 + 64 * k) 27 0 / 8 * 8) && stackLocal s.stripe k (s.listBase k + 8 * n) 8

/-- Append a program request to the list of die k, or answer that the list is full (R111, R320). -/
def Pass.request (x : Pass) (k : Nat) (e : Nat) : Bool × Pass :=
  let s := x.s
  let u := s.shr k
  if s.listRoom k u.fill then
    let y := x.write k (s.listBase k + 8 * u.fill) (leBytes 8 e)
    (true, if y.stop then y else { y with s := y.s.setShr k { y.s.shr k with fill := u.fill + 1 } })
  else (false, { x with s := s.setBit (0x1001018 + 64 * k) 26 })

/-- The 8 bytes of a request (Table 4-2). -/
def reqEntry (n row col : Nat) (wNew wOld : Int) (sat : Bool) : Nat :=
  n + row * 2 ^ 13 + 2 ^ 22 * col + 2 ^ 31 * (ofInt 9 wNew) + 2 ^ 40 * (ofInt 9 wOld) + 2 ^ 49 * (b2n sat)

/-- The tally of an updated weight and its request, where the threshold is reached (R107, R318, R320). -/
def Pass.tally (x : Pass) (k : Nat) (sp : Span) (r c : Nat) (w w1 : Nat) (t : Int) (cnt : UpdCnt) :
    Int × UpdCnt × Pass :=
  let i := c / 512 * sp.rb + r / 480
  let n := sp.tiles.getD i 0 % 8192
  let col := c % 512
  let sc := x.s.scol k n col
  let code := recoverW w sc t
  let t1 := tallyOf w1 sc code
  let th := max 129 (x.s.fld (pst k + 0x208) 14 0)
  if t1.natAbs < th then (t1, cnt, x)
  else
    let steps : Int := ((t1.natAbs + 128) / 256 : Nat)
    let moved := if t1 < 0 then code - steps else code + steps
    let w' := clampI moved (-135) 135
    let sat := decide (132 < moved.natAbs)
    let q := x.request k (reqEntry n (r % 480) col w' code sat)
    if q.1 then
      (tallyOf w1 sc w', { cnt with reqs := cnt.reqs + 1, sats := cnt.sats + b2n sat },
       { q.2 with s := q.2.s.saturate k n col (b2n sat) })
    else (t1, { cnt with deferred := cnt.deferred + 1 }, q.2)

/-- The new values of one row segment as they build up: master, moments, tallies. -/
structure RowOut where
  w : List Nat := []
  m : List Nat := []
  v : List Nat := []
  t : List Int := []
  cnt : UpdCnt := {}
  x : Pass

/-- The operands of one row segment. -/
structure RowIn where
  w : List Byte := []
  m : List Byte := []
  v : List Byte := []
  t : List Byte := []
  g : List Nat := []
  frozen : List Bool := []

/-- One weight of a row segment (R316 to R318). -/
def updElem (k : Nat) (sp : Span) (rule : Rule) (clip : FVal) (r c : Nat) (inp : RowIn) (a : RowOut) (i : Nat) : RowOut :=
  let w := leAt inp.w (4 * i) 4
  let m := leAt inp.m (4 * i) 4
  let v := leAt inp.v (4 * i) 4
  let t := sext 16 (leAt inp.t (2 * i) 2)
  let keep (cnt : UpdCnt) (x : Pass) : RowOut :=
    { w := a.w ++ [w], m := a.m ++ [m], v := a.v ++ [v], t := a.t ++ [t], cnt := cnt, x := x }
  if a.x.stop then a
  else if inp.frozen.getD i false then keep { a.cnt with frozen := a.cnt.frozen + 1 } a.x
  else
    let d (f : Nat) : Nat := a.x.s.shrDraw sp f r (c + i)
    let o := updWeight rule clip (inp.g.getD i 0) w m v (d 0) (d 1) (d 2)
    let x1 := { a.x with cond := a.x.cond.or o.2 }
    match o.1 with
    | none => keep { a.cnt with nonfin := a.cnt.nonfin + 1 }
        { x1 with s := x1.s.setBit (0x1001018 + 64 * k) 24 }
    | some (w1, m1, v1) =>
      let cnt := { a.cnt with updated := a.cnt.updated + 1 }
      let q := if sp.kind = 0 then x1.tally k sp r (c + i) w w1 t cnt else (t, cnt, x1)
      { w := a.w ++ [w1], m := a.m ++ [m1], v := a.v ++ [v1], t := a.t ++ [q.1], cnt := q.2.1, x := q.2.2 }

/-- Which stripes of a span hold a direction of this step (R326). -/
def Pass.dirs (x : Pass) (k : Nat) (sp : Span) (js : List Nat) : List Bool × Pass :=
  js.foldl (fun (a : List Bool × Pass) j =>
    let q := a.2.read k (sp.pstate + 131136 * j + 8) 4
    (a.1 ++ [leNat q.1 == (x.s.stepNo + 1) % 2 ^ 32], q.2)) ([], x)

/-- The master weights and moments of a row segment at byte o of 4 bytes a weight. -/
def Pass.stateIn (x : Pass) (k : Nat) (sp : Span) (alg o n : Nat) : RowIn × Pass :=
  let w := x.read k (sp.master + o) (4 * n)
  let m := w.2.read k (sp.mom1 + o) (4 * n)
  let v := if alg = 0 then m.2.read k (sp.mom2 + o) (4 * n) else ([], m.2)
  ({ w := w.1, m := m.1, v := v.1 }, v.2)

/-- The gradients of a row segment, folded or not, with the direction of the step in place of them where a stripe holds it (R315, R326). -/
def Pass.gradIn (x : Pass) (k : Nat) (sp : Span) (folded : Bool) (r c n : Nat) : List Nat × Pass :=
  let g := x.gradRow k sp folded r c n
  let hs := if sp.pc then g.2.dirs k sp (rangeFrom (c / 128) ((c + n - 1) / 128 + 1 - c / 128)) else ([], g.2)
  let useDir := (List.range n).map fun j => hs.1.getD ((c + j) / 128 - c / 128) false
  let dir := if useDir.any id then hs.2.read k (sp.dir + (r * sp.stride 2 + 2 * c)) (2 * n) else ([], hs.2)
  ((List.range n).map fun j => if useDir.getD j false then bfAt dir.1 j else g.1.getD j 0, dir.2)

/-- All that the update of a row segment reads: masters, moments, gradients, the mask and the tallies. -/
def Pass.rowIn (x : Pass) (k i : Nat) (sp : Span) (alg r c n : Nat) : RowIn × Pass :=
  let a := x.stateIn k sp alg (r * sp.stride 4 + 4 * c) n
  let g := a.2.gradIn k sp (mapGet 0 (x.s.shr k).folded i = x.s.stepNo + 1) r c n
  let f := g.2.maskRow k sp r c n
  let t := if sp.kind = 0 then f.2.read k (sp.tally + (r * sp.stride 2 + 2 * c)) (2 * n) else ([], f.2)
  ({ a.1 with t := t.1, g := g.1, frozen := f.1 }, t.2)

/-- The new values of a row segment are written back. -/
def RowOut.write (out : RowOut) (k : Nat) (sp : Span) (alg r c : Nat) : Pass :=
  let o := r * sp.stride 4 + 4 * c
  let x1 := (out.x.write k (sp.master + o) (out.w.flatMap (leBytes 4))).write k (sp.mom1 + o) (out.m.flatMap (leBytes 4))
  let x2 := if alg = 0 then x1.write k (sp.mom2 + o) (out.v.flatMap (leBytes 4)) else x1
  if sp.kind = 0 then x2.write k (sp.tally + (r * sp.stride 2 + 2 * c)) (out.t.flatMap fun z => leBytes 2 (ofInt 16 z)) else x2

/-- One row segment of the update pass: read, updated, written back. -/
def updSegment (k i : Nat) (rule : Rule) (clip : FVal) (acc : UpdCnt × Pass) (seg : Nat × Nat × Nat) : UpdCnt × Pass :=
  let sp := acc.2.s.spanAt k i
  let q := acc.2.rowIn k i sp rule.alg seg.1 seg.2.1 seg.2.2
  if q.2.stop then (acc.1, q.2)
  else
    let out := (List.range seg.2.2).foldl (updElem k sp rule clip seg.1 seg.2.1 q.1) { cnt := acc.1, x := q.2 }
    (out.cnt, out.write k sp rule.alg seg.1 seg.2.1)

/-- One T8 line of the working copy: column c, panel i (R309, R319). -/
def State.wcLine (s : State) (sp : Span) (panel c : Nat) : List Byte × Cond :=
  let rows := rangeFrom (60 * panel) (min 60 (sp.k - 60 * panel))
  let vs := rows.map fun r =>
    (fp32.decode (leNat (s.peek (sp.masterAt r c) 4)),
     if sp.wcFb.testBit 7 then Rnd.sr (s.shrDraw sp 3 r c) else Rnd.rne)
  let blk := if Machine.fld sp.wcFb 4 3 = 0 then 30 else 60
  let bs := (List.range (60 / blk)).map fun b => freshBlock .t8 ((vs.drop (b * blk)).take blk)
  let flush := flushOf fp32 (rows.map fun r => leNat (s.peek (sp.masterAt r c) 4))
  (mkLine .t8 (bs.flatMap (·.codes)) (bs.map (·.scale)), (bs.map (·.cond)).foldl Cond.or flush)

/-- Every line of a panel of the working copy is rewritten (R319). -/
def Pass.wcPanel (x : Pass) (k : Nat) (sp : Span) (panel : Nat) : Pass :=
  if sp.wc = 0 then x
  else (List.range sp.n).foldl (fun x c =>
    let l := x.s.wcLine sp panel c
    { (x.write k (sp.wc + (c * ceilDiv sp.k 60 + panel) * 64) l.1) with cond := x.cond.or l.2 }) x

/-- One panel of the update pass; its mark moves when every write has been made (R321). -/
def updPanel (k i : Nat) (rule : Rule) (clip : FVal) (acc : UpdCnt × Pass) (panel : Nat) : UpdCnt × Pass :=
  if acc.2.stop then acc
  else
    let sp := acc.2.s.spanAt k i
    let r := (sp.segments panel).foldl (updSegment k i rule clip) (acc.1, { acc.2 with wrote := false })
    let x := r.2.wcPanel k sp panel
    if x.stop then (r.1, x)
    else
      let u := x.s.shr k
      let u' := { u with marks := mapSet (0, 0) u.marks i (x.s.stepNo + 1, panel + 1) }
      (r.1, { x with s := x.s.setShr k u' })

/-- The panels of a span that the step has still to update, from its mark (R321). -/
def State.panelsLeft (s : State) (k i : Nat) : List Nat :=
  let mark := mapGet (0, 0) (s.shr k).marks i
  let from_ := if mark.1 = s.stepNo + 1 then mark.2 else 0
  rangeFrom from_ ((s.spanAt k i).panels - from_)

/-- The update pass over a number of the panels of a span that are left, with its stripes that hold no direction counted (R321, R326). -/
def updPanels (k : Nat) (table : List Byte) (clip : FVal) (acc : UpdCnt × Pass) (i num : Nat) : UpdCnt × Pass :=
  let sp := acc.2.s.spanAt k i
  let h := if sp.pc then acc.2.dirs k sp (List.range (ceilDiv sp.n 128)) else ([], acc.2)
  let miss := (h.1.filter (!·)).length
  let s1 := if miss = 0 then h.2.s else h.2.s.setBit (0x1001018 + 64 * k) 25
  let r := ((acc.2.s.panelsLeft k i).take num).foldl (updPanel k i (ruleAt table sp.rule) clip)
    ({ acc.1 with missed := acc.1.missed + miss }, { h.2 with s := s1.setFld (0x1001018 + 64 * k) 12 0 i })
  (r.1, { r.2 with s := r.2.s.shrCond k r.2.cond })

/-- The update pass over one span, from the panel its mark names; a span already updated counts as done (R321). -/
def updSpan (k : Nat) (table : List Byte) (clip : FVal) (acc : UpdCnt × Pass) (i : Nat) : UpdCnt × Pass :=
  if acc.2.stop then acc
  else
    let ps := acc.2.s.panelsLeft k i
    if ps = [] then ({ acc.1 with done := acc.1.done + 1 }, acc.2) else updPanels k table clip acc i ps.length

/-- A pass that a fault stops inside a panel leaves the unit torn (R321). -/
def State.tear (s : State) (k i : Nat) : State :=
  (s.setFld (0x1001018 + 64 * k) 27 27 1 |>.setFld (0x1001018 + 64 * k) 12 0 i).raiseFault 3 0x0503 k [i]

/-- Counts of two spans together. -/
def UpdCnt.add (a b : UpdCnt) : UpdCnt :=
  { updated := a.updated + b.updated, frozen := a.frozen + b.frozen, nonfin := a.nonfin + b.nonfin, reqs := a.reqs + b.reqs,
    deferred := a.deferred + b.deferred, sats := a.sats + b.sats, done := a.done + b.done, missed := a.missed + b.missed }

def UpdCnt.list (c : UpdCnt) : List Nat := [c.updated, c.frozen, c.nonfin, c.reqs, c.deferred, c.sats, c.done, c.missed]
def UpdCnt.of (xs : List Nat) : UpdCnt :=
  let g (i : Nat) : Nat := xs.getD i 0
  { updated := g 0, frozen := g 1, nonfin := g 2, reqs := g 3, deferred := g 4, sats := g 5, done := g 6, missed := g 7 }

/-- The events of an updated span and its record of deferred requests (R320, R473). -/
def State.updEvents (s : State) (k : Nat) (c : UpdCnt) : State :=
  let f := foldOf k
  let s1 := ((((s.eventF f 0x30 (k % 4) c.updated).eventF f 0x31 (k % 4) c.frozen).eventF f 0x32 (k % 4)
    c.nonfin).eventF f 0x33 (k % 4) c.deferred).eventF f 0x34 (k % 4) c.reqs
  let st := s1.stepNo + 1
  s1.updDie k fun d => { d with noSample := if c.deferred != 0 then st else if d.noSample = st then st else 0 }

/-- What one span of a pass came to: the counts of its unit, the values the units share, and the state. -/
structure SpanOut where
  cnt : List Nat
  share : List Nat
  x : Pass

/-- One span of an update pass (R314 to R321). -/
def updRun (table : List Byte) (clip : Nat) (k i : Nat) (cnt share : List Nat) (x : Pass) : SpanOut :=
  let y : Pass := if x.s.fenced k 1 then { x with s := x.s.drainRecon k } else x
  let r := updSpan k table (fp32.decode clip) ({}, y) i
  if r.2.stop then { cnt := cnt, share := share, x := r.2 }
  else { cnt := ((UpdCnt.of cnt).add r.1).list, share := share, x := { r.2 with s := r.2.s.updEvents k r.1 } }

/-- A unit that stops inside the span is torn (R321, R336). -/
def tearing (f : Nat → Nat → List Nat → List Nat → Pass → SpanOut) (k i : Nat) (cnt share : List Nat) (x : Pass) : SpanOut :=
  let o := f k i cnt share x
  if o.x.stop then { cnt := cnt, share := share, x := { o.x with s := o.x.s.tear k i } } else o

def updStep (table : List Byte) (clip : Nat) : Nat → Nat → List Nat → List Nat → Pass → SpanOut := tearing (updRun table clip)

/-- One span of a norm pass (R311, R312). -/
def normStep (inStep : Bool) (k i : Nat) (cnt share : List Nat) (x : Pass) : SpanOut :=
  let r := normOne inStep k (share, x) i
  { cnt := cnt, share := r.1, x := r.2 }

/-- The next span of every unit of a pass, units ascending; a unit that stops keeps its span. -/
def spanRound (f : Nat → Nat → List Nat → List Nat → Pass → SpanOut) (us : List PassUnit) (share : List Nat) (s : State) :
    List PassUnit × List Nat × Pass :=
  us.foldl (fun (a : List PassUnit × List Nat × Pass) u =>
    match u.left with
    | [] => (a.1 ++ [u], a.2)
    | i :: rest =>
      if a.2.2.stop then (a.1 ++ [u], a.2)
      else
        let o := f u.k i u.cnt a.2.1 { s := a.2.2.s }
        (a.1 ++ [if o.x.stop then u else { u with left := rest, cnt := o.cnt }], o.share, o.x)) ([], share, { s := s })

/-- The pass in hand of a descriptor. -/
def State.shrPass (s : State) (c ptr : Nat) : Option ShrPass := s.trn.passes.find? fun r => r.c = c && r.ptr = ptr

def State.dropPass (s : State) (c ptr : Nat) : State :=
  s.updTrn fun t => { t with passes := t.passes.filter fun r => !(r.c = c && r.ptr = ptr) }

def State.putPass (s : State) (r : ShrPass) : State :=
  (s.dropPass r.c r.ptr).updTrn fun t => { t with passes := t.passes ++ [r] }

/-- A pass runs the next span of each of its units. Under QUIESCE it stands where it is (R337); a denied access ends its descriptor, and
after the last span the descriptor ends as `fin` says. -/
def State.goOn (s : State) (r : ShrPass) (f : Nat → Nat → List Nat → List Nat → Pass → SpanOut) (fin : ShrPass → State → State) :
    State :=
  if s.bit 0x1000010 0 then s.putPass r
  else
    let q := spanRound f r.units r.share s
    let r' := { r with units := q.1, share := q.2.1 }
    let x := q.2.2
    if x.denied then (x.s.dropPass r.c r.ptr).complete r.c r.ptr stDenied
    else if !x.stop && r'.units.all (·.left = []) then fin r' (x.s.dropPass r.c r.ptr)
    else x.s.putPass r'

/-- A pass over named units. -/
def newPass (c : Nat) (d : Desc) (units : List (Nat × List Nat)) : ShrPass :=
  { c := c, ptr := d.ptr, op := d.op, step := d.step, units := units.map fun u => { k := u.1, left := u.2 } }

/-- A descriptor that has done its work completes, with a result record where it asks for one. -/
def State.endRecord (s : State) (c ptr addr : Nat) (bs : List Byte) : State :=
  if addr = 0 then s.complete c ptr stSuccess
  else
    let q := s.store (s.ctxWho c) (daddr addr) bs
    q.2.complete c ptr q.1.status

/-- The end of a norm pass: the sum and the norm, of the step or of the pass alone (R312, R331, R332). -/
def State.normEnd (d : Desc) (r : ShrPass) (s : State) : State :=
  let ps := if r.step then s.stepPartials (s.stepNo + 1) else r.share
  let sum := sum64 ps
  (if r.step then s.setNorm sum else s).endRecord r.c r.ptr (d.u64 24) (leBytes 8 sum ++ leBytes 4 (normOf sum) ++ leBytes 4 ps.length)

def State.goNorm (s : State) (d : Desc) (r : ShrPass) : State := s.goOn r (normStep r.step) (State.normEnd d)

/-- UPDATE_NORM (R331, R332): it starts, or runs the next span of each of its units. -/
def State.updateNorm (s : State) (c : Nat) (d : Desc) : State :=
  match s.shrPass c d.ptr with
  | some r => s.goNorm d r
  | none =>
    let units := (s.namedAll (d.u8 16) (d.u16 18) (d.u16 20)).getD []
    let chk := s.normCheck c d
    if chk.1 != stSuccess then chk.2.complete c d.ptr chk.1
    else if units = [] then s.complete c d.ptr stSuccess
    else if units.any fun u => !s.shrReady u.1 then s
    else s.goNorm d (newPass c d units)

def execUpdateNorm (c n : Nat) (s : State) : Res :=
  onUnit (ctxOk c) (s.runDesc c n 0x28 fun d t => t.updateNorm c d)

def chkUpdateApply (d : Desc) : Nat :=
  if d.u64 24 % 64 != 0 || !localOrHost (d.u64 24) || !localOrHost (d.u64 40) then stInvalidField else 0

/-- A rule block that a named span cannot use (R333). -/
def State.ruleBad (s : State) (table : List Byte) (units : List (Nat × List Nat)) : Bool :=
  units.any fun u => u.2.any fun i =>
    let sp := s.spanAt u.1 i
    let a := (ruleAt table sp.rule).alg
    decide (1 < a) || (a = 0 && sp.mom2 = 0)

/-- Torn units among those named (R321). -/
def State.torn (s : State) (k : Nat) : Bool := s.bit (0x1001018 + 64 * k) 27

/-- The end of an update pass: its record, 32 bytes per unit (Table 9-8); a flush of a list that is now empty may complete (R144). -/
def State.applyEnd (d : Desc) (r : ShrPass) (s : State) : State :=
  let s1 := r.units.foldl (fun t u => t.portSettle u.k) s
  s1.endRecord r.c r.ptr (d.u64 40) (r.units.flatMap fun u => (UpdCnt.of u.cnt).list.flatMap (leBytes 4))

def State.goApply (s : State) (d : Desc) (r : ShrPass) : State := s.goOn r (updStep r.rules r.clip) (State.applyEnd d)

/-- UPDATE_APPLY (R321, R331, R333): it starts, or runs the next span of each of its units. -/
def State.updateApply (s : State) (c : Nat) (d : Desc) : State :=
  match s.shrPass c d.ptr with
  | some r => s.goApply d r
  | none =>
    let w := s.ctxWho c
    if !d.step then s.complete c d.ptr stPhase
    else
      match s.namedAll (d.u8 16) (d.u16 18) (d.u16 20) with
      | none => s.complete c d.ptr stInvalidField
      | some units =>
        if units = [] then s.complete c d.ptr stSuccess
        else if !s.mayStore w (d.u64 40) (32 * units.length) then
          (s.denyAt w rightW (d.u64 40) (32 * units.length)).complete c d.ptr stDenied
        else if units.any fun u => s.torn u.1 then s.complete c d.ptr stTorn
        else if units.any fun u => !s.shrReady u.1 || ((s.port u.1).recon != [] && !s.fenced u.1 1) then s
        else
          let r := s.readRecord w (d.u64 24) 1024
          match r.1 with
          | .inl st => r.2.complete c d.ptr st
          | .inr table =>
            if r.2.ruleBad table units then r.2.complete c d.ptr stInvalidField
            else
              let clip := clipFactor (d.u32 32) (r.2.reg 0x1000028).toNat
              (r.2.setReg 0x100002C (BitVec.ofNat 32 clip)).goApply d { newPass c d units with rules := table, clip := clip }

def execUpdateApply (c n : Nat) (s : State) : Res :=
  onUnit (ctxOk c) (s.runDesc c n 0x29 fun d t => t.updateApply c d)

/-- Writing SHR_CTL.QUIESCE (R337). It takes effect when written. -/
def execShrQuiesce (master : Nat) (on : Bool) (s : State) : Res :=
  .next (s.guardedWrite master 0x1000010 fun t => t.setFld 0x1000010 0 0 (b2n on))

end Sys2Proof.Machine
end

