-- ==== Sys2Proof/Machine/Writer.lean ====
section
/-! DEFINITION. Writing tensors: tensor references (Table 7-10), narrow blocks with fresh or predicted scales and their
history (R38 to R45), outlier channels pulled out to side arrays (R46 to R48), and lines put to memory (R34, R240, R241). -/

namespace Sys2Proof.Machine

/-- A tensor reference (Table 7-10). -/
def parseTensor (b : List Byte) : WSlot :=
  { base := leAt b 0 8, len := leAt b 8 4, pitch := leAt b 12 4, fb := leAt b 16 1, fmt := leAt b 17 1 % 16,
    tile := leAt b 18 2, layer := leAt b 20 2, autosum := (leAt b 22 1).testBit 0, outl := (leAt b 22 1).testBit 1,
    hist := leAt b 24 8, olist := leAt b 32 8, side := leAt b 40 8 }

def WSlot.format (w : WSlot) : Fmt := (Fmt.ofCode w.fmt).getD .f32
def WSlot.blk (w : WSlot) : Nat := (w.format.block (fld w.fb 4 3)).getD 60
def WSlot.sr (w : WSlot) : Bool := w.fb.testBit 7
def WSlot.hupd (w : WSlot) : Bool := w.fb.testBit 6
def WSlot.pred (w : WSlot) : Bool := w.fb.testBit 5

/-- Bytes of a stored row of n values, in whole lines for a narrow format (R34). -/
def Fmt.rowBytes (f : Fmt) (n : Nat) : Nat := if f.narrow then 64 * linesPerRow f n else ceilDiv (n * f.bits) 8

/-- A row pitch in 64-byte units that a row needs at least (R189, Table 7-10). -/
def Fmt.minPitch (f : Fmt) (n : Nat) : Nat := ceilDiv (f.rowBytes n) 64

/-- A module-local address. -/
def isLocal (a : Nat) : Bool :=
  match daddr a with
  | .mod _ => true
  | _ => false

/-- Status of a tensor reference by its own fields (R31, R240): 0 where they are in order. -/
def WSlot.status (w : WSlot) : Nat :=
  if w.base % 64 != 0 || !isLocal w.base || w.len = 0 || 2 ^ 24 < w.len then stInvalidField
  else if !fmtOk w.fmt w.fb then stUnsupported
  else if w.pitch < w.format.minPitch w.len then stInvalidField
  else if w.outl && !w.format.narrow then stInvalidField
  else 0

/-- Values of one line: narrow values per line, or the elements of 64 bytes. -/
def WSlot.perLine (w : WSlot) : Nat := if w.format.narrow then w.format.perLine else 512 / w.format.bits

/-- Address of a row. -/
def WSlot.rowAt (w : WSlot) (r : Nat) : Nat := w.base + r * w.pitch * 64

/-- The layout of a source type: 0 FP32, 1 BF16, 2 FP16. -/
def tyFmt (ty : Nat) : FFmt := if ty = 0 then fp32 else if ty = 1 then bf16 else fp16

def HeldVal.val (h : HeldVal) : FVal := (tyFmt h.ty).decode h.bits
def HeldVal.rnd (h : HeldVal) (sr : Bool) : Rnd := if sr then .sr h.draw else .rne

/-- What writing came to: the state, a denial, the conditions raised, and the blocks and NaNs counted. -/
structure WOut where
  s : State
  denied : Bool := false
  cond : Cond := {}
  sat : Nat := 0
  unf : Nat := 0
  nan : Nat := 0

/-- One checked write of a writer. -/
def WOut.put (x : WOut) (master a : Nat) (bs : List Byte) : WOut :=
  if x.denied then x
  else
    match x.s.memCheck master rightW a bs.length with
    | .ok => { x with s := x.s.writeMem master a bs }
    | c => { x with s := x.s.refuse c rightW master a, denied := true }

/-- One checked read of a writer; a denied one gives zeros, and so does one that meets a lost line, which stops the unit
(R352). -/
def WOut.get (x : WOut) (master a n : Nat) : List Byte × WOut :=
  if x.denied then (List.replicate n 0, x)
  else
    match x.s.memCheck master rightR a n with
    | .ok =>
      let r := x.s.fetch master a n
      match r.1 with
      | some bs => (bs, { x with s := r.2 })
      | none => (List.replicate n 0, { x with s := r.2, denied := true })
    | c => (List.replicate n 0, { x with s := x.s.refuse c rightR master a, denied := true })

/-- Address of the history byte of granule g of row r in a bank (R39). -/
def WSlot.histAt (w : WSlot) (r g bank : Nat) : Nat :=
  w.hist + r * granulesPerRow w.len + g + bank % 2 * historyBank (Config.historyRows w.hist) w.len

/-- GLB_FMT_CTL fields (Table 2-10). -/
def State.initH (s : State) : Nat := s.fld 0x100 7 0
def State.floorE (s : State) : Nat := s.fld 0x100 19 14

/-- Subnormal values that a narrow write flushes; a listed channel is not in its block (R25, R29, R46). -/
def heldFlush (vs : List HeldVal) : Cond :=
  { inFlush := vs.any fun h => !h.outl && (tyFmt h.ty).isSubnormal h.bits }

/-- One narrow block of a row starting at column c: chosen, its history read and proposed (R38 to R45). Answers its codes
and scale byte. -/
def WSlot.putBlock (w : WSlot) (master : Nat) (hupd : Bool) (r c : Nat) (vs : List HeldVal) (x : WOut) :
    List Int × Nat × WOut :=
  let f := w.format
  let xs := vs.map fun h => if h.outl then (FVal.zero, Rnd.rne) else (h.val, h.rnd w.sr)
  let nans := (xs.filter fun v => v.1.isNan).length
  if vs = [] && (!w.pred || w.len ≤ c) then (List.replicate w.blk 0, 0, x)
  else
    let g0 := c / 30
    let n := (min (c + w.blk) w.len - 1) / 30 - g0 + 1
    let step := x.s.stepNo
    let h := if w.pred then x.get master (w.histAt r g0 step) n else ([], x)
    let b := if w.pred then predictedBlock f x.s.floorE (predictedE f x.s.initH (h.1.map (·.toNat))) xs
      else freshBlock f xs
    let x1 := if w.pred && w.hupd && hupd then
        h.2.put master (w.histAt r g0 (step + 1)) (List.replicate n (BitVec.ofNat 8 (b.proposal + f.delta)))
      else h.2
    (padTo w.blk 0 b.codes, b.scale,
     { x1 with cond := (x1.cond.or b.cond).or (heldFlush vs)
               sat := x1.sat + b.scale / 128
               unf := x1.unf + b.scale / 64 % 2
               nan := x1.nan + nans })

/-- One narrow line of a row, from the values held for it (R32 to R34). -/
def WSlot.putLine (w : WSlot) (master : Nat) (hupd : Bool) (r line : Nat) (vs : List HeldVal) (x : WOut) : WOut :=
  let b := w.blk
  let n := w.format.perLine / b
  let a := (List.range n).foldl (fun (a : List Int × List Nat × WOut) j =>
    let q := w.putBlock master hupd r (line * w.format.perLine + j * b) ((vs.drop (j * b)).take b) a.2.2
    (a.1 ++ q.1, a.2.1 ++ [q.2.1], q.2.2)) ([], [], x)
  a.2.2.put master (w.rowAt r + 64 * line) (mkLine w.format a.1 a.2.1)

/-- The bits of a value in the tensor's floating-point format: unchanged where the formats agree, else converted (R26, R51). -/
def WSlot.floatBits (w : WSlot) (h : HeldVal) : Nat × Cond :=
  if w.fmt = h.ty then (h.bits, {}) else fcvt (tyFmt h.ty) w.format.flt (h.rnd w.sr) h.bits

/-- Floating-point values from column c of a row. -/
def WSlot.putFloats (w : WSlot) (master r c : Nat) (vs : List HeldVal) (x : WOut) : WOut :=
  let qs := vs.map w.floatBits
  let e := w.format.bits / 8
  let x1 := x.put master (w.rowAt r + c * e) (qs.flatMap fun q => leBytes e q.1)
  { x1 with cond := qs.foldl (fun a q => a.or q.2) x1.cond }

/-- The ROW of entry e of the record of group g of an outlier list, where the entry is valid (R46). -/
def outlierRow (rec_ : List Byte) (width e : Nat) : Option Nat :=
  let ent (i : Nat) : Nat := leAt rec_ (2 * i) 2
  let ok (i : Nat) : Bool := (ent i).testBit 15 && decide (ent i % 512 < width)
  if ok e && !(List.range e).any fun i => ok i && ent i % 512 = ent e % 512 then some (ent e % 512) else none

/-- Width of group g of a row of L values. -/
def groupWidth (len g : Nat) : Nat := min 480 (len - 480 * g)

/-- The values of a row at columns from c, with the listed channels written to the side array and marked (R46 to R48). The
side record of a group is cleared when its first value arrives. -/
def WSlot.pullOutliers (w : WSlot) (master r : Nat) : Nat → List HeldVal → WOut → List HeldVal × WOut
  | _, [], x => ([], x)
  | c, h :: hs, x =>
    let g := c / 480
    let at_ := w.side + 16 * (r * ceilDiv w.len 480 + g)
    let q := x.get master (w.olist + 16 * g) 16
    let x1 := if c % 480 = 0 then q.2.put master at_ (List.replicate 16 0) else q.2
    let hit := (List.range 8).find? fun e => outlierRow q.1 (groupWidth w.len g) e = some (c % 480)
    let o := match hit with
      | some e =>
        let v := if h.ty = 1 then (h.bits, ({} : Cond)) else fcvt (tyFmt h.ty) bf16 (h.rnd w.sr) h.bits
        ({ h with outl := true }, { x1.put master (at_ + 2 * e) (leBytes 2 v.1) with cond := x1.cond.or v.2 })
      | none => (h, x1)
    let rest := w.pullOutliers master r (c + 1) hs o.2
    (o.1 :: rest.1, rest.2)

/-- Add the counts of an output to a slot and clear what was held. -/
def WSlot.count (w : WSlot) (x : WOut) : WSlot :=
  { w with sat := (w.sat + x.sat) % 2 ^ 32, unf := (w.unf + x.unf) % 2 ^ 32, nan := (w.nan + x.nan) % 2 ^ 32 }

/-- Write the full lines of the values held for a row, whose first value is in column c; the row's last line is full with
column L − 1. Answers what is still held. -/
def WSlot.flushLines (w : WSlot) (master : Nat) (hupd : Bool) (r : Nat) : Nat → Nat → List HeldVal → WOut →
    List HeldVal × WOut
  | 0, _, vs, x => (vs, x)
  | fuel + 1, c, vs, x =>
    let n := w.format.perLine
    if vs = [] then ([], x)
    else if n ≤ vs.length || w.len ≤ c + vs.length then
      w.flushLines master hupd r fuel (c + n) (vs.drop n) (w.putLine master hupd r (c / n) (vs.take n) x)
    else (vs, x)

/-- End the row in hand: an incomplete line is padded and written (R34, R241). -/
def WSlot.endRow (w : WSlot) (master : Nat) (hupd : Bool) (x : WOut) : WSlot × WOut :=
  match w.row with
  | none => (w, x)
  | some r =>
    let x1 := if w.vals = [] then x
      else w.putLine master hupd r ((w.col - w.vals.length) / w.format.perLine) w.vals x
    ({ w with row := none, col := 0, vals := [] }, x1)

/-- Values from column c of row r (R241): the state of the slot after them. Values at or beyond column L are discarded. The
caller has ended an earlier row. -/
def WSlot.putValues (w : WSlot) (master : Nat) (hupd : Bool) (r c : Nat) (vs : List HeldVal) (x : WOut) : WSlot × WOut :=
  let keep := vs.take (w.len - c)
  if !w.format.narrow then
    ({ w with row := some r, col := c + vs.length }, if keep = [] then x else w.putFloats master r c keep x)
  else
    let o := if w.outl then w.pullOutliers master r c keep x else (keep, x)
    let first := c - w.vals.length
    let f := w.flushLines master hupd r (keep.length / w.format.perLine + 2) first (w.vals ++ o.1) o.2
    ({ w with row := some r, col := c + vs.length, vals := f.1 }, f.2)

/-- A whole row written at once, values in FP32 (R86). -/
def WSlot.putRow (w : WSlot) (master : Nat) (hupd : Bool) (seed : List Word) (step r : Nat) (ws : List Nat) (x : WOut) :
    WOut :=
  let vs := (List.range ws.length).map fun c =>
    ({ bits := ws.getD c 0, ty := 0, draw := if w.sr then draw seed siteWrite w.tile (r * w.len + c) step else 0 } : HeldVal)
  let q := { w with row := none, col := 0, vals := [] }.putValues master hupd r 0 vs x
  (q.1.endRow master hupd q.2).2

end Sys2Proof.Machine
end

