-- ==== Sys2Proof/Machine/Works.lean ====
section
/-! DEFINITION. Work of step descriptors in the hands of the units: its bookkeeping and completion (R254, R265, R283), the
units' state and the event sources, conditions and strikes they share (R197, R470, R477). -/

namespace Sys2Proof.Machine

def State.mu (s : State) (u : Nat) : Mu := mapGet {} s.units u
def State.updMu (s : State) (u : Nat) (f : Mu → Mu) : State := { s with units := mapUpd {} s.units u f }

def State.drv (s : State) (e : Nat) : Drv := mapGet {} s.drvs e
def State.updDrv (s : State) (e : Nat) (f : Drv → Drv) : State := { s with drvs := mapUpd {} s.drvs e f }

def State.setFlt (s : State) (f : Flt → Flt) : State := { s with flt := f s.flt }

def muOk (u : Nat) : Bool := u < 80
def drvOk (e : Nat) : Bool := e < 40

def oMuCtl : Nat := 0x800010
def muMapOff (u : Nat) : Nat := 0x801000 + 16 * u
def muCondOff (u : Nat) : Nat := 0x801008 + 16 * u
def muTilesOff (u : Nat) : Nat := 0x80100C + 16 * u
def muPhysOff (p : Nat) : Nat := 0x802000 + 4 * p
def oDrvCtl : Nat := 0xC00010
def drvMapOff (e : Nat) : Nat := 0xC01000 + 16 * e
def drvCondOff (e : Nat) : Nat := 0xC01008 + 16 * e
def drvInvocOff (e : Nat) : Nat := 0xC0100C + 16 * e
def drvPhysOff (p : Nat) : Nat := 0xC02000 + 4 * p

/-- Physical unit that serves a logical matrix unit or engine, as its map register holds it. -/
def State.muPhys (s : State) (u : Nat) : Nat := s.fld (muMapOff u) 6 0
def State.drvPhys (s : State) (e : Nat) : Nat := s.fld (drvMapOff e) 5 0

/-- A unit is in service: mapped, past its self-test, not fenced (Tables 6-8 and 7-18). -/
def State.muServes (s : State) (u : Nat) : Bool := s.bit (muMapOff u) 31 && (s.mu u).ok && !(s.mu u).fenced
def State.drvServes (s : State) (e : Nat) : Bool := s.bit (drvMapOff e) 31 && (s.drv e).ok && !(s.drv e).fenced

/-- An event source of logical matrix unit u, or of drover engine e, on its fold die. -/
def State.eventMu (s : State) (u src n : Nat) : State := s.eventF (u / 40) src (u % 40) n
def State.eventDrv (s : State) (e src n : Nat) : State := s.eventF (e / 20) src (e % 20) n

/-- Conditions as the four bits of Tables 6-14 and 7-28: invalid, overflow, underflow, input flush. -/
def Cond.bits (c : Cond) : Nat := b2n c.invalid + 2 * b2n c.overflow + 4 * b2n c.underflow + 8 * b2n c.inFlush

/-- Set condition bits of a unit's register; a bit that goes from 0 to 1 raises the unit interrupt where enabled. -/
def State.raiseCond (s : State) (ctl off bits : Nat) : State :=
  let old := (s.reg off).toNat
  let s1 := s.setReg off (BitVec.ofNat 32 (old ||| bits))
  if s.bit ctl 1 && (old ||| bits) != old then s1.raiseIrq 2 else s1

/-- Chains of a product: tiles across, tiles in all, partials per tile, indices per chain (R190, R194). -/
def Prec.nt (r : Prec) : Nat := ceilDiv r.n 128
def Prec.tiles (r : Prec) : Nat := ceilDiv r.m 128 * r.nt
def Prec.chainLen (r : Prec) : Nat := if r.mode < 3 then 65536 else 65520
def Prec.parts (r : Prec) : Nat := ceilDiv r.k r.chainLen
def Prec.chains (r : Prec) : Nat := r.tiles * r.parts

def Unit_.own : Unit_ → Owner
  | .tile e => e.own
  | .arr e => e.own
  | .run r => r.own

/-- A chain of a product is in a unit's hands or under recount. -/
def State.keyBusy (s : State) (k : Nat) : Bool :=
  s.units.any (fun kv => kv.2.ahead.any (·.key = k) || (match kv.2.cur with | some j => j.key = k | none => false)) ||
  s.flt.recounts.any (·.key = k)

/-- Products all of whose chains have run leave the shepherd cores. -/
def State.trimProds (s : State) : State :=
  s.updTrn fun t => { t with prods := t.prods.filter fun p => decide (p.next < p.info.chains) || s.keyBusy p.key }

/-- A ring stream has blocks to send or to receive. -/
def Stream.unfinished (x : Stream) : Bool := decide (x.sent + 1 < x.order.length) || decide (x.got + 1 < x.order.length)

/-- Work of a descriptor is still in the units. -/
def State.workLeft (s : State) (o : Owner) : Bool :=
  s.fab.streams.any (fun x => x.own = o && x.unfinished) ||
  s.trn.prods.any (·.own = o) || s.chains.any (·.own = o) ||
  s.units.any (fun kv => kv.2.full.any (·.own = o)) ||
  s.pstore.any (fun kv => kv.2.any fun x => match x.ent with | some e => e.own = o | none => false) ||
  s.drvs.any (fun kv => kv.2.qa.any (·.own = o) || kv.2.qb.any (·.own = o) || kv.2.aq.any (·.own = o) ||
    kv.2.runs.any (·.own = o) || kv.2.loads.any (·.own = o) || (match kv.2.inv with | some i => i.work.own = o | none => false))

def State.findWork (s : State) (o : Owner) : Option Work := s.trn.works.find? (·.own = o)

def State.updWork (s : State) (o : Owner) (f : Work → Work) : State :=
  s.updTrn fun t => { t with works := t.works.map fun w => if w.own = o then f w else w }

/-- The descriptor's work is registered and handed to the units. -/
def State.addWork (s : State) (w : Work) : State :=
  (s.updTrn fun t => { t with works := t.works ++ [w] }).working w.own.c w.own.p

/-- The first failure of a descriptor's work sets the status it completes with. -/
def State.failWork (s : State) (o : Owner) (st : Nat) : State :=
  s.updWork o fun w => if w.status = 0 then { w with status := st } else w

/-- Set the phase that GLB_STEP_STAT reports, and its state. -/
def State.setPhase (s : State) (ph : Nat) : State := s.setFld oStepStat 27 24 ph
def State.setStepState (s : State) (st : Nat) : State := s.setFld oStepStat 31 28 st

/-- A descriptor whose work has all ended completes; LOSS moves its step to BACKWARD (Table 8-1). -/
def State.finishWork (s : State) (o : Owner) : State :=
  let t := s.trimProds
  match t.findWork o with
  | none => t
  | some w =>
    if t.workLeft o then t
    else
      let t0 := { t with fab := { t.fab with streams := t.fab.streams.filter (·.own != o) } }
      let t1 := t0.updTrn fun x => { x with works := x.works.filter (·.own != o) }
      let t2 := if w.op = 0x15 && !w.eval && t1.trn.opened && t1.phase = 2 then t1.setPhase 3 else t1
      t2.complete o.c o.p w.status

/-- Lifetime strikes of a physical unit, drover engines from 128 (Table 14-17). -/
def State.addLife (s : State) (k : Nat) : State :=
  { s with flt := { s.flt with life := mapSet 0 s.flt.life k (min (mapGet 0 s.flt.life k + 1) 65535) } }

/-- A cause bit of the open step (Table 8-11). -/
def State.cause (s : State) (b : Nat) : State :=
  if s.trn.opened then s.updTrn fun t => { t with causes := t.causes ||| 2 ^ b } else s

end Sys2Proof.Machine
end

