-- ==== Sys2Proof/Machine/Chains.lean ====
section
/-! DEFINITION. Combine chains in the block accumulators: the factor and the result (R82 to R86), the fenced tiles'
substituted parts (R281), release in vector order (R79), and delivery to an engine or as a tensor row (R86, R242). -/

namespace Sys2Proof.Machine

/-- The master ID under which the block accumulators read the column table (log entry 16). -/
def baMaster : Nat := 0x2000

def State.updChain (s : State) (k : Nat) (f : AChain → AChain) : State :=
  { s with chains := s.chains.map fun c => if c.key = k then f c else c }

def State.findChain (s : State) (k : Nat) : Option AChain := s.chains.find? (·.key = k)

/-- F = s_col × g × d in FP32, from the record and field of the head tile (R86). -/
def State.factor (s : State) (p n col : Nat) : Nat × Cond :=
  let r := s.colRec p n col
  let g : FVal := .fin false (768 + r / 2 ^ 16 % 1024) (-10)
  let d := fp16.decode (s.drift p (fieldOf ((s.ptile p n).getD 0)))
  let a := fp32.round .rne ((fp16.decode (r % 65536)).mul g)
  let b := fp32.round .rne ((fp32.decode a.1).mul d)
  (b.1, a.2.or b.2)

/-- The sum of a chain's substituted parts for a column, in ascending row block (R281); none without one. -/
def AChain.subSum (c : AChain) (col : Nat) : Option Nat :=
  let rbs := ((c.subs.map (·.1)).eraseDups).mergeSort
  let part (rb : Nat) : Nat := match c.subs.find? fun x => x.1 = rb && x.2.1 = col / 128 with
    | some x => x.2.2.getD (col % 128) 0
    | none => 0
  match rbs with
  | [] => none
  | rb :: rest => some (rest.foldl (fun a r => addF a (part r)) (part rb))

/-- The chain's exponent: the largest of the tiles that delivered a part (R84). -/
def AChain.ev (c : AChain) : Nat := c.parts.foldl (fun m x => max m x.et) 0

/-- A part in the accumulator's units of 2^(Ev − 54), at an exponent δ below the chain's, with the exact scale of repeats and replicas (R84,
R89, R90). -/
def shiftPart (w delta : Nat) (v : Int) : Int :=
  if delta ≤ 8 then v * 2 ^ (8 - delta) * (w : Int) else rneDiv v (2 ^ (delta - 8)) * (w : Int)

/-- A column's accumulator (R84). -/
def AChain.acc (c : AChain) (col : Nat) : Int :=
  c.parts.foldl (fun a x => x.cols.foldl (fun b ps => b + shiftPart x.w (c.ev - x.et) (ps.getD col 0)) a) 0

/-- Parts that were rounded in the shift (R84). -/
def AChain.lossy (c : AChain) : Nat :=
  c.parts.foldl (fun a x => if 8 < c.ev - x.et then a + c.cols * x.cols.length else a) 0

/-- Flags [0] to [2] of Table 7-11: analogue saturation, an octave drop, alignment loss. -/
def AChain.flags (c : AChain) : Nat := b2n (c.parts.any (·.final)) + 2 * b2n (c.parts.any (·.drop)) + 4 * b2n (decide (0 < c.lossy))

/-- y of a column: the accumulator scaled and rounded once, then the substituted sum (R86, R281). -/
def State.yOf (s : State) (c : AChain) (col : Nat) : Nat × Cond :=
  let f := s.factor c.die (c.tiles.headD 0) col
  let a := c.acc col
  let v := (FVal.fin (a < 0) a.natAbs ((c.ev : Int) - 54)).mul (fp32.decode f.1)
  let y := if a = 0 then (0, ({} : Cond)) else fp32.round .rne v
  match c.subSum col with
  | none => (y.1, f.2.or y.2)
  | some z =>
    let w := fp32.op2 .rne FVal.add y.1 z
    (w.1, (f.2.or y.2).or w.2)

/-- A chain has all its parts, and no earlier vector of one of its tiles is still held (R79). -/
def State.chainReady (s : State) (c : AChain) : Bool :=
  c.left = 0 && c.subLeft = 0 &&
  !(s.chains.takeWhile (·.key != c.key)).any fun d => d.die = c.die && d.tiles.any c.tiles.contains

/-- A consumer reads a range; false where a line of it is lost (R352). -/
def State.fetchOk (s : State) (master a n : Nat) : Bool × State :=
  let r := s.fetch master a n
  (r.1.isSome, r.2)

/-- The column records of a chain read by the block accumulator. -/
def State.readRecords (s : State) (c : AChain) : Bool × State :=
  s.fetchOk baMaster (recAddr c.die (c.tiles.headD 0) 0) (4 * c.cols)

/-- The conditions that a block accumulator keeps in PST_DIE_STAT (R29). -/
def State.baConds (s : State) (p : Nat) (c : Cond) : State :=
  let s1 := if c.overflow then s.setBit (pst p + 0x20) 26 else s
  if c.underflow then s1.setBit (pst p + 0x20) 25 else s1

/-- The 512 words of a chain's result, with overflow and underflow as flags [3] and [4] of Table 7-11 and in
PST_DIE_STAT. -/
def State.resultOf (s : State) (c : AChain) : List Nat × Nat × State :=
  let ys : List (Nat × Cond) := (List.range 512).map fun j => if j < c.cols then s.yOf c j else (0, {})
  let cd : Cond := ys.foldl (fun a y => a.or y.2) {}
  (ys.map (·.1), c.flags + 8 * b2n cd.overflow + 16 * b2n cd.underflow,
   (s.eventF (foldOf c.die) 0x38 (c.die % 4) c.lossy).baConds c.die cd)

/-- Remove chains from the accumulators. -/
def State.dropChains (s : State) (f : AChain → Bool) : State := { s with chains := s.chains.filter fun c => !f c }

/-- The chains of one output vector of a layer descriptor. -/
def State.rowChains (s : State) (c : AChain) : List AChain :=
  s.chains.filter fun d => d.own = c.own && d.prod = c.prod && d.vec = c.vec

/-- Write one row of the output tensor of a layer without an output kernel (R86). -/
def State.writeRowOut (s : State) (c : AChain) (ds : List AChain) : State :=
  let m := s.ctxMaster c.own.c
  let r := ds.foldl (fun (a : List Nat × Bool × State) d =>
    let q := a.2.2.readRecords d
    let v := q.2.resultOf d
    (a.1 ++ v.1.take d.cols, a.2.1 && q.1, v.2.2)) ([], true, s)
  if !r.2.1 then r.2.2
  else
    let x := c.out.putRow m (!c.recomp && !c.eval) s.seed s.stepNo c.vec r.1 { s := r.2.2 }
    let t := (x.s.baConds c.die x.cond).dropChains fun d => d.own = c.own && d.prod = c.prod && d.vec = c.vec
    (if x.denied then t.failWork c.own stDenied else t).finishWork c.own

/-- A chain without an output kernel whose row is complete is written; the rows behind it follow. -/
def State.chainSettle (s : State) : Nat → State
  | 0 => s
  | fuel + 1 =>
    match s.chains.find? fun c => c.kernel = 0 && (let ds := s.rowChains c; ds.length = c.ncb && ds.all s.chainReady) with
    | none => s
    | some c =>
      if s.mem.consumed.isSome then s else (s.writeRowOut c (s.rowChains c)).chainSettle fuel

/-- The entry of a delivered array result (Table 7-11). -/
def AChain.entry (c : AChain) (data : List Nat) (flags : Nat) : ArrEnt :=
  { own := c.own, prod := c.prod, vec := c.vec, cb := c.cb, cols := c.cols, flags := flags, kernel := c.kernel,
    karg := c.karg, layer := c.layer, recomp := c.recomp, eval := c.eval, data := data }

/-- The block accumulator of a die delivers its oldest ready result for which the engine's queue has room (R242). -/
def State.deliver (s : State) (p : Nat) : State :=
  match s.chains.find? fun c => c.die = p && c.kernel != 0 && s.chainReady c && decide ((s.drv c.engine).aq.length < 64) with
  | none => s
  | some c =>
    let q := s.readRecords c
    if !q.1 then q.2
    else
      let v := q.2.resultOf c
      let t := v.2.2.updDrv c.engine fun d => { d with aq := d.aq ++ [c.entry v.1 v.2.1] }
      t.dropChains (·.key = c.key)

def execArrayResultDeliver (p : Nat) (s : State) : Res := onUnit (dieOk p) (s.deliver p)

end Sys2Proof.Machine
end

