-- ==== Sys2Proof/Machine/Matrix.lean ====
section
/-! DEFINITION. The matrix units: product records (R188, R189), modes and operands (R183 to R187), tiles and chains (R190,
R191, R194), accumulation (R192, R193, R196), finished tiles (R202), recount (R206, R207, R467 to R471) and quiescing
(R212). -/

namespace Sys2Proof.Machine

/-- Parse a product record (Table 6-4). -/
def parsePrec (b : List Byte) : Prec :=
  { aAddr := leAt b 0 8, bAddr := leAt b 8 8, m := leAt b 16 4, n := leAt b 20 4, k := leAt b 24 4,
    aPitch := leAt b 28 4, bPitch := leAt b 32 4, mode := leAt b 36 1, aKs := (leAt b 37 1).testBit 0,
    bKs := (leAt b 37 1).testBit 1, aFb := leAt b 38 1, bFb := leAt b 39 1, aFmt := leAt b 40 1 % 16,
    bFmt := leAt b 40 1 / 16, tileBase := leAt b 42 2, kernel := leAt b 44 4, karg := leAt b 48 8 }

def Prec.aF (r : Prec) : Fmt := (Fmt.ofCode r.aFmt).getD .f32
def Prec.bF (r : Prec) : Fmt := (Fmt.ofCode r.bFmt).getD .f32

/-- Stored rows of an operand and values per stored row (R189). -/
def Prec.aRows (r : Prec) : Nat := if r.aKs then r.k else r.m
def Prec.aLen (r : Prec) : Nat := if r.aKs then r.m else r.k
def Prec.bRows (r : Prec) : Nat := if r.bKs then r.k else r.n
def Prec.bLen (r : Prec) : Nat := if r.bKs then r.n else r.k

/-- Fields of a record in their ranges (R188, R189). -/
def Prec.fieldsOk (r : Prec) : Bool :=
  r.aAddr % 64 = 0 && r.bAddr % 64 = 0 && isLocal r.aAddr && isLocal r.bAddr &&
  decide (1 ≤ r.m) && decide (r.m ≤ 2 ^ 24) && decide (1 ≤ r.n) && decide (r.n ≤ 2 ^ 24) &&
  decide (1 ≤ r.k) && decide (r.k ≤ 16773120) && decide (r.mode ≤ 4) &&
  (!fmtOk r.aFmt r.aFb || decide (r.aF.minPitch r.aLen ≤ r.aPitch)) &&
  (!fmtOk r.bFmt r.bFb || decide (r.bF.minPitch r.bLen ≤ r.bPitch))

/-- The formats are those of a row of Table 6-2, and a Q mode has no K-strided operand (R184, R50). -/
def Prec.formatsOk (r : Prec) : Bool :=
  fmtOk r.aFmt r.aFb && fmtOk r.bFmt r.bFb &&
  match r.mode with
  | 0 => (r.aF = .b16 && r.bF = .t4) || (r.aF = .t4 && r.bF = .b16)
  | 1 => (r.aF = .b16 && r.bF = .t8) || (r.aF = .t8 && r.bF = .b16)
  | 2 => (r.aF = .b16 || r.aF = .f32) && (r.bF = .b16 || r.bF = .f32)
  | 3 => r.aF = .t8 && r.bF = .t8 && !r.aKs && !r.bKs
  | _ => r.aF = .t4 && r.bF = .t4 && !r.aKs && !r.bKs

/-- Status of a record by its own fields, 0 where it is in order. Of a record that breaks a field rule and a format rule the field is
judged first, and a pitch is judged only under a supported format (DESIGN CHOICE, log entry 146). -/
def Prec.status (r : Prec) : Nat :=
  if !r.fieldsOk then stInvalidField else if !r.formatsOk then stUnsupported else 0

/-- Bytes of an operand from its first row to its last. -/
def spanBytes (f : Fmt) (rows len pitch : Nat) : Nat := (rows - 1) * pitch * 64 + f.rowBytes len

/-- Both operand ranges may be read under a master ID (R189); a refusal takes the effects of a denial. -/
def State.operandsReadable (s : State) (master : Nat) (r : Prec) : Bool × State :=
  let ca := s.memCheck master rightR r.aAddr (spanBytes r.aF r.aRows r.aLen r.aPitch)
  let cb := s.memCheck master rightR r.bAddr (spanBytes r.bF r.bRows r.bLen r.bPitch)
  match ca, cb with
  | .ok, .ok => (true, s)
  | .ok, c => (false, s.refuse c rightR master r.bAddr)
  | c, _ => (false, s.refuse c rightR master r.aAddr)

/-- A stored value of an operand: rounded to BF16 where it is FP32, decoded exactly where it is narrow (R184, R185). -/
def State.stored (s : State) (addr pitch : Nat) (f : Fmt) (blk row i : Nat) : FVal × Cond :=
  let base := addr + row * pitch * 64
  match f with
  | .f32 =>
    let c := fcvt fp32 bf16 .rne (leNat (s.peek (base + 4 * i) 4))
    (bf16.decode c.1, c.2)
  | .b16 =>
    let w := leNat (s.peek (base + 2 * i) 2)
    (bf16.decode w, flushOf bf16 [w])
  | .f16 => (fp16.decode (leNat (s.peek (base + 2 * i) 2)), {})
  | _ => (lineVal f blk (s.peek (base + 64 * (i / f.perLine)) 64) (i % f.perLine), {})

/-- The code and scale exponent of a stored narrow value. -/
def State.storedCode (s : State) (addr pitch : Nat) (f : Fmt) (blk row i : Nat) : Int × Nat :=
  let line := s.peek (addr + row * pitch * 64 + 64 * (i / f.perLine)) 64
  let j := i % f.perLine
  (f.codeVal (lineCode f line j), (line.getD (j / blk) 0).toNat % 64)

def Prec.aBlk (r : Prec) : Nat := (r.aF.block (fld r.aFb 4 3)).getD 60
def Prec.bBlk (r : Prec) : Nat := (r.bF.block (fld r.bFb 4 3)).getD 60

/-- Element (i, k) of A and (k, j) of B. A substituted tile's inputs are its T4 codes decoded exactly (R281). -/
def State.aVal (s : State) (p : Product) (i k : Nat) : FVal × Cond :=
  match p.sub with
  | some q => let x := q.xs.getD k (0, 0); (narrowVal x.1 x.2, {})
  | none =>
    let r := p.info
    if r.aKs then s.stored r.aAddr r.aPitch r.aF r.aBlk k i else s.stored r.aAddr r.aPitch r.aF r.aBlk i k

def State.bVal (s : State) (p : Product) (k j : Nat) : FVal × Cond :=
  let r := p.info
  if r.bKs then s.stored r.bAddr r.bPitch r.bF r.bBlk k j else s.stored r.bAddr r.bPitch r.bF r.bBlk j k

/-- The product of two operand values in FP32, exact but for overflow and flush (R185). -/
def gProduct (a b : FVal) : Nat × Cond :=
  let p := a.mul b
  let o := fp32.round .rne p
  (o.1, o.2.or (invalidOf [a, b] p))

/-- One step of a G-mode element: the sum with a product, rounded stochastically (R192). -/
def gStep (seed : List Word) (step t pos k : Nat) (a b : FVal) (x : Nat × Cond) : Nat × Cond :=
  let p := gProduct a b
  let u := draw seed siteG t (k * 16384 + pos) step
  let o := fp32.op2 (.sr u) FVal.add x.1 p.1
  (o.1, ((x.2.or p.2).or { o.2 with inFlush := false }))

/-- A G-mode element over K indices from k0, n of them (R192). -/
def gChain (seed : List Word) (step t pos : Nat) (a b : Nat → FVal × Cond) (k0 n : Nat) : Nat × Cond :=
  (List.range n).foldl (fun x d =>
    let y := a (k0 + d)
    let z := b (k0 + d)
    gStep seed step t pos (k0 + d) y.1 z.1 (x.1, (x.2.or y.2).or z.2)) (0, {})

/-- The value of a K-group: its exact integer sum scaled by both blocks; a zero block gives +0 (R193). -/
def groupVal (qs : List (Int × Int)) (ea eb : Nat) : FVal :=
  let i : Int := (qs.map fun q => q.1 * q.2).foldl (· + ·) 0
  if ea = 0 || eb = 0 || i = 0 then .zero else .fin (i < 0) i.natAbs ((ea : Int) + eb - 80)

/-- A Q-mode element over the groups from j0, n of them (R193). -/
def qChain (seed : List Word) (step t pos g : Nat) (a b : Nat → Int × Nat) (k j0 n : Nat) : Nat :=
  (List.range n).foldl (fun x d =>
    let j := j0 + d
    let idx := (List.range (min g (k - j * g))).map fun i => j * g + i
    let v := groupVal (idx.map fun i => ((a i).1, (b i).1)) (a (j * g)).2 (b (j * g)).2
    let w := (fp32.round .rne v).1
    (fp32.op2 (.sr (draw seed siteQ t (j * 16384 + pos) step)) FVal.add x w).1) 0

/-- The output tile and partial of a chain, its tile index T, and its K range (R190, R194). -/
def Product.tileNo (p : Product) (idx : Nat) : Nat := idx / p.info.parts
def Product.partNo (p : Product) (idx : Nat) : Nat := idx % p.info.parts
def Product.tIndex (p : Product) (idx : Nat) : Nat :=
  match p.sub with
  | some q => q.tile
  | none => (p.info.tileBase + p.tileNo idx) % 65536
def Product.k0 (p : Product) (idx : Nat) : Nat := p.partNo idx * p.info.chainLen
def Product.kLen (p : Product) (idx : Nat) : Nat := min p.info.chainLen (p.info.k - p.k0 idx)
def Product.rows (p : Product) (idx : Nat) : Nat := min 128 (p.info.m - 128 * (p.tileNo idx / p.info.nt))
def Product.cols (p : Product) (idx : Nat) : Nat := min 128 (p.info.n - 128 * (p.tileNo idx % p.info.nt))

/-- One element of a chain's tile; +0 outside M and N (R190). -/
def State.chainElem (s : State) (p : Product) (idx pos : Nat) : Nat × Cond :=
  let i := pos / 128
  let j := pos % 128
  if p.rows idx ≤ i || p.cols idx ≤ j then (0, {})
  else
    let gi := 128 * (p.tileNo idx / p.info.nt) + i
    let gj := 128 * (p.tileNo idx % p.info.nt) + j
    let r := p.info
    if r.mode < 3 then
      gChain s.seed s.stepNo (p.tIndex idx) pos (fun k => s.aVal p gi k) (fun k => s.bVal p k gj) (p.k0 idx) (p.kLen idx)
    else
      let g := min r.aBlk r.bBlk
      (qChain s.seed s.stepNo (p.tIndex idx) pos g (fun k => s.storedCode r.aAddr r.aPitch r.aF r.aBlk gi k)
        (fun k => s.storedCode r.bAddr r.bPitch r.bF r.bBlk gj k) r.k (p.k0 idx / g) (ceilDiv (p.kLen idx) g), {})

/-- What fetching operands came to. -/
inductive Fetched
  | ok
  | denied
  | lost
  deriving DecidableEq, Repr

def Fetched.and : Fetched → Fetched → Fetched
  | .lost, _ => .lost
  | _, .lost => .lost
  | .ok, x => x
  | .denied, _ => .denied

/-- The lines of an operand that a chain fetches: of stored rows from r0, n of them, the values from i0, len of them. -/
def State.fetchOperand (s : State) (master addr pitch : Nat) (f : Fmt) (r0 n i0 len : Nat) : Fetched × State :=
  (List.range n).foldl (fun (a : Fetched × State) d =>
    let base := addr + (r0 + d) * pitch * 64
    let lo := if f.narrow then 64 * (i0 / f.perLine) else i0 * f.bits / 8
    let hi := if f.narrow then 64 * ceilDiv (i0 + len) f.perLine else (i0 + len) * f.bits / 8
    let q := a.2.fetch master (base + lo) (hi - lo)
    let o : Fetched := if q.1.isSome then .ok else if a.2.mayRead master (base + lo) (hi - lo) then .lost else .denied
    (a.1.and o, q.2)) (.ok, s)

/-- The operands of a chain fetched under the submitting context's master ID (R189). A lost line stops the unit (R352). -/
def State.fetchChain (s : State) (p : Product) (idx : Nat) : Fetched × State :=
  let r := p.info
  let i0 := 128 * (p.tileNo idx / r.nt)
  let j0 := 128 * (p.tileNo idx % r.nt)
  let a := match p.sub with
    | some _ => (Fetched.ok, s)
    | none =>
      if r.aKs then s.fetchOperand p.master r.aAddr r.aPitch r.aF (p.k0 idx) (p.kLen idx) i0 (p.rows idx)
      else s.fetchOperand p.master r.aAddr r.aPitch r.aF i0 (p.rows idx) (p.k0 idx) (p.kLen idx)
  let b := if r.bKs then a.2.fetchOperand p.master r.bAddr r.bPitch r.bF (p.k0 idx) (p.kLen idx) j0 (p.cols idx)
    else a.2.fetchOperand p.master r.bAddr r.bPitch r.bF j0 (p.cols idx) (p.k0 idx) (p.kLen idx)
  (a.1.and b.1, b.2)

/-- The words of a tile that a unit computes; a failing unit changes words silently, given as position and bits flipped. -/
def State.tileWords (s : State) (p : Product) (idx : Nat) (err : List (Nat × Nat)) : List Nat × Cond :=
  let es := (List.range 16384).map fun pos => s.chainElem p idx pos
  let ws := es.map (·.1)
  (err.foldl (fun w e => listSet w e.1 ((w.getD e.1 0) ^^^ e.2 % 2 ^ 32)) ws, es.foldl (fun a e => a.or e.2) {})

/-- The words of a tile whose operands have been fetched; where the access tables denied some, no data came: the words are free, and the
descriptor ends access-denied (R189, R364; log entry 165). -/
def State.tileOf (s : State) (p : Product) (idx : Nat) (err : List (Nat × Nat)) : Fetched → (List Nat × Cond) × State
  | .denied => (((List.range 16384).map fun i => Config.free (s.free + i) % 2 ^ 32, {}),
      ({ s with free := s.free + 16384 } : State).failWork p.own stDenied)
  | _ => (s.tileWords p idx err, s)

/-- The CRC of a tile's words (R206). -/
def tileCrc (ws : List Nat) : Nat := crc64 (ws.flatMap (leBytes 4))

/-- Logical units of a partition's share on a fold die (R268). -/
def State.shareUnits (s : State) (f part : Nat) : List Nat :=
  let n (i : Nat) : Nat := s.trn.share.getD (2 * i + f) 0
  let before := ((List.range part).map n).foldl (· + ·) 0
  (List.range (n part)).map fun i => 40 * f + before + i

/-- A unit of a fold die is lent to a share. -/
def State.lent (s : State) (f u : Nat) : Bool :=
  (List.range s.trn.npart).any fun q => mapGet none s.trn.loans (4 * f + q) = some u

/-- Units of a share: its own that are not fenced and not lent, and the one lent to it (R191). -/
def State.pool (s : State) (f part : Nat) : List Nat :=
  let own := (s.shareUnits f part).filter fun u => !(s.mu u).fenced && !s.lent f u
  match mapGet none s.trn.loans (4 * f + part) with
  | some u => if (s.mu u).fenced then own else own ++ [u]
  | none => own

/-- A share left with no unit takes the first one of the largest other share on the fold die (R191; log entry 57). -/
def State.lendTo (s : State) (f part : Nat) : State :=
  if s.shareUnits f part = [] || s.pool f part != [] then s
  else
    let others := (List.range s.trn.npart).filter (· != part)
    let big := others.foldl (fun b q => if (s.pool f b).length < (s.pool f q).length then q else b) (others.headD part)
    match s.pool f big with
    | u :: _ => s.updTrn fun t => { t with loans := mapSet none t.loans (4 * f + part) (some u) }
    | [] => s

/-- Every share that has lost its last unit takes one. -/
def State.lend (s : State) : State :=
  [0, 1].foldl (fun t f => (List.range t.trn.npart).foldl (fun u q => u.lendTo f q) t) s

/-- The engines that serve units of a partition on a fold die, ascending (R276). -/
def State.engines (s : State) (f part : Nat) : List Nat := ((s.pool f part).map (· / 2)).eraseDups

/-- The engines of a partition, F0's first. -/
def State.partEngines (s : State) (part : Nat) : List Nat := s.engines 0 part ++ s.engines 1 part

/-- Fold dies a product's chains may run on: both, or that of the tile a substitution stands for (R281). -/
def Product.folds (p : Product) : List Nat :=
  match p.sub with
  | some q => [q.tile / 8192 / 4]
  | none => [0, 1]

/-- The unit starts no new chain under QUIESCE or in the fail-safe state (R209, R212). -/
def State.muQuiesced (s : State) : Bool := s.failSafe || s.bit oMuCtl 0

/-- A unit is free to take a chain: in service, idle, with an output buffer free. -/
def State.muFree (s : State) (u : Nat) : Bool :=
  let m := s.mu u
  s.muServes u && !m.test && m.cur.isNone && decide (m.full.length ≤ 1)

/-- The state of a logical matrix unit as Table 6-8 codes it. -/
def State.muState (s : State) (u : Nat) : Nat :=
  let m := s.mu u
  if s.failSafe then 5 else if !m.ok || !s.bit (muMapOff u) 31 then 0 else if m.test then 3 else if m.fenced then 4
  else if s.bit oMuCtl 0 then 5 else if m.cur.isSome then 2 else 1

/-- Under QUIESCE a unit runs the recount and third executions that were assigned to it before, and no others (R212). -/
def State.mayRun (s : State) (j : Job) : Bool := !s.bit oMuCtl 0 || ((j.kind = 1 || j.kind = 2) && !j.late)

/-- The unit starts the first execution placed ahead of the others that may run, once it is free (R212, R468). -/
def State.muNext (s : State) (u : Nat) : State :=
  match (s.mu u).ahead.find? s.mayRun with
  | none => s
  | some j => if s.muFree u && !s.failSafe then s.updMu u fun m => { m with cur := some j, ahead := m.ahead.erase j } else s

/-- Logical units in ascending cyclic order after a unit. -/
def after (u : Nat) (xs : List Nat) : List Nat := xs.filter (u < ·) ++ xs.filter (· < u)

/-- The unit that runs a recount or a third execution: of the same partition and fold die first, then of the fold die,
then, for a third, of the other (R468, R470). -/
def State.recountUnit (s : State) (u part : Nat) (not : List Nat) (other : Bool) : Option Nat :=
  let f := u / 40
  let fold (g : Nat) : List Nat := (List.range 40).map (40 * g + ·)
  let order := after u (s.pool f part) ++ after u (fold f) ++ (if other then fold (1 - f) else [])
  order.find? fun v => v != u && s.muServes v && !not.contains (s.muPhys v)

/-- Place an execution ahead of every chain not yet started on a unit. -/
def State.placeAhead (s : State) (v : Nat) (j : Job) : State :=
  (s.updMu v fun m => { m with ahead := m.ahead ++ [{ j with late := s.bit oMuCtl 0 }] }).muNext v

/-- A fold die's partial store has a free slot (R220). -/
def State.pstoreFree (s : State) (f : Nat) : Bool := decide ((mapGet [] s.pstore f).length < 384)

def State.updPstore (s : State) (f : Nat) (g : List PSlot → List PSlot) : State :=
  { s with pstore := mapUpd [] s.pstore f g }

/-- A product may have its next chain assigned: it waits for no ring block, and no earlier product of its descriptor has
chains left (R282). -/
def State.mayAssign (s : State) (p : Product) : Bool :=
  p.ring.isNone && decide (p.next < p.info.chains) &&
  !(s.trn.prods.takeWhile (·.key != p.key)).any fun q => q.own = p.own && q.sub.isNone && p.sub.isNone &&
    decide (q.next < q.info.chains) && (match s.findWork p.own with | some w => w.op = 0x13 || w.op = 0x14 | none => false)

/-- The next chain of a product is handed to a free unit of the partition; the draw of the hardware random source may
select it for recount (R191, R220, R467, R468). Work that finds the unit under test waits (R174). Tiles go out by number, also where T wraps (DESIGN CHOICE, log entry 147). -/
def State.assign (s : State) (i u dr : Nat) : State :=
  match s.trn.prods[i]? with
  | none => s
  | some p =>
    let idx := p.next
    let f := u / 40
    let last := p.partNo idx + 1 = p.info.parts
    if !(s.mayAssign p && s.muFree u && (s.mu u).ahead = [] && !s.muQuiesced && p.folds.contains f &&
         (s.pool f p.part).contains u && (last || s.pstoreFree f)) then s.eventMu u 0x1A (b2n (s.mayAssign p && (s.mu u).test))
    else
      let s1 := s.updMu u fun m => { m with cur := some { key := p.key, idx := idx } }
      let s2 := s1.updTrn fun t => { t with prods := t.prods.map fun q => if q.key = p.key then { q with next := idx + 1 } else q }
      let s3 := if last then s2 else s2.updPstore f fun l => l ++ [{ key := p.key, idx := idx }]
      if s.bit 0x300 31 && dr % 65536 < min (if p.eval then s.fld 0x300 12 0 else s.trn.frac) 4096 then
        match s3.recountUnit u p.part [s.muPhys u] false with
        | none => s3
        | some v =>
          let r : Recount := { key := p.key, idx := idx, orig := s.muPhys u, unit_ := s.muPhys v, eval := p.eval }
          ({ s3 with flt := { s3.flt with recounts := s3.flt.recounts ++ [r] } } : State).placeAhead v
            { key := p.key, idx := idx, kind := 1 }
      else s3

/-- The i-th product in hand gives its next chain to unit u. -/
def execChainAssign (i u dr : Nat) (s : State) : Res := onUnit (muOk u) (s.assign i u dr)

def State.findProd (s : State) (k : Nat) : Option Product := s.trn.prods.find? (·.key = k)

/-- What a chain of some K steps counts and raises on its unit, and whether it closed at its limit (R197, R204). -/
def State.tileCounts (s : State) (u steps : Nat) (c : Cond) (split : Bool) : State :=
  let s1 := s.setReg (muTilesOff u) (BitVec.ofNat 32 ((s.reg (muTilesOff u)).toNat + 1))
  let s2 := (s1.eventMu u 0x10 1).eventMu u 0x11 steps
  let s3 := (((s2.eventMu u 0x14 (b2n c.invalid)).eventMu u 0x15 (b2n c.overflow)).eventMu u 0x16
    (b2n c.underflow)).eventMu u 0x17 (b2n c.inFlush)
  s3.raiseCond oMuCtl (muCondOff u) (c.bits + 16 * b2n split)

/-- What a chain's end counts and raises on its unit (R197, R204). A last chain of just L indices has no more to split off, and sets no
SPLIT (DESIGN CHOICE, log entry 148). -/
def State.chainCounts (s : State) (u : Nat) (p : Product) (idx : Nat) (c : Cond) : State :=
  s.tileCounts u (p.kLen idx) c (p.k0 idx + p.info.chainLen < p.info.k)

/-- The finished-tile entry of a chain (Table 6-6). -/
def Product.entry (p : Product) (idx : Nat) (ws : List Nat) (c : Cond) (held : Bool) : TileEnt :=
  { key := p.key, idx := idx, own := p.own, t := p.tIndex idx, part := p.partNo idx,
    last := p.partNo idx + 1 = p.info.parts, split := p.info.parts != 1, cond := c.bits, rows := p.rows idx,
    cols := p.cols idx, crc := tileCrc ws, kernel := p.info.kernel, karg := p.info.karg, prod := p.prod,
    recomp := p.recomp, eval := p.eval, held := held, sub := p.sub.map fun q => (q.chain, q.rb), data := ws }

/-- Change every held entry of a chain, wherever it waits. -/
def State.mapEntries (s : State) (g : TileEnt → TileEnt) : State :=
  { s with
    units := s.units.map fun kv => (kv.1, { kv.2 with full := kv.2.full.map g })
    drvs := s.drvs.map fun kv => (kv.1, { kv.2 with qa := kv.2.qa.map g, qb := kv.2.qb.map g })
    pstore := s.pstore.map fun kv => (kv.1, kv.2.map fun x => { x with ent := x.ent.map g }) }

/-- Remove entries and slots that a predicate selects, by product key and chain. -/
def State.dropEntries (s : State) (g : Nat → Nat → Bool) : State :=
  let keep (e : TileEnt) : Bool := !g e.key e.idx
  { s with
    units := s.units.map fun kv => (kv.1, { kv.2 with full := kv.2.full.filter keep })
    drvs := s.drvs.map fun kv => (kv.1, { kv.2 with qa := kv.2.qa.filter keep, qb := kv.2.qb.filter keep })
    pstore := s.pstore.map fun kv => (kv.1, kv.2.filter fun x => !g x.key x.idx) }

/-- A matrix unit or drover engine is fenced (R478): recount executions it holds are assigned again (R471). -/
def State.fenceMu (s : State) (u : Nat) : State :=
  let m := s.mu u
  let cur := match m.cur with
    | some j => if j.kind = 1 || j.kind = 2 then [j] else []
    | none => []
  let s1 := s.updMu u fun m => { m with fenced := true, ahead := [], cur := if cur = [] then m.cur else none }
  let s2 := s1.setFld (muPhysOff (s.muPhys u)) 31 28 3
  (cur ++ m.ahead).foldl (fun t j =>
    match t.findProd j.key, t.flt.recounts.find? fun r => r.key = j.key && r.idx = j.idx with
    | some p, some r =>
      match t.recountUnit u p.part (r.orig :: (if j.kind = 2 then [r.unit_] else [])) (j.kind = 2) with
      | some v =>
        let upd (x : Recount) : Recount := if x.key = j.key && x.idx = j.idx then
          (if j.kind = 2 then { x with third := some (t.muPhys v) } else { x with unit_ := t.muPhys v }) else x
        ({ t with flt := { t.flt with recounts := t.flt.recounts.map upd } } : State).placeAhead v j
      | none => t
    | _, _ => t) s2.lend

/-- The logical unit that a physical matrix unit serves. -/
def State.muOfPhys (s : State) (p : Nat) : Option Nat := (List.range 80).find? fun u => s.bit (muMapOff u) 31 && s.muPhys u = p

/-- A physical matrix unit is retired: fenced at once, replaced at the next step boundary (R478). -/
def State.retireMu (s : State) (p : Nat) : State :=
  let f := p / 42
  let s1 := { s with flt := { s.flt with gone := mapSet false s.flt.gone p true } }
  let s2 := (match s1.muOfPhys p with | some u => s1.fenceMu u | none => s1).setFld (muPhysOff p) 31 28 4
  let s3 := s2.raiseFault 2 0x0403 p []
  let free := ((rangeFrom (42 * f) 42).filter fun q => s3.fld (muPhysOff q) 31 28 = 2).length
  let due := ((rangeFrom (40 * f) 40).filter fun u => s3.bit (muMapOff u) 31 && mapGet false s3.flt.gone (s3.muPhys u)).length
  if free < due then s3.drain true else s3

/-- A recount strike against a physical unit (R470, R477). -/
def State.strike (s : State) (p : Nat) : State :=
  let s1 := ((s.addLife p).raiseFault 0 0x0401 p []).moduleStrike 1
  let r := s1.threshold 7 p 1
  if r.1 then r.2.retireMu p else r.2

def State.dropRecount (s : State) (r : Recount) : State :=
  { s with flt := { s.flt with recounts := s.flt.recounts.filter fun x => x.key != r.key || x.idx != r.idx } }

/-- The entry of a decided recount is released. -/
def State.releaseEntry (s : State) (r : Recount) : State :=
  (s.dropRecount r).mapEntries fun e => if e.key = r.key && e.idx = r.idx then { e with held := false } else e

/-- A recount with no majority: the entry is discarded with its output tile (R470, R471). -/
def State.noMajority (s : State) (r : Recount) (p : Product) : State :=
  let s1 := (s.dropRecount r).dropEntries fun k i => k = r.key && p.tileNo i = p.tileNo r.idx
  let s2 := s1.updTrn fun t => { t with dropped := (r.key, p.tileNo r.idx) :: t.dropped }
  let s3 := s2.raiseFault 0 0x0402 r.orig [r.unit_]
  let s4 := match p.sub with
    | some q => (s3.updChain q.chain fun c => { c with subLeft := c.subLeft - 1 }).chainSettle 65536
    | none => s3
  (if r.eval then s4 else s4.cause 2).finishWork p.own

/-- The comparison of a selected chain's CRCs, once they are known (R469, R470, Table 14-1). -/
def State.judge (s : State) (r : Recount) : State :=
  match s.findProd r.key, r.origCrc, r.crc with
  | some p, some a, some b =>
    if a = b then (s.releaseEntry r).finishWork p.own
    else
      match s.muOfPhys r.orig with
      | none => s.noMajority r p
      | some u =>
        match s.recountUnit u p.part [r.orig, r.unit_] true with
        | none => s.noMajority r p
        | some v =>
          let upd (x : Recount) : Recount :=
            if x.key = r.key && x.idx = r.idx then { x with third := some (s.muPhys v) } else x
          ({ s with flt := { s.flt with recounts := s.flt.recounts.map upd } } : State).placeAhead v
            { key := r.key, idx := r.idx, kind := 2 }
  | _, _, _ => s

/-- The outcome of a third execution on unit v (Table 14-1). -/
def State.judgeThird (s : State) (r : Recount) (p : Product) (v crc : Nat) : State :=
  if some crc = r.origCrc then (((s.strike r.unit_).releaseEntry r)).finishWork p.own
  else if some crc = r.crc then
    let s1 := ((s.strike r.orig).dropRecount r).dropEntries fun k i => k = r.key && i = r.idx
    let last := p.partNo r.idx + 1 = p.info.parts
    let s2 := if last then s1 else s1.updPstore (v / 40) fun l => l ++ [{ key := r.key, idx := r.idx }]
    s2.placeAhead v { key := r.key, idx := r.idx, kind := 3 }
  else ((s.strike r.orig).strike r.unit_).noMajority r p

/-- A unit or its buffer waits for room (R204). -/
def State.outStall (s : State) (u : Nat) : State := (s.raiseCond oMuCtl (muCondOff u) 32).eventMu u 0x12 1

/-- The cycles in which a chain's K steps waited for late operand data; how many is free (R203, R204; log entry 149). -/
def State.operandStall (s : State) (u : Nat) : State :=
  let f := s.takeFree
  if f.1 = 0 then f.2 else (f.2.raiseCond oMuCtl (muCondOff u) 64).eventMu u 0x13 f.1

/-- A chain's output buffer completes, or holds its last K step while the other buffer waits to drain (R202, R204): the operands are fetched, every element computed, the entry formed; the
entry of a selected chain is held (R469). -/
def State.chainDone (s : State) (u : Nat) (err : List (Nat × Nat)) : State :=
  match (s.mu u).cur with
  | none => s
  | some j =>
    match s.findProd j.key with
    | none => s
    | some p =>
      if j.kind = 1 || j.kind = 2 then s
      else if (s.mu u).full != [] then s.outStall u
      else
        let f := s.fetchChain p j.idx
        if f.1 = .lost then f.2
        else
          let q := f.2.tileOf p j.idx err f.1
          let w := q.1
          let sel := s.flt.recounts.any fun r => r.key = j.key && r.idx = j.idx
          let e := p.entry j.idx w.1 w.2 sel
          let drop := s.trn.dropped.contains (p.key, p.tileNo j.idx)
          let s1 := ((q.2.operandStall u).chainCounts u p j.idx w.2).eventMu u 0x19 (b2n (p.sub.isSome && j.idx = 0 && j.kind = 0))
          let s2 := s1.updMu u fun m => { m with cur := none, full := if drop then m.full else m.full ++ [e] }
          let upd (r : Recount) : Recount := if r.key = j.key && r.idx = j.idx then { r with origCrc := some e.crc } else r
          let s3 := { s2 with flt := { s2.flt with recounts := s2.flt.recounts.map upd } }
          let s4 := match s3.flt.recounts.find? fun r => r.key = j.key && r.idx = j.idx with
            | some r => s3.judge r
            | none => s3
          (s4.muNext u).finishWork p.own

/-- Unit u's chain completes; err is what a failing unit gets wrong, as positions and flipped bits. -/
def execChainComplete (u : Nat) (err : List (Nat × Nat)) (s : State) : Res := onUnit (muOk u) (s.chainDone u err)

/-- A recount or third execution ends on unit u: its CRC and conditions are reported and its buffer is freed (R207, R470). -/
def State.recountDone (s : State) (u : Nat) (err : List (Nat × Nat)) : State :=
  match (s.mu u).cur with
  | none => s
  | some j =>
    match s.findProd j.key, s.flt.recounts.find? fun r => r.key = j.key && r.idx = j.idx with
    | some p, some r =>
      if j.kind = 0 || j.kind = 3 then s
      else
        let f := s.fetchChain p j.idx
        if f.1 = .lost then f.2
        else
          let q := f.2.tileOf p j.idx err f.1
          let w := q.1
          let crc := tileCrc w.1
          let s1 := ((q.2.operandStall u).chainCounts u p j.idx w.2).eventMu u 0x18 1
          let r1 := { r with crc := if j.kind = 1 then some crc else r.crc, cond := r.cond ||| w.2.bits }
          let s2 := (s1.updMu u fun m => { m with cur := none }).setFlt fun y =>
            { y with recounts := y.recounts.map fun x => if x.key = j.key && x.idx = j.idx then r1 else x }
          let s3 := if j.kind = 1 then s2.judge r1 else s2.judgeThird r1 p u crc
          (s3.muNext u).finishWork p.own
    | _, _ => s

def execRecountDone (u : Nat) (err : List (Nat × Nat)) (s : State) : Res := onUnit (muOk u) (s.recountDone u err)

/-- Where a complete buffer drains: a substituted part to its array chain, a non-last partial into its reserved slot, any
other entry into its engine's queue (R202, R220, R281); none while there is no room. -/
def State.drainTile (s : State) (u : Nat) : State :=
  match (s.mu u).full with
  | [] => s
  | e :: rest =>
    let pop (t : State) : State := t.updMu u fun m => { m with full := rest }
    match e.sub with
    | some q =>
      if e.held then s
      else
        let s1 := (pop s).updChain q.1 fun c =>
          { c with subs := c.subs ++ [(q.2, e.idx, e.data.take 128)], subLeft := c.subLeft - 1 }
        ((s1.muNext u).chainSettle 65536).finishWork e.own
    | none =>
      if e.split && !e.last then
        let put (x : PSlot) : PSlot := if x.key = e.key && x.idx = e.idx then { x with ent := some e } else x
        ((pop s).updPstore (u / 40) fun l => l.map put).muNext u
      else
        let d := s.drv (u / 2)
        let q := if u % 2 = 0 then d.qa else d.qb
        if q.length < 4 then
          ((pop s).updDrv (u / 2) fun d =>
            if u % 2 = 0 then { d with qa := d.qa ++ [e] } else { d with qb := d.qb ++ [e] }).muNext u
        else s.outStall u

def execTileDrain (u : Nat) (s : State) : Res :=
  onUnit (muOk u) (if s.failSafe then s else s.drainTile u)

/-- MU_CTL.QUIESCE changes (R212): what is assigned by then may still run, and clearing it lets every unit go on. -/
def State.setQuiesce (s : State) (on : Bool) : State :=
  let was := s.bit oMuCtl 0
  let s1 := s.setFld oMuCtl 0 0 (b2n on)
  if on && !was then
    { s1 with units := s1.units.map fun kv => (kv.1, { kv.2 with ahead := kv.2.ahead.map fun j => { j with late := false } }) }
  else if was && !on then (List.range 80).foldl (fun t u => t.muNext u) s1
  else s1

/-- Writing MU_CTL.QUIESCE (R212). -/
def execMuQuiesce (master : Nat) (on : Bool) (s : State) : Res :=
  .next (s.guardedWrite master oMuCtl fun t => t.setQuiesce on)

end Sys2Proof.Machine
end

