-- ==== Sys2Proof/Machine/DroverOps.lean ====
section
/-! DEFINITION. The drover engines: registers, lanes and predicates (R224, R225), legal words (R227, R228), one instruction
step with its conditions (R229, R249), the end of an invocation and kernel faults (R217, R247, R248), local memory with
copies in flight and lost lines (R239, R349), and tiles (R234). -/

namespace Sys2Proof.Machine

/-- Master ID of a drover engine (R214). -/
def drvMaster (e : Nat) : Nat := 0x3000 + e

def localSize : Nat := 524288

/-- Type codes: 0 FP32, 1 BF16, 2 FP16, 3 I32, 4 I16 (R227). -/
def tyWide (ty : Nat) : Bool := ty = 0 || ty = 3
def tyFloat (ty : Nat) : Bool := ty ≤ 2
def tyWidth (ty : Nat) : Nat := if tyWide ty then 32 else 16
def laneCount (ty : Nat) : Nat := if tyWide ty then 128 else 256

def splitHalves (ws : List Nat) : List Nat := ws.flatMap fun x => [x % 65536, x / 65536 % 65536]

def packHalves : List Nat → List Nat
  | a :: b :: r => (a % 65536 + 65536 * (b % 65536)) :: packHalves r
  | _ => []

/-- A vector register as 128 words. -/
def Inv.vreg (i : Inv) (r : Nat) : List Nat := mapGet (List.replicate 128 0) i.v r

/-- The lanes of a register under a type (R224). -/
def Inv.lanes (i : Inv) (ty r : Nat) : List Nat := if tyWide ty then i.vreg r else splitHalves (i.vreg r)

def Inv.setLanes (i : Inv) (ty r : Nat) (xs : List Nat) : Inv :=
  let ws := if tyWide ty then xs.map (· % 2 ^ 32) else packHalves xs
  { i with v := mapSet (List.replicate 128 0) i.v r ws }

/-- A predicate; p0 reads as all ones and takes no write (Table 7-1, R226). -/
def Inv.pred (i : Inv) (g : Nat) : Nat := if g = 0 then 2 ^ 256 - 1 else mapGet 0 i.p g
def Inv.setPred (i : Inv) (g v : Nat) : Inv := if g = 0 then i else { i with p := mapSet 0 i.p g (v % 2 ^ 256) }

def Inv.sreg (i : Inv) (k : Nat) : Nat := i.s.getD k 0
def Inv.setS (i : Inv) (k v : Nat) : Inv := { i with s := listSet i.s k (v % 2 ^ 32) }

/-- The effective length of an instruction (R224). -/
def Inv.eff (i : Inv) (ty : Nat) : Nat := if tyWide ty then min i.vl 128 else i.vl

/-- A lane is active (R225). -/
def Inv.active (i : Inv) (ty pg k : Nat) : Bool := decide (k < i.eff ty) && (i.pred pg).testBit k

def Inv.actives (i : Inv) (ty pg : Nat) : List Nat := (List.range (laneCount ty)).filter (i.active ty pg)

/-- Fields of the V form (Table 7-4). -/
def wVD (w : Nat) : Nat := fld w 25 21
def wVA (w : Nat) : Nat := fld w 20 16
def wVB (w : Nat) : Nat := fld w 15 11
def wPG (w : Nat) : Nat := fld w 10 8
def wTY (w : Nat) : Nat := fld w 6 4
def wFN (w : Nat) : Nat := fld w 3 0
def wOp (w : Nat) : Nat := fld w 31 26

/-- A tile selector that is not reserved (R234). -/
def selOk (t : Nat) : Bool := t ≤ 2 || 8 ≤ t

/-- The word is no illegal instruction (R228, R230, R234, R235, R241). VOUTL's form has no type field: 'TY = 0 only' is taken to ask nothing
of the reserved bits that stand there, which R6 has ignored (DEDUCED, log entry 164). -/
def kLegal (w : Nat) : Bool :=
  let fn := wFN w
  let ty := wTY w
  match wOp w with
  | 0x00 => ty ≤ 4 && fn ≤ 11 && (fn < 9 || !tyFloat ty)
  | 0x01 => ty ≤ 4 && fn ≤ 3
  | 0x02 => ty ≤ 4 && fn ≤ (if tyFloat ty then 14 else 3)
  | 0x03 => tyFloat ty && fn ≤ 4
  | 0x04 => ty ≤ 4 && fn ≤ 7
  | 0x05 => ty ≤ 4
  | 0x06 => tyFloat ty && fn ≤ 1
  | 0x07 => ty ≤ 4 && fn % 8 ≤ 4
  | 0x08 => ty ≤ 4 && fn ≤ 2
  | 0x09 => ty ≤ 4 && fn ≤ 1
  | 0x0A => ty ≤ 4 && fn ≤ 4
  | 0x0B => fn ≤ 8
  | 0x12 => selOk (fld w 20 17)
  | 0x13 => selOk (fld w 20 17)
  | 0x14 => ty = 0 && fn ≤ 9 && selOk (fld w 20 17) && selOk (fld w 16 13)
  | 0x15 => ty = 0 && (fn ≤ 4 || (8 ≤ fn && fn ≤ 11)) && selOk (fld w 16 13)
  | 0x1A => fn ≤ 4 && (fn != 1 || fld w 10 8 ≤ 2)
  | 0x1B => fld w 25 21 % 4 = 0
  | 0x26 => fn ≤ 1
  | 0x28 => fld w 17 15 ≤ 6
  | 0x30 => fn ≤ 4
  | 0x3F => fn ≤ 2
  | op => op = 0x0C || op = 0x10 || op = 0x11 || op = 0x18 || op = 0x19 || (0x20 ≤ op && op ≤ 0x25) || op = 0x31

/-- An instruction being executed: the state, the invocation, the conditions it raises in the bit order of DRV_COND, NaNs
written as code 0, empty rows, a fault code, whether it waits, a branch target, and whether it ends the invocation. -/
structure Kx where
  s : State
  i : Inv
  e : Nat
  cond : Nat := 0
  nans : Nat := 0
  empties : Nat := 0
  fault : Nat := 0
  wait : Bool := false
  nxt : Option Int := none
  ended : Bool := false

def Kx.fail (x : Kx) (code : Nat) : Kx := if x.fault = 0 then { x with fault := code } else x
def Kx.raise (x : Kx) (c : Cond) : Kx := { x with cond := x.cond ||| (c.bits + 16 * b2n c.narrowNan) }
def Kx.setS (x : Kx) (k v : Nat) : Kx := { x with i := x.i.setS k v }

/-- The condition bits of SMX_EMPTY, SMX_NAN and PERM_RANGE (Table 7-28). -/
def cEmpty : Nat := 128
def cSmxNan : Nat := 64
def cPerm : Nat := 32

/-- Active lanes of the destination take the value of a function that also answers condition bits (R225). -/
def Kx.mapV (x : Kx) (ty vd pg : Nat) (f : Nat → Nat × Nat) : Kx :=
  let old := x.i.lanes ty vd
  let rs : List (Nat × Nat) := (List.range (laneCount ty)).map fun k =>
    if x.i.active ty pg k then f k else (old.getD k 0, 0)
  { x with i := x.i.setLanes ty vd (rs.map (·.1))
           cond := rs.foldl (fun a r => a ||| r.2) x.cond
           empties := x.empties + (rs.filter fun r => r.2.testBit 7).length }

/-- The second source of a V form: a register, or a scalar broadcast with S = 1 (Table 7-4). -/
def Inv.srcB (i : Inv) (ty w : Nat) : List Nat :=
  if w.testBit 7 then List.replicate (laneCount ty) (i.sreg (wVB w % 16) % 2 ^ tyWidth ty) else i.lanes ty (wVB w)

/-- The results of work that a fault or a missing kernel has failed are discarded (R248, R254). -/
def State.discards (s : State) (o : Owner) : Bool :=
  match s.findWork o with
  | some w => w.status = stKernelFault || w.status = stNotResident
  | none => false

/-- The descriptor that owns work belongs to the open step. -/
def State.inStep (s : State) (o : Owner) : Bool :=
  match (s.ctx o.c).infl.find? (·.ptr = o.p) with
  | some d => d.step
  | none => false

/-- Drop the entry an invocation came from. -/
def Drv.pop (d : Drv) (src : Nat) : Drv :=
  if src = 0 then { d with qa := d.qa.drop 1 } else if src = 1 then { d with qb := d.qb.drop 1 }
  else if src = 2 then { d with aq := d.aq.drop 1 } else { d with runs := d.runs.drop 1 }

def Drv.hold (d : Drv) (h : Nat) : Hold := if h = 0 then d.hold0 else d.hold1
def Drv.setHold (d : Drv) (h : Nat) (x : Hold) : Drv := if h = 0 then { d with hold0 := x } else { d with hold1 := x }

/-- What END and a fault do to a bound hold entry: one bound by HTAKE is free again (R223). -/
def Drv.unbind (d : Drv) (b : Option (Nat × Bool)) : Drv :=
  match b with
  | some (h, true) => d.setHold h { d.hold h with st := 0, fill := 0 }
  | _ => d

/-- Load a kernel into an engine (R253): a resident kernel of the same ID is replaced, and one it overlaps is no longer
resident. -/
def Drv.load (d : Drv) (k : Resident) (code : List Nat) : Drv :=
  let keep := d.res.filter fun e => e.2.id != k.id && (k.ofs + k.words ≤ e.2.ofs || e.2.ofs + e.2.words ≤ k.ofs)
  let same := (d.res.find? fun e => e.2.id = k.id).map (·.1)
  let free := (List.range 32).find? fun i => !keep.any (·.1 = i)
  { d with res := mapIns keep ((same.orElse fun _ => free).getD 0) k
           imem := (List.range k.words).foldl (fun m i => mapSet 0 m (k.ofs + i) (code.getD i 0)) d.imem
           ibad := d.ibad.filter fun w => !(k.ofs ≤ w && w < k.ofs + k.words) }

/-- The loads that waited for the invocation to end take effect, with the run requests that follow them (R253). -/
def Drv.takeLoads (d : Drv) : Drv :=
  d.loads.foldl (fun (x : Drv) l =>
    let y := x.load l.res l.code
    { y with runs := y.runs ++ l.run.toList }) { d with loads := [] }

/-- An engine of a fold die holds an ID, or is about to. -/
def State.foldHolds (s : State) (f id : Nat) : Bool :=
  (List.range 20).any fun i => let d := s.drv (20 * f + i); d.res.any (·.2.id = id) || d.loads.any (·.res.id = id)

/-- Copies of images that no engine of their fold die holds are freed (R253). -/
def State.trimImages (s : State) : State :=
  { s with mem := { s.mem with images := s.mem.images.filter fun kv => s.foldHolds (kv.1 / 32) kv.2 } }

/-- The engine's waiting loads take effect, and descriptors that only waited for them complete. -/
def State.applyLoads (s : State) (e : Nat) : State :=
  (((s.drv e).loads.map (·.own)).eraseDups).foldl (fun t o => t.finishWork o) (s.updDrv e Drv.takeLoads).trimImages

/-- An invocation ends: its entry and its binding are released and it is counted (R215, R217), and loads that waited take effect. -/
def State.endInv (s : State) (e : Nat) (i : Inv) : State :=
  let s0 := s.updDrv e fun d =>
    { (d.pop i.src).unbind i.bound with inv := none, rr := if i.src < 3 then (i.src + 1) % 3 else d.rr }
  let s1 := s0.applyLoads e
  let s2 := s1.setReg (drvInvocOff e) (BitVec.ofNat 32 ((s1.reg (drvInvocOff e)).toNat + 1))
  let s3 := s2.eventDrv e 0x20 1
  (List.range 4).foldl (fun t b => t.eventDrv e (0x22 + b) (b2n (i.raised.testBit b))) s3

/-- The logical engine that a physical engine serves. -/
def State.drvOfPhys (s : State) (p : Nat) : Option Nat := (List.range 40).find? fun e => s.bit (drvMapOff e) 31 && s.drvPhys e = p

/-- The state of a logical drover engine as Table 7-18 codes it. -/
def State.drvState (s : State) (e : Nat) : Nat :=
  let d := s.drv e
  if s.failSafe then 5 else if !d.ok || !s.bit (drvMapOff e) 31 then 0 else if d.test then 3 else if d.fenced then 4
  else if s.bit oDrvCtl 0 then 5 else if d.inv.isSome then 2 else 1

/-- Free spare engines of a fold die (R214, Table 7-30). -/
def State.drvSpares (s : State) (f : Nat) : List Nat := (rangeFrom (21 * f) 21).filter fun p => s.fld (drvPhysOff p) 31 28 = 2

/-- A drover engine is retired: fenced at once, replaced at the next step boundary (R478). -/
def State.retireDrv (s : State) (p : Nat) : State :=
  let f := p / 21
  let s1 := { s with flt := { s.flt with gone := mapSet false s.flt.gone (128 + p) true } }
  let s2 := match s1.drvOfPhys p with | some e => s1.updDrv e fun d => { d with fenced := true } | none => s1
  let s3 := (s2.setFld (drvPhysOff p) 31 28 4).raiseFault 2 0x0403 p []
  let due := ((rangeFrom (20 * f) 20).filter fun e => s3.bit (drvMapOff e) 31 && mapGet false s3.flt.gone (128 + s3.drvPhys e)).length
  if (s3.drvSpares f).length < due then s3.drain true else s3

/-- A counted fault of the physical engine that serves an index, rows 9 and 10 of Table 14-4; at the limit it is retired. -/
def State.drvFault (s : State) (row e n : Nat) : State :=
  let p := s.drvPhys e
  let r := s.threshold row (128 + p) n
  if r.1 then r.2.retireDrv p else r.2

/-- A kernel fault (R247, R248). Code 10 counts against the physical engine, and its kernel is no longer resident. -/
def State.kfault (s : State) (e : Nat) (i : Inv) (code : Nat) : State :=
  let o := i.work.own
  let s1 := s.updDrv e fun d => { d with slots := [], copies := [], fault := code,
                                         res := if code = 10 then d.res.filter fun r => r.2.id != i.kernel else d.res }
  let s2 := ((s1.raiseCond oDrvCtl (drvCondOff e) 256).eventDrv e 0x28 1).raiseFault 0 0x0404 (drvMaster e) [code]
  let s3 := if s.inStep o then s2.cause 1 else s2
  let s4 := if code = 10 then s3.drvFault 10 e 1 else s3
  ((s4.failWork o stKernelFault).endInv e i).trimImages.finishWork o

/-- Append a summary record to an engine's FIFO (R244); the recompute drops output norms (R279), and a failed descriptor's
results are discarded. -/
def Inv.seq (i : Inv) : Nat :=
  match i.work with
  | .tile e => 2 ^ 32 * (e.prod % 65536) + e.t
  | .arr e => 2 ^ 32 * (e.prod % 65536) + e.vec % 65536 * 65536 + e.cb % 65536
  | .run r => 2 ^ 32 * 0xFFFF + r.rank

def Unit_.recomp : Unit_ → Bool
  | .tile e => e.recomp
  | .arr e => e.recomp
  | .run _ => false

def Unit_.eval : Unit_ → Bool
  | .tile e => e.eval
  | .arr e => e.eval
  | .run r => r.eval

def Kx.push (x : Kx) (val key : Nat) : Kx :=
  let kind := fld key 23 16
  if (x.i.work.recomp && kind % 64 = 1) || x.s.discards x.i.work.own then x
  else
    let r : Summ := { layer := key % 65536, kind := kind, seq := x.i.seq, val := val, engine := x.e }
    { x with s := x.s.updDrv x.e fun d => { d with fifo := d.fifo ++ [r] } }

/-- The condition bits of an instruction gather in the invocation and in DRV_COND (R229), and the instruction is counted. -/
def Kx.note (x : Kx) : Kx :=
  let s1 := ((x.s.eventDrv x.e 0x21 1).eventDrv x.e 0x26 x.nans).eventDrv x.e 0x27 x.empties
  let s2 := if x.cond = 0 then s1 else s1.raiseCond oDrvCtl (drvCondOff x.e) x.cond
  { x with s := s2, i := { x.i with cond := x.i.cond ||| x.cond, raised := x.i.raised ||| x.cond } }

/-- What follows an executed instruction: a fault, the end, or the next program counter, which faults outside the kernel's
words (Table 7-13). -/
def Kx.close (x : Kx) : State :=
  if x.fault != 0 then x.s.kfault x.e x.i x.fault
  else if x.ended then (x.s.endInv x.e x.i).finishWork x.i.work.own
  else
    let pc : Int := x.nxt.getD (x.i.pc + 1)
    if pc < 0 || (x.i.code.length : Int) ≤ pc then x.s.kfault x.e x.i 2
    else x.s.updDrv x.e fun d => { d with inv := some { x.i with pc := pc.toNat } }

/-- Engine e executes the instruction at its program counter, where it is one that the command is about. A word that an uncorrectable error
has hit faults with code 10 (R247), whatever the command is about. An illegal word
faults; an instruction that waits, or whose data is lost, leaves the invocation where it is. -/
def State.kstep (s : State) (e : Nat) (sel : Nat → Bool) (f : Nat → Kx → Kx) : State :=
  match (s.drv e).inv with
  | none => s
  | some i =>
    let w := i.code.getD i.pc 0
    if s.failSafe || s.mem.consumed.isSome then s
    else if (s.drv e).ibad.contains (i.ofs + i.pc) then s.kfault e i 10
    else if !sel w then s
    else if !kLegal w then ({ s := s, i := i, e := e, fault := 1 } : Kx).note.close
    else
      let x := f w { s := s, i := i, e := e }
      if x.s.mem.consumed.isSome then x.s
      else if x.wait then s
      else x.note.close

/-- The step of every instruction of an opcode. -/
def execKernelOp (op e : Nat) (f : Nat → Kx → Kx) (s : State) : Res :=
  onUnit (drvOk e) (s.kstep e (fun w => wOp w = op) f)

/-- The step of the instructions of an opcode with one FN. -/
def execKernelFn (op fn e : Nat) (f : Nat → Kx → Kx) (s : State) : Res :=
  onUnit (drvOk e) (s.kstep e (fun w => wOp w = op && wFN w = fn) f)

/-- Move one line of a copy (R239). A lost line poisons the line it goes to, and the descriptor whose invocation issued the copy completes
with the data-error status (R349). -/
def State.moveLine (s : State) (e k line : Nat) : State :=
  match (s.drv e).copies[k]? with
  | none => s
  | some c =>
    let a := c.addr + (line - c.loc)
    let s1 := s.updDrv e fun d => { d with copies := listSet d.copies k { c with moved := line :: c.moved } }
    if c.out then
      if c.drop then s1
      else if (s.drv e).bad.contains line then (s1.poisonLines a 64).failWork c.own stDataError
      else s1.writeMem (drvMaster e) a (memReadAt (s.drv e).loc line 64)
    else
      let r := s1.readMem 1 (drvMaster e) a 64
      (if r.2.1 then r.2.2.failWork c.own stDataError else r.2.2).updDrv e fun d =>
        if r.2.1 then { d with bad := if d.bad.contains line then d.bad else line :: d.bad }
        else { d with loc := memWriteAt d.loc line r.1, bad := d.bad.filter (· != line) }

/-- An instruction touches a local line that copies may still move: whether each has moved it already is not defined
(R239). -/
def State.touchLine (s : State) (e line : Nat) (write : Bool) : State :=
  (List.range (s.drv e).copies.length).foldl (fun t k =>
    match (t.drv e).copies[k]? with
    | some c =>
      if c.loc ≤ line && line < c.loc + c.len && !c.moved.contains line && (write || !c.out) then
        let v := t.takeFree
        if v.1 % 2 = 1 then v.2.moveLine e k line else v.2
      else t
    | none => t) s

/-- The local lines that hold the given words of an area. -/
def wordLines (a : Nat) (act : List Nat) : List Nat := (act.map fun j => (a + 4 * j) / 64 * 64).eraseDups

/-- Read words of local memory: lost lines are consumed (R248). Answers the words of all lanes. -/
def Kx.readLocal (x : Kx) (a : Nat) (act : List Nat) : List Nat × Kx :=
  let ls := wordLines a act
  let s1 := ls.foldl (fun t l => t.touchLine x.e l false) x.s
  let d := s1.drv x.e
  let s2 := match ls.find? d.bad.contains with
    | some l => s1.consume { master := drvMaster x.e, line := l, inLocal := true }
    | none => s1
  ((List.range 128).map fun j => if act.contains j then leNat (memReadAt d.loc (a + 4 * j) 4) else 0, { x with s := s2 })

/-- Write words of local memory. A line written whole is good again; a part of a lost line is dropped. -/
def Kx.writeLocal (x : Kx) (a : Nat) (act : List Nat) (val : Nat → Nat) : Kx :=
  let ls := wordLines a act
  let s1 := ls.foldl (fun t l => t.touchLine x.e l true) x.s
  let whole (l : Nat) : Bool := decide (16 ≤ (act.filter fun j => (a + 4 * j) / 64 * 64 = l).length)
  let put (d : Drv) : Drv :=
    let bad := d.bad.filter fun l => !(ls.contains l && whole l)
    let loc := act.foldl (fun (m : List Host.Cell) j =>
      if bad.contains ((a + 4 * j) / 64 * 64) then m else memWriteAt m (a + 4 * j) (leBytes 4 (val j))) d.loc
    { d with loc := loc, bad := bad }
  { x with s := s1.updDrv x.e put }

/-- An access of n bytes at a local address with an alignment: the code it faults with, 0 for none (R239). -/
def localFault (a n al : Nat) : Nat := if localSize < a + n then 3 else if a % al != 0 then 4 else 0

/-- A tile selector names a tile of this invocation (R234). -/
def Kx.hasTile (x : Kx) (t : Nat) : Bool :=
  match t with
  | 0 => (match x.i.work with | .tile _ => true | _ => false)
  | 1 => x.i.bound.isSome
  | 2 => (match x.i.work with | .arr _ => true | _ => false)
  | _ => 8 ≤ t

/-- The words of a row of a tile, as far as the given lanes need them. -/
def Kx.tileRow (x : Kx) (t r : Nat) (act : List Nat) : List Nat × Kx :=
  let cut (ws : List Nat) : List Nat := padTo 128 0 ((ws.drop (128 * r)).take 128)
  match t with
  | 0 => (cut x.i.tile, x)
  | 1 => (cut (match x.i.bound with | some b => ((x.s.drv x.e).hold b.1).data | none => []), x)
  | 2 => (cut (x.i.tile.take 512), x)
  | _ => x.readLocal (65536 * (t - 8) + 512 * r) act

/-- Write the given lanes of a row of a tile; rows 4 to 127 of an array tile ignore it (R234). -/
def Kx.setTileRow (x : Kx) (t r : Nat) (act : List Nat) (val : Nat → Nat) : Kx :=
  let n := if t = 2 then 512 else 16384
  let upd (ws : List Nat) : List Nat :=
    if n ≤ 128 * r then ws else act.foldl (fun w j => listSet w (128 * r + j) (val j)) (padTo n 0 ws)
  match t with
  | 1 => match x.i.bound with
    | some b => { x with s := x.s.updDrv x.e fun d => d.setHold b.1 { d.hold b.1 with data := upd (d.hold b.1).data } }
    | none => x
  | 0 => { x with i := { x.i with tile := upd x.i.tile } }
  | 2 => { x with i := { x.i with tile := upd x.i.tile } }
  | _ => x.writeLocal (65536 * (t - 8) + 512 * r) act val

end Sys2Proof.Machine
end

