-- ==== Sys2Proof/Machine/Special.lean ====
section
/-! DEFINITION. The special functions of R230, R231 and R250 to within their bounds: the exact function in fixed point, to far more bits than
any bound needs, and the FP32 words that lie within a bound of it, of which a free value takes one. -/

namespace Sys2Proof.Machine

/-- Fraction bits of the fixed-point values here. -/
def fxBits : Nat := 256
def fxOne : Int := 2 ^ fxBits

/-- What a fixed-point value here may be off, in its last units. -/
def fxSlack : Nat := 2 ^ 116

def fxMul (a b : Int) : Int := a * b / fxOne
def fxDiv (a b : Int) : Int := if b = 0 then 0 else a * fxOne / b

/-- A decoded FP32 value in fixed point, which is exact. -/
def fxOf (v : FVal) : Int :=
  match v with
  | .fin n m e => let x : Int := (m * 2 ^ (e + fxBits).toNat : Nat); if n then -x else x
  | _ => 0

/-- Terms of e^r. -/
def expTerms (r : Int) : Nat → Nat → Int → Int → Int
  | 0, _, _, acc => acc
  | k + 1, i, t, acc => let u := fxMul t r / ((i : Int) + 1); expTerms r k (i + 1) u (acc + u)

/-- Terms of atanh z (sign 1) or atan z (sign −1). -/
def atanTerms (z2 sign : Int) : Nat → Nat → Int → Int → Int
  | 0, _, _, acc => acc
  | k + 1, i, t, acc => let u := sign * fxMul t z2; atanTerms z2 sign k (i + 1) u (acc + u / (2 * (i : Int) + 3))

def fxAtanh (z : Int) : Int := atanTerms (fxMul z z) 1 170 0 z z
def fxAtan (z : Int) : Int := atanTerms (fxMul z z) (-1) 170 0 z z

def fxLn2 : Int := 2 * fxAtanh (fxOne / 3)
def fxPi : Int := 16 * fxAtan (fxOne / 5) - 4 * fxAtan (fxOne / 239)
def fxSqrt (x : Int) : Int := isqrt (x.toNat * 2 ^ fxBits)

/-- e^x as a mantissa in fixed point and a power of two. -/
def fxExp (x : Int) : Int × Int :=
  let k := (2 * x + fxLn2) / (2 * fxLn2)
  (expTerms (x - k * fxLn2) 64 0 fxOne fxOne, k)

/-- e^x in fixed point, for x of magnitude up to 100. -/
def fxExpAt (x : Int) : Int :=
  let q := fxExp x
  if 0 ≤ q.2 then q.1 * 2 ^ q.2.toNat else q.1 / 2 ^ (-q.2).toNat

/-- ln of a positive FP32 value. -/
def fxLn (v : FVal) : Int :=
  match v with
  | .fin _ m e =>
    let t := topExp m e
    let y := fxOf (.fin false m (e - t))
    t * fxLn2 + 2 * fxAtanh (fxDiv (y - fxOne) (y + fxOne))
  | _ => 0

/-- Terms of the integral of e^(−t²). -/
def erfTerms (x2 : Int) : Nat → Nat → Int → Int → Int
  | 0, _, _, acc => acc
  | k + 1, i, t, acc =>
    let u := -(fxMul t x2) / ((i : Int) + 1)
    erfTerms x2 k (i + 1) u (acc + u / (2 * (i : Int) + 3))

/-- Φ, the normal distribution; beyond 11 it is 0 or 1 to the last bits used. -/
def fxPhi (a : Int) : Int :=
  if 11 * fxOne < a then fxOne
  else if a < -(11 * fxOne) then 0
  else
    let x := fxDiv a (fxSqrt (2 * fxOne))
    fxOne / 2 + fxDiv (erfTerms (fxMul x x) 400 0 x x) (fxSqrt fxPi)

/-- The logistic function; beyond 80 it is 0 or 1 to the last bits used. -/
def fxSigmoid (a : Int) : Int :=
  if 80 * fxOne < a then fxOne else if a < -(80 * fxOne) then 0 else fxDiv fxOne (fxOne + fxExpAt (-a))

/-- φ, the density of Φ. -/
def fxDensity (a : Int) : Int :=
  if 11 * fxOne < a.natAbs then 0 else fxDiv (fxExpAt (-(fxMul a a) / 2)) (fxSqrt (2 * fxPi))

def fxTanh (a : Int) : Int := 2 * fxSigmoid (2 * a) - fxOne

/-- The zeros and normal values of FP32 in order: 0 is +0, −1 is −0, n + 1 the n-th normal above zero. Of the magnitude m·2^e: the last at
or below it, and the first at or above it. -/
def ordFloor (m : Nat) (e : Int) : Nat :=
  if m = 0 then 0
  else
    let t := topExp m e
    if t < -126 then 0
    else if 127 < t then 0x7F000000
    else (t + 126).toNat * 2 ^ 23 + (truncAt m e (t - 23)).a - 2 ^ 23 + 1

def ordCeil (m : Nat) (e : Int) : Nat :=
  let exact := m = 0 || (decide (-126 ≤ topExp m e) && (truncAt m e (topExp m e - 23)).exact)
  if exact then ordFloor m e else min (ordFloor m e + 1) 0x7F000000

/-- The FP32 word of a place in that order. -/
def ordWord (o : Int) : Nat :=
  let n := if o < 0 then (-o - 1).toNat else o.toNat
  (if n = 0 then 0 else n - 1 + 2 ^ 23) + (if o < 0 then 2 ^ 31 else 0)

/-- One of the FP32 words within n ulp or an absolute bound of c·2^e, both c and the bound in units of 2^e and c off by at most the slack;
the free value tells which (log entry 7). Where no zero or normal value lies so near, the value is flushed (R25). -/
def withinBound (free : Nat) (c : Int) (e : Int) (slack n bound : Nat) : Nat × Cond :=
  let ulp := 2 ^ (max (topExp (c.natAbs + slack) e) (-126) - 23 - e).toNat
  let d : Int := (max (n * ulp) bound + slack : Nat)
  let lo := c - d
  let hi := c + d
  let l : Int := if 0 < lo then ordCeil lo.natAbs e else if lo = 0 then -1 else -(ordFloor lo.natAbs e : Int) - 1
  let h : Int := if 0 ≤ hi then ordFloor hi.natAbs e else -(ordCeil hi.natAbs e : Int) - 1
  if h < l then (fp32.signBit (decide (c < 0)), { underflow := true })
  else
    let w := ordWord (l + (free % ((h - l).toNat + 1) : Nat))
    (w, { underflow := c != 0 && w % 2 ^ 31 = 0 })

/-- A function given in fixed point. -/
def withinFx (free : Nat) (c : Int) (n bound : Nat) : Nat × Cond := withinBound free c (-fxBits) fxSlack n bound

/-- A finite value within n ulp of an exact quotient or root, whose last bit is sticky. -/
def withinUlp (free : Nat) (v : FVal) (n : Nat) : Nat × Cond :=
  match v with
  | .fin s m e => withinBound free (if s then -(m * 2 ^ 64 : Nat) else (m * 2 ^ 64 : Nat)) (e - 64) 0 n 0
  | _ => fp32.round .rne v

end Sys2Proof.Machine
end

