-- ==== Sys2Proof/Machine/DroverAlu.lean ====
section
/-! DEFINITION. Register instructions of the drover engines: arithmetic, special functions, compares, conversions, broadcasts,
permutes, reductions, predicates and scalars (R224 to R238, R250, R251). -/

namespace Sys2Proof.Machine

/-- Layout of a floating type code. -/
def kFmt (ty : Nat) : FFmt := tyFmt ty

/-- A result with its conditions as bits of DRV_COND. -/
def outBits (o : Nat × Cond) : Nat × Nat := (o.1, o.2.bits)

/-- The greater or lesser of two values: NaN where either is one, and −0 below +0 (R229). -/
def FVal.pick (gt : Bool) (a b : FVal) : FVal :=
  if a.isNan || b.isNan then .nan
  else if a.cmp b = .eq then (if a.isZero then .fin (if gt then a.sign && b.sign else a.sign || b.sign) 0 0 else a)
  else if (a.cmp b = .gt) = gt then a else b

/-- An integer operation on lanes of n bits (R229). -/
def intLane (n fn a b : Nat) : Nat :=
  let x := sext n a
  let y := sext n b
  let k := b % n
  match fn with
  | 0 => ofInt n (x + y)
  | 1 => ofInt n (x - y)
  | 2 => ofInt n (x * y)
  | 3 => ofInt n (min x y)
  | 4 => ofInt n (max x y)
  | 5 => ofInt n (x - y).natAbs
  | 9 => a * 2 ^ k % 2 ^ n
  | 10 => a / 2 ^ k
  | _ => ofInt n (x / 2 ^ k)

/-- A floating operation of VARITH (R229). -/
def fltArith (fn : Nat) (x y : FVal) : FVal :=
  match fn with
  | 0 => x.add y
  | 1 => x.sub y
  | 2 => x.mul y
  | 3 => x.pick false y
  | 4 => x.pick true y
  | _ => (x.sub y).abs

/-- One lane of VARITH. -/
def arithLane (ty fn a b : Nat) : Nat × Nat :=
  if fn = 6 then (a &&& b, 0)
  else if fn = 7 then (a ||| b, 0)
  else if fn = 8 then (a ^^^ b, 0)
  else if tyFloat ty then outBits ((kFmt ty).op2 .rne (fltArith fn) a b)
  else (intLane (tyWidth ty) fn a b, 0)

def kVarith (w : Nat) (x : Kx) : Kx :=
  let ty := wTY w
  let a := x.i.lanes ty (wVA w)
  let b := x.i.srcB ty w
  x.mapV ty (wVD w) (wPG w) fun k => arithLane ty (wFN w) (a.getD k 0) (b.getD k 0)

def execVarith (e : Nat) (s : State) : Res := execKernelOp 0x00 e kVarith s

/-- One lane of VFMA: ±a·b ± d with one rounding. -/
def fmaLane (ty fn a b d : Nat) : Nat × Nat :=
  if tyFloat ty then
    let f := kFmt ty
    let x := f.decode a
    let y := f.decode b
    let z := f.decode d
    let p := x.mul y
    let r := (if fn.testBit 1 then p.neg else p).add (if fn.testBit 0 then z.neg else z)
    let o := f.round .rne r
    outBits (o.1, (o.2.or (invalidOf [x, y, z] r)).or (flushOf f [a, b, d]))
  else
    let n := tyWidth ty
    let p := sext n a * sext n b
    (ofInt n ((if fn.testBit 1 then -p else p) + (if fn.testBit 0 then -sext n d else sext n d)), 0)

def kVfma (w : Nat) (x : Kx) : Kx :=
  let ty := wTY w
  let a := x.i.lanes ty (wVA w)
  let b := x.i.srcB ty w
  let d := x.i.lanes ty (wVD w)
  x.mapV ty (wVD w) (wPG w) fun k => fmaLane ty (wFN w) (a.getD k 0) (b.getD k 0) (d.getD k 0)

def execVfma (e : Nat) (s : State) : Res := execKernelOp 0x01 e kVfma s

/-- A derivative at an infinity, where the manual gives no result: a free word (log entry 7), with the conditions that Table 7-28
reads off it. The flag says that the exact function is not zero there. -/
def freeFn (code : Nat) (args : List Nat) (nonzero : Bool) : Nat × Cond :=
  let o := fp32.round .rne (fp32.decode (Config.special code (args.map (BitVec.ofNat 32)) % 2 ^ 32))
  let v := fp32.decode o.1
  (o.1, { invalid := v.isNan, overflow := v.isInf, underflow := nonzero && v.isZero })

/-- A result between the domain of a bound and the values of the table, where R25 and R28 alone apply: no sign, no NaN (R230; log entry 7). -/
def openFn (code : Nat) (args : List Nat) : Nat × Cond :=
  let o := fp32.round .rne (fp32.decode (Config.special code (args.map (BitVec.ofNat 32)) % 0x7F800001))
  (o.1, { overflow := (fp32.decode o.1).isInf, underflow := o.1 = 0 })

/-- The free value of a function at an operand. -/
def freeOf (code a : Nat) : Nat := Config.special code [BitVec.ofNat 32 a]

/-- A function within n ulp or a bound in units of 2^-256. -/
def boundFn (code a : Nat) (c : Int) (n bound : Nat) : Nat × Cond := withinFx (freeOf code a) c n bound

/-- e^x or 2^x within n ulp, from x·ln 2 or x in fixed point. -/
def expWithin (code a : Nat) (x : Int) (n : Nat) : Nat × Cond :=
  let q := fxExp x
  withinBound (freeOf code a) q.1 (q.2 - fxBits) fxSlack n 0

/-- x > n/10000 and x < −n/10000 for the edges of EXP. -/
def aboveTenK (x : FVal) (n : Nat) : Bool := (FVal.fin false n 0).lt (x.mul (.fin false 10000 0))
def belowTenK (x : FVal) (n : Nat) : Bool := (x.mul (.fin false 10000 0)).lt (.fin true n 0)

/-- EXP of an FP32 word (Table 7-7). -/
def expFn (a : Nat) : Nat × Cond :=
  let x := fp32.decode a
  if x = .inf false then (fp32.infBits false, {})
  else if x = .inf true then (0, {})
  else if aboveTenK x 887228 then (fp32.infBits false, { overflow := true })
  else if belowTenK x 873365 then (0, { underflow := true })
  else if aboveTenK x 887200 || belowTenK x 873300 then openFn 7 [a]
  else expWithin 7 a (fxOf x) 2

/-- The functions of Table 7-7 that are not raw moves, on an FP32 word that is no NaN, with their bounds. -/
def un1Word (fn a : Nat) : Nat × Cond :=
  let x := fp32.decode a
  let bad : Nat × Cond := (fp32.nanBits, { invalid := true })
  let neg := x.sign && !x.isZero
  let ofAbs (x : FVal) : Nat := (fxOf x).natAbs / 2 ^ 24
  match fn with
  | 3 => (fp32.round .rne (x.pick true .zero))
  | 4 =>
    if x.isZero then (fp32.infBits x.sign, {})
    else if x.isInf then (fp32.signBit x.sign, {})
    else if (FVal.fin false 1 126).lt x.abs then (fp32.signBit x.sign, { underflow := true })
    else withinUlp (freeOf 4 a) (FVal.one.div x) 1
  | 5 =>
    if x.isZero then (fp32.infBits x.sign, {})
    else if neg then bad
    else if x.isInf then (0, {})
    else withinUlp (freeOf 5 a) ((FVal.one.div x).sqrt) 1
  | 6 => if neg then bad else fp32.round .rne x.sqrt
  | 7 => expFn a
  | 8 =>
    if x = .inf false then (fp32.infBits false, {})
    else if x = .inf true then (0, {})
    else if (FVal.fin false 128 0).le x then (fp32.infBits false, { overflow := true })
    else if x.lt (.fin true 126 0) then (0, { underflow := true })
    else expWithin 8 a (fxMul (fxOf x) fxLn2) 1
  | 9 => if x.isZero then (fp32.infBits true, {}) else if neg then bad else if x.isInf then (a, {}) else boundFn 9 a (fxLn x) 2 0
  | 10 => if x.isZero then (fp32.infBits true, {}) else if neg then bad else if x.isInf then (a, {}) else boundFn 10 a (fxDiv (fxLn x) fxLn2) 1 0
  | 11 => if x.isInf then (fp32.round .rne (.fin x.sign 1 0)) else boundFn 11 a (fxTanh (fxOf x)) 2 (2 ^ 230)
  | 12 => if x.isInf then (if x.sign then (0, {}) else fp32.round .rne .one) else boundFn 12 a (fxSigmoid (fxOf x)) 3 (2 ^ 230)
  | 13 => if x.isInf then (if x.sign then (fp32.signBit true, {}) else (a, {})) else boundFn 13 a (fxMul (fxOf x) (fxPhi (fxOf x))) 4 (ofAbs x)
  | _ => if x.isInf then (if x.sign then (fp32.signBit true, {}) else (a, {})) else boundFn 14 a (fxMul (fxOf x) (fxSigmoid (fxOf x))) 4 (ofAbs x)

/-- The functions of Table 7-8 on an FP32 word that is no NaN, with their bounds. -/
def un2Word (fn a : Nat) : Nat × Cond :=
  let y := fp32.decode a
  let one (r : FVal) : Nat × Cond :=
    let o := fp32.round .rne r
    (o.1, o.2.or (invalidOf [y] r))
  let z := fxOf y
  match fn with
  | 0 => if y.isInf then freeFn 0x10 [a] true else boundFn 0x10 a (fxPhi z + fxMul z (fxDensity z)) 4 (2 ^ 232)
  | 1 =>
    if y.isInf then freeFn 0x11 [a] true
    else let g := fxSigmoid z; boundFn 0x11 a (fxMul g (fxOne + fxMul z (fxOne - g))) 4 (2 ^ 232)
  | 2 => one (y.sub (y.mul y))
  | 3 => one (FVal.one.sub (y.mul y))
  | _ => one (if FVal.zero.lt y then .one else .zero)

/-- A function computed in FP32 and rounded once to the type (R230): the operand is widened exactly. -/
def viaFp32 (ty : Nat) (g : Nat → Nat × Cond) (a : Nat) : Nat × Nat :=
  let f := kFmt ty
  let x := f.decode a
  let flush := flushOf f [a]
  if x.isNan then outBits (f.nanBits, flush)
  else
    let o := g (fp32.round .rne x).1
    if ty = 0 then outBits (o.1, o.2.or flush)
    else
      let q := f.round .rne (fp32.decode o.1)
      outBits (q.1, (o.2.or q.2).or flush)

/-- One lane of VUN1 (R229, R230). -/
def un1Lane (ty fn a : Nat) : Nat × Nat :=
  let n := tyWidth ty
  let sign := 2 ^ (n - 1)
  if fn = 0 then (a, 0)
  else if tyFloat ty then
    if fn = 1 then (a ^^^ sign, 0) else if fn = 2 then (a % sign, 0) else viaFp32 ty (un1Word fn) a
  else
    let x := sext n a
    (ofInt n (if fn = 1 then -x else if fn = 2 then (x.natAbs : Int) else max x 0), 0)

def kVun1 (w : Nat) (x : Kx) : Kx :=
  let ty := wTY w
  let a := x.i.lanes ty (wVA w)
  x.mapV ty (wVD w) (wPG w) fun k => un1Lane ty (wFN w) (a.getD k 0)

def execVun1 (e : Nat) (s : State) : Res := execKernelOp 0x02 e kVun1 s

def kVun2 (w : Nat) (x : Kx) : Kx :=
  let ty := wTY w
  let a := x.i.lanes ty (wVA w)
  x.mapV ty (wVD w) (wPG w) fun k => viaFp32 ty (un2Word (wFN w)) (a.getD k 0)

def execVun2 (e : Nat) (s : State) : Res := execKernelOp 0x03 e kVun2 s

/-- Whether a compare holds, and its conditions: a NaN compares false but for NE (R226, R229). -/
def cmpLane (ty fn a b : Nat) : Bool × Nat :=
  if tyFloat ty then
    let f := kFmt ty
    let x := f.decode a
    let y := f.decode b
    if fn = 6 then (x.isNan, 0)
    else if fn = 7 then (x.isInf, 0)
    else
      let c := x.cmp y
      let nan := x.isNan || y.isNan
      let r := match fn with
        | 0 => !nan && c = .eq
        | 1 => nan || c != .eq
        | 2 => !nan && c = .lt
        | 3 => !nan && c != .gt
        | 4 => !nan && c = .gt
        | _ => !nan && c != .lt
      (r, (flushOf f [a, b]).bits)
  else
    let x := sext (tyWidth ty) a
    let y := sext (tyWidth ty) b
    (match fn with
     | 0 => x = y
     | 1 => x != y
     | 2 => x < y
     | 3 => x ≤ y
     | 4 => y < x
     | 5 => y ≤ x
     | _ => false, 0)

def kVcmp (w : Nat) (x : Kx) : Kx :=
  let ty := wTY w
  let a := x.i.lanes ty (wVA w)
  let b := x.i.srcB ty w
  let r := (x.i.actives ty (wPG w)).foldl (fun (p : Nat × Nat) k =>
    let q := cmpLane ty (wFN w) (a.getD k 0) (b.getD k 0)
    (p.1 + b2n q.1 * 2 ^ k, p.2 ||| q.2)) (0, x.cond)
  { x with i := x.i.setPred (wVD w % 8) r.1, cond := r.2 }

def execVcmp (e : Nat) (s : State) : Res := execKernelOp 0x04 e kVcmp s

/-- VSEL writes every lane below the effective length (R225). -/
def kVsel (w : Nat) (x : Kx) : Kx :=
  let ty := wTY w
  let a := x.i.lanes ty (wVA w)
  let b := x.i.srcB ty w
  let g := x.i.pred (wPG w)
  x.mapV ty (wVD w) 0 fun k => (if g.testBit k then a.getD k 0 else b.getD k 0, 0)

def execVsel (e : Nat) (s : State) : Res := execKernelOp 0x05 e kVsel s

/-- sexp of two FP32 values (Table 7-15). -/
def sexpWord (a b : Nat) : Nat × Nat :=
  let x := fp32.decode a
  let y := fp32.decode b
  if x.isNan || y.isNan then (fp32.nanBits, cSmxNan)
  else if y = .inf false then (if x = .inf false then (fp32.round .rne .one).1 else 0, 0)
  else if y = .inf true || x = .inf true then (0, 0)
  else if x = .inf false then (fp32.infBits false, 0)
  else
    let d := fp32.round .rne (x.sub y)
    let o := expFn d.1
    outBits (o.1, d.2.or o.2)

/-- snorm of two FP32 values (R251). -/
def snormWord (a b : Nat) : Nat × Nat :=
  let x := fp32.decode a
  let y := fp32.decode b
  if x.isNan || y.isNan then (fp32.nanBits, cSmxNan)
  else if y.isZero then (0, cEmpty)
  else outBits (let o := fp32.round .rne (x.div y); (o.1, o.2.or (invalidOf [x, y] (x.div y))))

/-- A soft-maximum function on a lane of a type, computed in FP32 (R230). -/
def smxLane (ty fn a b : Nat) : Nat × Nat :=
  let f := kFmt ty
  let g := if fn = 0 then sexpWord else snormWord
  let o := g (fp32.round .rne (f.decode a)).1 (fp32.round .rne (f.decode b)).1
  let q := f.round .rne (fp32.decode o.1)
  (q.1, o.2 ||| q.2.bits ||| (flushOf f [a, b]).bits)

def kVsmx (w : Nat) (x : Kx) : Kx :=
  let ty := wTY w
  let a := x.i.lanes ty (wVA w)
  let b := x.i.srcB ty w
  x.mapV ty (wVD w) (wPG w) fun k => smxLane ty (wFN w) (a.getD k 0) (b.getD k 0)

def execVsmxSexp (e : Nat) (s : State) : Res := execKernelFn 0x06 0 e kVsmx s
def execVsmxSnorm (e : Nat) (s : State) : Res := execKernelFn 0x06 1 e kVsmx s

/-- An exact value rounded to an integer of n bits, held at its range; NaN gives 0 and invalid (R237). -/
def toIntLane (n : Nat) (rnd : Rnd) (v : FVal) : Nat × Cond :=
  let hi : Int := 2 ^ (n - 1) - 1
  match v with
  | .nan => (0, { invalid := true })
  | .inf s => (ofInt n (if s then -hi - 1 else hi), {})
  | .fin s m e =>
    let q : Int := (roundMag rnd m e 0 : Nat)
    (ofInt n (clampI (if s then -q else q) (-hi - 1) hi), {})

/-- One converted value (R237). -/
def cvtLane (src dst : Nat) (rnd : Rnd) (a : Nat) : Nat × Nat :=
  if tyFloat src && tyFloat dst then outBits (fcvt (kFmt src) (kFmt dst) rnd a)
  else if tyFloat src then
    let o := toIntLane (tyWidth dst) rnd ((kFmt src).decode a)
    outBits (o.1, o.2.or (flushOf (kFmt src) [a]))
  else if tyFloat dst then outBits ((kFmt dst).round rnd (.ofInt (sext (tyWidth src) a)))
  else outBits (toIntLane (tyWidth dst) .rne (.ofInt (sext (tyWidth src) a)))

/-- VCVT: the lane of the source that gives lane k of the destination, if any (R237), and the draw of that lane (R238). -/
def kVcvt (w : Nat) (x : Kx) : Kx :=
  let src := wTY w
  let dst := wFN w % 8
  let h := wVB w % 2
  let a := x.i.lanes src (wVA w)
  let old := x.i.lanes dst (wVD w)
  let from_ (k : Nat) : Option Nat :=
    let j := if tyWide src = tyWide dst then some k
      else if tyWide src then (if k / 128 = h then some (k - 128 * h) else none)
      else some (128 * h + k)
    match j with
    | some j => if x.i.active src (wPG w) j then some j else none
    | none => none
  let rnd (k : Nat) : Rnd :=
    if (wFN w).testBit 3 then .sr (draw x.s.seed siteDrover (x.i.sreg 14 % 65536) (x.i.sreg 15 + k) x.s.stepNo) else .rne
  let rs : List (Nat × Nat) := (List.range (laneCount dst)).map fun k =>
    match from_ k with
    | some j => cvtLane src dst (rnd k) (a.getD j 0)
    | none => (old.getD k 0, 0)
  { x with i := x.i.setLanes dst (wVD w) (rs.map (·.1)), cond := rs.foldl (fun a r => a ||| r.2) x.cond }

def execVcvt (e : Nat) (s : State) : Res := execKernelOp 0x07 e kVcvt s

/-- VBCAST BS: the scalar's low bits in every lane. -/
def kBcastBs (w : Nat) (x : Kx) : Kx :=
  let ty := wTY w
  x.mapV ty (wVD w) (wPG w) fun _ => (x.i.sreg (wVB w % 16) % 2 ^ tyWidth ty, 0)

def execVbcastBs (e : Nat) (s : State) : Res := execKernelFn 0x08 0 e kBcastBs s

/-- VBCAST BL: one lane in every lane, +0 at or beyond the effective length (R233). -/
def kBcastBl (w : Nat) (x : Kx) : Kx :=
  let ty := wTY w
  let k := x.i.sreg (wVB w % 16)
  let far := decide (x.i.eff ty ≤ k)
  let v := if far then 0 else (x.i.lanes ty (wVA w)).getD k 0
  let y := x.mapV ty (wVD w) (wPG w) fun _ => (v, 0)
  if far then { y with cond := y.cond ||| cPerm } else y

def execVbcastBl (e : Nat) (s : State) : Res := execKernelFn 0x08 1 e kBcastBl s

/-- VBCAST IOTA: i + sB (R233). -/
def kBcastIota (w : Nat) (x : Kx) : Kx :=
  let ty := wTY w
  let b := sext 32 (x.i.sreg (wVB w % 16))
  x.mapV ty (wVD w) (wPG w) fun k =>
    if tyFloat ty then outBits ((kFmt ty).round .rne (.ofInt (k + b))) else (ofInt (tyWidth ty) (k + b), 0)

def execVbcastIota (e : Nat) (s : State) : Res := execKernelFn 0x08 2 e kBcastIota s

/-- VPERM IDX (R236). -/
def kPermIdx (w : Nat) (x : Kx) : Kx :=
  let ty := wTY w
  let a := x.i.lanes ty (wVA w)
  let b := x.i.srcB ty w
  x.mapV ty (wVD w) (wPG w) fun k =>
    let j := b.getD k 0
    if j < x.i.eff ty then (a.getD j 0, 0) else (0, cPerm)

def execVpermIdx (e : Nat) (s : State) : Res := execKernelFn 0x09 0 e kPermIdx s

/-- VPERM ROT (R236). -/
def kPermRot (w : Nat) (x : Kx) : Kx :=
  let ty := wTY w
  let a := x.i.lanes ty (wVA w)
  let b := x.i.sreg (wVB w % 16)
  x.mapV ty (wVD w) (wPG w) fun k => (a.getD ((k + b) % x.i.eff ty) 0, 0)

def execVpermRot (e : Nat) (s : State) : Res := execKernelFn 0x09 1 e kPermRot s

/-- One combination of a reduction in FP32: a rounded sum, or the greater or lesser value. -/
def redPair (kind a b : Nat) : Nat × Cond :=
  if kind = 0 then fp32.op2 .rne FVal.add a b
  else fp32.round .rne ((fp32.decode a).pick (kind = 1) (fp32.decode b))

def redLevel (kind : Nat) : List Nat → List Nat × Cond
  | a :: b :: r =>
    let q := redPair kind a b
    let t := redLevel kind r
    (q.1 :: t.1, q.2.or t.2)
  | xs => (xs, {})

/-- The reduction tree of a power of two of lanes (R232). -/
def redTree (kind : Nat) : Nat → List Nat → Nat × Cond
  | 0, xs => (xs.headD 0, {})
  | d + 1, xs =>
    let l := redLevel kind xs
    let t := redTree kind d l.1
    (t.1, l.2.or t.2)

/-- The kind of combination of a reduction function: SUM, MAX, MIN, SSQ, AMAX as sum 0, greater 1, lesser 2. -/
def redKind (fn : Nat) : Nat := if fn = 1 || fn = 4 then 1 else if fn = 2 then 2 else 0

/-- The identity an inactive lane enters with, in FP32. -/
def redIdent (fn : Nat) : Nat := if fn = 1 then fp32.infBits true else if fn = 2 then fp32.infBits false else 0

/-- What an active lane enters a reduction with, in FP32. -/
def redLeaf (ty fn a : Nat) : Nat × Cond :=
  let f := kFmt ty
  let v := f.decode a
  let o := if fn = 3 then fp32.round .rne (v.mul v) else fp32.round .rne (if fn = 4 then v.abs else v)
  (o.1, o.2.or (flushOf f [a]))

/-- A floating reduction of lanes by the tree (R232). -/
def redFloat (ty fn : Nat) (xs : List Nat) (active : Nat → Bool) : Nat × Cond :=
  let n := laneCount ty
  let ls : List (Nat × Cond) := (List.range n).map fun k => if active k then redLeaf ty fn (xs.getD k 0) else (redIdent fn, {})
  let t := redTree (redKind fn) n.log2 (ls.map (·.1))
  (t.1, ls.foldl (fun (c : Cond) l => c.or l.2) t.2)

/-- An integer reduction (R232): exact, in I32. -/
def redInt (ty fn : Nat) (xs : List Nat) (active : Nat → Bool) : Nat :=
  let n := tyWidth ty
  let vs := ((List.range (laneCount ty)).filter active).map fun k => sext n (xs.getD k 0)
  ofInt 32 (match fn with
    | 0 => vs.foldl (· + ·) 0
    | 1 => vs.foldl max (-(2 ^ (n - 1)))
    | 2 => vs.foldl min (2 ^ (n - 1) - 1)
    | 3 => (vs.map fun v => v * v).foldl (· + ·) 0
    | _ => (vs.map fun v => (v.natAbs : Int)).foldl max 0)

def kVred (w : Nat) (x : Kx) : Kx :=
  let ty := wTY w
  let a := x.i.lanes ty (wVA w)
  let act := x.i.active ty (wPG w)
  if tyFloat ty then
    let r := redFloat ty (wFN w) a act
    (x.raise r.2).setS (wVD w % 16) r.1
  else x.setS (wVD w % 16) (redInt ty (wFN w) a act)

def execVred (e : Nat) (s : State) : Res := execKernelOp 0x0A e kVred s

/-- PRED: logic on whole predicates, and CNT and FIRST on the bits below VL (R226). -/
def kPred (w : Nat) (x : Kx) : Kx :=
  let a := x.i.pred (fld w 22 20)
  let b := x.i.pred (fld w 19 17)
  let ones := 2 ^ 256 - 1
  let put (v : Nat) : Kx := { x with i := x.i.setPred (fld w 25 23) v }
  let low := bitsSet (min x.i.vl 256) a
  match wFN w with
  | 0 => put (a &&& b)
  | 1 => put (a ||| b)
  | 2 => put (a ^^^ b)
  | 3 => put (a &&& (b ^^^ ones))
  | 4 => put (a ^^^ ones)
  | 5 => put ones
  | 6 => put 0
  | 7 => x.setS (fld w 16 13) low.length
  | _ => x.setS (fld w 16 13) (low.headD x.i.vl)

def execPred (e : Nat) (s : State) : Res := execKernelOp 0x0B e kPred s

/-- The signed immediate of the SI form. -/
def imm18 (w : Nat) : Int := sext 18 (fld w 17 0)
def wSD (w : Nat) : Nat := fld w 25 22
def wSA (w : Nat) : Nat := fld w 21 18
def wSB (w : Nat) : Nat := fld w 17 14

/-- SETVL (R224). -/
def kSetvl (w : Nat) (x : Kx) : Kx :=
  let v := (clampI (sext 32 (x.i.sreg (wSA w)) + imm18 w) 0 256).toNat
  ({ x with i := { x.i with vl := v } } : Kx).setS (wSD w) v

def execSetvl (e : Nat) (s : State) : Res := execKernelOp 0x0C e kSetvl s

/-- SALU: integers modulo 2^32 and FP32 (R228, R229). SLT, MIN and MAX compare signed, which the table does not say (DESIGN CHOICE, log entry
164). -/
def saluWord (fn a b : Nat) : Nat × Cond :=
  match fn with
  | 3 => (a &&& b, {})
  | 4 => (a ||| b, {})
  | 5 => (a ^^^ b, {})
  | 6 => (a * 2 ^ (b % 32), {})
  | 7 => (a / 2 ^ (b % 32), {})
  | 8 => (ofInt 32 (sext 32 a / 2 ^ (b % 32)), {})
  | 9 => (b2n (sext 32 a < sext 32 b), {})
  | 10 => (ofInt 32 (min (sext 32 a) (sext 32 b)), {})
  | 11 => (ofInt 32 (max (sext 32 a) (sext 32 b)), {})
  | 12 => fp32.op2 .rne FVal.add a b
  | 13 => fp32.op2 .rne FVal.sub a b
  | 14 => fp32.op2 .rne FVal.mul a b
  | 15 => fp32.op2 .rne FVal.div a b
  | _ => (intLane 32 fn a b, {})

def kSalu (w : Nat) (x : Kx) : Kx :=
  let r := saluWord (wFN w) (x.i.sreg (wSA w)) (x.i.sreg (wSB w))
  (x.raise r.2).setS (wSD w) r.1

def execSalu (e : Nat) (s : State) : Res := execKernelOp 0x20 e kSalu s

def kSaddi (w : Nat) (x : Kx) : Kx := x.setS (wSD w) (ofInt 32 (sext 32 (x.i.sreg (wSA w)) + imm18 w))

def execSaddi (e : Nat) (s : State) : Res := execKernelOp 0x21 e kSaddi s

def kSli (w : Nat) (x : Kx) : Kx :=
  let h := fld w 21 21
  x.setS (wSD w) (setFld (x.i.sreg (wSD w)) (16 * h + 15) (16 * h) (fld w 15 0))

def execSli (e : Nat) (s : State) : Res := execKernelOp 0x22 e kSli s

def kSlane (w : Nat) (x : Kx) : Kx := x.setS (wSD w) ((x.i.vreg (fld w 21 17)).getD (fld w 7 0) 0)

def execSlane (e : Nat) (s : State) : Res := execKernelOp 0x25 e kSlane s

def kScond (w : Nat) (x : Kx) : Kx :=
  let y := x.setS (wSD w) x.i.cond
  if wFN w = 1 then { y with i := { y.i with cond := 0 } } else y

def execScond (e : Nat) (s : State) : Res := execKernelOp 0x26 e kScond s

/-- The condition of BR. -/
def brTaken (c a b : Nat) : Bool :=
  match c with
  | 0 => true
  | 1 => a = b
  | 2 => a != b
  | 3 => sext 32 a < sext 32 b
  | 4 => sext 32 b ≤ sext 32 a
  | 5 => a < b
  | _ => b ≤ a

def kBr (w : Nat) (x : Kx) : Kx :=
  if brTaken (fld w 17 15) (x.i.sreg (wSD w)) (x.i.sreg (wSA w)) then
    { x with nxt := some ((x.i.pc : Int) + sext 15 (fld w 14 0)) } else x

def execBr (e : Nat) (s : State) : Res := execKernelOp 0x28 e kBr s

def execCtlNop (e : Nat) (s : State) : Res := execKernelFn 0x3F 0 e (fun _ x => x) s

/-- END pushes the ASAT record of an array entry. -/
def Inv.asat (i : Inv) : Option Nat :=
  match i.work with
  | .arr a => if a.flags.testBit 0 then some a.layer else none
  | _ => none

/-- END: the ASAT record of an array entry, for which it waits while the FIFO is full, then the invocation ends (R213, R217, R246). -/
def kEnd (_ : Nat) (x : Kx) : Kx :=
  match x.i.asat with
  | none => { x with ended := true }
  | some l =>
    if 64 ≤ (x.s.drv x.e).fifo.length then { x with wait := true }
    else { x.push 1 (0xC6 * 65536 + l) with ended := true }

def execCtlEnd (e : Nat) (s : State) : Res := execKernelFn 0x3F 1 e kEnd s

def execCtlFault (e : Nat) (s : State) : Res := execKernelFn 0x3F 2 e (fun _ x => x.fail 11) s

/-- An instruction with a reserved opcode, FN or type code, or with a restriction of its form broken (R228). -/
def execIllegalInstruction (e : Nat) (s : State) : Res :=
  onUnit (drvOk e) (s.kstep e (fun w => !kLegal w) fun _ x => x)

end Sys2Proof.Machine
end

