-- ==== Sys2Proof/Machine/DroverMem.lean ====
section
/-! DEFINITION. Drover-engine instructions on local memory, tiles, copies, the tensor writer, the queues and the summaries
(R222, R223, R228, R234, R235, R239 to R244). -/

namespace Sys2Proof.Machine

/-- Address of an M form: formed without wrap (Table 7-4). -/
def mAddr (w : Nat) (i : Inv) : Nat := i.sreg (fld w 20 17) + 64 * fld w 12 0

/-- VLD: active lanes of the 32-bit view (R239). -/
def kVld (w : Nat) (x : Kx) : Kx :=
  let a := mAddr w x.i
  let f := localFault a 512 64
  let pg := fld w 16 14
  if f != 0 then x.fail f
  else
    let r := x.readLocal a (x.i.actives 0 pg)
    r.2.mapV 0 (fld w 25 21) pg fun k => (r.1.getD k 0, 0)

def execVld (e : Nat) (s : State) : Res := execKernelOp 0x10 e kVld s

def kVst (w : Nat) (x : Kx) : Kx :=
  let a := mAddr w x.i
  let f := localFault a 512 64
  let v := x.i.vreg (fld w 25 21)
  if f != 0 then x.fail f else x.writeLocal a (x.i.actives 0 (fld w 16 14)) fun k => v.getD k 0

def execVst (e : Nat) (s : State) : Res := execKernelOp 0x11 e kVst s

/-- Tile row of an R form. -/
def rRow (w : Nat) (i : Inv) : Nat := (i.sreg (fld w 16 13) + fld w 6 0) % 128

def kVldt (w : Nat) (x : Kx) : Kx :=
  let t := fld w 20 17
  let pg := fld w 12 10
  if !x.hasTile t then x.fail 6
  else
    let r := x.tileRow t (rRow w x.i) (x.i.actives 0 pg)
    r.2.mapV 0 (fld w 25 21) pg fun k => (r.1.getD k 0, 0)

def execVldt (e : Nat) (s : State) : Res := execKernelOp 0x12 e kVldt s

def kVstt (w : Nat) (x : Kx) : Kx :=
  let t := fld w 20 17
  let v := x.i.vreg (fld w 25 21)
  if !x.hasTile t then x.fail 6
  else x.setTileRow t (rRow w x.i) (x.i.actives 0 (fld w 12 10)) fun k => v.getD k 0

def execVstt (e : Nat) (s : State) : Res := execKernelOp 0x13 e kVstt s

/-- One element of TOP: row r, lane j, the tile's word, and the vector's words for lane and row (Table 7-9). -/
def topElem (fn r j a vj vr : Nat) (lim : Int) : Nat × Nat :=
  match fn with
  | 0 => outBits (fp32.op2 .rne FVal.add a vj)
  | 1 => outBits (fp32.op2 .rne FVal.sub a vj)
  | 2 => outBits (fp32.op2 .rne FVal.mul a vj)
  | 3 => outBits (fp32.op2 .rne FVal.add a vr)
  | 4 => outBits (fp32.op2 .rne FVal.sub a vr)
  | 5 => outBits (fp32.op2 .rne FVal.mul a vr)
  | 6 => (let o := sexpWord a vr; (o.1, o.2 ||| (flushOf fp32 [a, vr]).bits))
  | 7 => (let o := snormWord a vr; (o.1, o.2 ||| (flushOf fp32 [a, vr]).bits))
  | 8 => (if lim < (j : Int) - r then fp32.infBits true else a, 0)
  | _ => (a, 0)

/-- One row of TOP. An empty row of COL.SNORM counts once (R251). -/
def topRow (w : Nat) (va act : List Nat) (lim : Int) (x : Kx) (r : Nat) : Kx :=
  let q := x.tileRow (fld w 16 13) r act
  let rs : List (Nat × Nat) := (List.range 128).map fun j =>
    if act.contains j then topElem (wFN w) r j (q.1.getD j 0) (va.getD j 0) (va.getD r 0) lim else (0, 0)
  let y := q.2.setTileRow (fld w 20 17) r act fun j => (rs.getD j (0, 0)).1
  let c := rs.foldl (fun a p => a ||| p.2) 0
  { y with cond := y.cond ||| c, empties := y.empties + b2n (c.testBit 7) }

/-- TOP: every row, active lanes (R235). -/
def kTop (w : Nat) (x : Kx) : Kx :=
  if !(x.hasTile (fld w 16 13) && x.hasTile (fld w 20 17)) then x.fail 6
  else
    let v := fld w 25 21
    let lim := sext 32 (x.i.sreg (v % 16))
    (List.range 128).foldl (topRow w (x.i.vreg v) (x.i.actives 0 (fld w 12 10)) lim) x

def execTop (e : Nat) (s : State) : Res := execKernelOp 0x14 e kTop s

/-- Fold a column of a tile in row order (R235): sums of words or of squares, greatest or least. -/
def colFold (fn : Nat) (xs : List Nat) : Nat × Cond :=
  match xs with
  | [] => (0, {})
  | a :: r =>
    r.foldl (fun (p : Nat × Cond) b =>
      let l := redLeaf 0 fn b
      let q := redPair (redKind fn) p.1 l.1
      (q.1, (p.2.or l.2).or q.2)) (redLeaf 0 fn a)

/-- TRED: row reductions write lane r for every row; column reductions write the active lanes (R235). -/
def kTred (w : Nat) (x : Kx) : Kx :=
  let t := fld w 16 13
  let fn := wFN w
  let vd := fld w 25 21
  let act := x.i.actives 0 (fld w 12 10)
  if !x.hasTile t then x.fail 6
  else
    let rows := (List.range 128).foldl (fun (p : List (List Nat) × Kx) r =>
      let q := p.2.tileRow t r act
      (p.1 ++ [q.1], q.2)) ([], x)
    let y := rows.2
    if fn < 8 then
      let rs : List (Nat × Cond) := rows.1.map fun row => redFloat 0 fn row act.contains
      rs.foldl (fun (z : Kx) r => z.raise r.2) { y with i := y.i.setLanes 0 vd (rs.map (·.1)) }
    else
      y.mapV 0 vd (fld w 12 10) fun j => outBits (colFold (fn - 8) (rows.1.map fun row => row.getD j 0))

def execTred (e : Nat) (s : State) : Res := execKernelOp 0x15 e kTred s

/-- XCOPY issues a copy (R239): its operands and the access are checked whole; a 17th copy waits. -/
def kXcopy (w : Nat) (x : Kx) : Kx :=
  let sl := x.i.sreg (fld w 25 22)
  let sm := fld w 21 18
  let n := x.i.sreg (fld w 17 14)
  let out := w.testBit 13
  let adr := x.i.sreg sm + 2 ^ 32 * x.i.sreg (sm + 1)
  let d := x.s.drv x.e
  if sm % 2 = 1 || n % 64 != 0 || n = 0 || localSize < n then x.fail 4
  else if localFault sl n 64 != 0 then x.fail (localFault sl n 64)
  else if adr % 64 != 0 then x.fail 4
  else if 16 ≤ d.copies.length then { x with wait := true }
  else
    match daddr adr with
    | .mod a =>
      let right := if out then rightW else rightR
      match x.s.memCheck (drvMaster x.e) right a n with
      | .ok =>
        let c : CopyJob := { loc := sl, addr := a, len := n, out := out, tag := fld w 3 0, drop := x.s.discards x.i.work.own,
                              own := x.i.work.own }
        { x with s := x.s.updDrv x.e fun d => { d with copies := d.copies ++ [c] } }
      | c => ({ x with s := x.s.refuse c right (drvMaster x.e) a } : Kx).fail 5
    | _ => x.fail 5

def execXcopy (e : Nat) (s : State) : Res := execKernelOp 0x18 e kXcopy s

/-- XWAIT (R239). -/
def kXwait (w : Nat) (x : Kx) : Kx :=
  if (x.s.drv x.e).copies.any fun c => w.testBit 4 || c.tag = fld w 3 0 then { x with wait := true } else x

def execXwait (e : Nat) (s : State) : Res := execKernelOp 0x19 e kXwait s

/-- The i-th copy in flight finishes moving its lines (R239). -/
def State.copyDone (s : State) (e i : Nat) : State :=
  match (s.drv e).copies[i]? with
  | none => s
  | some c =>
    if s.failSafe then s
    else
      let t := (linesOf c.loc c.len).foldl (fun t l =>
        match (t.drv e).copies[i]? with
        | some k => if k.moved.contains l then t else t.moveLine e i l
        | none => t) s
      t.updDrv e fun d => { d with copies := d.copies.eraseIdx i }

def execCopyEngineDone (e i : Nat) (s : State) : Res := onUnit (drvOk e) (s.copyDone e i)

def Drv.slot (d : Drv) (k : Nat) : Option WSlot := mapGet none d.slots k

def Kx.setSlot (x : Kx) (k : Nat) (w : Option WSlot) : Kx :=
  { x with s := x.s.updDrv x.e fun d => { d with slots := mapSet none d.slots k w } }

def wSlotNo (w : Nat) : Nat := fld w 12 11

/-- Scale history is advanced by ordinary invocations only (R279, R301). -/
def Kx.hupd (x : Kx) : Bool := !x.i.work.recomp && !x.i.work.eval && !x.s.trn.evalOpen

/-- Take what a writer's output came to: its state, conditions and NaNs, and the slot as it then is. A denied access faults
with code 5 (R241). The results of a failed descriptor are discarded: memory stays as it was. -/
def Kx.wrote (x : Kx) (k : Nat) (q : WSlot × WOut) : Kx :=
  let s1 := if x.s.discards x.i.work.own then { q.2.s with mem := { x.s.mem with consumed := q.2.s.mem.consumed } } else q.2.s
  let y : Kx := ({ x with s := s1, nans := x.nans + q.2.nan } : Kx).raise
    { q.2.cond with narrowNan := q.2.cond.narrowNan || q.2.nan != 0 }
  if q.2.denied then y.fail 5 else y.setSlot k (some (q.1.count q.2))

/-- CLOSE ends the open row and the slot and pushes the automatic summaries, waiting while the FIFO has no room for them
(R241). -/
def Kx.closeSlot (x : Kx) (k : Nat) : Kx :=
  match (x.s.drv x.e).slot k with
  | none => x
  | some w =>
    if w.autosum && decide (61 < (x.s.drv x.e).fifo.length) then { x with wait := true }
    else
      let y := x.wrote k (w.endRow (drvMaster x.e) x.hupd { s := x.s })
      if y.fault != 0 then y
      else match (y.s.drv y.e).slot k with
      | none => y
      | some v =>
        let z := if v.autosum then
            ((y.push v.sat (0xC4 * 65536 + v.layer)).push v.unf (0xC5 * 65536 + v.layer)).push v.nan (0xC7 * 65536 + v.layer)
          else y
        z.setSlot k none

/-- Bytes of local memory read by an instruction. -/
def Kx.readBytes (x : Kx) (a n : Nat) : List Byte × Kx :=
  let ls := linesOf a n
  let s1 := ls.foldl (fun t l => t.touchLine x.e l false) x.s
  let d := s1.drv x.e
  let s2 := match ls.find? d.bad.contains with
    | some l => s1.consume { master := drvMaster x.e, line := l, inLocal := true }
    | none => s1
  (memReadAt d.loc a n, { x with s := s2 })

/-- WR OPEN: the descriptor at local address sA (R240). A descriptor that Table 7-10 does not allow faults with code 9. -/
def kWrOpen (w : Nat) (x : Kx) : Kx :=
  let a := x.i.sreg (fld w 20 17)
  let y := x.closeSlot (wSlotNo w)
  if y.wait || y.fault != 0 then y
  else if localSize < a + 64 then y.fail 3
  else
    let r := y.readBytes a 64
    let t := parseTensor r.1
    if t.status != 0 then r.2.fail 9 else r.2.setSlot (wSlotNo w) (some t)

def execWrOpen (e : Nat) (s : State) : Res := execKernelFn 0x1A 0 e kWrOpen s

/-- WR ROW (R241): a column out of order, or a slot that is not open, faults with code 9. -/
def kWrRow (w : Nat) (x : Kx) : Kx :=
  let k := wSlotNo w
  let ty := fld w 10 8
  let r := x.i.sreg (fld w 20 17)
  let c := x.i.sreg (fld w 16 13)
  match (x.s.drv x.e).slot k with
  | none => x.fail 9
  | some t =>
    if c != (if t.row = some r then t.col else 0) then x.fail 9
    else
      let m := drvMaster x.e
      let vs := (List.range (x.i.eff ty)).map fun j =>
        ({ bits := (x.i.lanes ty (fld w 25 21)).getD j 0, ty := ty,
           draw := if t.sr then draw x.s.seed siteWrite t.tile (r * t.len + c + j) x.s.stepNo else 0 } : HeldVal)
      let q := if t.row = some r then (t, ({ s := x.s } : WOut)) else t.endRow m x.hupd { s := x.s }
      x.wrote k (q.1.putValues m x.hupd r c vs q.2)

def execWrRow (e : Nat) (s : State) : Res := execKernelFn 0x1A 1 e kWrRow s

def kWrClose (w : Nat) (x : Kx) : Kx := x.closeSlot (wSlotNo w)

def execWrClose (e : Nat) (s : State) : Res := execKernelFn 0x1A 2 e kWrClose s

/-- A count of a slot; of a slot that is not open it is a free value (log entry 17). -/
def kWrCount (sel : WSlot → Nat) (w : Nat) (x : Kx) : Kx :=
  match (x.s.drv x.e).slot (wSlotNo w) with
  | some t => x.setS (fld w 7 4) (sel t)
  | none =>
    let v := x.s.takeFree
    ({ x with s := v.2 } : Kx).setS (fld w 7 4) v.1

def execWrSatcnt (e : Nat) (s : State) : Res := execKernelFn 0x1A 3 e (kWrCount WSlot.sat) s
def execWrUnfcnt (e : Nat) (s : State) : Res := execKernelFn 0x1A 4 e (kWrCount WSlot.unf) s

/-- One slot of VOUTL added into o (R243): the cache row is read only where the value is not ±0. -/
def voutlSlot (sa sb : Nat) (p : List Nat × Kx) (ge : Nat) : List Nat × Kx :=
  let xa := sa + 2 * ge
  let ra := sb + 1024 * ge
  if p.2.fault != 0 then p
  else if localSize < xa + 2 then (p.1, p.2.fail 3)
  else
    let q := p.2.readBytes xa 2
    let xv := leNat q.1
    if xv % 32768 = 0 then (p.1, q.2)
    else if localSize < ra + 1024 then (p.1, q.2.fail 3)
    else
      let r := q.2.readBytes ra 1024
      let wide (b : Nat) : Nat := (fp32.round .rne (bf16.decode b)).1
      let os : List (Nat × Cond) := (List.range 512).map fun j =>
        let wv := leAt r.1 (2 * j) 2
        let o := fp32.fma .rne (wide xv) (wide wv) (p.1.getD j 0)
        (o.1, o.2.or (flushOf bf16 [xv, wv]))
      (os.map (·.1), os.foldl (fun (k : Kx) o => k.raise o.2) r.2)

def kVoutl (w : Nat) (x : Kx) : Kx :=
  let sa := x.i.sreg (fld w 20 17)
  let sb := x.i.sreg (fld w 16 13)
  let g := x.i.sreg (fld w 12 9)
  let r := (List.range (min (8 * g) (localSize + 1))).foldl (voutlSlot sa sb) (List.replicate 512 0, x)
  let vd := fld w 25 21
  (List.range 4).foldl (fun (k : Kx) q =>
    { k with i := k.i.setLanes 0 (vd + q) ((r.1.drop (128 * q)).take 128) }) r.2

def execVoutl (e : Nat) (s : State) : Res := execKernelOp 0x1B e kVoutl s

/-- The word address of SLD and SST: signed offset, no wrap. -/
def slAddr (w : Nat) (i : Inv) : Int := (i.sreg (wSA w) : Int) + 4 * imm18 w

def kSld (w : Nat) (x : Kx) : Kx :=
  let a := slAddr w x.i
  if a < 0 then x.fail 3
  else if localFault a.toNat 4 4 != 0 then x.fail (localFault a.toNat 4 4)
  else
    let r := x.readBytes a.toNat 4
    r.2.setS (wSD w) (leNat r.1)

def execSld (e : Nat) (s : State) : Res := execKernelOp 0x23 e kSld s

def kSst (w : Nat) (x : Kx) : Kx :=
  let a := slAddr w x.i
  if a < 0 then x.fail 3
  else if localFault a.toNat 4 4 != 0 then x.fail (localFault a.toNat 4 4)
  else x.writeLocal a.toNat [0] fun _ => x.i.sreg (wSD w)

def execSst (e : Nat) (s : State) : Res := execKernelOp 0x24 e kSst s

/-- The 32 bytes of a finished-tile header (Table 6-6) and of an array-result header (Table 7-11). -/
def TileEnt.flags (e : TileEnt) : Nat := b2n e.last + 2 * b2n e.split + 4 * e.cond

def TileEnt.header (e : TileEnt) : List Byte :=
  leBytes 2 e.t ++ leBytes 1 e.part ++ leBytes 1 e.flags ++ leBytes 2 e.rows ++ leBytes 2 e.cols ++ leBytes 8 e.crc ++
    leBytes 4 e.kernel ++ leBytes 4 e.prod ++ leBytes 8 0

def ArrEnt.header (e : ArrEnt) : List Byte :=
  leBytes 4 e.prod ++ leBytes 2 e.vec ++ leBytes 2 e.cb ++ leBytes 2 e.cols ++ leBytes 2 e.flags ++ leBytes 4 e.kernel ++
    leBytes 8 e.karg ++ leBytes 2 e.layer ++ leBytes 6 0

def Unit_.header : Unit_ → List Byte
  | .tile e => e.header
  | .arr e => e.header
  | .run _ => List.replicate 32 0

/-- TQ HDR (Table 7-3). A word number beyond 7 gives a free value (log entry 17). -/
def kTqHdr (w : Nat) (x : Kx) : Kx :=
  let k := x.i.sreg (wSA w)
  if k < 8 then x.setS (wSD w) (leAt x.i.work.header (4 * k) 4)
  else
    let v := x.s.takeFree
    ({ x with s := v.2 } : Kx).setS (wSD w) v.1

def execTqHdr (e : Nat) (s : State) : Res := execKernelFn 0x30 0 e kTqHdr s

/-- A hold entry in a state, and with a key where one is asked for. -/
def Drv.findHold (d : Drv) (st : Nat) (key : Option Nat) : Option Nat :=
  [0, 1].find? fun h => (d.hold h).st = st && (match key with | some k => (d.hold h).key = k | none => true)

/-- TQ HBIND: the FILLING entry with the key, else a FREE entry, else a wait (Table 7-3). -/
def kTqHbind (w : Nat) (x : Kx) : Kx :=
  let key := x.i.sreg (wSA w)
  let d := x.s.drv x.e
  match d.findHold 1 (some key), d.findHold 0 none with
  | some h, _ => { x with i := { x.i with bound := some (h, false) } }
  | none, some h =>
    { x with s := x.s.updDrv x.e fun d =>
               d.setHold h { d.hold h with st := 1, key := key, target := x.i.sreg (wSB w) % 65536, fill := 0 }
             i := { x.i with bound := some (h, false) } }
  | none, none => { x with wait := true }

def execTqHbind (e : Nat) (s : State) : Res := execKernelFn 0x30 1 e kTqHbind s

/-- TQ HDONE: one more fill; at the target the entry is READY (Table 7-3). -/
def kTqHdone (_ : Nat) (x : Kx) : Kx :=
  match x.i.bound with
  | none => x
  | some b =>
    let upd (h : Hold) : Hold := { h with fill := h.fill + 1, st := if h.target ≤ h.fill + 1 then 2 else h.st }
    { x with s := x.s.updDrv x.e fun d => d.setHold b.1 (upd (d.hold b.1))
             i := { x.i with bound := none } }

def execTqHdone (e : Nat) (s : State) : Res := execKernelFn 0x30 2 e kTqHdone s

/-- TQ HTAKE: the READY entry with the key, else a wait (Table 7-3). -/
def kTqHtake (w : Nat) (x : Kx) : Kx :=
  match (x.s.drv x.e).findHold 2 (some (x.i.sreg (wSA w))) with
  | some h => { x with i := { x.i with bound := some (h, true) } }
  | none => { x with wait := true }

def execTqHtake (e : Nat) (s : State) : Res := execKernelFn 0x30 3 e kTqHtake s

/-- TQ HREL: the bound entry is FREE (Table 7-3). -/
def kTqHrel (_ : Nat) (x : Kx) : Kx :=
  match x.i.bound with
  | none => x
  | some b =>
    { x with s := x.s.updDrv x.e fun d => d.setHold b.1 { d.hold b.1 with st := 0, fill := 0 }
             i := { x.i with bound := none } }

def execTqHrel (e : Nat) (s : State) : Res := execKernelFn 0x30 4 e kTqHrel s

/-- SPUSH waits while the FIFO is full (R244). -/
def kSpush (w : Nat) (x : Kx) : Kx :=
  if 64 ≤ (x.s.drv x.e).fifo.length then { x with wait := true }
  else x.push (x.i.sreg (wSA w)) (x.i.sreg (wSB w))

def execSpush (e : Nat) (s : State) : Res := execKernelOp 0x31 e kSpush s

end Sys2Proof.Machine
end

