-- ==== Sys2Proof/Machine/Drover.lean ====
section
/-! DEFINITION. The drover engines between instructions: the choice of the next unit of work and the start of its kernel
(R215, R216, R254), split partials (R221), time limits (R223, R247), the summary FIFO (R244, R245) and quiescing (R258). -/

namespace Sys2Proof.Machine

/-- The resident-table entry of a kernel. -/
def Drv.find (d : Drv) (id : Nat) : Option Resident := (d.res.map (·.2)).find? (·.id = id)

/-- A kernel is not resident where its invocation would start: the invocation is not started, its entry is released, and the
descriptor fails (R254). -/
def State.refuseInv (s : State) (e src : Nat) (o : Owner) : State :=
  ((s.updDrv e fun d => { d.pop src with rr := if src < 3 then (src + 1) % 3 else d.rr }).failWork o stNotResident).finishWork o

/-- Start a kernel on a unit of work (R216, Table 7-2). -/
def State.startInv (s : State) (e src : Nat) (u : Unit_) (kernel karg : Nat) (args : List Nat) (tile : List Nat) : State :=
  match (s.drv e).find kernel with
  | none => s.refuseInv e src u.own
  | some r =>
    let sregs := padTo 16 0 ([karg % 2 ^ 32, karg / 2 ^ 32 % 2 ^ 32] ++ args)
    s.updDrv e fun d =>
      { d with inv := some { work := u, kernel := kernel,
                             code := (List.range r.words).map fun i => mapGet 0 d.imem (r.ofs + i),
                             ofs := r.ofs, pc := r.entry, s := sregs, src := src, tile := tile } }

def State.startTile (s : State) (e src : Nat) (t : TileEnt) : State :=
  s.startInv e src (.tile { t with data := [] }) t.kernel t.karg
    [t.t + 2 ^ 16 * t.part + 2 ^ 24 * t.flags, t.rows + 2 ^ 16 * t.cols, e, t.prod, 0] t.data

def State.startArr (s : State) (e : Nat) (a : ArrEnt) : State :=
  s.startInv e 2 (.arr { a with data := [] }) a.kernel a.karg
    [a.vec % 2 ^ 16 + 2 ^ 16 * a.cb, a.cols + 2 ^ 16 * a.flags, e, a.prod, a.layer] a.data

def State.startRun (s : State) (e : Nat) (r : RunReq) : State :=
  s.startInv e 3 (.run r) r.kernel r.karg [r.arg0, r.arg1, e, r.count, r.rank] []

/-- The slot that holds or waits for a partial, in either store. -/
def State.partialOf (s : State) (key idx : Nat) : Option TileEnt :=
  ((s.pstore.flatMap (·.2)).find? fun x => x.key = key && x.idx = idx).bind (·.ent)

/-- An entry that must wait at the head of its queue: under recount, or the last of a split tile whose partials are not all in
the store, or are under recount (R221, R469). -/
def State.tileWaits (s : State) (t : TileEnt) : Bool :=
  t.held || (t.split && t.last && (List.range t.part).any fun c =>
    match s.partialOf t.key (t.idx - t.part + c) with
    | some p => p.held
    | none => true)

/-- A built-in routine of PRECOND_STAT or PRECOND_ROOT holds the engine (R330). -/
def State.routineOn (s : State) (e : Nat) : Bool :=
  s.trn.passes.any fun r => 0x2A ≤ r.op && (s.partEngines r.part).contains e

/-- An engine may start an invocation (R215, R258, R330). -/
def State.drvFree (s : State) (e : Nat) : Bool :=
  s.drvServes e && !s.routineOn e && !s.failSafe && !s.bit oDrvCtl 0 && !(s.drv e).test && (s.drv e).inv.isNone

/-- The source the engine takes its next work from: by the round-robin pointer among queue A, queue B and the array results,
and a run request only when all three are empty (R215). -/
def State.nextSource (s : State) (e : Nat) : Option Nat :=
  let d := s.drv e
  let ready (src : Nat) : Bool := match src with
    | 0 => (match d.qa with | t :: _ => !s.tileWaits t | [] => false)
    | 1 => (match d.qb with | t :: _ => !s.tileWaits t | [] => false)
    | _ => d.aq != []
  match ([d.rr, d.rr + 1, d.rr + 2].map (· % 3)).find? ready with
  | some src => some src
  | none => if d.qa = [] && d.qb = [] && d.aq = [] && d.runs != [] then some 3 else none

/-- Add two tiles elementwise (R195). -/
def addTiles (a b : List Nat) : List Nat × Cond :=
  let rs := List.zipWith (fp32.op2 .rne FVal.add) a b
  (rs.map (·.1), rs.foldl (fun (c : Cond) r => c.or r.2) {})

/-- One level of the tree over partials: neighbouring pairs, an odd last one unchanged (R195). -/
def combineLevel : List (List Nat) → List (List Nat) × Cond
  | a :: b :: r =>
    let q := addTiles a b
    let t := combineLevel r
    (q.1 :: t.1, q.2.or t.2)
  | xs => (xs, {})

def combineTree : Nat → List (List Nat) → List Nat × Cond
  | 0, xs => (xs.headD [], {})
  | fuel + 1, xs =>
    match xs with
    | [x] => (x, {})
    | xs =>
      let l := combineLevel xs
      let t := combineTree fuel l.1
      (t.1, l.2.or t.2)

/-- The engine combines a last partial with those in the store, and frees their slots (R221). -/
def State.combine (s : State) (e : Nat) (t : TileEnt) : TileEnt × State :=
  let idxs := (List.range t.part).map fun c => t.idx - t.part + c
  let ps := idxs.filterMap (s.partialOf t.key)
  let r := combineTree 16 (ps.map (·.data) ++ [t.data])
  let s1 := if r.2 = {} then s else s.raiseCond oDrvCtl (drvCondOff e) r.2.bits
  ({ t with data := r.1, cond := ps.foldl (fun c p => c ||| p.cond) (t.cond ||| r.2.bits) },
   { s1 with pstore := s1.pstore.map fun kv => (kv.1, kv.2.filter fun x => !(x.key = t.key && idxs.contains x.idx)) })

/-- The engine's next work where it is a tile whose partials it must combine first, or where it is any other. -/
def State.beginWork (s : State) (e : Nat) (split : Bool) : State :=
  let d := s.drv e
  if !s.drvFree e then s
  else
    let tile (src : Nat) (q : List TileEnt) : State := match q with
      | [] => s
      | t :: _ =>
        if (t.split && t.last) != split then s
        else if split then
          let r := s.combine e t
          r.2.startTile e src r.1
        else s.startTile e src t
    match s.nextSource e with
    | some 0 => tile 0 d.qa
    | some 1 => tile 1 d.qb
    | some 2 => if split then s else (match d.aq with | a :: _ => s.startArr e a | [] => s)
    | some _ => if split then s else (match d.runs with | r :: _ => s.startRun e r | [] => s)
    | none => s

def execInvocationStart (e : Nat) (s : State) : Res := onUnit (drvOk e) (s.beginWork e false)

def execPartialCombine (e : Nat) (s : State) : Res := onUnit (drvOk e) (s.beginWork e true)

/-- The invocation's watchdog expires (R247). -/
def execKernelWatchdog (e : Nat) (s : State) : Res :=
  onUnit (drvOk e) (match (s.drv e).inv with | some i => s.kfault e i 7 | none => s)

/-- The instruction at the program counter is a wait for a hold entry. -/
def Inv.holdWait (i : Inv) : Bool :=
  let w := i.code.getD i.pc 0
  wOp w = 0x30 && (wFN w = 1 || wFN w = 3)

/-- A wait for a hold entry reaches its limit (R223). -/
def execHoldWaitExpiry (e : Nat) (s : State) : Res :=
  onUnit (drvOk e) (match (s.drv e).inv with | some i => if i.holdWait then s.kfault e i 8 else s | none => s)

/-- The oldest record of an engine's FIFO drains into the summary table; one for a pair beyond 4,096 is dropped (R245). -/
def State.drainSummary (s : State) (e : Nat) : State :=
  match (s.drv e).fifo with
  | [] => s
  | r :: rest =>
    let s1 := s.updDrv e fun d => { d with fifo := rest }
    let pairs := (s.trn.summ.map fun x => (x.layer, x.kind)).eraseDups
    if pairs.contains (r.layer, r.kind) || pairs.length < 4096 then s1.updTrn fun t => { t with summ := t.summ ++ [r] }
    else s1.eventF (e / 20) 0x2A 0 1

def execSummaryDrain (e : Nat) (s : State) : Res := onUnit (drvOk e) (if s.failSafe then s else s.drainSummary e)

/-- Every record still in a FIFO reaches the summary table, before a reader of combined values (R245). -/
def State.drainAll (s : State) : State :=
  (List.range 40).foldl (fun t e => (List.range (t.drv e).fifo.length).foldl (fun u _ => u.drainSummary e) t) s

/-- The combined value of a layer and kind: records in ascending sequence number, within one invocation in push order (R245);
none without a record. -/
def combineSumm (kind : Nat) (vs : List Nat) : Nat :=
  match kind / 64 with
  | 0 => vs.foldl addF 0
  | 1 => vs.tail.foldl (fun a b => (redPair 1 a b).1) (fp32.round .rne (fp32.decode (vs.headD 0))).1
  | 2 => vs.tail.foldl (fun a b => (redPair 2 a b).1) (fp32.round .rne (fp32.decode (vs.headD 0))).1
  | _ => vs.foldl (fun a b => min (a + b) (2 ^ 32 - 1)) 0

def State.summary (s : State) (layer kind : Nat) : Option Nat :=
  match (s.trn.summ.filter fun r => r.layer = layer && r.kind = kind).mergeSort fun a b => a.seq ≤ b.seq with
  | [] => none
  | rs => some (combineSumm kind (rs.map (·.val)))

/-- Writing DRV_CTL.QUIESCE (R258). -/
def execDrvQuiesce (master : Nat) (on : Bool) (s : State) : Res :=
  .next (s.guardedWrite master oDrvCtl fun t => t.setFld oDrvCtl 0 0 (b2n on))

end Sys2Proof.Machine
end

