-- ==== Sys2Proof/Machine/Kernels.lean ====
section
/-! DEFINITION. Kernel images and VEC_KERNEL (R252 to R255). -/

namespace Sys2Proof.Machine

/-- Engines a mask names (Table 7-17). -/
def Desc.engines (d : Desc) : List Nat := bitsSet 40 (d.u64 16)
def Desc.kop (d : Desc) : Nat := d.u8 24

/-- Checks of a VEC_KERNEL by its own fields (R255, item 1). -/
def chkVecKernel (d : Desc) : Nat :=
  let load := d.kop = 0 || d.kop = 3
  if 3 < d.kop then stInvalidField
  else if load && (d.u64 32 % 64 != 0 || !localOrHost (d.u64 32) || 16383 < d.u16 26) then stInvalidField
  else 0

/-- A kernel image found in order: its table entry and its words. -/
structure KImage where
  res : Resident
  code : List Nat

/-- Kernel IDs whose images a fold die keeps (R253). -/
def State.foldIds (s : State) (f : Nat) : List Nat := (List.range 32).filterMap fun i =>
  let id := mapGet 0 s.mem.images (32 * f + i)
  if id = 0 then none else some id

/-- The slot of 64 KiB that a fold die keeps an image in, in its 2 MiB region of fold SRAM (Table 10-2; log entry 138). -/
def State.imageSlot (s : State) (f id : Nat) : Option Nat := (List.range 32).find? fun i => mapGet 0 s.mem.images (32 * f + i) = id
def imageAddr (f slot : Nat) : Nat := sramBase f + 0x9800000 + 65536 * slot

/-- A fold die keeps an image. -/
def State.keepImage (s : State) (f id : Nat) (code : List Nat) : State :=
  match (s.imageSlot f id).orElse fun _ => s.imageSlot f 0 with
  | none => s
  | some i =>
    let s1 := { s with mem := { s.mem with images := mapSet 0 s.mem.images (32 * f + i) id } }
    s1.writeMem 0x2000 (imageAddr f i) (padTo (64 * ceilDiv code.length 16) 0 (code.flatMap (leBytes 4)))

/-- The checks of a load, in the order of R255: the status of the first that fails, or the image. -/
def State.readImage (s : State) (c : Nat) (d : Desc) : (Nat ⊕ KImage) × State :=
  let h := s.readRecord (s.ctxWho c) (d.u64 32) 64
  match h.1 with
  | .inl st => (.inl st, h.2)
  | .inr b =>
    let id := leAt b 0 4
    let words := leAt b 8 4
    let entry := leAt b 12 4
    if id = 0 || id = 2 ^ 32 - 1 || leAt b 4 2 != 1 || words = 0 || 16384 < words || words ≤ entry || id != d.u32 28 then
      (.inl stBadImage, h.2)
    else if 16384 < d.u16 26 + words then (.inl stInvalidField, h.2)
    else
      let q := h.2.readRecord (s.ctxWho c) (d.u64 32 + 64) (4 * words)
      match q.1 with
      | .inl st => (.inl st, q.2)
      | .inr code =>
        let full (f : Nat) : Bool := d.engines.any (· / 20 = f) && !(s.foldIds f).contains id && 32 ≤ (s.foldIds f).length
        if crc32 code != leAt b 16 4 then (.inl stBadImage, q.2)
        else if full 0 || full 1 then (.inl stExhausted, q.2)
        else (.inr ⟨⟨id, d.u16 26, words, entry⟩, (List.range words).map fun i => w32At code (4 * i)⟩, q.2)

/-- A load reaches an engine: at once where it runs no invocation, and else when the one it runs has ended (R253). -/
def State.loadEngine (s : State) (e : Nat) (l : PLoad) : State :=
  s.updDrv e fun d => let x : Drv := { d with loads := d.loads ++ [l] }; if d.inv.isNone then x.takeLoads else x

/-- The fold dies of the engines keep the image, and those displaced by it are freed. -/
def State.keepImages (s : State) (es : List Nat) (k : KImage) : State :=
  ([0, 1].filter fun f => es.any (· / 20 = f)).foldl (fun t f => t.keepImage f k.res.id k.code) s.trimImages

/-- The run request of rank r of a descriptor of n engines (Table 7-2). -/
def runReq (o : Owner) (d : Desc) (n r : Nat) : RunReq :=
  { own := o, kernel := d.u32 28, karg := d.u64 40, arg0 := d.u32 48, arg1 := d.u32 52, count := n, rank := r, eval := d.pass }

/-- The run requests of a descriptor; a kernel that a named engine does not hold ends it at once (R254, R255). -/
def State.runKernel (s : State) (c : Nat) (d : Desc) (es : List Nat) : State :=
  if es.any fun e => ((s.drv e).find (d.u32 28)).isNone then s.complete c d.ptr stNotResident
  else
    let o : Owner := ⟨c, d.ptr⟩
    (List.range es.length).foldl (fun t r => t.updDrv (es.getD r 0) fun q => { q with runs := q.runs ++ [runReq o d es.length r] })
      (s.addWork { own := o, op := 0x20, eval := d.pass })

/-- A load, and a load followed by a run (R253, R255): it completes when every named engine holds the kernel, or when every run has
ended. -/
def State.loadKernel (s : State) (run : Bool) (c : Nat) (d : Desc) : State :=
  let es := d.engines
  if es = [] then s.complete c d.ptr stSuccess
  else
    let r := s.readImage c d
    match r.1 with
    | .inl st => r.2.complete c d.ptr st
    | .inr k =>
      let o : Owner := ⟨c, d.ptr⟩
      let load (n : Nat) : PLoad := { own := o, res := k.res, code := k.code, run := if run then some (runReq o d es.length n) else none }
      let t := (List.range es.length).foldl (fun u n => u.loadEngine (es.getD n 0) (load n))
        (r.2.addWork { own := o, op := 0x20, eval := d.pass })
      (t.keepImages es k).finishWork o

/-- Unload a kernel from the named engines. -/
def State.unloadKernel (s : State) (c : Nat) (d : Desc) : State :=
  (d.engines.foldl (fun t e => t.updDrv e fun q => { q with res := q.res.filter fun r => r.2.id != d.u32 28 }) s).trimImages.complete
    c d.ptr stSuccess

/-- A VEC_KERNEL descriptor with an operation of its body. -/
def State.runKop (s : State) (c n op : Nat) (f : Desc → State → State) : State :=
  s.runDesc c n 0x20 fun d t => if d.kop = op then f d t else t

def execVecKernelLoad (c n : Nat) (s : State) : Res :=
  onUnit (ctxOk c) (s.runKop c n 0 fun d t => t.loadKernel false c d)

def execVecKernelRun (c n : Nat) (s : State) : Res :=
  onUnit (ctxOk c) (s.runKop c n 1 fun d t =>
    if d.engines = [] then t.complete c d.ptr stSuccess else t.runKernel c d d.engines)

def execVecKernelUnload (c n : Nat) (s : State) : Res :=
  onUnit (ctxOk c) (s.runKop c n 2 fun d t => t.unloadKernel c d)

def execVecKernelLoadRun (c n : Nat) (s : State) : Res :=
  onUnit (ctxOk c) (s.runKop c n 3 fun d t => t.loadKernel true c d)

end Sys2Proof.Machine
end

