-- ==== Sys2Proof/Machine/Rs.lean ====
section
/-! DEFINITION. The frame code of R410 and R412: CRC-32C, and RS(128,124) over GF(2^8) with generator roots α^0 to α^3. The
first symbol of a codeword is its highest power (DEDUCED, log entry 18). -/

namespace Sys2Proof.Machine

/-- Multiplication by α modulo x^8 + x^4 + x^3 + x^2 + 1. -/
def gfX (a : Nat) : Nat := if a < 128 then 2 * a else (2 * a) ^^^ 0x11D

/-- Product of two field elements. -/
def gfMul (a b : Nat) : Nat :=
  (List.range 8).reverse.foldl (fun r i => if b.testBit i then gfX r ^^^ a else gfX r) 0

def gfPow (a : Nat) : Nat → Nat
  | 0 => 1
  | n + 1 => gfMul a (gfPow a n)

def gfInv (a : Nat) : Nat := gfPow a 254
def gfDiv (a b : Nat) : Nat := gfMul a (gfInv b)

/-- α^n. -/
def gfExp : Nat → Nat
  | 0 => 1
  | n + 1 => gfX (gfExp n)

/-- A word as a polynomial, highest power first, at a point. -/
def polyAt (x : Nat) (ws : List Nat) : Nat := ws.foldl (fun a w => gfMul a x ^^^ w) 0

/-- The generator's coefficients below x^4, highest first: the product of x − α^i for i = 0 to 3. -/
def rsGen : List Nat :=
  ((List.range 4).foldl (fun g i =>
    List.zipWith (· ^^^ ·) (g ++ [0]) (0 :: g.map (gfMul (gfExp i)))) [1]).tail

/-- The four parity symbols of 124 data symbols. -/
def rsParity (ws : List Nat) : List Nat :=
  ws.foldl (fun (r : List Nat) w =>
    let f := w ^^^ r.headD 0
    List.zipWith (· ^^^ ·) (r.tail ++ [0]) (rsGen.map (gfMul f))) [0, 0, 0, 0]

/-- Change the symbol at a power of a 128-symbol word. -/
def rsFix (ws : List Nat) (pw e : Nat) : List Nat := listSet ws (127 - pw) ((ws.getD (127 - pw) 0) ^^^ e)

/-- Correct up to 2 symbols: the word and the positions corrected, or none where it cannot be corrected. -/
def rsDecode (ws : List Nat) : Option (List Nat × List Nat) :=
  let s (i : Nat) : Nat := polyAt (gfExp i) ws
  let s0 := s 0
  let s1 := s 1
  let s2 := s 2
  let s3 := s 3
  if s0 = 0 && s1 = 0 && s2 = 0 && s3 = 0 then some (ws, [])
  else
    let d := gfMul s0 s2 ^^^ gfMul s1 s1
    if d = 0 then
      if s0 = 0 then none
      else
        let x := gfDiv s1 s0
        match (List.range 128).find? fun p => gfExp p = x with
        | some p => if s2 = gfMul s1 x && s3 = gfMul s2 x then some (rsFix ws p s0, [127 - p]) else none
        | none => none
    else
      let a := gfDiv (gfMul s0 s3 ^^^ gfMul s1 s2) d
      let b := gfDiv (gfMul s1 s3 ^^^ gfMul s2 s2) d
      match (List.range 128).filter fun p => gfMul (gfExp p) (gfExp p) ^^^ gfMul a (gfExp p) ^^^ b = 0 with
      | [p, q] =>
        let x := gfExp p
        let y := gfExp q
        let f := gfDiv (s1 ^^^ gfMul s0 x) (x ^^^ y)
        some (rsFix (rsFix ws q f) p (s0 ^^^ f), [127 - p, 127 - q])
      | _ => none

/-- CRC-32C (Table 12-2). -/
def crc32c (bs : List Byte) : Nat := crcRefl 32 0x1EDC6F41 bs

/-- Every second byte of a frame. -/
def everySecond (c : Nat) (ws : List Nat) : List Nat := (List.range (ws.length / 2)).map fun j => ws.getD (2 * j + c) 0

/-- A 256-byte frame from its header word and payload (Table 12-2). -/
def mkFrame (hdr : Nat) (payload : List Byte) : List Byte :=
  let b := leBytes 4 hdr ++ padTo 240 0 (payload.take 240)
  let f := b ++ leBytes 4 (crc32c b)
  let ws := f.map (·.toNat)
  let p0 := rsParity (everySecond 0 ws)
  let p1 := rsParity (everySecond 1 ws)
  f ++ (List.range 4).flatMap fun j => [BitVec.ofNat 8 (p0.getD j 0), BitVec.ofNat 8 (p1.getD j 0)]

/-- Decode a received frame: its first 244 bytes and the frame bytes corrected, or none for a frame error (R412). -/
def readFrame (bs : List Byte) : Option (List Byte × List Nat) :=
  let ws := padTo 256 0 ((bs.take 256).map (·.toNat))
  match rsDecode (everySecond 0 ws), rsDecode (everySecond 1 ws) with
  | some a, some b =>
    let f := (List.zipWith (fun x y => [x, y]) a.1 b.1).flatten.map (BitVec.ofNat 8)
    if crc32c (f.take 244) = leAt f 244 4 then some (f.take 244, a.2.map (2 * ·) ++ b.2.map (2 * · + 1)) else none
  | _, _ => none

end Sys2Proof.Machine
end

