-- ==== Sys2Proof/Machine/Links.lean ====
section
/-! DEFINITION. The Cleyn ports: states and bring-up (R413 to R415), identity and the wiring map (R416 to R420), generation
(R421), frames and retry (R410 to R412, R422 to R424), lanes (R425, R426), FENCE and loss of signal (R427 to R431). -/

namespace Sys2Proof.Machine

def portOk (p : Nat) : Bool := p < 12

def oPortCtl (p : Nat) : Nat := 0x1801000 + 0x100 * p
def oPortStat (p : Nat) : Nat := oPortCtl p + 4
def oWmap (p : Nat) : Nat := oPortCtl p + 8
def oPeerPos (p : Nat) : Nat := oPortCtl p + 0x14
def oPortErr (p : Nat) : Nat := oPortCtl p + 0x18
def oLane (p i : Nat) : Nat := oPortCtl p + 0x20 + 4 * i
def oLinkCtl : Nat := 0x1800008

def State.lport (s : State) (p : Nat) : Lport := mapGet {} s.fab.ports p
def State.updFab (s : State) (f : Fab → Fab) : State := { s with fab := f s.fab }
def State.updPort_ (s : State) (p : Nat) (f : Lport → Lport) : State :=
  s.updFab fun x => { x with ports := mapUpd {} x.ports p f }

/-- The state of a port (Table 12-3). -/
def State.pstate (s : State) (p : Nat) : Nat := s.fld (oPortStat p) 31 28
def State.setPstate (s : State) (p st : Nat) : State := s.setFld (oPortStat p) 31 28 st

/-- Fold die of a port and its instance on that die (Table 1-2). -/
def portDie (p : Nat) : Nat := if [0, 1, 2, 6, 7, 10].contains p then 0 else 1
def portInst (p : Nat) : Nat := ([0, 1, 2, 6, 7, 10, 3, 4, 5, 8, 9, 11].idxOf p) % 6
def State.eventPort (s : State) (p src n : Nat) : State := s.eventF (portDie p) src (portInst p) n

/-- The serial-link firmware of a fold die runs: loaded at start (R413), and not being loaded again, which is one fold die at a time in
ascending order (R432, Table 16-9). -/
def State.linkFw (s : State) (f : Nat) : Bool :=
  3 ≤ s.bootState && !(match s.boot.load with
    | some l => l.type = 6 && l.running && (bitsSet 2 l.units).head? = some f
    | none => false)

/-- Lanes of a port, each as a bit, that a predicate selects. -/
def laneMask (f : Nat → Bool) : Nat := (((List.range 8).filter f).map (2 ^ ·)).foldl (· + ·) 0

/-- A ring stream stops (R456): its records that wait for a ring step do not run, and its descriptor completes with TIMEOUT, which the spec
leaves open (log entry 171). -/
def State.stopStream (s : State) (o : Owner) : State :=
  let s1 := s.updFab fun f => { f with streams := f.streams.filter (·.own != o) }
  let s2 := s1.updTrn fun t => { t with prods := t.prods.filter fun q => q.own != o || q.ring = none }
  (s2.failWork o stTimeout).finishWork o

/-- A port leaves ACTIVE: the ring streams whose blocks use it stop (R456). -/
def State.leavePort (s : State) (p : Nat) : State :=
  (s.fab.streams.filter fun x => x.ports.contains p && x.unfinished).foldl (fun t x => t.stopStream x.own) s

/-- The replay buffer, a partial frame and what has not been delivered are discarded, frames counted (R424, R428). -/
def State.discardFrames (s : State) (p : Nat) : State :=
  ((s.leavePort p).updPort_ p fun x => { x with replay := [], asm := [], nak := false, resends := 0 }).eventPort p 0x65
    (s.lport p).replay.length

/-- Something waits at a port for the firmware of its fold die (R432). -/
def State.owe (s : State) (p v : Nat) : State := s.updPort_ p fun x => { x with owes := max x.owes v }

/-- A full bring-up starts from DETECT (R415). It waits while the firmware of the fold die reloads (R432). -/
def State.startDetect (s : State) (p : Nat) : State :=
  if !s.linkFw (portDie p) then s.owe p 2
  else
    let s1 := s.discardFrames p
    let s2 := s1.updPort_ p fun x =>
      { x with trained := 0, txLanes := 0, failed := false, peer := none, seenGot := false, txSeq := 0, rxSeq := 0,
               phase := 0, used := [], owes := 0, shareN := 0, shareT := 0,
               sendq := x.sendq.filter fun q => leAt q 1 1 != 10 }
    (s2.setReg (oPortStat p) (BitVec.ofNat 32 (2 * 2 ^ 28))).clrBit (oPeerPos p) 31

/-- DOWN, with its fault record (R415, R426). -/
def State.portDown (s : State) (p : Nat) : State :=
  let s1 := (s.discardFrames p).setReg (oPortStat p) (BitVec.ofNat 32 (11 * 2 ^ 28))
  s1.raiseFault 1 0x0102 (p * 16) []

/-- The state a port takes from HOLD and DISABLED, and back into DISABLED, from EN, WIRED and FAB_SELF.VALID (R413). -/
def State.settlePort (s : State) (p : Nat) : State :=
  let on := s.bit (oPortCtl p) 31 && s.bit (oWmap p) 31
  let st := s.pstate p
  if st = 0 then
    if s.linkFw (portDie p) && s.bit oSelf 31 then (if on then s.startDetect p else s.setPstate p 1) else s
  else if st = 9 then s
  else if !on then (if st = 1 then s else (s.discardFrames p).setReg (oPortStat p) (BitVec.ofNat 32 (1 * 2 ^ 28)))
  else if st = 1 then s.startDetect p
  else s

/-- Signal appears on receive lanes (R413, R428): a port in PEER_FENCED starts from DETECT, one in DETECT enters TRAIN. -/
def State.signalDetect (s : State) (p lanes : Nat) : State :=
  let s1 := s.updPort_ p fun x => { x with sig := (x.sig ||| lanes) % 256 }
  let enough := 4 ≤ popcount 8 (s1.lport p).sig
  if !enough || (s1.lport p).failed || !s1.linkFw (portDie p) then s1
  else if s1.pstate p = 10 then s1.startDetect p
  else if s1.pstate p = 2 then s1.setPstate p 3
  else s1

def execSignalDetect (p lanes : Nat) (s : State) : Res := onUnit (portOk p) (s.signalDetect p lanes)

/-- A port whose frames run: ACTIVE and QUARANTINE. -/
def State.portUp (s : State) (p : Nat) : Bool := s.pstate p = 6 || s.pstate p = 8

/-- RECOVER begins (R424); it waits while the firmware of the fold die reloads (R432). -/
def State.recover (s : State) (p : Nat) : State :=
  if !s.portUp p then s
  else if !s.linkFw (portDie p) then s.owe p 1
  else ((s.leavePort p).setPstate p 7).satAdd (oPortErr p) 15 8 1

/-- Retire a receive lane (R425): a port that is up applies it through RECOVER. -/
def State.retireLane (s : State) (p i : Nat) : State :=
  if s.bit (oLane p i) 31 then s
  else
    let s1 := (s.setBit (oLane p i) 31).raiseFault 2 0x0101 (p * 16 + i) []
    s1.recover p

/-- A lane failed training in this bring-up; a second time in a row retires it (R425). -/
def State.trainFail (s : State) (p i : Nat) : State :=
  if (s.lport p).wasFail.testBit i then s.retireLane p i else s.setBit (oLane p i) 30

/-- A failed attempt: the port pauses before it tries again, and after 8 in a row it is DOWN (R415). -/
def State.failAttempt (s : State) (p : Nat) : State :=
  if 7 ≤ (s.lport p).attempts then (s.updPort_ p fun x => { x with attempts := 0, failed := false }).portDown p
  else s.updPort_ p fun x => { x with attempts := x.attempts + 1, failed := true }

/-- Training ends with a set of equalised lanes and the peer lane that each carries (R408, R413, R415). -/
def State.trained (s : State) (p ok : Nat) (peer : List Nat) (timeout : Bool) : State :=
  let x := s.lport p
  let good := laneMask fun i => x.sig.testBit i && ok.testBit i
  if s.pstate p != 3 || x.failed || !s.linkFw (portDie p) || (!timeout && good != x.sig) then s
  else
    let s1 := (List.range 8).foldl (fun t i =>
      if good.testBit i then (t.setFld (oLane p i) 26 24 (peer.getD i i)).clrBit (oLane p i) 30
      else if x.sig.testBit i then t.trainFail p i else t) (s.updPort_ p fun y => { y with wasFail := laneMask fun i => s.bit (oLane p i) 30 })
    let s2 := s1.updPort_ p fun y => { y with trained := good }
    if 4 ≤ popcount 8 good then s2.setPstate p 4 else s2.failAttempt p

/-- Every lane that shows signal is equalised. -/
def execTrainDone (p : Nat) (peer : List Nat) (s : State) : Res := onUnit (portOk p) (s.trained p 255 peer false)

/-- TRAIN exceeds 50 ms with the lanes of ok equalised (R415). -/
def execTrainTimeout (p ok : Nat) (peer : List Nat) (s : State) : Res := onUnit (portOk p) (s.trained p ok peer true)

/-- Receive lanes that may carry frames, by ascending peer transmit lane (R414). -/
def State.goodLanes (s : State) (p : Nat) : List Nat :=
  let x := s.lport p
  let ok (i : Nat) : Bool := x.trained.testBit i && x.sig.testBit i && !s.bit (oLane p i) 31 && !(s.fld (oPortCtl p) 15 8).testBit i
  (List.range 8).flatMap fun t => (List.range 8).filter fun i => ok i && s.fld (oLane p i) 26 24 = t

/-- The width of two counts of good lanes: the largest of 8, 6 and 4 that neither falls below, 0 for none (R414). -/
def widthOf (a b : Nat) : Nat :=
  let n := min a b
  if 8 ≤ n then 8 else if 6 ≤ n then 6 else if 4 ≤ n then 4 else 0

/-- ALIGN with the peer's good-lane mask, in this end's transmit lane numbers (R414); none where the port goes DOWN. -/
def State.align (s : State) (p mask : Nat) : Option State :=
  let mine := s.goodLanes p
  let w := widthOf mine.length (popcount 8 mask)
  if w = 0 then none
  else
    let rx := mine.take w
    let s1 := (s.setFld (oPortStat p) 23 16 (laneMask rx.contains)).setFld (oPortStat p) 15 12 w
    some (s1.updPort_ p fun x =>
      { x with txLanes := laneMask fun i => ((bitsSet 8 mask).take w).contains i, phase := 0 })

/-- The peer's mask arrives in ALIGN. Lanes whose skew exceeds 10 ns count as lanes that fail training (R408). -/
def State.alignMask (s : State) (p mask skew : Nat) : State :=
  if s.pstate p != 4 || (s.lport p).failed || !s.linkFw (portDie p) then s
  else
    let s1 := (bitsSet 8 skew).foldl (fun t i =>
      (t.trainFail p i).updPort_ p fun x => { x with trained := laneMask fun j => x.trained.testBit j && j != i }) s
    match s1.align p mask with
    | none => s1.portDown p
    | some t => t.setPstate p 5

def execAlignMask (p mask skew : Nat) (s : State) : Res := onUnit (portOk p) (s.alignMask p mask skew)

/-- A bring-up state exceeds its limit (Table 12-4). -/
def State.bringTimeout (s : State) (p st : Nat) : State :=
  if s.pstate p = st && !(s.lport p).failed && s.linkFw (portDie p) then s.failAttempt p else s

def execAlignTimeout (p : Nat) (s : State) : Res := onUnit (portOk p) (s.bringTimeout p 4)
def execIdentTimeout (p : Nat) (s : State) : Res := onUnit (portOk p) (s.bringTimeout p 5)

/-- The pause after a failed attempt ends: DETECT again (R415). -/
def State.bringRetry (s : State) (p : Nat) : State := if (s.lport p).failed then s.startDetect p else s

def execBringupRetry (p : Nat) (s : State) : Res := onUnit (portOk p) (s.bringRetry p)

/-- The module's enabled generations (R421). -/
def State.genMask (s : State) : Nat := if s.fld oLinkCtl 23 16 &&& 1 = 0 then 1 else s.fld oLinkCtl 23 16 &&& 1

/-- The identity record this end sends (Table 12-5). -/
def State.identity (s : State) (p : Nat) : List Byte :=
  let b := leBytes 1 1 ++ leBytes 1 p ++ leBytes 2 (s.fld oSelf 29 14) ++ leBytes 4 (s.fld oSelf 13 0) ++
    leBytes 8 Config.serial ++ leBytes 2 s.genMask ++
    leBytes 1 (b2n (s.lport p).peer.isSome + 2 * b2n (s.pstate p = 8)) ++ leBytes 1 0 ++ leBytes 4 3 ++ leBytes 36 0
  b ++ leBytes 4 (crc32 b)

/-- The header word of a frame: sequence, acknowledgement of the last frame in order, type and NAK (Table 12-2). -/
def State.frameHdr (s : State) (p seq type : Nat) (nak : Bool) : Nat :=
  2 ^ 20 * (seq % 4096) + ((s.lport p).rxSeq + 4095) % 4096 * 2 ^ 8 + type * 2 ^ 5 + 16 * b2n nak

/-- Put a frame on the line. -/
def State.putFrame (s : State) (p seq type : Nat) (nak : Bool) (payload : List Byte) : State :=
  s.emit (.line p 0 ((mkFrame (s.frameHdr p seq type nak) payload).map (·.toNat)))

def execIdentitySend (p : Nat) (s : State) : Res :=
  onUnit (portOk p) (if s.pstate p = 5 || s.pstate p = 8 then s.putFrame p 0 2 false (s.identity p) else s)

/-- The reason the first failing check of Table 12-6 gives, 0 where all pass. -/
def State.quarReason (s : State) (p : Nat) (r : List Byte) : Nat :=
  let w := oWmap p
  let flock := leAt r 4 4 / 64 % 256
  let any := s.bit w 30
  if leAt r 8 8 = Config.serial % 2 ^ 64 then 4
  else if leAt r 4 4 % 64 != s.fld w 17 12 || (!any && flock != s.fld w 25 18) then 1
  else if any && flock = s.fld oSelf 13 6 then 3
  else if leAt r 1 1 % 16 != s.fld w 3 0 then 2
  else if s.genMask &&& leAt r 16 2 = 0 then 5
  else if (leAt r 18 1).testBit 1 then 6
  else 0

/-- Apply the checks to the last record received: ACTIVE, or QUARANTINE with its reason and record (R417, R418). -/
def State.identCheck (s : State) (p : Nat) (r : List Byte) : State :=
  let q := s.quarReason p r
  let gen := s.genMask &&& leAt r 16 2
  let s1 := (s.setFld (oPortStat p) 27 24 q).setFld (oPortStat p) 11 8 (if gen = 0 then 0 else gen.log2 + 1)
  let s2 := s1.updPort_ p fun x => { x with attempts := 0 }
  if q = 0 then
    let d := if p < 6 then p else if p < 10 then p - 6 else p
    (s2.setPstate p 6).updFab fun f => { f with unroutable := f.unroutable &&& ((2 ^ 12 - 1) ^^^ 2 ^ d) }
  else if s.pstate p = 8 then s2
  else ((s2.leavePort p).setPstate p 8).raiseFault 0 0x0103 (p * 16) (q :: (List.range 16).map fun i => w32At r (4 * i))

/-- Keep the peer's valid record and report it (R416, R420). -/
def State.keepRecord (s : State) (p : Nat) (r : List Byte) : State :=
  let pos := 2 ^ 31 + 2 ^ 20 * (leAt r 4 4 / 64 % 256) + leAt r 4 4 % 64 * 2 ^ 14 + leAt r 1 1 % 16 * 2 ^ 10 + leAt r 16 1
  let s1 := ((s.setReg (oPortCtl p + 0xC) (BitVec.ofNat 32 (leAt r 8 4))).setReg (oPortCtl p + 0x10)
    (BitVec.ofNat 32 (leAt r 12 4))).setReg (oPeerPos p) (BitVec.ofNat 32 pos)
  let s2 := s1.updPort_ p fun x => { x with peer := some r, seenGot := x.seenGot || (leAt r 18 1).testBit 0 }
  if leAt r 2 2 != s.fld oSelf 29 14 && !s.bit (oPortStat p) 7 then
    (s2.setBit (oPortStat p) 7).raiseFault 0 0x0105 (p * 16) [leAt r 2 2]
  else s2

/-- A record is valid when its CRC is correct and its version is 1 or higher (R416). -/
def recordValid (r : List Byte) : Bool := r.length = 64 && crc32 (r.take 60) = leAt r 60 4 && leAt r 0 1 != 0

/-- A peer record arrives. The port leaves IDENT once it holds a valid record and has received one with GOT set. -/
def State.identRecord (s : State) (p : Nat) (r : List Byte) : State :=
  if !recordValid r || !(s.pstate p = 5 || s.portUp p) || (s.lport p).failed then s
  else
    let t := s.keepRecord p r
    if t.pstate p = 5 && (t.lport p).seenGot && t.linkFw (portDie p) then t.identCheck p r else t

def execIdentityRecord (p : Nat) (r : List Byte) (s : State) : Res := onUnit (portOk p) (s.identRecord p r)

/-- The re-check of R419 at a configuration commit, and the states that FAB_SELF and WIRED decide. -/
def State.portsCommit (s : State) : State :=
  (List.range 12).foldl (fun t p =>
    let u := t.settlePort p
    if u.portUp p then (match (u.lport p).peer with | some r => u.identCheck p r | none => u) else u) s

/-- Writing FAB_PORT_CTL.RETRAIN (R433). -/
def State.retrain (s : State) (p : Nat) : State :=
  if s.pstate p ≤ 1 || s.pstate p = 9 || s.pstate p = 10 then s
  else (s.updPort_ p fun x => { x with attempts := 0 }).startDetect p

def execPortRetrain (master p : Nat) (s : State) : Res :=
  onUnit (portOk p) (s.guardedWrite master (oPortCtl p) fun t => t.retrain p)

/-- Writing FAB_PORT_CTL.LANE_CLR clears the retired lanes and starts a full bring-up (Table 12-12). -/
def execPortLaneClr (master p : Nat) (s : State) : Res :=
  onUnit (portOk p) (s.guardedWrite master (oPortCtl p) fun t =>
    ((List.range 8).foldl (fun u i => u.clrBit (oLane p i) 31) t).retrain p)

/-- Resend every buffered frame, in order (R423). -/
def State.resendAll (s : State) (p : Nat) : State :=
  (s.lport p).replay.foldl (fun t r => t.putFrame p r.1 0 false r.2) s

/-- One resend of the buffer; REPLAY_MAX in a row without progress lead to RECOVER (R423, R424). -/
def State.replay (s : State) (p : Nat) : State :=
  if (s.lport p).replay = [] then s
  else
    let n := (s.lport p).resends + 1
    let s1 := ((s.updPort_ p fun x => { x with resends := n }).satAdd (oPortErr p) 31 16 1).eventPort p 0x63 1
    let s2 := s1.resendAll p
    if max (s.fld oLinkCtl 15 8) 1 ≤ n then s2.recover p else s2

def execAckTimeout (p : Nat) (s : State) : Res := onUnit (portOk p) (if s.portUp p then s.replay p else s)

/-- The awaited frame has not arrived within ACK_TMO: a further NAK (R423). -/
def execNakResendTimeout (p : Nat) (s : State) : Res :=
  onUnit (portOk p) (if s.portUp p && (s.lport p).nak then s.putFrame p 0 1 true [] else s)

/-- Bytes of a packet at the front of received payload; none while it is not whole (R441). -/
def nextPacket (bs : List Byte) : Option (List Byte × List Byte) :=
  let n := 32 + 32 * (leAt bs 2 1 % 16)
  if bs.length < n then none else some (bs.take n, bs.drop n)

/-- Cut received payload into packets: byte 0 of zero is padding to the end of the frame. Answers the packets and the rest. -/
def cutPackets : Nat → List Byte → List (List Byte) × List Byte
  | 0, bs => ([], bs)
  | fuel + 1, bs =>
    match bs with
    | [] => ([], [])
    | b :: _ =>
      if b = 0 then ([], [])
      else
        match nextPacket bs with
        | none => ([], bs)
        | some (q, r) =>
          let t := cutPackets fuel r
          (q :: t.1, t.2)

/-- Packets of classes other than MGMT that a port in QUARANTINE receives are dropped (R418). -/
def pktVc (q : List Byte) : Nat := fld (leAt q 0 1) 7 5
def pktOp (q : List Byte) : Nat := leAt q 1 1

/-- A data frame accepted in order delivers its payload. -/
def State.acceptFrame (s : State) (p : Nat) (payload : List Byte) : State :=
  let x := s.lport p
  let c := cutPackets 300 (x.asm ++ payload)
  let keep := if s.pstate p = 8 then c.1.filter fun q => pktVc q = 4 else c.1
  (s.updPort_ p fun y => { y with asm := c.2, rxq := y.rxq ++ keep, rxSeq := (y.rxSeq + 1) % 4096, nak := false }).eventPort
    p 0x64 (c.1.length - keep.length)

/-- Process ACK and NAK of a frame (R422, R423). -/
def State.takeAck (s : State) (p ack : Nat) (nak : Bool) : State :=
  let x := s.lport p
  let s1 := if x.replay.any (·.1 = ack) then
      s.updPort_ p fun y => { y with replay := (y.replay.dropWhile (·.1 != ack)).drop 1, resends := 0 }
    else s
  if nak then s1.replay p else s1

/-- Count corrected symbols against the lanes that carried their bytes (R411, R412), and retire a lane that reaches its
threshold (R425). -/
def State.countSymbols (s : State) (p : Nat) (fixed : List Nat) : State :=
  let lanes := s.goodLanes p |>.filter fun i => (s.fld (oPortStat p) 23 16).testBit i
  let ph := (s.lport p).phase
  (fixed.foldl (fun t b =>
    match lanes[(ph + b) % max lanes.length 1]? with
    | none => t
    | some i =>
      let r := ((t.satAdd (oLane p i) 23 0 1).eventPort p 0x62 1).threshold 1 (p * 16 + i) 1
      if r.1 then r.2.retireLane p i else r.2) s).updPort_ p fun x => { x with phase := (x.phase + 256) % max lanes.length 1 }

/-- A frame error (R412): counted; at the threshold a full bring-up, and at the next one DOWN (Table 14-4). -/
def State.frameError (s : State) (p : Nat) : State :=
  let r := (s.eventPort p 0x61 1).threshold 2 p 1
  if !r.1 then r.2
  else
    let q := r.2.threshold 3 p 1
    if q.1 then q.2.portDown p else q.2.startDetect p

/-- A frame that cannot be taken: the NAK goes out once (R423). -/
def State.sendNak (s : State) (p : Nat) : State :=
  if (s.lport p).nak || !s.portUp p then s
  else (s.updPort_ p fun x => { x with nak := true }).putFrame p 0 1 true []

/-- A frame arrives: corrected, checked, and its data accepted in order (R412, R422, R423). -/
def State.frameIn (s : State) (p : Nat) (bs : List Byte) : State :=
  if !s.portUp p then s
  else
    match readFrame bs with
    | none =>
      let t := (s.updPort_ p fun x => { x with phase := (x.phase + 256) % max (s.fld (oPortStat p) 15 12) 1 }).frameError p
      t.sendNak p
    | some (f, fixed) =>
      let h := leAt f 0 4
      let s1 := s.countSymbols p fixed
      let s2 := s1.takeAck p (Machine.fld h 19 8) (h.testBit 4)
      if Machine.fld h 7 5 != 0 then s2
      else if Machine.fld h 31 20 = (s2.lport p).rxSeq then (s2.acceptFrame p (f.drop 4)).putFrame p 0 1 false []
      else s2.sendNak p

/-- Class of a packet's receive buffer (Table 13-3, R443): channel, ring data, hop class, and the half above the dateline. -/
def pktClass (p : Nat) (q : List Byte) : Nat :=
  let b := leAt q 0 1
  pktVc q + 8 * b2n (pktOp q = 7) + 16 * fld b 3 2 + 64 * b2n (b.testBit 1 && 10 ≤ p)

/-- Bytes of a class's part of its buffer. -/
def classRoom (p cls : Nat) : Nat :=
  let whole := if cls.testBit 3 then 131072 else match cls % 8 with
    | 3 => 65536
    | 4 => 2048
    | _ => 16384
  if cls % 8 = 4 || cls.testBit 3 then whole else if 10 ≤ p then whole / 8 else whole / 4

/-- Put packet bytes into data frames, which stay in the replay buffer until acknowledged (R410, R422). -/
def State.sendFrames (s : State) (p : Nat) (bs : List Byte) : State :=
  (List.range (ceilDiv bs.length 240)).foldl (fun t i =>
    let pay := (bs.drop (240 * i)).take 240
    let n := (t.lport p).txSeq
    let k := ((t.lport p).shareN + 1) % 64
    let tr := if pktVc bs = 5 then pay.length else 0
    ((t.updPort_ p fun x => { x with txSeq := (n + 1) % 4096, replay := x.replay ++ [(n, pay)], shareN := k,
                                     shareT := if k = 0 then 0 else x.shareT + tr }).putFrame p n 0 false pay).eventPort
      p 0x60 1) s

/-- The first waiting packet that may go: none of its class waits before it, the peer has room for it, and the replay buffer
has; management packets first. While packets of other channels wait, TRANSIT gets an eighth of the payload of 64 frames (R442, R444). -/
def State.nextToSend (s : State) (p : Nat) : Option (List Byte) :=
  let x := s.lport p
  let alone := x.sendq.all fun q => pktVc q = 5
  let ok (q : List Byte) : Bool :=
    let c := pktClass p q
    (pktVc q != 5 || alone || decide (x.shareT + q.length ≤ 64 * 240 / 8)) &&
    !(x.sendq.takeWhile (· != q)).any (fun r => pktClass p r = c) &&
    (pktOp q = 10 || mapGet 0 x.used c + q.length ≤ classRoom p c) &&
    x.replay.length + ceilDiv q.length 240 ≤ 1024 && (s.pstate p = 6 || pktVc q = 4)
  (x.sendq.filter fun q => pktVc q = 4 && ok q).head?.orElse fun _ => x.sendq.find? ok

/-- Send what waits at a port while it may go. -/
def State.pumpPort (s : State) (p : Nat) : Nat → State
  | 0 => s
  | fuel + 1 =>
    if !s.portUp p then s
    else
      match s.nextToSend p with
      | none => s
      | some q =>
        let c := pktClass p q
        let s1 := s.updPort_ p fun x =>
          { x with sendq := x.sendq.erase q, used := if pktOp q = 10 then x.used else mapUpd 0 x.used c (· + q.length) }
        ((s1.sendFrames p q).eventPort p 0x66 (leAt q 2 1 % 16)).pumpPort p fuel

/-- Hand a packet to a port. -/
def State.queuePacket (s : State) (p : Nat) (q : List Byte) : State :=
  (s.updPort_ p fun x => { x with sendq := x.sendq ++ [q] }).pumpPort p 1

def State.pumpAll (s : State) (p : Nat) : State := s.pumpPort p ((s.lport p).sendq.length + 1)

def execFrameReceive (p : Nat) (bs : List Byte) (s : State) : Res := onUnit (portOk p) ((s.frameIn p bs).pumpAll p)

/-- RECOVER ends with the peer's mask: the port resumes and resends from ACK + 1 (R424). -/
def State.recovered (s : State) (p mask : Nat) : State :=
  if s.pstate p != 7 || !s.linkFw (portDie p) then s
  else
    match s.align p mask with
    | none => s.portDown p
    | some t =>
      let u := t.setPstate p (if t.fld (oPortStat p) 27 24 = 0 then 6 else 8)
      ((u.updPort_ p fun x => { x with resends := 0 }).resendAll p).pumpAll p

def execRecoverDone (p mask : Nat) (s : State) : Res := onUnit (portOk p) (s.recovered p mask)

def execRecoverTimeout (p : Nat) (s : State) : Res :=
  onUnit (portOk p) (if s.pstate p = 7 then s.startDetect p else s)

/-- One SKIP block on every active lane (R409). -/
def execSkipSend (p : Nat) (s : State) : Res :=
  onUnit (portOk p) (if s.portUp p then s.emit (.line p 1 (bitsSet 8 (s.lport p).txLanes)) else s)

/-- Signal is lost on receive lanes (R425, R426, R429). -/
def State.lossOfSignal (s : State) (p lanes : Nat) : State :=
  let lost := bitsSet 8 (lanes &&& (s.lport p).sig)
  let s1 := s.updPort_ p fun x => { x with sig := laneMask fun i => x.sig.testBit i && !lost.contains i }
  let up := 3 ≤ s.pstate p && s.pstate p ≤ 8
  if !up || lost = [] then s1
  else if lost.length < 4 then
    if 4 ≤ popcount 8 (s1.lport p).sig then lost.foldl (fun t i => t.retireLane p i) s1 else s1.portDown p
  else (s1.satAdd (oPortErr p) 7 0 1).startDetect p

def execLossOfSignal (p lanes : Nat) (s : State) : Res := onUnit (portOk p) (s.lossOfSignal p lanes)

/-- FENCE received (R428). -/
def State.fenceIn (s : State) (p : Nat) : State :=
  if s.pstate p ≤ 1 || s.pstate p = 9 || s.pstate p = 11 then s
  else
    let x := s.lport p
    let left := b2n (x.asm != []) + ceilDiv (x.rxq.map (·.length)).sum 240
    let s1 := ((s.discardFrames p).eventPort p 0x65 left).updPort_ p fun x =>
      { x with failed := false, rxq := [], sendq := [], sig := 0, owes := 0 }
    s1.setReg (oPortStat p) (BitVec.ofNat 32 (10 * 2 ^ 28))

def execFenceReceive (p : Nat) (s : State) : Res := onUnit (portOk p) (s.fenceIn p)

/-- Every port sends FENCE where it is up, and is FENCED (R427). -/
def State.fencePorts (s : State) : State :=
  (List.range 12).foldl (fun t p =>
    let st := t.pstate p
    let t1 := if st ≤ 1 || st = 11 then t else t.emit (.line p 2 (bitsSet 8 (t.lport p).sig))
    ((t1.updPort_ p fun x => { x with replay := [], asm := [], rxq := [], sendq := [], nak := false, failed := false, owes := 0 }).setReg
      (oPortStat p) (BitVec.ofNat 32 (9 * 2 ^ 28)))) s

/-- FENCE blocks of a module reset that the module starts itself (R430). -/
def State.sendFences (s : State) : State :=
  (List.range 12).foldl (fun t p =>
    let st := t.pstate p
    if st ≤ 1 || st = 11 || st = 9 then t else t.emit (.line p 2 (bitsSet 8 (t.lport p).sig))) s

/-- Exit from the fail-safe state (R431). -/
def State.unfencePorts (s : State) : State :=
  (List.range 12).foldl (fun t p =>
    if t.pstate p != 9 then t
    else if t.bit (oPortCtl p) 31 && t.bit (oWmap p) 31 then
      (t.updPort_ p fun x => { x with attempts := 0 }).startDetect p
    else t.setPstate p 1) s

/-- The firmware of a fold die runs again: what waited at its ports begins (R432). -/
def State.linkResume (s : State) (f : Nat) : State :=
  ((List.range 12).filter fun p => portDie p = f).foldl (fun t p =>
    let o := (t.lport p).owes
    let t1 := t.updPort_ p fun x => { x with owes := 0 }
    let t2 := if o = 2 then t1.startDetect p else if o = 1 then t1.recover p else t1
    (t2.settlePort p).signalDetect p 0) s

end Sys2Proof.Machine
end

