-- ==== Sys2Proof/Machine/FabBase.lean ====
section
/-! DEFINITION. The fabric space: groups and positions (R445, R448), routing in the flock and the drove (R436 to R440), packets
and their injection (R441, R443, R446), and what a module does with a packet that arrives (R446, R447). -/

namespace Sys2Proof.Machine

def oFabCtl : Nat := 0x1802000
def oEpoch : Nat := 0x1802004
def oFabStat : Nat := 0x1802008
def oGw : Nat := 0x180200C
def oTsCtl : Nat := 0x1802010
def oTsStat : Nat := 0x1802014
def oTgrant (i : Nat) : Nat := 0x1802100 + 4 * i
def bankBase (b : Nat) : Nat := 0x1810000 + 0x8000 * b
def oPos (b n : Nat) : Nat := bankBase b + 4 * n
def oGrp (b g w : Nat) : Nat := bankBase b + 0x100 + 16 * g + 4 * w
def oFrt (b f : Nat) : Nat := bankBase b + 0x400 + 4 * f

/-- The epoch stamped on packets, and whether a bank is complete (Table 13-10). -/
def State.sendEpoch (s : State) : Nat := s.fld oEpoch 31 31
def State.bankValid (s : State) (b : Nat) : Bool := s.bit oEpoch (28 + b)

/-- This module: flock and module as [13:6] and [5:0]. -/
def State.self (s : State) : Nat := s.fld oSelf 13 0

/-- An entry of the group table (Table 13-12). -/
structure Group where
  id : Nat := 0
  tw : Bool := false
  flock0 : Nat := 0
  flog : Nat := 0
  mask : Nat := 0

def State.groupEntry (s : State) (b g : Nat) : Group :=
  { id := s.fld (oGrp b g 0) 15 0, tw := s.bit (oGrp b g 0) 30, flock0 := s.fld (oGrp b g 1) 7 0,
    flog := s.fld (oGrp b g 1) 15 12, mask := (s.reg (oGrp b g 2)).toNat + 2 ^ 32 * (s.reg (oGrp b g 3)).toNat }

/-- Members by rank: ascending flock, then ascending module (R445). -/
def Group.members (g : Group) : List Nat :=
  (List.range (2 ^ g.flog)).flatMap fun f => (bitsSet 64 g.mask).map fun m => 64 * (g.flock0 + f) + m

def Group.has (g : Group) (m : Nat) : Bool :=
  decide (g.flock0 ≤ m / 64) && decide (m / 64 < g.flock0 + 2 ^ g.flog) && g.mask.testBit (m % 64)

/-- The free dimensions of a mask, as bits: those in which members differ. -/
def Group.free (g : Group) : Nat :=
  let ms := bitsSet 64 g.mask
  ms.foldl (fun a m => a ||| (m ^^^ ms.headD 0)) 0

/-- The mask is the set of modules that agree with some base outside a set of dimensions (R445). -/
def Group.subcube (g : Group) : Bool := g.mask != 0 && popcount 64 g.mask = 2 ^ popcount 6 g.free

/-- An entry that a configuration commit does not reject (R445). -/
def Group.ok (g : Group) (self : Nat) : Bool :=
  !(g.tw && g.mask != 2 ^ 64 - 1) &&
  !(g.subcube && g.free.testBit 5 && !g.free.testBit 4 && ((bitsSet 64 g.mask).headD 0).testBit 4) &&
  g.flock0 + 2 ^ g.flog ≤ 256 && g.flog ≤ 8 && isPow2 (popcount 64 g.mask) && g.has self

/-- The group of an ID in a bank; a rejected entry is not held. -/
def State.group (s : State) (b id : Nat) : Option Group :=
  ((List.range 16).find? fun i =>
    s.bit (oGrp b i 0) 31 && (s.groupEntry b i).id = id && (s.groupEntry b i).ok s.self).map (s.groupEntry b)

/-- The group entries at a configuration commit: CFG_ERR with the first rejected entry, and SUB of each (R445). -/
def State.groupsCommit (s : State) : State :=
  let b := s.sendEpoch
  let bad := (List.range 16).find? fun i => s.bit (oGrp b i 0) 31 && !(s.groupEntry b i).ok s.self
  let s1 := (List.range 16).foldl (fun t i =>
    if t.bit (oGrp b i 0) 31 then t.setFld (oGrp b i 0) 29 29 (b2n (t.groupEntry b i).subcube) else t) s
  match bad with
  | some i => (s1.setBit oFabStat 31).setFld oFabStat 19 16 i
  | none => s1.clrBit oFabStat 31

/-- The next dimension from module c to module t (R436, R437); none where they are the same. -/
def nextDim (tw : Bool) (c t : Nat) : Option Nat :=
  let x := c ^^^ t
  let l := x % 16
  let w := popcount 4 l
  let b := c.testBit 4
  let low := (bitsSet 4 l).headD 0
  if x = 0 then none
  else if !x.testBit 5 && !x.testBit 4 then some low
  else if !x.testBit 5 then some (if tw && w = 4 then 5 else 4)
  else if !tw then some (if b then 4 else 5)
  else if !x.testBit 4 then some (if b then (if w = 0 then 4 else 5) else if w = 4 then 4 else 5)
  else some (if b = decide (3 ≤ w) then 5 else 4)

/-- The module across a dimension (Table 13-1). -/
def acrossDim (c d : Nat) : Nat := if d = 5 && c.testBit 4 then c ^^^ 47 else c ^^^ 2 ^ d

/-- The modules a packet enters within a flock. -/
def cubePath (tw : Bool) : Nat → Nat → Nat → List Nat
  | 0, _, _ => []
  | fuel + 1, c, t =>
    match nextDim tw c t with
    | none => []
    | some d => acrossDim c d :: cubePath tw fuel (acrossDim c d) t

/-- A port that takes packets: ACTIVE, and for management packets also QUARANTINE (R438). -/
def State.portTakes (s : State) (mgmt : Bool) (p : Nat) : Bool := s.pstate p = 6 || (mgmt && s.pstate p = 8)

/-- The port that carries a dimension for a packet of a channel: ring data prefer the second rail (R438). -/
def State.railPort (s : State) (d : Nat) (ring mgmt : Bool) : Option Nat :=
  let two := if 4 ≤ d then [d] else if ring then [d + 6, d] else [d, d + 6]
  two.find? (s.portTakes mgmt)

/-- The module of gateway j (Table 13-11). -/
def State.gateway (s : State) (j : Nat) : Nat := s.fld oGw (8 * j + 5) (8 * j)

/-- The next place of a packet: here, a port with the dimension it crosses (10 and 11 the drove ports), or nowhere, with the
dimension that has no port where one is to blame. -/
inductive Hop
  | here
  | via (port dim : Nat)
  | none (dim : Option Nat)
  deriving DecidableEq, Repr

def State.cubeHop (s : State) (tw ring mgmt : Bool) (t : Nat) : Hop :=
  match nextDim tw (s.self % 64) t with
  | .none => .here
  | some d => match s.railPort d ring mgmt with
    | some p => .via p d
    | .none => .none (some d)

/-- The next hop of a packet under a bank (R436 to R440). -/
def State.hop (s : State) (b : Nat) (tw ring mgmt : Bool) (dst : Nat) : Hop :=
  let f := dst / 64
  if f = s.self / 64 then s.cubeHop tw ring mgmt (dst % 64)
  else
    let e := oFrt b f
    if !s.bit e 31 then .none .none
    else if s.bit e 3 then s.cubeHop tw ring mgmt (dst % 64)
    else
      let g := s.gateway (s.fld e 2 1)
      if g = s.self % 64 then
        let p := 10 + s.fld e 0 0
        if s.portTakes mgmt p then .via p p else .none (some p)
      else s.cubeHop tw ring mgmt g

/-- The modules on a packet's path other than its ends, as far as this module's tables give them (R446). -/
def State.pathOf (s : State) (b : Nat) (tw : Bool) (dst : Nat) : List Nat :=
  let me := s.self
  let f := dst / 64
  let in_ (fl c t : Nat) : List Nat := (cubePath tw 8 c t).map (64 * fl + ·)
  let whole := if f = me / 64 || s.bit (oFrt b f) 3 then in_ f (me % 64) (dst % 64)
    else
      let g := s.gateway (s.fld (oFrt b f) 2 1)
      in_ (me / 64) (me % 64) g ++ (64 * f + g) :: in_ f g (dst % 64)
  whole.filter fun m => m != dst && m != me

/-- The bytes of a packet (Table 13-2). -/
def mkPkt (vc op epoch tw src dst group addr tag seq : Nat) (payload : List Byte) : List Byte :=
  let len := ceilDiv (min payload.length 256) 32
  leBytes 1 (vc * 32 + epoch * 16 + tw) ++ leBytes 1 op ++ leBytes 1 len ++ leBytes 1 0 ++ leBytes 2 src ++ leBytes 2 dst ++
    leBytes 2 group ++ leBytes 5 addr ++ leBytes 1 0 ++ leBytes 4 tag ++ leBytes 4 seq ++ leBytes 8 0 ++
    padTo (32 * len) 0 (payload.take 256)

def pktSrc (q : List Byte) : Nat := leAt q 4 2 % 2 ^ 14
def pktDst (q : List Byte) : Nat := leAt q 6 2 % 2 ^ 14
def pktGroup (q : List Byte) : Nat := leAt q 8 2
def pktAddr (q : List Byte) : Nat := leAt q 10 5
def pktTag (q : List Byte) : Nat := leAt q 16 4
def pktSeq (q : List Byte) : Nat := leAt q 20 4
def pktEpoch (q : List Byte) : Nat := fld (leAt q 0 1) 4 4
def pktTw (q : List Byte) : Bool := (leAt q 0 1).testBit 0
def pktPayload (q : List Byte) : List Byte := q.drop 32

/-- A packet that cannot be routed is discarded and counted; a dimension with no ACTIVE port is reported once (R438). -/
def State.unroutable (s : State) (dim : Option Nat) : State :=
  match dim with
  | none => s.eventF 0 0x67 0 1
  | some d =>
    let s1 := s.eventF (portDie d) 0x67 0 1
    if s.fab.unroutable.testBit d then s1
    else (s1.updFab fun f => { f with unroutable := f.unroutable ||| 2 ^ d }).raiseFault 1 0x0104 (d * 16) []

/-- A drove hop between the flocks of highest and lowest ID crosses the dateline (R443). -/
def State.dateline (s : State) (b p : Nat) : Bool :=
  let me := s.self / 64
  let peer := s.fld (oPeerPos p) 27 20
  let fs := me :: (List.range 256).filter fun f => s.bit (oFrt b f) 31
  let hi := fs.foldl max 0
  let lo := fs.foldl min 255
  hi != lo && ((me = hi && peer = lo) || (me = lo && peer = hi))

/-- Send a packet on its way: the hop class rises on d4 and d5, and DL is set at the dateline (R443). -/
def State.route (s : State) (q : List Byte) : State :=
  let b := pktEpoch q
  match s.hop b (pktTw q) (pktOp q = 7) (pktVc q = 4) (pktDst q) with
  | .here => s
  | .none d => s.unroutable d
  | .via p d =>
    let b0 := leAt q 0 1
    let b1 := if d = 4 || d = 5 then Machine.setFld b0 3 2 (min (Machine.fld b0 3 2 + 1) 3) else b0
    let b2 := if 10 ≤ d && s.dateline b p then Machine.setFld b1 1 1 1 else b1
    s.queuePacket p (BitVec.ofNat 8 b2 :: q.drop 1)

/-- Packets that wait at a port which no longer takes them are routed again; credits of its own it keeps. In RECOVER they wait (R424,
R438). -/
def State.reroute (s : State) (p : Nat) : State :=
  let go (q : List Byte) : Bool := s.pstate p != 7 && !s.portTakes (pktVc q = 4) p && pktOp q != 10
  ((s.lport p).sendq.filter go).foldl (fun t q => t.route q) (s.updPort_ p fun x => { x with sendq := x.sendq.filter fun q => !go q })

/-- Inject a packet of a group: in TRANSIT where its path crosses a module outside the group (R446). -/
def State.inject (s : State) (vc op dst group addr tag seq : Nat) (payload : List Byte) : State :=
  let b := s.sendEpoch
  let g := s.group b group
  let tw := match g with | some g => g.tw | none => false
  let crosses := match g with | some g => (s.pathOf b tw dst).any fun m => !g.has m | none => false
  if vc != 4 && !s.bankValid b then s.unroutable none
  else s.route (mkPkt (if crosses && vc != 4 then 5 else vc) op b (b2n tw) s.self dst group addr tag seq payload)

/-- What a module does with a packet (R446, R447). -/
inductive Verdict
  | deliver
  | forward
  | foreign
  | noBank
  deriving DecidableEq, Repr

def State.verdict (s : State) (q : List Byte) : Verdict :=
  let mine := pktDst q = s.self
  let b := pktEpoch q
  if pktVc q = 4 then (if mine then .deliver else .forward)
  else if !s.bankValid b then .noBank
  else if (s.group b (pktGroup q)).isSome then (if mine then .deliver else .forward)
  else if pktVc q = 5 && !mine && (List.range 16).any fun i =>
      s.bit (oTgrant i) 31 && s.fld (oTgrant i) 15 0 = pktGroup q then .forward
  else .foreign

/-- Take a packet out of a port's receive buffer and return its credits (R442). -/
def State.freePacket (s : State) (p : Nat) (q : List Byte) : State :=
  let s1 := s.updPort_ p fun x => { x with rxq := x.rxq.erase q }
  s1.queuePacket p (mkPkt 4 10 s.sendEpoch 0 s.self s.self 0 0 (pktClass p q) q.length [])

/-- The oldest packet of an operation that no earlier packet of its class waits before. -/
def State.headPacket (s : State) (p op : Nat) : Option (List Byte) :=
  let rx := (s.lport p).rxq
  rx.find? fun q => pktOp q = op && !(rx.takeWhile (· != q)).any fun r => pktClass p r = pktClass p q

/-- Handle the oldest packet of an operation at a port. A delivery that cannot take place yet leaves it in its buffer. -/
def State.handle (s : State) (p op : Nat) (f : List Byte → State → Option State) : State :=
  match s.headPacket p op with
  | none => s
  | some q =>
    match s.verdict q with
    | .forward => (s.freePacket p q).route q
    | .foreign => (s.freePacket p q).eventF (portDie p) 0x68 0 1
    | .noBank => (s.freePacket p q).eventF (portDie p) 0x67 0 1
    | .deliver => match f q s with
      | some t => t.freePacket p q
      | none => s

/-- Credits come back to a port (R442). -/
def State.takeCredit (s : State) (p : Nat) : State :=
  match s.headPacket p 10 with
  | none => s
  | some q =>
    (s.updPort_ p fun x =>
      { x with rxq := x.rxq.erase q, used := mapUpd 0 x.used (pktTag q) (· - pktSeq q) }).pumpAll p

def execPktCredit (p : Nat) (s : State) : Res := onUnit (portOk p) (s.takeCredit p)

/-- A management packet is delivered, with no further effect here, or forwarded (R446). -/
def execPktManagement (p : Nat) (s : State) : Res := onUnit (portOk p) (s.handle p 12 fun _ t => some t)

/-- Marking the inactive bank complete (R449). A bank in HOLD stays as it is. -/
def State.bankLoad (s : State) : State :=
  let b := 1 - s.sendEpoch
  if s.bit oEpoch (26 + b) then s else s.setBit oEpoch (28 + b)

def execBankLoad (master : Nat) (s : State) : Res := .next (s.guardedWrite master oEpoch State.bankLoad)

/-- The old bank leaves HOLD (R449). -/
def execEpochHoldExpiry (b : Nat) (s : State) : Res := onUnit (b < 2) (s.clrBit oEpoch (26 + b))

/-- The fabric epoch at a configuration commit (R449). NEXT is bit 30 of the value just put in force. -/
def State.epochCommit (s : State) : State :=
  let n := s.fld oEpoch 30 30
  let old := s.sendEpoch
  if n != old && s.bankValid n then ((s.setFld oEpoch 31 31 n).setBit oEpoch (26 + old)) else s

end Sys2Proof.Machine
end

