-- ==== Sys2Proof/Machine/FabAccess.lean ====
section
/-! DEFINITION. Remote access: puts, gets and atomic operations (R450, R462, R463), the pen window (R451), and requests of
other modules (R452). -/

namespace Sys2Proof.Machine

/-- Checks of a remote-access body (Table 13-6, R462). -/
def chkRemote (d : Desc) : Nat :=
  let glob := match daddr (d.u64 32) with | .glob _ => true | _ => false
  let atomic := d.op = 0x4A
  if !localOrHost (d.u64 24) || !glob || (!atomic && d.u32 20 = 0) || (atomic && (5 < d.u8 18 || d.u64 32 % 8 != 0)) then
    stInvalidField else 0

/-- The new value of an atomic operation (Table 13-7). -/
def atomicNew (aop old opnd cmp : Nat) : Nat :=
  match aop with
  | 0 => (old + opnd) % 2 ^ 64
  | 1 => opnd
  | 2 => if old = cmp then opnd else old
  | 3 => old &&& opnd
  | 4 => old ||| opnd
  | _ => max old opnd

/-- One indivisible access to the line of a 64-bit word: its old value, and whether the line was lost. -/
def State.atomicAt (s : State) (master a aop opnd cmp : Nat) : Nat × Bool × State :=
  let r := s.readMem 1 master a 8
  let old := leNat r.1
  (old, r.2.1, r.2.2.writeMem master a (leBytes 8 (atomicNew aop old opnd cmp)))

/-- Return an atomic's old value to the local address, where one is given. -/
def State.putOld (s : State) (w : Who) (loc old : Nat) (lost : Bool) : Nat × State :=
  if loc = 0 then (if lost then stDataError else stSuccess, s)
  else
    let r := s.store w (daddr loc) (leBytes 8 old)
    (match r.1 with | .data _ _ => if lost then stDataError else stSuccess | g => g.status, r.2)

/-- An atomic operation on this module's own memory, checked with the requester's own master ID (R450). -/
def State.localAtomic (s : State) (w : Who) (a loc aop opnd cmp : Nat) : Nat × State :=
  match s.memCheck w.master rightAtomic a 8 with
  | .ok =>
    let r := s.atomicAt w.master a aop opnd cmp
    r.2.2.putOld w loc r.1 r.2.1
  | c => (stDenied, s.refuse c rightAtomic w.master a)

/-- The requester of a transfer: a context, or, from 4,096, the master of a pen-window access (R451). -/
def State.xferWho (s : State) (o : Owner) : Who := if 4096 ≤ o.c then ⟨o.c - 4096, 0⟩ else s.ctxWho o.c

/-- The fold die whose tags a transfer takes: that of its context's link, or of its core. -/
def State.xferDie (s : State) (o : Owner) : Nat :=
  if 4096 ≤ o.c then (match masterClass (o.c - 4096) with | .shepherd => (o.c - 4096) % 4096 / 16 | _ => 0) else s.ctxLink o.c

/-- Tags of a fold die that a class may hold while no other class holds any beyond its own (R363): all but what the other classes
reserve. -/
def State.tagRoom (s : State) (f : Nat) : Nat :=
  let off := 0x1400020 + 4 * f
  4096 - 4 * s.fld off 19 8 - s.fld off 7 0

/-- A tag is free for a fabric request of a fold die, which may take its reservation and what is shared (R363). -/
def State.fabTag (s : State) (f : Nat) : Bool := decide (s.tagsHeld f < s.tagRoom f)

/-- A tag beyond the reservations of a fold die is free; between commands only fabric requests hold any (R363). -/
def State.sharedTag (s : State) (f : Nat) : Bool := decide (max (s.tagsHeld f) (s.fld (0x1400020 + 4 * f) 31 20) < s.tagRoom f)

/-- A tag is free for a request of a master on its fold die: a shearer unit and the service class have their reservations (R363). -/
def State.localTag (s : State) (master : Nat) : Bool :=
  let f := masterDie master
  s.sharedTag f || (match masterClass master with
    | .shearer => s.fld (0x1400020 + 4 * f) 19 8 != 0
    | .msp => s.fld (0x1400020 + 4 * f) 7 0 != 0
    | _ => false)

/-- End a transfer with a status; answers to its requests that are still out find nothing. -/
def State.endXfer (s : State) (o : Owner) (st : Nat) : State :=
  (s.updFab fun f => { f with xfers := f.xfers.filter (·.own != o), reqs := f.reqs.filter (·.own != o) }).complete o.c o.p st

/-- A transfer all of whose requests are answered completes (R463). -/
def State.settleXfer (s : State) (o : Owner) : State :=
  match s.fab.xfers.find? (·.own = o) with
  | none => s
  | some x =>
    if x.next < x.len || s.fab.reqs.any (·.own = o) then s
    else s.endXfer o (if x.lost then stDataError else stSuccess)

/-- Lines of the 256-byte block of a remote address that local bytes which are lost fall into, as bits. -/
def State.lostLines (s : State) (d : DAddr) (n remote : Nat) : Nat :=
  match d with
  | .mod a => (List.range n).foldl (fun m i => if (s.mark (a + i)).lost then m ||| 2 ^ ((remote + i) % 256 / 64) else m) 0
  | _ => 0

/-- Enter a request under the next tag of its fold die. -/
def State.addReq (s : State) (x : Xfer) (n : Nat) : State :=
  let d := s.xferDie x.own
  (s.noteTag d).updFab fun f =>
    { f with reqs := f.reqs ++ [{ tag := f.tagNext, die := d, own := x.own, off := x.next, n := n }]
             tagNext := (f.tagNext + 1) % 2 ^ 28
             xfers := f.xfers.map fun y => if y.own = x.own then { y with next := y.next + n } else y }

/-- Issue the next request of a transfer: up to 256 bytes within one 256-byte block of the remote module (R463). -/
def State.issue (s : State) (x : Xfer) : State :=
  let a := x.remote + x.next
  let n := min (x.len - x.next) (256 - a % 256)
  let tag := s.fab.tagNext
  if 2 ^ 40 < a + n then s.endXfer x.own stDenied
  else
    match x.kind with
    | 0 =>
      let src := (daddr x.loc).plus x.next
      let r := s.request (s.xferWho x.own) 1 src n
      match r.1 with
      | .data bs lost =>
        let s1 := r.2.updFab fun f => { f with xfers := f.xfers.map fun y =>
          if y.own = x.own then { y with lost := y.lost || lost } else y }
        (s1.addReq x n).inject 3 0 x.dst x.group a (2 ^ 28 * (s.lostLines src n a) + tag) n bs
      | g => r.2.endXfer x.own g.status
    | 1 => (s.addReq x n).inject 1 1 x.dst x.group a tag n []
    | _ => (s.addReq x n).inject 1 4 x.dst x.group a tag 8 (leBytes 8 x.opnd ++ leBytes 8 x.cmp ++ leBytes 1 x.aop)

/-- Issue requests while tags last; a wait for one counts as a tag stall (R362, R442). -/
def State.pumpXfer (s : State) (o : Owner) : Nat → State
  | 0 => s
  | fuel + 1 =>
    match s.fab.xfers.find? (·.own = o) with
    | none => s
    | some x =>
      if x.len ≤ x.next then s
      else if !s.fabTag (s.xferDie o) then s.eventF (s.xferDie o) 0x48 0 1
      else (s.issue x).pumpXfer o fuel

def State.pumpXfers (s : State) : State := s.fab.xfers.foldl (fun t x => t.pumpXfer x.own 4097) s

/-- The physical module of a global address (R448, R450); none for an unmapped position. -/
def State.moduleOf (s : State) (g : Nat) : Option Nat :=
  let e := oPos s.sendEpoch (Machine.fld g 45 40)
  if s.bit e 31 then some (Machine.fld g 53 46 * 64 + Machine.fld (s.reg e).toNat 5 0) else none

/-- A module may be reached with a group: its flock is one of the group's (R450). -/
def State.inGroup (s : State) (group m : Nat) : Bool :=
  match s.group s.sendEpoch group with
  | some g => decide (g.flock0 ≤ m / 64) && decide (m / 64 < g.flock0 + 2 ^ g.flog)
  | none => false

def State.startXfer (s : State) (x : Xfer) : State :=
  (s.updFab fun f => { f with xfers := f.xfers ++ [x] }).pumpXfer x.own 4097

/-- A put, get or atomic descriptor (R450, R462, R463): kinds 0, 1 and 2. -/
def State.remoteAccess (s : State) (c : Nat) (d : Desc) (kind aop : Nat) : State :=
  let g := d.u64 32 % 2 ^ 54
  let a := g % 2 ^ 40
  let w := s.ctxWho c
  match s.moduleOf g with
  | none => s.complete c d.ptr stInvalidField
  | some m =>
    if m = s.self then
      let loc := daddr (d.u64 24)
      if kind = 2 then
        let v := s.localAtomic w a (d.u64 24) aop (d.u64 40) (d.u64 48)
        v.2.complete c d.ptr v.1
      else
        let v : Move := if kind = 0 then moveRows w loc (.mod a) (d.u32 20) 1 0 0 s
          else moveRows w (.mod a) loc (d.u32 20) 1 0 0 s
        v.s.complete c d.ptr v.status
    else if !s.inGroup (d.u16 16) m then s.complete c d.ptr stInvalidField
    else (s.working c d.ptr).startXfer
      { own := ⟨c, d.ptr⟩, kind := kind, group := d.u16 16, dst := m, remote := a, loc := d.u64 24,
        len := if kind = 2 then 8 else d.u32 20, aop := aop, opnd := d.u64 40, cmp := d.u64 48 }

def execFabricPut (c n : Nat) (s : State) : Res := onUnit (ctxOk c) (s.runDesc c n 0x48 fun d t => t.remoteAccess c d 0 0)
def execFabricGet (c n : Nat) (s : State) : Res := onUnit (ctxOk c) (s.runDesc c n 0x49 fun d t => t.remoteAccess c d 1 0)

/-- A FABRIC_ATOMIC descriptor of one operation. -/
def State.runAtomic (s : State) (c n aop : Nat) : State :=
  s.runDesc c n 0x4A fun d t => if d.u8 18 = aop then t.remoteAccess c d 2 aop else t

def execFabricAtomicAdd (c n : Nat) (s : State) : Res := onUnit (ctxOk c) (s.runAtomic c n 0)
def execFabricAtomicSwap (c n : Nat) (s : State) : Res := onUnit (ctxOk c) (s.runAtomic c n 1)
def execFabricAtomicCas (c n : Nat) (s : State) : Res := onUnit (ctxOk c) (s.runAtomic c n 2)
def execFabricAtomicAnd (c n : Nat) (s : State) : Res := onUnit (ctxOk c) (s.runAtomic c n 3)
def execFabricAtomicOr (c n : Nat) (s : State) : Res := onUnit (ctxOk c) (s.runAtomic c n 4)
def execFabricAtomicUmax (c n : Nat) (s : State) : Res := onUnit (ctxOk c) (s.runAtomic c n 5)

/-- The two checks of a remote request at its destination (R452). -/
def State.exportCheck (s : State) (right src a n : Nat) : Bool × State :=
  let m := 0x8000 + src
  let r := s.aclCheck 33 right m (a / 4096) ((a + max n 1 - 1) / 4096)
  if !r.1 then r
  else
    match r.2.memCheck m right a n with
    | .ok => (true, r.2)
    | c => (false, r.2.refuse c right m a)

/-- The answer to a request: its tag comes back, with bits of lost lines in [31:28]. -/
def State.respond (s : State) (q : List Byte) (vc op tag n : Nat) (payload : List Byte) : State :=
  s.inject vc op (pktSrc q) (pktGroup q) (pktAddr q) tag n payload

/-- Poison the lines of a 256-byte block that a mask names. -/
def State.poisonBlock (s : State) (a mask : Nat) : State :=
  (bitsSet 4 mask).foldl (fun t i => t.poisonLines (a / 256 * 256 + 64 * i) 64) s

/-- A remote request that arrived on a port takes a fabric tag of the port's die, without which it waits in the port's buffer (R362, R363);
it is denied or carried out (R452). -/
def State.serveRemote (s : State) (p right n : Nat) (q : List Byte) (f : State → State) : Option State :=
  if !s.fabTag (portDie p) then none
  else
    let r := (s.noteTag (portDie p)).exportCheck right (pktSrc q) (pktAddr q) n
    some (if r.1 then f r.2 else r.2.respond q 2 11 (pktTag q % 2 ^ 28) 0 [])

/-- A remote request is handled; the wait of one for a tag counts as a tag stall (R362). -/
def State.handleRemote (s : State) (p op : Nat) (f : List Byte → State → Option State) : State :=
  if !s.fabTag (portDie p) && ((s.headPacket p op).any fun q => s.verdict q = .deliver) then s.eventF (portDie p) 0x48 0 1
  else s.handle p op f

def State.remoteWrite (s : State) (p : Nat) (q : List Byte) : Option State :=
  let n := min (pktSeq q) 256
  s.serveRemote p rightW n q fun t =>
    ((t.writeMem (0x8000 + pktSrc q) (pktAddr q) ((pktPayload q).take n)).poisonBlock (pktAddr q) (pktTag q / 2 ^ 28)).respond
      q 2 3 (pktTag q % 2 ^ 28) 0 []

def execPktWrite (p : Nat) (s : State) : Res := onUnit (portOk p) (s.handleRemote p 0 fun q t => t.remoteWrite p q)

def State.remoteRead (s : State) (p : Nat) (q : List Byte) : Option State :=
  let n := min (pktSeq q) 256
  s.serveRemote p rightR n q fun t =>
    let r := t.readMem 1 (0x8000 + pktSrc q) (pktAddr q) n
    let mask := t.lostLines (.mod (pktAddr q)) n (pktAddr q)
    r.2.2.respond q (if n ≤ 64 then 2 else 3) 2 (2 ^ 28 * mask + pktTag q % 2 ^ 28) n r.1

def execPktRead (p : Nat) (s : State) : Res := onUnit (portOk p) (s.handleRemote p 1 fun q t => t.remoteRead p q)

def State.remoteAtomic (s : State) (p : Nat) (q : List Byte) : Option State :=
  s.serveRemote p rightAtomic 8 q fun t =>
    let b := pktPayload q
    let r := t.atomicAt (0x8000 + pktSrc q) (pktAddr q) (leAt b 16 1) (leAt b 0 8) (leAt b 8 8)
    r.2.2.respond q 2 5 (2 ^ 28 * (b2n r.2.1) + pktTag q % 2 ^ 28) 8 (leBytes 8 r.1)

def execPktAtomic (p : Nat) (s : State) : Res := onUnit (portOk p) (s.handleRemote p 4 fun q t => t.remoteAtomic p q)

/-- The request an answer belongs to, with its transfer; an answer to no request has no effect. -/
def State.answer (s : State) (q : List Byte) (f : Xfer → Rreq → State → State) : Option State :=
  some (match s.fab.reqs.find? fun r => r.tag = pktTag q % 2 ^ 28 with
    | none => s
    | some r =>
      match s.fab.xfers.find? (·.own = r.own) with
      | none => s
      | some x =>
        let s1 := s.updFab fun g => { g with reqs := g.reqs.filter (·.tag != r.tag) }
        ((f x r s1).settleXfer r.own).pumpXfers)

def execPktWriteAck (p : Nat) (s : State) : Res := onUnit (portOk p) (s.handle p 3 fun q t => t.answer q fun _ _ u => u)

/-- Note that a transfer met lost lines. -/
def State.xferLost (s : State) (o : Owner) (lost : Bool) : State :=
  if lost then s.updFab fun f => { f with xfers := f.xfers.map fun y => if y.own = o then { y with lost := true } else y } else s

/-- Bytes of a get land at the requester, with the destination lines of the lost source lines poisoned (R349). -/
def State.landData (s : State) (x : Xfer) (r : Rreq) (bs : List Byte) (mask : Nat) : State :=
  if 4096 ≤ x.own.c then s.emit (.memData (bs.take r.n))
  else
    let dst := (daddr x.loc).plus r.off
    let a := x.remote + r.off
    let q := s.store (s.xferWho x.own) dst (bs.take r.n)
    match q.1 with
    | .data _ _ =>
      ((bitsSet 4 mask).foldl (fun t i =>
        let lo := max a (a / 256 * 256 + 64 * i)
        let hi := min (a + r.n) (a / 256 * 256 + 64 * i + 64)
        match dst.plus (lo - a) with
        | .mod b => t.poisonLines b (hi - lo)
        | .host b => t.emit (.hostPoison b (hi - lo))
        | _ => t) q.2).xferLost x.own (mask != 0)
    | g => q.2.endXfer x.own g.status

def execPktReadData (p : Nat) (s : State) : Res :=
  onUnit (portOk p) (s.handle p 2 fun q t => t.answer q fun x r u => u.landData x r (pktPayload q) (pktTag q / 2 ^ 28))

def execPktAtomicResult (p : Nat) (s : State) : Res :=
  onUnit (portOk p) (s.handle p 5 fun q t => t.answer q fun x _ u =>
    let r := u.putOld (u.xferWho x.own) x.loc (leAt (pktPayload q) 0 8) (pktTag q / 2 ^ 28 != 0)
    r.2.endXfer x.own r.1)

/-- A denial ends the requester's descriptor (R452). -/
def execPktDenial (p : Nat) (s : State) : Res :=
  onUnit (portOk p) (s.handle p 11 fun q t => t.answer q fun x _ u => u.endXfer x.own stDenied)

/-- The request under a tag is not answered in time (R463). -/
def execRemoteReqTimeout (tag : Nat) (s : State) : Res :=
  .next (match s.fab.reqs.find? (·.tag = tag) with
    | some r => (s.endXfer r.own stTimeout).pumpXfers
    | none => s)

/-- Remote write requests of a run of bytes, each within one 256-byte block. -/
def State.penWrites (s : State) (x : Xfer) : Nat → Nat → List Byte → State
  | 0, _, _ => s
  | fuel + 1, off, bs =>
    if bs = [] then s
    else
      let k := min bs.length (256 - off % 256)
      ((s.addReq x k).inject (if k ≤ 64 then 1 else 3) 0 x.dst x.group off s.fab.tagNext k (bs.take k)).penWrites x fuel (off + k)
        (bs.drop k)

/-- A pen-window access of a shepherd core or a DMA engine to another module of its pen, as remote requests with the pen
group (R451): a read of n bytes, or a write. -/
def State.penAccess (s : State) (master a n : Nat) (write : Option (List Byte)) : State :=
  let m := s.self / 4 * 4 + Machine.fld a 41 40
  let group := s.fld oFabCtl 31 16
  let off := a % 2 ^ 40
  let o : Owner := ⟨4096 + master, s.fab.tagNext⟩
  let x : Xfer := { own := o, kind := 1, group := group, dst := m, remote := off, len := n }
  if group = 0 || 2 ^ 40 < off + n then s
  else
    match write with
    | none => s.startXfer x
    | some bs => (s.updFab fun f => { f with xfers := f.xfers ++ [{ x with kind := 0 }] }).penWrites x (bs.length / 256 + 2) off bs

end Sys2Proof.Machine
end

