-- ==== Sys2Proof/Machine/Collect.lean ====
section
/-! DEFINITION. Collectives over a group (R457 to R461): the exchanges of recursive doubling, REDUCE, GATHER and SYNC. The barrier
and global branches use the same exchanges. -/

namespace Sys2Proof.Machine

/-- The order in which a kind is counted and matched: the collectives of a group, barriers, actions and branches. -/
def CKind.cls : CKind → Nat
  | .reduce => 0
  | .gather => 0
  | .sync => 0
  | .barrier => 1
  | .actions => 2
  | .branch => 3

def CKind.data : CKind → Bool
  | .reduce => true
  | .gather => true
  | _ => false

/-- Where sequence numbers of a group and order are kept, and packets are matched. -/
def Coll.chan (x : Coll) : Nat := 4 * x.group + x.kind.cls

/-- Exchange steps of a collective, and the bit of the rank that a step crosses (R458, R460). -/
def Coll.steps (x : Coll) : Nat := match x.kind with | .reduce => 2 * x.k | _ => x.k
def Coll.dim (x : Coll) : Nat := if x.k ≤ x.j then 2 * x.k - 1 - x.j else x.j

/-- Elements of the lower part of a range of n (R458). -/
def lowerPart (n : Nat) : Nat := min n (32 * ceilDiv n 64)

/-- The member keeps the lower part of its range in the step. -/
def Coll.keepsLow (x : Coll) : Bool := !x.rank.testBit x.dim

/-- The range of elements kept in a halving step, and the part sent. -/
def Coll.kept (x : Coll) : Nat × Nat :=
  let l := lowerPart x.n
  if x.keepsLow then (x.lo, l) else (x.lo + l, x.n - l)

def Coll.sentPart (x : Coll) : List Nat :=
  let l := lowerPart x.n
  if x.keepsLow then x.vals.drop l else x.vals.take l

/-- First block and number of blocks that a member of GATHER holds before a step (R460). -/
def Coll.blocks (x : Coll) : Nat × Nat := (x.rank / 2 ^ x.j * 2 ^ x.j, 2 ^ x.j)

/-- Bytes that a step brings from the partner. -/
def Coll.expects (x : Coll) : Nat :=
  match x.kind with
  | .reduce => if x.j < x.k then 2 * x.kept.2 else
      2 * ((x.outer.headD (x.lo, x.n)).2 - x.n)
  | .gather => x.blocks.2 * x.n
  | _ => 12

/-- Store bytes as requests that do not cross a page. -/
def putBytes (w : Who) (d : DAddr) (bs : List Byte) (s : State) : Move :=
  (chunks d.off d.off (bs.length / 2048 + 4) bs.length).foldl (fun (m : Move) p =>
    if m.denied then m
    else
      let q := m.s.store w (d.plus p.1) ((bs.drop p.1).take p.2)
      match q.1 with
      | .denied => { m with s := q.2, denied := true }
      | .linkLost => { m with s := q.2, cut := true }
      | .data _ _ => { m with s := q.2 }) { s := s }

/-- Read bytes as requests that do not cross a page. -/
def getBytes (w : Who) (d : DAddr) (n : Nat) (s : State) : List Byte × Move :=
  (chunks d.off d.off (n / 2048 + 4) n).foldl (fun (a : List Byte × Move) p =>
    if a.2.denied then a
    else
      let q := a.2.s.request w 1 (d.plus p.1) p.2
      match q.1 with
      | .denied => (a.1, { a.2 with s := q.2, denied := true })
      | .linkLost => (a.1, { a.2 with s := q.2, cut := true })
      | .data bs l => (a.1 ++ bs, { a.2 with s := q.2, lost := a.2.lost || l })) ([], { s := s })

def State.updColl (s : State) (o : Owner) (f : Coll → Coll) : State :=
  s.updFab fun g => { g with colls := g.colls.map fun x => if x.own = o then f x else x }

/-- A collective leaves, with what had arrived for it. -/
def State.dropColl (s : State) (x : Coll) : State :=
  s.updFab fun f => { f with colls := f.colls.filter (· != x)
                             inbox := f.inbox.filter fun q => !(q.group = x.chan && q.seq = x.seq) }

def State.endColl (s : State) (x : Coll) (st : Nat) : State := (s.dropColl x).complete x.own.c x.own.p st

/-- The 64-byte parts of a piece that hold lost lines. -/
def State.pieceMask (s : State) (a n : Nat) : Nat :=
  (List.range n).foldl (fun m i => if (s.mark (a + i)).lost then m ||| 2 ^ (i / 64) else m) 0

/-- Send a message of a step to the partner in packets of up to 256 bytes; the tag holds the step and the bytes of the
packet, the address counts packets. -/
def State.sendPieces (s : State) (x : Coll) (bs : List Byte) (mask : Nat → Nat) : State :=
  match s.group s.sendEpoch x.group with
  | none => s
  | some g =>
    let dst := g.members.getD (x.rank ^^^ 2 ^ x.dim) 0
    (List.range (ceilDiv bs.length 256)).foldl (fun t i =>
      let p := (bs.drop (256 * i)).take 256
      let top := if x.kind.data then mask i else x.kind.cls
      t.inject (if x.kind.data then 3 else 1) (if x.kind.data then 6 else 8) dst x.group i (2 ^ 28 * top + x.j * 65536 + p.length)
        x.seq p) s

/-- Send this member's message of the step it is in. -/
def State.sendStep (s : State) (x : Coll) : State :=
  match x.kind with
  | .reduce => s.sendPieces x ((if x.j < x.k then x.sentPart else x.vals).flatMap (leBytes 2)) fun _ => 0
  | .gather =>
    let a := x.dst + x.blocks.1 * x.n
    let r := getBytes (s.ctxWho x.own.c) (.mod a) (x.blocks.2 * x.n) s
    if r.2.denied then r.2.s.endColl x stDenied
    else r.2.s.sendPieces x r.1 fun i => s.pieceMask (a + 256 * i) (min 256 (x.blocks.2 * x.n - 256 * i))
  | _ => s.sendPieces x (x.vals.flatMap (leBytes 4) |> padTo 12 0) fun _ => 0

/-- One element of a REDUCE hop: the sum in FP32, rounded stochastically to BF16 (R458, R459). -/
def reduceElem (seed : List Word) (step tbase j e own got : Nat) : Nat × Cond :=
  let a := bf16.decode own
  let b := bf16.decode got
  let v := a.add b
  let w := fp32.round .rne v
  let u := draw seed siteHop ((tbase + e / 2 ^ 20) % 65536) (2 ^ 32 * j + e % 2 ^ 20) step
  let r := bf16.round (.sr u) (fp32.decode w.1)
  (r.1, ((w.2.or r.2).or (invalidOf [a, b] v)).or (flushOf bf16 [own, got]))

/-- The conditions of REDUCE hops (Table 13-11). -/
def State.reduceCond (s : State) (c : Cond) : State :=
  let f (b : Bool) (i : Nat) (t : State) : State := if b then t.setBit oFabStat i else t
  f c.inFlush 20 (f c.underflow 21 (f c.overflow 22 (f c.invalid 23 s)))

/-- A step of REDUCE with the partner's values. -/
def State.reduceStep (s : State) (x : Coll) (got : List Nat) : Coll × State :=
  if x.j < x.k then
    let r := x.kept
    let own := (x.vals.drop (r.1 - x.lo)).take r.2
    let es := (List.range r.2).map fun i =>
      reduceElem s.seed s.stepNo x.tbase x.j (r.1 + i) (own.getD i 0) (got.getD i 0)
    ({ x with lo := r.1, n := r.2, vals := es.map (·.1), outer := (x.lo, x.n) :: x.outer, j := x.j + 1 },
     s.reduceCond (es.foldl (fun (c : Cond) e => c.or e.2) {}))
  else
    let o := x.outer.headD (x.lo, x.n)
    let low := decide (o.1 = x.lo) && x.keepsLow
    ({ x with lo := o.1, n := o.2, vals := if low then x.vals ++ got else got ++ x.vals, outer := x.outer.tail, j := x.j + 1 }, s)

/-- The words of a control exchange combined in the order of ranks (R286, R294, R460). -/
def Coll.combine (x : Coll) (got : List Nat) : List Nat :=
  let a := if x.keepsLow then x.vals else got
  let b := if x.keepsLow then got else x.vals
  let w (l : List Nat) (i : Nat) : Nat := l.getD i 0
  match x.kind with
  | .barrier => [w a 0 ||| w b 0, w a 1 + w b 1]
  | .branch =>
    if w a 0 = 0 then [w b 0, w b 1, w x.vals 2]
    else if w b 0 = 0 then [1, w a 1, w x.vals 2]
    else [1, combineSumm (w x.vals 2) [w a 1, w b 1], w x.vals 2]
  | _ => [w a 0 ||| w b 0]

/-- The partner's message of the step a collective is in, once it has all come: its bytes, and the lost 64-byte parts. -/
def State.message (s : State) (x : Coll) : Option (List Byte × List Nat) :=
  let ps := (s.fab.inbox.filter fun q => q.group = x.chan && q.seq = x.seq && q.j = x.j).mergeSort fun a b => a.off ≤ b.off
  let bs := ps.flatMap (·.bytes)
  if bs.length < x.expects then none else some (bs, ps.flatMap fun q => (bitsSet 4 q.bad).map fun i => 256 * q.off + 64 * i)

/-- Carry out the step a collective is in with the partner's message; none where its descriptor failed. -/
def State.takeStep (s : State) (x : Coll) (m : List Byte × List Nat) : Coll × State :=
  match x.kind with
  | .reduce => s.reduceStep x ((List.range (x.expects / 2)).map fun i => leAt m.1 (2 * i) 2)
  | .gather =>
    let a := x.dst + (x.blocks.1 ^^^ 2 ^ x.j) * x.n
    let r := putBytes (s.ctxWho x.own.c) (.mod a) m.1 s
    let t := m.2.foldl (fun t o => t.poisonLines (a + o) (min 64 (m.1.length - o))) r.s
    ({ x with j := x.j + 1, lost := x.lost || m.2 != [], denied := x.denied || r.denied }, t)
  | _ => ({ x with vals := x.combine ((List.range 3).map fun i => leAt m.1 (4 * i) 4), j := x.j + 1 }, s)

/-- Let a collective go on as far as what has arrived allows; fin closes one whose exchanges are over. -/
def State.advance (s : State) (fin : Coll → State → State) (o : Owner) : Nat → State
  | 0 => s
  | fuel + 1 =>
    match s.fab.colls.find? (·.own = o) with
    | none => s
    | some x =>
      if x.denied then s.endColl x stDenied
      else if x.steps ≤ x.j then fin x (s.dropColl x)
      else
        match s.message x with
        | none => s
        | some m =>
          let r := s.takeStep x m
          let t := r.2.updFab fun f =>
            { f with colls := f.colls.map fun y => if y.own = o then r.1 else y
                     inbox := f.inbox.filter fun q => !(q.group = x.chan && q.seq = x.seq && q.j = x.j) }
          (if r.1.j < r.1.steps && !r.1.denied then t.sendStep r.1 else t).advance fin o fuel

/-- Begin a collective under the next sequence number of its order. -/
def State.beginColl (s : State) (fin : Coll → State → State) (x : Coll) : State :=
  let g := s.group s.sendEpoch x.group
  let ms := match g with | some g => g.members | none => []
  let y := { x with seq := mapGet 0 s.fab.seqs x.chan, rank := ms.idxOf s.self % max ms.length 1, k := ms.length.log2 }
  let t := s.updFab fun f => { f with colls := f.colls ++ [y], seqs := mapSet 0 f.seqs x.chan ((y.seq + 1) % 2 ^ 32) }
  (if 0 < y.k then t.sendStep y else t).advance fin y.own 64

/-- Close REDUCE, GATHER and SYNC. -/
def Coll.finish (x : Coll) (s : State) : State :=
  let w := s.ctxWho x.own.c
  match x.kind with
  | .reduce =>
    let r := putBytes w (.mod x.dst) (x.vals.flatMap (leBytes 2)) s
    r.s.complete x.own.c x.own.p r.status
  | .gather => s.complete x.own.c x.own.p (if x.lost then stDataError else stSuccess)
  | .sync =>
    if x.dst = 0 then s.complete x.own.c x.own.p stSuccess
    else
      let r := s.store w (.mod x.dst) (leBytes 4 (x.vals.headD 0))
      r.2.complete x.own.c x.own.p r.1.status
  | _ => s

/-- Checks of REDUCE, GATHER and SYNC (Table 13-5). -/
def chkColl (d : Desc) : Nat :=
  let n := d.u32 20
  if d.op = 0x40 then
    (if isLocal (d.u64 24) && isLocal (d.u64 32) && decide (1 ≤ n) && decide (n ≤ 2 ^ 31) then 0 else stInvalidField)
  else if d.op = 0x41 then
    (if isLocal (d.u64 24) && isLocal (d.u64 32) && n % 64 = 0 && decide (n ≤ 2 ^ 31) then 0 else stInvalidField)
  else (if isLocal (d.u64 32) then 0 else stInvalidField)

/-- A collective of a group that the module's table holds (R457). -/
def State.withGroup (s : State) (c : Nat) (d : Desc) (f : State → State) : State :=
  if (s.group s.sendEpoch (d.u16 16)).isNone then s.complete c d.ptr stInvalidField else f s

def State.reduce (s : State) (c : Nat) (d : Desc) : State :=
  s.withGroup c d fun t =>
    let r := getBytes (t.ctxWho c) (daddr (d.u64 24)) (2 * d.u32 20) t
    if r.2.status != stSuccess then r.2.s.complete c d.ptr r.2.status
    else
      (r.2.s.working c d.ptr).beginColl Coll.finish
        { own := ⟨c, d.ptr⟩, kind := .reduce, group := d.u16 16, n := d.u32 20, src := d.u64 24 % 2 ^ 40,
          dst := d.u64 32 % 2 ^ 40, tbase := d.u16 40, vals := (List.range (d.u32 20)).map fun i => leAt r.1 (2 * i) 2 }

def execReduce (c n : Nat) (s : State) : Res := onUnit (ctxOk c) (s.runDesc c n 0x40 fun d t => t.reduce c d)

def State.gather (s : State) (c : Nat) (d : Desc) : State :=
  s.withGroup c d fun t =>
    let n := d.u32 20
    let rank := match t.group t.sendEpoch (d.u16 16) with | some g => g.members.idxOf t.self | none => 0
    let dst := d.u64 32 % 2 ^ 40
    let m := moveRows (t.ctxWho c) (daddr (d.u64 24)) (.mod (dst + rank * n)) n 1 0 0 t
    if m.denied || m.cut then m.s.complete c d.ptr m.status
    else
      (m.s.working c d.ptr).beginColl Coll.finish
        { own := ⟨c, d.ptr⟩, kind := .gather, group := d.u16 16, n := n, dst := dst, lost := m.lost }

def execGather (c n : Nat) (s : State) : Res := onUnit (ctxOk c) (s.runDesc c n 0x41 fun d t => t.gather c d)

def State.syncGroup (s : State) (c : Nat) (d : Desc) : State :=
  s.withGroup c d fun t =>
    (t.working c d.ptr).beginColl Coll.finish
      { own := ⟨c, d.ptr⟩, kind := .sync, group := d.u16 16, dst := d.u64 32 % 2 ^ 40, vals := [d.u64 24 % 2 ^ 32] }

def execSync (c n : Nat) (s : State) : Res := onUnit (ctxOk c) (s.runDesc c n 0x42 fun d t => t.syncGroup c d)

/-- Not all of a collective's packets have come in time (R461). -/
def execCollectiveTimeout (c n : Nat) (s : State) : Res :=
  onUnit (ctxOk c) (match s.fab.colls.find? fun x => x.own = ⟨c, n⟩ && x.kind != .barrier && x.kind != .actions with
    | some x => s.endColl x stTimeout
    | none => s)

/-- A packet of a collective arrives: kept for the step it belongs to, or discarded and counted where its collective has
completed (R461). -/
def State.collArrive (s : State) (p cls : Nat) (fin : Coll → State → State) (q : List Byte) : Option State :=
  let tag := pktTag q
  let chan := 4 * pktGroup q + cls
  let live := s.fab.colls.find? fun x => x.chan = chan && x.seq = pktSeq q
  let ahead := (pktSeq q + 2 ^ 32 - mapGet 0 s.fab.seqs chan) % 2 ^ 32
  let k : CPkt := { group := chan, seq := pktSeq q, j := Machine.fld tag 27 16, off := pktAddr q,
                    bytes := (pktPayload q).take (tag % 65536), bad := if cls = 0 then tag / 2 ^ 28 else 0 }
  let keep (t : State) : State := t.updFab fun f => { f with inbox := f.inbox ++ [k] }
  some (match live with
    | some x => (keep s).advance fin x.own 64
    | none => if ahead < 2 ^ 31 then keep s else s.eventF (portDie p) 0x69 0 1)

def execPktCollectiveData (p : Nat) (s : State) : Res :=
  onUnit (portOk p) (s.handle p 6 fun q t => t.collArrive p 0 Coll.finish q)

end Sys2Proof.Machine
end

