-- ==== Sys2Proof/Machine/Layers.lean ====
section
/-! DEFINITION. Layer descriptors: layer records (R271 to R274), LAYER_FWD and LAYER_BWD (R275 to R280), the inputs of tile reads
(R68 to R72), digital substitution (R281), and LOSS (R283). -/

namespace Sys2Proof.Machine

/-- A layer record (Table 8-3). -/
structure LRec where
  layer : Nat := 0
  kind : Nat := 0
  watch : Bool := false
  outl : Bool := false
  k : Nat := 0
  n : Nat := 0
  part : Nat := 0
  tileList : Nat := 0
  master : Nat := 0
  mpitch : Nat := 0
  outKernel : Nat := 0
  outKarg : Nat := 0
  olist : Nat := 0
  orow : Nat := 0

def parseLRec (b : List Byte) : LRec :=
  { layer := leAt b 0 2, kind := leAt b 2 1, watch := (leAt b 3 1).testBit 0, outl := (leAt b 3 1).testBit 1,
    k := leAt b 4 4, n := leAt b 8 4, part := leAt b 12 1, tileList := leAt b 16 8, master := leAt b 24 8,
    mpitch := leAt b 32 4, outKernel := leAt b 36 4, outKarg := leAt b 40 8, olist := leAt b 48 8, orow := leAt b 56 8 }

/-- Row blocks and column blocks (R272). -/
def LRec.rb (l : LRec) : Nat := ceilDiv l.k 480
def LRec.cb (l : LRec) : Nat := ceilDiv l.n 512

/-- Fields in their ranges (R271, R272). -/
def LRec.ok (l : LRec) (npart : Nat) : Bool :=
  decide (l.layer ≤ 4095) && decide (l.kind ≤ 1) && decide (1 ≤ l.k) && decide (1 ≤ l.n) && decide (l.n ≤ 2 ^ 24) &&
  decide (l.part < npart) &&
  (if l.kind = 0 then decide (l.k ≤ 245760) && isLocal l.master && decide (ceilDiv l.n 16 ≤ l.mpitch) && l.master % 64 = 0
   else decide (l.k ≤ 16773120))

/-- Units of a partition that are still in HOLD: step descriptors that need them do not start (R208, R256). -/
def State.unitsHeld (s : State) (part : Nat) : Bool :=
  [0, 1].any fun f => (s.shareUnits f part).any fun u =>
    (!(s.mu u).ok && !(s.mu u).fenced) || (!(s.drv (u / 2)).ok && !(s.drv (u / 2)).fenced)

/-- A kernel is resident on every engine that could receive the work (R254). -/
def State.residentOn (s : State) (es : List Nat) (id : Nat) : Bool := es.all fun e => ((s.drv e).find id).isSome

/-- Read a record whose address must be aligned to 64 bytes. -/
def State.readRec64 (s : State) (w : Who) (addr : Nat) : (Nat ⊕ List Byte) × State :=
  if addr % 64 != 0 || !localOrHost addr then (.inl stInvalidField, s) else s.readRecord w addr 64

/-- A product record read and checked: by its own fields, its formats, the residency of its kernel and the rights on its
operands (R188, R189, R254). -/
def State.readPrec (s : State) (w : Who) (addr part : Nat) (g16 : Bool) : (Nat ⊕ Prec) × State :=
  let r := s.readRec64 w addr
  match r.1 with
  | .inl st => (.inl st, r.2)
  | .inr b =>
    let p := parsePrec b
    if p.status != 0 then (.inl p.status, r.2)
    else if g16 && p.mode != 2 then (.inl stUnsupported, r.2)
    else if !r.2.residentOn (r.2.partEngines part) p.kernel then (.inl stNotResident, r.2)
    else
      let q := r.2.operandsReadable w.master p
      (if q.1 then .inr p else .inl stDenied, q.2)

/-- Hand a product to the shepherd cores under a new key. -/
def State.addProduct (s : State) (p : Product) : State :=
  s.updTrn fun t => { t with prods := t.prods ++ [{ p with key := t.keyNext }], keyNext := t.keyNext + 1 }

/-- Drive of a code at relative exponent e, in taps (R69, Table 3-2). -/
def tapsOf (q : Int) (e : Nat) : Int :=
  let d : Nat := q.natAbs * 8 / 2 ^ e
  if q < 0 then -(d : Int) else (d : Int)

/-- The input of one tile for one vector (R68 to R70): codes and exponents of its 480 rows, the reference exponent, the
pulses, and the blocks dropped by at least four octaves. -/
structure TileIn where
  codes : List Int := []
  exps : List Nat := []
  et : Nat := 0
  taps : List Int := []
  drops : Nat := 0

def tileInput (lines : List Byte) (blk width : Nat) : TileIn :=
  let line (i : Nat) : List Byte := (lines.drop (64 * (i / 120))).take 64
  let codes := (List.range 480).map fun i => if i < width then Fmt.t4.codeVal (lineCode .t4 (line i) (i % 120)) else 0
  let byteAt (i : Nat) : Nat := ((line i).getD (i % 120 / blk) 0).toNat
  let exps := (List.range 480).map fun i => byteAt i % 64
  let et := (List.range (480 / blk)).foldl (fun m b => max m (byteAt (b * blk) % 64)) 0
  let taps := (List.range 480).map fun i =>
    let e := exps.getD i 0
    if e = 0 then 0 else tapsOf (codes.getD i 0) (et - e)
  let drops := ((List.range (480 / blk)).filter fun b =>
    let e := byteAt (b * blk) % 64
    e != 0 && decide (4 ≤ et - e)).length
  { codes := codes, exps := exps, et := et, taps := taps, drops := drops }

/-- Reads per vector of a tile, and parts it adds to a chain (R85, R90). -/
def State.tileReads (s : State) (p n : Nat) : Nat :=
  match s.fld (tileCfgOff p n) 11 10 with
  | 0 => 1
  | 1 => 2
  | _ => 4

def State.chainWeight (s : State) (p n : Nat) : Nat := s.tileReads p n * (if s.replica p n then 2 else 1)

/-- What a layer descriptor needs of its tiles: one die per chain, the limit of R85, and every tile mapped and enabled. The
status of the first it lacks, 0 where none. -/
def State.tilesStatus (s : State) (rb : Nat) (chains : List (List Nat)) : Nat :=
  let bad (ts : List Nat) : Bool := ts.any (· / 8192 != ts.headD 0 / 8192) ||
    (let m := ts.foldl (fun m t => max m (s.chainWeight (t / 8192) (t % 8192))) 1
     512 / m < rb)
  if chains.any bad then stInvalidField
  else if chains.any fun ts => ts.any fun t =>
      (s.ptile (t / 8192) (t % 8192)).isNone || !s.bit (tileCfgOff (t / 8192) (t % 8192)) 15 then stNotInService
  else 0

/-- Column blocks as lists of module-wide tiles, in row-block order (R272). -/
def tileChains (rb cb : Nat) (bs : List Byte) : List (List Nat) :=
  (List.range cb).map fun c => (List.range rb).map fun r => leAt bs (2 * (c * rb + r)) 2

/-- The product that substitutes a tile read (R281): its B is the tile's block of the master, at row 480·rb and column 512·cb. -/
def substProduct (own : Owner) (prod part master : Nat) (recomp eval : Bool) (chain tile rb cb cols k : Nat) (m mpitch : Nat)
    (x : TileIn) : Product :=
  { own := own, prod := prod, part := part, master := master, recomp := recomp, eval := eval,
    info := { aAddr := 0, bAddr := m + 480 * rb * mpitch * 64 + 2048 * cb, m := 1, n := cols, k := min 480 (k - 480 * rb), mode := 2,
              bPitch := mpitch, bKs := true, aFmt := 1, bFmt := 0 },
    sub := some { chain := chain, rb := rb, tile := tile, xs := List.zip x.codes x.exps } }

/-- A work item of an array layer: its record, its descriptor and what its reads share. -/
structure LayerJob where
  own : Owner := {}
  prod : Nat := 0
  l : LRec := {}
  out : WSlot := {}
  recomp : Bool := false
  eval : Bool := false
  master : Nat := 0

/-- The chain of one output vector and column block, with its tile reads and substitutions (R76, R84, R281). Tiles that
deliver no part take no read. -/
def State.makeChain (s : State) (j : LayerJob) (v cb : Nat) (ts : List Nat) (ins : List TileIn) : State :=
  let p := ts.headD 0 / 8192
  let key := s.trn.keyNext
  let cols := min 512 (j.l.n - 512 * cb)
  let es := s.engines (p / 4) j.l.part
  let idx := List.range ts.length
  let fenced (r : Nat) : Bool := (s.tile p (ts.getD r 0 % 8192)).st = .fenced
  let live (r : Nat) : Bool := !fenced r && (ins.getD r {}).taps.any (· != 0)
  let reads := idx.filter live
  let subs := idx.filter fenced
  let sampled (t : State) : Bool × State :=
    if t.bit 0x304 31 && !j.eval && (t.die p).noSample = 0 then
      let f := t.takeFree
      (decide (f.1 % 2 ^ 20 < min (t.fld 0x304 12 0) 4096), f.2)
    else (false, t)
  let c : AChain :=
    { key := key, own := j.own, prod := j.prod, vec := v, cb := cb, ncb := j.l.cb, cols := cols, die := p,
      tiles := ts.map (· % 8192), kernel := j.l.outKernel, karg := j.l.outKarg, layer := j.l.layer,
      engine := es.getD (cb % max es.length 1) 0, out := j.out, recomp := j.recomp, eval := j.eval,
      left := (reads.map fun r => s.tileReads p (ts.getD r 0 % 8192)).foldl (· + ·) 0,
      subLeft := subs.length * ceilDiv cols 128 }
  let s1 := ({ s with chains := s.chains ++ [c] } : State).updTrn fun t => { t with keyNext := key + 1 }
  let s2 := reads.foldl (fun t r =>
    let n := ts.getD r 0 % 8192
    let x := ins.getD r {}
    let q := sampled t
    let k := t.tileReads p n
    q.2.updDie p fun d => { d with reads := d.reads ++
      [{ chain := key, tile := n, taps := x.taps, et := x.et, drops := x.drops, codes := x.codes, exps := x.exps,
         sample := q.1, own := List.replicate 512 0, part := j.l.part, rb := r,
         todo := (List.range k).map fun i => { rep := i }, left := k }] }) s1
  subs.foldl (fun t r => t.addProduct
    (substProduct j.own j.prod j.l.part j.master j.recomp j.eval key (ts.getD r 0) r cb cols j.l.k j.l.master j.l.mpitch
      (ins.getD r {}))) s2

/-- The inputs of one row block of an input row, read under the context's master ID. -/
def State.readInput (s : State) (w : Who) (x : WSlot) (l : LRec) (v r : Nat) : (Nat ⊕ TileIn) × State :=
  let have_ := linesPerRow .t4 x.len
  let n := min 4 (have_ - 4 * r)
  let q := s.readRecord w (x.rowAt v + 256 * r) (64 * n)
  (match q.1 with
   | .inl st => .inl st
   | .inr bs => .inr (tileInput (padTo 256 0 bs) x.blk (min 480 (l.k - 480 * r))), q.2)

/-- All row blocks of one row; the status of the first read that fails. -/
def State.readRowIn (s : State) (w : Who) (x : WSlot) (l : LRec) (v : Nat) : (Nat ⊕ List TileIn) × State :=
  (List.range l.rb).foldl (fun a r =>
    match a.1 with
    | .inl st => (.inl st, a.2)
    | .inr xs =>
      let q := a.2.readInput w x l v r
      match q.1 with
      | .inl st => (.inl st, q.2)
      | .inr i => (.inr (xs ++ [i]), q.2)) ((.inr [], s) : (Nat ⊕ List TileIn) × State)

/-- The outlier rows placed in fold SRAM before the first read (R276). -/
def State.putOutlierRows (s : State) (w : Who) (l : LRec) : Nat × State :=
  let g := l.rb
  let list := s.readRecord w l.olist (16 * g)
  match list.1 with
  | .inl st => (st, list.2)
  | .inr rec_ =>
    (List.range (l.cb * g * 8)).foldl (fun (a : Nat × State) i =>
      if a.1 != 0 then a
      else
        let cb := i / (8 * g)
        let ge := i % (8 * g)
        let cols := min 512 (l.n - 512 * cb)
        let at_ := l.orow + cb * 8192 * g + 1024 * ge
        let row := outlierRow ((rec_.drop (16 * (ge / 8))).take 16) (groupWidth l.k (ge / 8)) (ge % 8)
        let src := match row with
          | some r => a.2.readRecord w (l.master + (480 * (ge / 8) + r) * l.mpitch * 64 + 2048 * cb) (4 * cols)
          | none => (.inr [], a.2)
        match src.1 with
        | .inl st => (st, src.2)
        | .inr bs =>
          let vals := (List.range 512).map fun c =>
            if 4 * c + 4 ≤ bs.length then (fcvt fp32 bf16 .rne (leAt bs (4 * c) 4)).1 else 0
          let q := src.2.store w (daddr at_) (vals.flatMap (leBytes 2))
          (q.1.status, q.2)) (0, list.2)

/-- The address lies in fold SRAM. -/
def inSram (z a : Nat) : Bool := isLocal a && (placeOf z (a % 2 ^ 40)).onSram

/-- Checks of a LAYER_FWD by its own fields (Table 8-4). -/
def chkLayerFwd (d : Desc) : Nat :=
  if !localOrHost (d.u64 16) || d.u64 16 % 64 != 0 || !localOrHost (d.u64 24) || d.u32 36 = 0 || 2 ^ 24 < d.u32 36 then
    stInvalidField else 0

/-- The forward pass of a DIGITAL layer: its G16 product (R274). -/
def State.fwdDigital (s : State) (c : Nat) (d : Desc) (l : LRec) : State :=
  let r := s.readPrec (s.ctxWho c) (d.u64 24) l.part true
  match r.1 with
  | .inl st => r.2.complete c d.ptr st
  | .inr p =>
    let o : Owner := ⟨c, d.ptr⟩
    let rc := (d.u8 40).testBit 0
    (r.2.addWork { own := o, op := 0x11, recomp := rc, eval := d.pass, layer := l.layer }).addProduct
      { own := o, prod := d.prod, info := p, part := l.part, master := s.ctxMaster c, recomp := rc, eval := d.pass }

/-- The array input of a LAYER_FWD (R68, R240), and its output tensor where the block accumulator writes it (R86). -/
def layerTensors (l : LRec) (bi bo : List Byte) : Nat ⊕ (WSlot × WSlot) :=
  let i := parseTensor bi
  let o := parseTensor bo
  if i.status != 0 then .inl i.status
  else if i.fmt != 4 then .inl stUnsupported
  else if l.outKernel = 0 && o.status != 0 then .inl o.status
  else .inr (i, o)

/-- Materialise the reads of every input row and column block, in order (R276). -/
def State.makeReads (s : State) (w : Who) (j : LayerJob) (x : WSlot) (v0 nv : Nat) (chains : List (List Nat)) :
    Nat × State :=
  (List.range nv).foldl (fun (a : Nat × State) i =>
    if a.1 != 0 then a
    else
      let r := a.2.readRowIn w x j.l (v0 + i)
      match r.1 with
      | .inl st => (st, r.2)
      | .inr ins => (0, (List.range chains.length).foldl (fun t cb => t.makeChain j (v0 + i) cb (chains.getD cb []) ins) r.2))
    (0, s)

/-- Forget the chains, reads and products of a descriptor. -/
def State.dropReads (s : State) (o : Owner) : State :=
  let keys := (s.chains.filter (·.own = o)).map (·.key)
  ({ s with
      chains := s.chains.filter (·.own != o)
      dies := s.dies.map fun kv => (kv.1, { kv.2 with reads := kv.2.reads.filter fun r => !keys.contains r.chain }) } : State).updTrn
    fun t => { t with prods := t.prods.filter (·.own != o) }

/-- Record an outlier list in use (R49). -/
def State.useList (s : State) (l : LRec) : State :=
  if l.outl && !s.trn.olists.contains (l.olist, l.rb) then s.updTrn fun t => { t with olists := t.olists ++ [(l.olist, l.rb)] }
  else s

/-- Put the work of an array layer in hand, once every check has passed. -/
def State.fwdStart (s : State) (c : Nat) (d : Desc) (l : LRec) (x out : WSlot) (chains : List (List Nat)) : State :=
  let w := s.ctxWho c
  let o : Owner := ⟨c, d.ptr⟩
  let rc := (d.u8 40).testBit 0
  let s0 := s.useList l
  let r0 := if l.outl then s0.putOutlierRows w l else (0, s0)
  if r0.1 != 0 then r0.2.complete c d.ptr r0.1
  else
    let s1 := r0.2.addWork { own := o, op := 0x11, recomp := rc, eval := d.pass, layer := l.layer }
    let j : LayerJob := { own := o, prod := d.prod, l := l, out := out, recomp := rc, eval := d.pass, master := w.master }
    let r := s1.makeReads w j x (d.u32 32) (d.u32 36) chains
    if r.1 != 0 then ((r.2.dropReads o).failWork o r.1).finishWork o
    else (r.2.chainSettle 65536).finishWork o

/-- The forward pass of an ARRAY layer (R272, R275, R276). -/
def State.fwdArray (s : State) (c : Nat) (d : Desc) (l : LRec) : State :=
  let w := s.ctxWho c
  let bi := s.readRec64 w (d.u64 24)
  let bo := if l.outKernel = 0 then bi.2.readRec64 w (d.u64 48) else (.inr [], bi.2)
  let tl := bo.2.readRecord w l.tileList (2 * l.rb * l.cb)
  match bi.1, bo.1, tl.1 with
  | .inl st, _, _ => bi.2.complete c d.ptr st
  | _, .inl st, _ => bo.2.complete c d.ptr st
  | _, _, .inl st => tl.2.complete c d.ptr st
  | .inr i, .inr o, .inr ts =>
    let chains := tileChains l.rb l.cb ts
    let st := tl.2.tilesStatus l.rb chains
    let ps := (chains.map fun ts => ts.headD 0 / 8192).eraseDups
    match layerTensors l i o with
    | .inl e => tl.2.complete c d.ptr e
    | .inr x =>
      if st != 0 then tl.2.complete c d.ptr st
      else if l.outl && !inSram s.stripe l.orow then tl.2.complete c d.ptr stInvalidField
      else if l.outKernel != 0 && !ps.all fun p => s.residentOn (s.engines (p / 4) l.part) l.outKernel then
        tl.2.complete c d.ptr stNotResident
      else if ps.any fun p => (s.die p).state != .run then s
      else tl.2.fwdStart c d l x.1 x.2 chains

/-- The layers a step observes (R289). -/
def State.observe (s : State) (l : LRec) : State :=
  if l.watch && s.trn.opened && !s.trn.watched.contains l.layer then
    s.updTrn fun t => { t with watched := t.watched ++ [l.layer] } else s

/-- A layer record read and checked. -/
def State.withLayer (s : State) (c : Nat) (d : Desc) (f : LRec → State → State) : State :=
  let r := s.readRec64 (s.ctxWho c) (d.u64 16)
  match r.1 with
  | .inl st => r.2.complete c d.ptr st
  | .inr b =>
    let l := parseLRec b
    if !l.ok s.trn.npart then r.2.complete c d.ptr stInvalidField
    else if s.unitsHeld l.part then s
    else f l (if d.pass then r.2 else r.2.observe l)

def execLayerFwd (c n : Nat) (s : State) : Res :=
  onUnit (ctxOk c) (s.runDesc c n 0x11 fun d t => t.withLayer c d fun l u =>
    if l.kind = 0 then u.fwdArray c d l else u.fwdDigital c d l)

/-- Checks of a LAYER_BWD (Table 8-5). -/
def chkLayerBwd (d : Desc) : Nat :=
  let no (i : Nat) : Bool := (d.u8 48).testBit i
  if !localOrHost (d.u64 16) || d.u64 16 % 64 != 0 || (!no 0 && !localOrHost (d.u64 24)) || (!no 1 && !localOrHost (d.u64 32)) ||
     !localOrHost (d.u64 40) then stInvalidField else 0

/-- A widened weight-gradient record may not name a T4 or T2 operand (R291). -/
def Prec.narrowOperand (r : Prec) : Bool := r.aF = .t4 || r.bF = .t4 || r.aF = .t2 || r.bF = .t2

/-- A DWW_REC that names a T4 or T2 operand is refused whatever the layer's state; 0 names no record (R291, Table 8-5). -/
def State.widenedStatus (s : State) (w : Who) (d : Desc) : Nat × State :=
  if d.u64 40 = 0 then (0, s)
  else
    let r := s.readRec64 w (d.u64 40)
    match r.1 with
    | .inl st => (st, r.2)
    | .inr b => (if (parsePrec b).narrowOperand then stInvalidField else 0, r.2)

/-- The product record of dW: DWW_REC while an ARRAY layer is widened; a DIGITAL layer is the same in either state (R291). -/
def State.readDw (s : State) (w : Who) (d : Desc) (l : LRec) : (Nat ⊕ Prec) × State :=
  let r := s.widenedStatus w d
  if r.1 != 0 then (.inl r.1, r.2)
  else
    let wide := l.kind = 0 && d.u64 40 != 0 && s.trn.wide.contains l.layer
    r.2.readPrec w (if wide then d.u64 40 else d.u64 32) l.part (l.kind = 1)

/-- The tile list of an ARRAY layer, whose chains each lie on one die in either direction (R272). -/
def State.listStatus (s : State) (w : Who) (l : LRec) : Nat × State :=
  if l.kind = 1 then (0, s)
  else
    let r := s.readRecord w l.tileList (2 * l.rb * l.cb)
    match r.1 with
    | .inl st => (st, r.2)
    | .inr bs =>
      (if (tileChains l.rb l.cb bs).any (fun ts => ts.any (· / 8192 != ts.headD 0 / 8192)) then stInvalidField else 0, r.2)

/-- The backward pass of a layer: dX and dW as products (Table 8-5, R291). -/
def State.layerBwd (s : State) (c : Nat) (d : Desc) (l : LRec) : State :=
  let w := s.ctxWho c
  let o : Owner := ⟨c, d.ptr⟩
  let noDx := (d.u8 48).testBit 0
  let noDw := (d.u8 48).testBit 1
  let r0 := s.listStatus w l
  let r1 := if noDx then (.inr {}, r0.2) else r0.2.readPrec w (d.u64 24) l.part (l.kind = 1)
  if r0.1 != 0 then r0.2.complete c d.ptr r0.1
  else match r1.1 with
  | .inl st => r1.2.complete c d.ptr st
  | .inr px =>
    let r2 := if noDw then (.inr {}, r1.2) else r1.2.readDw w d l
    match r2.1 with
    | .inl st => r2.2.complete c d.ptr st
    | .inr pw =>
      let mk (p : Prec) (i : Nat) : Product := { own := o, prod := d.prod + i, info := p, part := l.part, master := w.master }
      let s1 := r2.2.addWork { own := o, op := 0x12, layer := l.layer }
      let s2 := if noDx then s1 else s1.addProduct (mk px 0)
      let s3 := if noDw then s2 else s2.addProduct (mk pw 1)
      s3.finishWork o

def execLayerBwd (c n : Nat) (s : State) : Res :=
  onUnit (ctxOk c) (s.runDesc c n 0x12 fun d t => t.withLayer c d fun l u => u.layerBwd c d l)

/-- The engines of a LOSS: those named, or every one that serves units of partition 0 (Table 8-7). -/
def State.lossEngines (s : State) (d : Desc) : List Nat := if d.engines = [] then s.partEngines 0 else d.engines

/-- LOSS: run requests of the loss kernel on the named engines, or on those of partition 0 (R283). -/
def State.lossRun (s : State) (c : Nat) (d : Desc) : State :=
  let es := s.lossEngines d
  let o : Owner := ⟨c, d.ptr⟩
  if s.unitsHeld 0 then s
  else if !s.residentOn es (d.u32 24) then s.complete c d.ptr stNotResident
  else
    let req (rank : Nat) : RunReq :=
      { own := o, kernel := d.u32 24, karg := d.u64 32, arg0 := d.u32 28, count := es.length, rank := rank, eval := d.pass }
    ((List.range es.length).foldl (fun t r => t.updDrv (es.getD r 0) fun q => { q with runs := q.runs ++ [req r] })
      (s.addWork { own := o, op := 0x15, eval := d.pass })).finishWork o

def execLoss (c n : Nat) (s : State) : Res := onUnit (ctxOk c) (s.runDesc c n 0x15 fun d t => t.lossRun c d)

end Sys2Proof.Machine
end

