-- ==== Sys2Proof/Machine/Arrays.lean ====
section
/-! DEFINITION. The pasture arrays: MVMs, converters and overrange splitting (R72 to R79), code packets and the result buffer
(R80, R81), the parts added in the block accumulators (R83, R84, R89, R90), drift samples (R157), quiescing and the microcode
update (R98). -/

namespace Sys2Proof.Machine

/-- An event source of a pasture die, counted per logical field where it has instances. -/
def State.eventP (s : State) (p src n k : Nat) : State := s.event p src (n / 128) k

/-- Rows that a leaf drives (R76). -/
def Leaf.rows (l : Leaf) : Nat × Nat := (480 / 2 ^ l.level * l.group, 480 / 2 ^ l.level)

/-- Bytes of a full packet of a tile's next MVM (R80). -/
def State.packetBytes (s : State) (p n : Nat) : Nat := if (s.tile p n).mvms % 64 = 63 then 1186 else 1168

/-- Bytes that the packets of a tile's MVMs in progress will take (R80, R81). -/
def Tile.reserved (t : Tile) : Nat :=
  ((List.range t.banks.length).map fun j => if (t.mvms + 64 - j) % 64 = 0 then 1186 else 1168).foldl (· + ·) 0

/-- Bytes of the result buffer in use or reserved (R81). -/
def State.bufferUsed (s : State) (p : Nat) : Nat :=
  let d := s.die p
  (d.packets.map (·.bytes)).foldl (· + ·) 0 + (d.tiles.map fun kv => kv.2.reserved).foldl (· + ·) 0

/-- The read of a tile that starts its next MVM: the oldest with an MVM still to start, splits first (R79). -/
def State.nextRead (s : State) (p n : Nat) : Option TileRead := (s.die p).reads.find? fun r => r.tile = n && r.todo != []

def State.updRead (s : State) (p key n : Nat) (f : TileRead → TileRead) : State :=
  s.updDie p fun d => { d with reads := d.reads.map fun r => if r.chain = key && r.tile = n then f r else r }

/-- Inputs of a read, as the digital substitution takes them. -/
def TileRead.input (r : TileRead) : TileIn := { codes := r.codes, exps := r.exps, et := r.et, taps := r.taps, drops := r.drops }

/-- The layer record a chain's descriptor names, read again. -/
def State.layerOf (s : State) (c : AChain) : LRec :=
  match (s.ctx c.own.c).infl.find? (·.ptr = c.own.p) with
  | some d => parseLRec (s.look (daddr (d.u64 16)) 64)
  | none => {}

/-- A read that has not begun on a tile now FENCED is substituted (R281): its tile delivers no part. -/
def State.substitute (s : State) (p : Nat) (r : TileRead) : State :=
  match s.findChain r.chain with
  | none => s
  | some c =>
    let l := s.layerOf c
    let s1 := s.updDie p fun d => { d with reads := d.reads.filter fun x => !(x.chain = r.chain && x.tile = r.tile) }
    let s2 := s1.updChain r.chain fun c => { c with left := c.left - r.left, subLeft := c.subLeft + ceilDiv c.cols 128 }
    s2.addProduct (substProduct c.own c.prod r.part (s.ctxMaster c.own.c) c.recomp c.eval c.key (p * 8192 + r.tile) r.rb c.cb c.cols
      l.k l.master l.mpitch r.input)

/-- The drive of an MVM begins (R72, R75, R81, R91, R92): waits count in their sources. -/
def State.startMvm (s : State) (p n : Nat) (r : TileRead) : State :=
  let t := s.tile p n
  let active := (s.die p).reads.any fun x => x.tile = n && x.begun && (x.todo != [] || x.busy != [])
  if !active && !s.placeFree p n then s.waitPlace p n
  else if 524288 < s.bufferUsed p + s.packetBytes p n then s.eventP p 0x105 n 1
  else
    let s0 := if active then s else s.takePlaceOf p n
    let lf := r.todo.headD {}
    let s1 := s0.updRead p r.chain n fun x => { x with todo := x.todo.tail, busy := x.busy ++ [lf], begun := true }
    let s2 := (s1.updDie p fun d => { d with stepRead := true }).updTile p n fun t' =>
      { t' with st := if t.st = .fenced then .fenced else .read, mvms := (t.mvms + 1) % 64, banks := t.banks ++ [r.chain] }
    let s3 := (s2.eventP p 0x100 n 1).eventP p 0x102 n r.drops
    if r.drops = 0 then s3 else s3.setBit (tileStatOff p n) 2

/-- A tile starts an MVM once a place and buffer space are free; a read of a FENCED tile that has not begun is substituted instead, and one
of a tile in MUSTER or TEST waits, which is counted (R75, R81, R91, R92, R95, R98, R154, R174, R281). -/
def State.mvmStart (s : State) (p n : Nat) : State :=
  match s.nextRead p n with
  | none => s
  | some r =>
    let t := s.tile p n
    if (t.st = .fenced || (t.fence && t.st = .read)) && !r.begun then s.substitute p r
    else if (t.st = .ready || t.st = .read || t.st = .fenced) && (s.die p).state = .run && !s.quiesced p && !s.failSafe &&
        t.banks.length < 2 then
      s.startMvm p n r
    else if t.st = .muster then s.eventP p 0x122 n 1
    else if t.st = .test then s.eventP p 0x124 n 1
    else s

def execMvmStart (p n : Nat) (s : State) : Res := onUnit (tileOk p n) (s.mvmStart p n)

/-- The sum of a pair of physical columns over driven rows, in eighths of a sum unit. -/
def State.pairSum (s : State) (p pt pcol : Nat) (minor : Bool) (taps : List Int) (rows : Nat × Nat) : Int :=
  (List.range rows.2).foldl (fun a i =>
    let r := rows.1 + i
    let c := s.cells p pt r pcol
    let d : Int := if minor then (c.np : Int) - c.nm else (c.mp : Int) - c.mm
    a + taps.getD r 0 * d) 0

/-- A conversion: the code and the overrange flag, of a sum in eighths of a sum unit with an analogue error in units of
1/1,024 sum unit (R74). -/
def convert (k : Nat) (sum8 err : Int) : Int × Bool :=
  let v := 128 * sum8 + err
  let unit_ := 1024 * 2 ^ k
  (clampI (rneDiv v unit_) (-255) 255, decide (511 * unit_ < 2 * v.natAbs))

/-- Codes of a physical weight-column, major and minor. -/
def State.columnCode (s : State) (p n pt pcol : Nat) (taps : List Int) (rows : Nat × Nat) (err : List Int) :
    (Int × Bool) × (Int × Bool) :=
  let k := s.fld (tileCfgOff p n) 2 0
  (convert k (s.pairSum p pt pcol false taps rows) (err.getD (2 * pcol) 0),
   convert k (s.pairSum p pt pcol true taps rows) (err.getD (2 * pcol + 1) 0))

/-- Physical weight-columns whose converters can cause a split: 0 to 511 and the spares in use (R76). -/
def State.countedCols (s : State) (p n : Nat) : List Nat :=
  List.range 512 ++ ((List.range 16).filter fun i => s.fld (colMapOff p n i) 31 30 = 1).map (512 + ·)

/-- A sample of the drift tracker (R157): the response of the reference columns 528 to 531, their combined codes over the ideal sums of
their patterns, over the response recorded at the tile's last accepted muster. -/
def State.driftSample (s : State) (p pt : Nat) (k : Nat) (taps : List Int) (refs : List (Int × Int)) : State :=
  let sum := taps.foldl (· + ·) 0
  let g := mapGet (2 ^ 20) (s.mus p).refr pt
  if sum = 0 || g = 0 then s
  else
    let v (i : Nat) : Int := let r := refs.getD i (0, 0); (8 * r.1 + r.2) * 2 ^ k
    let num := (v 0 + v 1 - v 2 - v 3) * 8 * 2 ^ 40
    let ratio := (num / (4 * 135 * sum * (g : Int))).toNat
    s.updMus p fun m =>
      { m with ratioN := mapUpd 0 m.ratioN (fieldOf pt) (· + 1), ratioSum := mapUpd 0 m.ratioSum (fieldOf pt) (· + ratio) }

/-- A tile leaves READ when the last MVM of the reads it has begun, splits included, has ended (R91, R95). -/
def State.leaveRead (s : State) (p n : Nat) : State :=
  let t := s.tile p n
  if t.st = .read && t.banks = [] &&
     !((s.die p).reads.any fun r => r.tile = n && r.begun && (r.todo != [] || r.busy != [])) then s.setTileState p n .ready
  else s

/-- The codes of an MVM of a read are final: the read splits, or its packet goes to the result buffer (R74, R76 to R80). -/
def State.finishMvm (s : State) (p n : Nat) (r : TileRead) (err : List Int) : State :=
  let pt := (s.ptile p n).getD 0
  let lf := r.busy.headD {}
  let rows := lf.rows
  let code (pc : Nat) := s.columnCode p n pt pc r.taps rows err
  let counted := (s.countedCols p n).map code
  let ovr := counted.any fun c => c.1.2 || c.2.2
  let split := ovr && !s.bit (tileCfgOff p n) 8 && decide (lf.level < 3)
  let sixty := ((s.tile p n).mvms + 65 - (s.tile p n).banks.length) % 64 = 0
  let refs := (List.range 8).map fun i => code (528 + i)
  let s1 := s.updTile p n fun t => { t with banks := t.banks.tail }
  let s2 := s1.updRead p r.chain n fun x => { x with busy := x.busy.tail }
  if split then
    let half (g : Nat) : Leaf := { rep := lf.rep, level := lf.level + 1, group := 2 * lf.group + g }
    let s3 := s2.updRead p r.chain n fun x => { x with todo := half 0 :: half 1 :: x.todo, left := x.left + 1 }
    let s4 := ((s3.updChain r.chain fun c => { c with left := c.left + 1 }).eventP p 0x101 n 1).setBit (tileStatOff p n) 0
    s4.updDie p fun d => { d with packets := d.packets ++ [{ chain := r.chain, tile := n, leaf := lf, ovr := true, bytes := 16 }] }
  else
    let col (i : Nat) : Nat := if s.replica p n then (s.pcols p n (i % 256)).getD (i / 256) i else s.servedBy p n i
    let codes := (List.range 512).map fun i => let c := code (col i); (c.1.1, c.2.1)
    let s3 := if ovr then (s2.eventP p 0x103 n 1).setBit (tileStatOff p n) 1 else s2
    s3.updDie p fun d => { d with packets := d.packets ++
      [{ chain := r.chain, tile := n, leaf := lf, final := ovr, codes := codes, et := r.et, drops := r.drops,
         refs := if sixty then refs.map fun c => (c.1.1, c.2.1) else [], refOvr := (refs.take 4).any fun c => c.1.2 || c.2.2,
         bytes := if sixty then 1186 else 1168 }] }

/-- The oldest MVM in progress of a tile completes; err holds the analogue error of each signed column, major and minor by
physical weight-column, in units of 1/1,024 sum unit. -/
def State.mvmComplete (s : State) (p n : Nat) (err : List Int) : State :=
  match (s.tile p n).banks with
  | [] => s
  | key :: _ =>
    match (s.die p).reads.find? fun r => r.chain = key && r.tile = n with
    | some r => if r.busy = [] then s else (s.finishMvm p n r err).leaveRead p n
    | none => s

def execMvmComplete (p n : Nat) (err : List Int) (s : State) : Res := onUnit (tileOk p n) (s.mvmComplete p n err)

/-- The part of a column's codes from one leaf, in units of 1/8 sum unit before the tile's own scale (R83, R89). -/
def State.partOf (s : State) (p n : Nat) (q : Packet) (i : Nat) : Int :=
  let c := q.codes.getD i (0, 0)
  (8 * c.1 + c.2 - sext 6 (s.colRec p n i / 2 ^ 26)) * 2 ^ s.fld (tileCfgOff p n) 2 0

/-- All parts of a packet, for the 512 columns of its chain: of a tile in replica mode those of columns j and j + 256 (R89). It offers no
column from 256 on: what such a column gives is free. -/
def State.partsOf (s : State) (p : Nat) (q : Packet) : List (List Int) × State :=
  let cols (f : Nat → Int) : List Int := (List.range 512).map f
  if !s.replica p q.tile then ([cols (s.partOf p q.tile q)], s)
  else
    ([cols fun j => if j < 256 then s.partOf p q.tile q j else (Config.free (s.free + j) : Int),
      cols fun j => if j < 256 then s.partOf p q.tile q (j + 256) else 0], { s with free := s.free + 512 })

def addInts (a b : List Int) : List Int := List.zipWith (· + ·) a b

/-- A finished sample enters the check buffer, or is dropped where it is full (R473). -/
def State.keepSample (s : State) (p : Nat) (r : TileRead) : State :=
  if 256 ≤ s.flt.samples.length then s.eventF (foldOf p) 0x74 0 1
  else { s with flt := { s.flt with samples := s.flt.samples ++
    [{ die := p, ptile := (s.ptile p r.tile).getD 0, tile := r.tile, xs := List.zip r.codes r.exps, taps := r.taps, et := r.et,
       acc := r.own, part := r.part }] } }

/-- The parts of a packet are added into its chain (R83, R84), and into the sample of its read; a read whose leaves have all
come is over. -/
def State.addPacket (s : State) (p : Nat) (q : Packet) : State :=
  let ps := s.partsOf p q
  let x : CPart := { et := q.et, drop := q.drops != 0, final := q.final, w := 8 / s.chainWeight p q.tile, cols := ps.1 }
  let own := (ps.1.map fun l => l.map (shiftPart x.w 0)).foldl addInts (List.replicate 512 0)
  let s2 := ps.2.updChain q.chain fun c => { c with parts := c.parts ++ [x], left := c.left - 1 }
  let s3 := s2.updRead p q.chain q.tile fun r =>
    { r with own := addInts r.own own, left := r.left - 1, sample := r.sample && !q.final }
  match (s3.die p).reads.find? fun r => r.chain = q.chain && r.tile = q.tile with
  | some r =>
    if r.left != 0 then s3
    else
      let s4 := s3.updDie p fun d => { d with reads := d.reads.filter fun x => !(x.chain = q.chain && x.tile = q.tile) }
      if r.sample then s4.keepSample p r else s4
  | none => s3

/-- The muster engine observes the reference codes of a sampled packet as the die sends it (R80, R157). -/
def State.seeRefs (s : State) (p : Nat) (q : Packet) : State :=
  match (s.die p).reads.find? fun r => r.chain = q.chain && r.tile = q.tile with
  | some r =>
    if q.refs = [] || q.refOvr || q.final || q.leaf.level != 0 || q.drops != 0 then s
    else s.driftSample p ((s.ptile p q.tile).getD 0) (s.fld (tileCfgOff p q.tile) 2 0) r.taps (q.refs.take 4)
  | none => s

/-- A result of the die stands in its accumulator because the queue it goes to is full (R242). -/
def State.resultHeld (s : State) (p : Nat) : Bool :=
  s.chains.any fun c => c.die = p && c.kernel != 0 && s.chainReady c && decide (64 ≤ (s.drv c.engine).aq.length)

/-- The oldest packet of a die reaches the block accumulator (R80, R83, R84), which takes none while it holds a result: the die then fills
its buffer and waits (R81, R242). -/
def State.takePacket (s : State) (p : Nat) : State :=
  match (s.die p).packets with
  | [] => s
  | q :: rest =>
    if s.resultHeld p then s
    else
      let s1 := (s.seeRefs p q).updDie p fun d => { d with packets := rest }
      if q.ovr then s1
      else
        match s1.findChain q.chain with
        | none => s1
        | some c =>
          let f := s1.fetch baMaster (recAddr p q.tile 0) 2048
          if f.1.isNone then f.2
          else ((f.2.addPacket p q).chainSettle 65536).finishWork c.own

def execCodePacket (p : Nat) (s : State) : Res := onUnit (dieOk p) (if s.failSafe then s else s.takePacket p)

/-- Writing PST_DIE_CTL.QUIESCE (R98, R99). -/
def execDieQuiesce (master p : Nat) (on : Bool) (s : State) : Res :=
  onUnit (dieOk p) (s.guardedWrite master (pst p + 0x10) fun t => t.setDieQuiesce p on)

end Sys2Proof.Machine
end

