-- ==== Sys2Proof/Machine/Attn.lean ====
section
/-! DEFINITION. Attention record lists (R282) and the ring streams that feed them (R453 to R456). -/

namespace Sys2Proof.Machine

def chkAttn (d : Desc) : Nat :=
  let f := d.u8 31
  if d.u32 24 = 0 || 65536 < d.u32 24 || d.u64 16 % 64 != 0 || !localOrHost (d.u64 16) || 4095 < d.u16 28 ||
     (f.testBit 1 && !localOrHost (d.u64 32)) then stInvalidField else 0

/-- The reflected Gray code (R453). -/
def gray (p : Nat) : Nat := p ^^^ (p / 2)

/-- Members of a stream by ring position; none where the record does not give them. -/
def State.ringOrder (s : State) (w : Who) (b : List Byte) : Option (List Nat) × State :=
  if leAt b 2 1 = 0 then
    (match s.group s.sendEpoch (leAt b 0 2) with
     | some g => let ms := g.members; some ((List.range ms.length).map fun p => ms.getD (gray p) 0)
     | none => none, s)
  else
    let n := leAt b 4 2
    let r := s.readRecord w (leAt b 32 8) (2 * n)
    (match r.1 with
     | .inl _ => none
     | .inr l => (List.range n).mapM fun i =>
        let e := leAt l (2 * i) 2
        let o := oPos s.sendEpoch (e % 64)
        if s.bit o 31 then some (e / 64 % 256 * 64 + s.fld o 5 0) else none, r.2)

/-- Fields of a stream record in their ranges (Table 13-4). -/
def streamOk (b : List Byte) : Bool :=
  leAt b 2 1 ≤ 1 && (leAt b 2 1 = 0 || (decide (2 ≤ leAt b 4 2) && decide (leAt b 4 2 ≤ 16384) && localOrHost (leAt b 32 8))) &&
  decide (2 ≤ leAt b 6 2) && decide (leAt b 6 2 ≤ 64) && leAt b 8 4 % 64 = 0 && leAt b 8 4 != 0 &&
  decide (leAt b 8 4 ≤ 2 ^ 26) && isLocal (leAt b 16 8) && isLocal (leAt b 24 8)

/-- The stream of a descriptor with RING set (R453). -/
def State.readStream (s : State) (c : Nat) (d : Desc) : (Nat ⊕ Stream) × State :=
  let w := s.ctxWho c
  let r := s.readRecord w (d.u64 32) 64
  match r.1 with
  | .inl st => (.inl st, r.2)
  | .inr b =>
    if !streamOk b then (.inl stInvalidField, r.2)
    else
      let q := r.2.ringOrder w b
      match q.1 with
      | some ms =>
        if !ms.contains s.self || ms.length < 2 then (.inl stInvalidField, q.2)
        else (.inr { own := ⟨c, d.ptr⟩, group := leAt b 0 2, rev := (leAt b 3 1).testBit 0, nslot := leAt b 6 2,
                     blk := leAt b 8 4, id := leAt b 12 4, ownAddr := leAt b 16 8 % 2 ^ 40, slots := leAt b 24 8 % 2 ^ 40,
                     order := ms, pos := ms.idxOf s.self }, q.2)
      | none => (.inl stInvalidField, q.2)

/-- The slot an address lies in. -/
def Stream.slotOf (x : Stream) (a : Nat) : Option Nat :=
  let o := a % 2 ^ 40
  if x.slots ≤ o && o < x.slots + x.nslot * x.blk then some ((o - x.slots) / x.blk) else none

/-- The step whose block a slot holds that an operand is due to read, from the step its predecessors have reached (R454);
none past the end of the ring. -/
def Stream.due (x : Stream) (cur slot : Nat) : Option Nat :=
  let s := cur + (slot + x.nslot - (cur - 1) % x.nslot) % x.nslot
  if s < x.order.length then some s else none

/-- The ring steps that a record reads, and the step reached after it. -/
def Stream.readsOf (x : Stream) (cur : Nat) (p : Prec) : List Nat × Nat :=
  let ds := ([p.aAddr, p.bAddr].filterMap x.slotOf).filterMap (x.due cur)
  (ds, ds.foldl max cur)

/-- Records read in list order up to the first that breaks a rule, with that record's status (R282). -/
def State.readList (s : State) (c : Nat) (d : Desc) : List Prec × Nat × State :=
  let w := s.ctxWho c
  (List.range (d.u32 24)).foldl (fun (a : List Prec × Nat × State) i =>
    if a.2.1 != 0 then a
    else
      let r := a.2.2.readPrec w (d.u64 16 + 64 * i) (d.u8 30) false
      match r.1 with
      | .inr p => (a.1 ++ [p], 0, r.2)
      | .inl st => (a.1, st, r.2)) ([], 0, s)

/-- Put the records of a list in hand, each with the ring steps it waits for. -/
def State.addRecords (s : State) (c : Nat) (d : Desc) (x : Option Stream) (ps : List Prec) : State :=
  ((List.range ps.length).foldl (fun (a : Nat × State) i =>
    let p := ps.getD i {}
    let r := match x with | some x => x.readsOf a.1 p | none => ([], a.1)
    (r.2, a.2.addProduct { own := ⟨c, d.ptr⟩, prod := d.prod + i, info := p, part := d.u8 30, master := s.ctxMaster c,
                           recomp := (d.u8 31).testBit 0 && d.op = 0x13, eval := d.pass, reads := r.1,
                           ring := if r.1 = [] then none else some (r.1.foldl max 0) })) (1, s)).2

/-- ATTN_FWD and ATTN_BWD (R282). -/
def State.attn (s : State) (c : Nat) (d : Desc) : State :=
  let o : Owner := ⟨c, d.ptr⟩
  if s.trn.npart ≤ d.u8 30 then s.complete c d.ptr stInvalidField
  else if s.unitsHeld (d.u8 30) then s
  else
    let st := if (d.u8 31).testBit 1 then (match s.readStream c d with
        | (.inl e, t) => (e, none, t)
        | (.inr x, t) => (0, some x, t))
      else (0, none, s)
    if st.1 != 0 then st.2.2.complete c d.ptr st.1
    else
      let r := st.2.2.readList c d
      if r.2.1 = stNotResident then r.2.2.complete c d.ptr stNotResident
      else
        let s1 := r.2.2.addWork { own := o, op := d.op, recomp := (d.u8 31).testBit 0, eval := d.pass, layer := d.u16 28 }
        let s2 := match st.2.1 with
          | some x => s1.updFab fun f => { f with streams := f.streams ++ [x] }
          | none => s1
        let s3 := if r.2.1 = 0 then s2 else s2.failWork o r.2.1
        (s3.addRecords c d st.2.1 r.1).finishWork o

def execAttnFwd (c n : Nat) (s : State) : Res := onUnit (ctxOk c) (s.runDesc c n 0x13 fun d t => t.attn c d)
def execAttnBwd (c n : Nat) (s : State) : Res := onUnit (ctxOk c) (s.runDesc c n 0x14 fun d t => t.attn c d)

/-- The neighbour that blocks go to. -/
def Stream.next (x : Stream) : Nat :=
  let n := x.order.length
  x.order.getD ((if x.rev then x.pos + n - 1 else x.pos + 1) % max n 1) 0

def State.updStream (s : State) (o : Owner) (f : Stream → Stream) : State :=
  s.updFab fun g => { g with streams := g.streams.map fun x => if x.own = o then f x else x }

/-- A raw move that met lost lines gives its descriptor the data-error status (R349). -/
def State.failLost (s : State) (o : Owner) (lost : Bool) : State := if lost then s.failWork o stDataError else s

/-- A list with a number in it. -/
def addNew (a : Nat) (l : List Nat) : List Nat := if l.contains a then l else a :: l

/-- The port that ring data for a module of a group leaves by. -/
def State.ringPort (s : State) (group dst : Nat) : List Nat :=
  let tw := match s.group s.sendEpoch group with | some g => g.tw | none => false
  match s.hop s.sendEpoch tw true false dst with
  | .via p _ => [p]
  | _ => []

/-- Send the block of the next ring step (R454): this module's own at step 1, later the one received for the step before.
Packets carry the stream in the tag, the step in the sequence field, and in the address the offset and, above it, the lost
64-byte parts. -/
def State.sendBlock (s : State) (x : Stream) : State :=
  let st := x.sent + 1
  if x.order.length ≤ st || x.got + 1 < st then s
  else
    let a := if st = 1 then x.ownAddr else x.slots + (st - 2) % x.nslot * x.blk
    let r := getBytes (s.ctxWho x.own.c) (.mod a) x.blk s
    if r.2.denied then (r.2.s.failWork x.own stDenied).updStream x.own fun y => { y with sent := st }
    else
      let t := (List.range (ceilDiv x.blk 256)).foldl (fun (t : State) i =>
        let n := min 256 (x.blk - 256 * i)
        t.inject 3 7 x.next x.group (256 * i + 2 ^ 36 * (s.pieceMask (a + 256 * i) n)) x.id st ((r.1.drop (256 * i)).take n)) r.2.s
      let t1 := t.updStream x.own fun y => { y with sent := st, ports := (s.ringPort x.group x.next).foldr addNew y.ports }
      (t1.failLost x.own r.2.lost).finishWork x.own

def execRingStepSend (c n : Nat) (s : State) : Res :=
  onUnit (ctxOk c) (match s.fab.streams.find? (·.own = ⟨c, n⟩) with
    | some x => if s.failSafe then s else s.sendBlock x
    | none => s)

/-- A block may be overwritten: the records that read it have run, and it has been sent on (R454). -/
def State.slotFree (s : State) (x : Stream) (st : Nat) : Bool :=
  st ≤ x.nslot ||
  (!(s.trn.prods.any fun p => p.own = x.own && p.reads.contains (st - x.nslot)) &&
   (decide (st - x.nslot < x.sent) || decide (x.order.length ≤ st - x.nslot + 1)))

/-- Records that waited for a ring step may start. -/
def State.ringReady (s : State) (x : Stream) (got : Nat) : State :=
  s.updTrn fun t => { t with prods := t.prods.map fun p =>
    if p.own = x.own && (match p.ring with | some r => decide (r ≤ got) | none => false) then { p with ring := none } else p }

/-- A piece of a block lands in its slot; it waits in the landing buffer while the slot is still read (R454, R455). -/
def State.landRing (s : State) (port : Nat) (q : List Byte) : Option State :=
  match s.fab.streams.find? fun x => x.id = pktTag q && x.group = pktGroup q with
  | none => none
  | some x =>
    let st := pktSeq q
    if st != x.got + 1 || !s.slotFree x st then none
    else
      let off := pktAddr q % 2 ^ 36
      let n := min 256 (x.blk - off)
      let a := x.slots + (st - 1) % x.nslot * x.blk + off
      let w := s.store (s.ctxWho x.own.c) (.mod a) ((pktPayload q).take n)
      let lost := bitsSet 4 (pktAddr q / 2 ^ 36)
      let s1 := match w.1 with
        | .data _ _ => (lost.foldl (fun (t : State) i => t.poisonLines (a + 64 * i) 64) w.2).failLost x.own (lost != [])
        | _ => w.2.failWork x.own stDenied
      let whole := x.blk ≤ x.part + n
      let s2 := s1.updStream x.own fun y =>
        { y with part := if whole then 0 else y.part + n, got := if whole then st else y.got, ports := addNew port y.ports }
      some ((if whole then s2.ringReady x st else s2).finishWork x.own)

def execPktRingData (p : Nat) (s : State) : Res := onUnit (portOk p) (s.handle p 7 fun q t => t.landRing p q)

end Sys2Proof.Machine
end

