-- ==== Sys2Proof/Machine/Boundary.lean ====
section
/-! DEFINITION. The boundary work of STEP_BEGIN (R262, R267 to R270): spare takeovers (R211, R259), leftover request lists (R114),
muster results (R163), outlier lists (R49), the watch table and the widening states (R288, R292). -/

namespace Sys2Proof.Machine

/-- Free spares of a fold die (R182, R214, Tables 6-16 and 7-30). -/
def State.muSpares (s : State) (f : Nat) : List Nat := (rangeFrom (42 * f) 42).filter fun p => s.fld (muPhysOff p) 31 28 = 2

/-- A physical unit serves a logical index from now on; the one before keeps the state given and serves none. -/
def State.serveMu (s : State) (u p st : Nat) : State :=
  let old := s.muPhys u
  let s1 := s.setReg (muPhysOff old) (BitVec.ofNat 32 (2 ^ 28 * st + 0x7F))
  let s2 := (s1.setReg (muPhysOff p) (BitVec.ofNat 32 (2 ^ 28 + u))).setReg (muMapOff u) (BitVec.ofNat 32 (2 ^ 31 + p))
  (s2.setFlt fun x => { x with muMap := mapSet (if u < 40 then u else u + 2) x.muMap u p }).updMu u fun m => { m with fenced := false, ok := true }

/-- The words of a resident kernel from its fold die's image copy, none where the copy is gone or a line of it is lost. -/
def State.imageWords (s : State) (f : Nat) (r : Resident) : Option (List Nat) × State :=
  match s.imageSlot f r.id with
  | none => (none, s)
  | some i =>
    let q := s.readMem 1 mspMaster (imageAddr f i) (4 * r.words)
    (if q.2.1 then none else some ((List.range r.words).map fun j => w32At q.1 (4 * j)), q.2.2)

/-- The kernels of a logical engine are copied into the spare at their offsets; one whose copy is lost is not resident on it (R259; log
entry 152). -/
def State.copyKernels (s : State) (e : Nat) : State :=
  (s.drv e).res.foldl (fun t kv =>
    let w := t.imageWords (e / 20) kv.2
    w.2.updDrv e fun d => match w.1 with
      | some ws => { d with imem := (List.range kv.2.words).foldl (fun m i => mapSet 0 m (kv.2.ofs + i) (ws.getD i 0)) d.imem }
      | none => { d with res := d.res.filter (· != kv) }) (s.updDrv e fun d => { d with imem := [], ibad := [] })

/-- As above for a drover engine, whose local memory is zeroed (R259). -/
def State.serveDrv (s : State) (e p st : Nat) : State :=
  let old := s.drvPhys e
  let s1 := s.setReg (drvPhysOff old) (BitVec.ofNat 32 (2 ^ 28 * st + 0x3F))
  let s2 := (s1.setReg (drvPhysOff p) (BitVec.ofNat 32 (2 ^ 28 + e))).setReg (drvMapOff e) (BitVec.ofNat 32 (2 ^ 31 + p))
  ((s2.setFlt fun x => { x with drvMap := mapSet (if e < 20 then e else e + 1) x.drvMap e p }).updDrv e fun d =>
    { d with fenced := false, ok := true, loc := [], bad := [] }).copyKernels e

/-- A test of a physical unit is overdue (R175); drover engines are class 4. -/
def State.overdueOn (s : State) (cls p : Nat) : Bool := s.tests.any fun t => t.cls = cls && t.unit_ = p && t.overdue

def oTestPer (cls : Nat) : Nat := 0x1E0A004 + 4 * cls

/-- The last self-test that a physical unit passed is within its class period (R211, R259). A unit that has passed none since module reset
is tested before it enters service (R173). -/
def State.testFresh (s : State) (cls p : Nat) : Bool :=
  match mapFind s.flt.tested (if cls = 3 then p else 128 + p) with
  | none => false
  | some t => s.fld (oTestPer cls) 15 0 = 0 || decide (s.ts ≤ t + 12000000000 * s.fld (oTestPer cls) 15 0)

/-- A self-test that runs at once is queued for a physical unit. -/
def State.askSelfTest (s : State) (cls p : Nat) : State :=
  if s.tests.any fun t => t.cls = cls && t.unit_ = p && t.desc.isNone then
    { s with tests := s.tests.map fun t => if t.cls = cls && t.unit_ = p && t.desc.isNone then { t with forced := true } else t }
  else { s with tests := s.tests ++ [{ cls := cls, unit_ := p, slices := 1, forced := true }] }

/-- A spare is to take over a logical index: its unit is retired, or overdue, which is then fenced (R175, R211, R259, R478). -/
def State.muDue (s : State) (u : Nat) : Bool :=
  s.bit (muMapOff u) 31 && (mapGet false s.flt.gone (s.muPhys u) || s.overdueOn 3 (s.muPhys u))
def State.drvDue (s : State) (e : Nat) : Bool :=
  s.bit (drvMapOff e) 31 && (mapGet false s.flt.gone (128 + s.drvPhys e) || s.overdueOn 4 (s.drvPhys e))

/-- The spare takeovers due at a step boundary: by the lowest free spare of the fold die (DESIGN CHOICE, log entry 152), whose self-test
runs first where it is past its period. -/
def State.takeovers (s : State) : State :=
  let a := (List.range 80).foldl (fun t u =>
    match t.muSpares (u / 40) with
    | q :: _ => if !t.muDue u then t else if t.testFresh 3 q then t.serveMu u q (if mapGet false t.flt.gone (t.muPhys u) then 4 else 3)
      else t.askSelfTest 3 q
    | [] => t) s
  (List.range 40).foldl (fun t e =>
    match t.drvSpares (e / 20) with
    | q :: _ => if !t.drvDue e then t else if t.testFresh 4 q then t.serveDrv e q (if mapGet false t.flt.gone (128 + t.drvPhys e) then 4 else 3)
      else t.askSelfTest 4 q
    | [] => t) a

/-- Tests that STEP_BEGIN waits for (R175, R211, R259): of an overdue unit still in service, and of a spare that is to take over. -/
def State.testsBefore (s : State) : Bool :=
  (s.tests.any fun t => t.overdue && ((t.cls = 3 && (s.muOfPhys t.unit_).isSome) || (t.cls = 4 && (s.drvOfPhys t.unit_).isSome))) ||
  (List.range 80).any (fun u => s.muDue u && s.muSpares (u / 40) != []) || (List.range 40).any fun e => s.drvDue e && s.drvSpares (e / 20) != []

/-- Fences of physical units and tiles whose test has passed end at a step boundary (R175, Table 14-2). -/
def State.unfenceDue (s : State) : State :=
  (List.range 8).foldl (fun t p =>
    (t.die p).tiles.foldl (fun u kv =>
      let pt := (u.ptile p kv.1).getD 0
      if kv.2.st = .fenced && kv.2.unfence && mapGet 0 u.flt.ladder (p * 16384 + pt) = 0 then
        u.updTile p kv.1 fun x => { x with st := .ready, unfence := false } else u) t) s

/-- Dies whose request lists were left unapplied start to apply them (R114). -/
def State.flushLeft (s : State) : State :=
  (List.range 8).foldl (fun t p =>
    if (t.die p).state = .run && t.listLeft p != 0 && (t.port p).flush.isNone then
      ((t.newWindow p).updPort p fun q => { q with flush := some {} }).event p 0x115 0 1
    else t) s

def State.flushPending (s : State) : Bool := (List.range 8).any fun p => (s.port p).flush.isSome

/-- A write of the shepherd cores, judged like any other (R364, R392). -/
def State.shepherdWrite (s : State) (a : DAddr) (bs : List Byte) : State := (s.store ⟨0x2000, s.mspWho.link⟩ a bs).2

/-- A list of free bytes. -/
def freeBytes (s : State) : Nat → List Byte × State
  | 0 => ([], s)
  | n + 1 =>
    let v := s.takeFree
    let r := freeBytes v.2 n
    (BitVec.ofNat 8 v.1 :: r.1, r.2)

/-- Firmware rechooses the outlier lists in use from its statistics every OUTLIER_PERIOD steps; the choice is a free value, and
a replay keeps the lists (R49, R262). -/
def State.rechoose (s : State) (step : Nat) (replay : Bool) : State :=
  let p := s.fld 0x100 31 20
  if p = 0 || step % p != 0 || replay then s
  else s.trn.olists.foldl (fun t l =>
    let b := freeBytes t (16 * l.2)
    b.2.shepherdWrite (daddr l.1) b.1) s

/-- An entry of the watch table (Table 8-9). -/
structure Watch where
  eo : Nat := 0
  eg : Nat := 0
  left : Nat := 0
  state : Nat := 0
  nobs : Nat := 0

def parseWatch (b : List Byte) : Watch :=
  { eo := leAt b 0 4, eg := leAt b 4 4, left := leAt b 8 2, state := leAt b 10 1, nobs := leAt b 11 1 }

def Watch.bytes (w : Watch) : List Byte :=
  leBytes 4 w.eo ++ leBytes 4 w.eg ++ leBytes 2 w.left ++ leBytes 1 w.state ++ leBytes 1 w.nobs ++ leBytes 4 0

/-- The watch table's entries. -/
def parseTable (bs : List Byte) (n : Nat) : List Watch := (List.range n).map fun i => parseWatch ((bs.drop (16 * i)).take 16)

/-- The global-widening count of the step (R292). -/
def nextGw (gw : Nat) (ws : List Watch) : Nat :=
  if ws.any (1 ≤ ·.nobs) && ws.all fun w => w.nobs = 0 || w.state % 2 = 1 then gw + 1 else 0

/-- Shares of STEP_BEGIN: units of partition n on F0 and F1 (R268). -/
def Desc.shares (d : Desc) : List Nat := (List.range (2 * d.u8 19)).map fun i => d.u8 (20 + i)

def sharesOk (np : Nat) (sh : List Nat) : Bool :=
  let part (f n : Nat) : Nat := sh.getD (2 * n + f) 0
  let sum (f : Nat) : Nat := ((List.range np).map (part f)).foldl (· + ·) 0
  sum 0 = 40 && sum 1 = 40 && (List.range np).all fun n => part 0 n + part 1 n != 0

/-- Checks of STEP_BEGIN by its own fields (Table 8-2, R268). -/
def chkStepBegin (d : Desc) : Nat :=
  let np := d.u8 19
  if np = 0 || 4 < np || 4096 < d.u32 28 || !sharesOk np d.shares || d.u64 32 % 64 != 0 || !localOrHost (d.u64 32) then
    stInvalidField else 0

def Desc.first (d : Desc) : Bool := (d.u8 18).testBit 0

/-- The step number a STEP_BEGIN may carry (R262). -/
def State.stepMatches (s : State) (d : Desc) : Bool :=
  d.first || (s.bit oStepLval 0 && d.epoch = ((s.reg oStepLast).toNat + 1) % 2 ^ 32)

/-- Descriptors of the open step that are not complete, those that wait for the close aside (R263, R264): those that have
taken their place in it, and those fetched before the next STEP_BEGIN of the context. -/
def State.stepBusy (s : State) : Bool :=
  ((s.ctx s.trn.ctx).infl.takeWhile fun d => d.op != 0x10 || d.held.isSome).any fun d =>
    (d.step || (!d.started && d.held.isNone)) && !s.awaitsClose s.trn.ctx d

/-- A STEP_BEGIN is at its boundary work: its step is open and has entered no phase yet (R263, R270). -/
def State.atBoundary (s : State) : Bool := s.trn.opened && s.phase = 0

/-- A committed step whose descriptors have all completed closes when the next STEP_BEGIN is processed (R263). -/
def State.mayBegin (s : State) : Bool :=
  !s.trn.evalOpen && (!s.trn.opened || s.atBoundary || (s.fld oStepStat 31 28 = 4 && !s.stepBusy))

/-- What a step keeps of the previous attempt at its number is forgotten: partial sums and folds (R310, R312). -/
def State.clearAttempt (s : State) (step : Nat) : State :=
  (List.range 8).foldl (fun t k =>
    let x := t.shr k
    t.setShr k { x with partials := x.partials.filter fun kv => kv.2.1 != step + 1,
                        folded := x.folded.filter fun kv => kv.2 != step + 1 }) s

/-- Ring data of an earlier attempt for this module, still in landing buffers, is discarded at a replay (R456). -/
def State.dropRingData (s : State) : State :=
  (List.range 12).foldl (fun t p => ((t.lport p).rxq.filter fun q => pktOp q = 7 && pktDst q = s.self).foldl (fun u q => u.freePacket p q) t) s

/-- A step opens at the start of its STEP_BEGIN (R263); one still open closes first. -/
def State.beginStep (s : State) (c : Nat) : State :=
  if s.atBoundary then s
  else
    let s1 := if s.trn.opened then s.closeStep else s
    let s2 := s1.newWindows.updTrn fun t => { t with opened := true, ctx := c, causes := 0, lostCtx := false, barrier := none, decision := 0 }
    ((s2.setStepState 1).setPhase 0).setFld oStepStat 11 0 c

/-- A STEP_BEGIN that fails opens no step (R269, R568). -/
def State.failBegin (s : State) (c : Nat) (d : Desc) (st : Nat) : State :=
  let s1 := if s.atBoundary then
      (s.updTrn fun t => { t with opened := false }).setReg oStepStat (BitVec.ofNat 32 (s.fld oStepStat 23 12 * 4096)) else s
  s1.complete c d.ptr st

/-- Items 5 to 7 of R270: the watch table, the step number, the shares and the widening states; the step enters its first phase, in a
spare BACKWARD (R483). Records of the step before that are still in a FIFO go with the summary table (R245). -/
def State.openStep (s : State) (c : Nat) (d : Desc) (table : List Byte) : State :=
  let n := d.u32 28
  let fresh := d.first
  let s0 := s.drainAll
  let s1 := if fresh then (s0.store (s0.ctxWho c) (daddr (d.u64 32)) (List.replicate (16 * n) 0)).2.setFld oStepStat 23 12 0 else s0
  let ws := if fresh then [] else parseTable table n
  let s2 := ((s1.setReg oStepNum (BitVec.ofNat 32 d.epoch)).setReg oStepCause 0).clearAttempt d.epoch
  let s3 := s2.updTrn fun t =>
    { t with opened := true, ctx := c, causes := 0, group := d.u16 16, watch := (d.u8 18).testBit 1,
             nonfin := (d.u8 18).testBit 2, npart := d.u8 19, share := d.shares, nlayer := n, watchAddr := d.u64 32,
             wide := (List.range n).filter fun i => (ws.getD i {}).state % 2 = 1, watched := [],
             gw := nextGw (s1.fld oStepStat 23 12) ws, prodNext := 0, frac := s.fld 0x300 12 0, dropped := [], summ := [],
             loans := [], attempted := true, voidCtx := none }
  s3.lend.setPhase (if s.fld 0x310 31 30 = 1 then 3 else 1)

/-- The previous attempt at a step number was not committed: its STEP_BEGIN is a replay (R262). -/
def State.replays (s : State) (d : Desc) : Bool := s.trn.attempted && s.stepNo = d.epoch

/-- Items 1 to 4 of R270, in order: takeovers and overdue tests, then leftover request lists, then muster results and outlier lists. Says
whether all is done. -/
def State.boundaryWork (s : State) (d : Desc) : Bool × State :=
  let s1 := s.takeovers.unfenceDue
  if s1.testsBefore then (false, s1)
  else
    let s2 := s1.flushLeft
    if s2.flushPending then (false, s2)
    else
      let s3 := (List.range 8).foldl (fun t p => t.applyPending p) s2
      (true, (if s.replays d then s3.dropRingData else s3).rechoose d.epoch (s.replays d))

/-- STEP_BEGIN (R269, R270). It waits while a step or a pass is open. Its step is open from then on; it does the work of the boundary,
which may wait, and completes as the step enters its first phase. -/
def State.stepBegin (s : State) (c : Nat) (d : Desc) : State :=
  if !s.mayBegin then s
  else
    let w := s.ctxWho c
    let n := 16 * d.u32 28
    if d.u32 28 != 0 && !s.mayUse w rightW (d.u64 32) n then (s.denyAt w rightW (d.u64 32) n).failBegin c d stDenied
    else if d.first && d.u32 28 != 0 && !s.mayUse w rightR (d.u64 32) n then (s.denyAt w rightR (d.u64 32) n).failBegin c d stDenied
    else
      let r := if d.u32 28 = 0 || d.first then (.inr [], s) else s.readRecord w (d.u64 32) n
      match r.1 with
      | .inl st => r.2.failBegin c d st
      | .inr bs =>
        let q := (r.2.beginStep c).boundaryWork d
        if q.1 then (q.2.openStep c d bs).complete c d.ptr stSuccess else q.2

def execStepBegin (c n : Nat) (s : State) : Res := onUnit (ctxOk c) (s.runDesc c n 0x10 fun d t => t.stepBegin c d)

end Sys2Proof.Machine
end

