-- ==== Sys2Proof/Machine/Train.lean ====
section
/-! DEFINITION. Branches on summaries (R285 to R287), the norm watch and commit (R289, R290, R292, R297), the clean-step barrier
(R293 to R299), the part a warm spare and its feeder take in it (R483, R484), and evaluation passes (R300, R301). -/

namespace Sys2Proof.Machine

/-- The role of the module and its peer (Table 14-14): 0 none, 1 spare, 2 feeder. -/
def State.role (s : State) : Nat := s.fld 0x310 31 30 % 3
def State.pairGroup (s : State) : Nat := s.fld 0x310 29 14
def State.pairPeer (s : State) : Nat := s.fld 0x310 13 0

/-- A control packet of three words: its class in the tag, a step number as its sequence number. -/
def State.sendControl (s : State) (cls dst group step : Nat) (ws : List Nat) : State :=
  s.inject 1 8 dst group 0 (2 ^ 28 * cls + 12) step (padTo 12 0 (ws.flatMap (leBytes 4)))

/-- Comparisons of BRANCH (Table 8-8, R286): counts as unsigned integers, other values as FP32. -/
def branchHolds (op kind v k : Nat) : Bool :=
  if 3 ≤ kind / 64 then
    match op with
    | 0 => v = k
    | 1 => v != k
    | 2 => v < k
    | 3 => v ≤ k
    | 4 => k < v
    | _ => k ≤ v
  else
    let a := fp32.decode v
    let b := fp32.decode k
    if a.isNan || b.isNan then op = 1
    else
      match op, a.cmp b with
      | 0, c => c == .eq
      | 1, c => c != .eq
      | 2, c => c == .lt
      | 3, c => c != .gt
      | 4, c => c == .gt
      | _, c => c != .lt

def chkBranch (d : Desc) : Nat := if 5 < d.u8 19 || 4095 < d.u16 24 then stInvalidField else 0

/-- The branch is decided by a value, or by its absence (R286, R287). -/
def State.branchOn (s : State) (c : Nat) (d : Desc) (v : Option Nat) : State :=
  let holds := match v with | some v => branchHolds (d.u8 19) (d.u8 18) v (d.u32 20) | none => false
  let s1 := if holds then s.setCtx c { s.ctx c with skip := d.u16 24 } else s
  s1.complete c d.ptr stSuccess

/-- Descriptors that can push summaries. -/
def pushes (op : Nat) : Bool := (0x11 ≤ op && op ≤ 0x15) || op = 0x20

/-- The named value is final: earlier descriptors have completed and the FIFOs have drained (R286). -/
def State.summaryFinal (s : State) (c : Nat) (d : Desc) : Bool :=
  let earlier := (s.ctx c).infl.takeWhile (·.ptr != d.ptr)
  !earlier.any (fun e => pushes e.op && (e.step || e.pass)) && s.drvs.all fun kv => kv.2.fifo.isEmpty

/-- Close any exchange but those of the barrier. -/
def finBranch (x : Coll) (s : State) : State :=
  match x.kind, s.started x.own.c x.own.p with
  | .branch, some d => s.branchOn x.own.c d (if x.vals.headD 0 = 0 then none else some (x.vals.getD 1 0))
  | _, _ => x.finish s

/-- What the watch decides for a layer (R289, R290): its entry after commit, whether it was triggered, and whether its array
results saturated. -/
def State.watchLayer (s : State) (i : Nat) (w : Watch) : Watch × Bool × Bool :=
  let ctl := s.reg 0x204
  let ctl2 := s.reg 0x208
  let r := FVal.fin false (max (wfld ctl 7 0) 16) (-4)
  let a := max (wfld ctl 27 24) 1
  let finite (x : Nat) : Bool := !(fp32.decode x).isNan && !(fp32.decode x).isInf
  let limit (e : Nat) : FVal := fp32.decode (fp32.round .rne ((r.mul r).mul (fp32.decode e))).1
  let jump (x : Option Nat) (e : Nat) : Bool := match x with
    | none => false
    | some x => decide (wfld ctl 31 28 ≤ w.nobs) && (!finite x || (limit e).lt (fp32.decode x))
  let mean (x : Option Nat) (e : Nat) : Nat := match x with
    | none => e
    | some x =>
      if !finite x then e
      else if w.nobs = 0 then x
      else addF e (fp32.round .rne ((fp32.decode (subF x e)).scale (-a))).1
  let seen (x : Option Nat) : Bool := match x with | some x => finite x | none => false
  let xo := s.summary i 0x01
  let xg := s.summary i 0x02
  let sat := (s.summary i 0xC4).getD 0
  let asat := (s.summary i 0xC6).getD 0
  let satTh := wfld ctl2 9 0
  let asatTh := wfld ctl2 19 10
  let satw := satTh != 0 && decide (64 * satTh < sat)
  let asatw := asatTh != 0 && decide (asatTh ≤ asat)
  let trig := jump xo w.eo || jump xg w.eg || satw
  let left := if trig then wfld ctl 23 8 else if w.state.testBit 0 then w.left - 1 else w.left
  ({ eo := mean xo w.eo, eg := mean xg w.eg, left := left,
     state := b2n (0 < left) + 2 * b2n (jump xo w.eo) + 4 * b2n (jump xg w.eg) + 8 * b2n satw + 16 * b2n asatw,
     nobs := if seen xo || seen xg then min (w.nobs + 1) 255 else w.nobs }, trig, asatw)

/-- The watch table at commit (R288, R290); COMMIT_CLEAR ends every widening (R296). The table is a record that STEP_END reads and writes
under its context's rights (R269, R568): answers the status that takes from it, and where it cannot be read nothing is written. -/
def State.commitWatch (s : State) (clear : Bool) : Nat × State :=
  let n := s.trn.nlayer
  if n = 0 || !(s.trn.watch || clear) then (stSuccess, s)
  else
    let w := s.ctxWho s.trn.ctx
    let r := s.readRecord w s.trn.watchAddr (16 * n)
    match r.1 with
    | .inl st => (st, r.2)
    | .inr bs =>
      let os := (List.range n).map fun i =>
        let w := parseWatch ((bs.drop (16 * i)).take 16)
        if s.trn.watch && s.trn.watched.contains i then s.watchLayer i w else (w, false, false)
      let fin (w : Watch) : Watch := if clear then { w with left := 0, state := w.state / 2 * 2 } else w
      let q := r.2.store w (daddr s.trn.watchAddr) (os.flatMap fun o => (fin o.1).bytes)
      (q.1.status, (q.2.eventF 0 0x70 0 (os.filter (·.2.1)).length).eventF 0 0x71 0 (os.filter (·.2.2)).length)

/-- Commit of the open step (R297): the watch table, GW, the step registers, and the UPDATE phase. Every summary record has reached the
table first (R245). -/
def State.commit (s : State) (clear : Bool) : Nat × State :=
  let g := min s.trn.gw 4095
  let r := s.drainAll.commitWatch clear
  let s1 := (r.2.updTrn fun t => { t with attempted := false }).setFld oStepStat 23 12 (if clear then 0 else g)
  let s2 := if s.fld oStepStat 23 12 = 0 && g = 1 then s1.raiseFault 0 0x0501 0 [] else s1
  (r.1, ((((s2.noteCommit.setReg oStepLast (BitVec.ofNat 32 s.stepNo)).setReg oStepLval 1).setStepState 4).setPhase 6).eventF 0 0x72 0 1)

/-- A step that was not committed closes once its STEP_END has completed; the exchanges of its group start anew with the replay
(R263, R298, Table 14-7). -/
def State.dropStep (s : State) : State :=
  if !s.trn.opened then s
  else
    let c := s.trn.ctx
    let g := s.trn.group
    let s1 := s.closeStep.updFab fun f => { f with seqs := f.seqs.filter fun kv => kv.1 / 4 != g
                                                   inbox := f.inbox.filter fun q => q.group / 4 != g }
    s1.updTrn fun t => { t with voidCtx := some c }

/-- The 32 bytes of the result record (R299). -/
def resultRecord (dec own or_ count step : Nat) : List Byte := padTo 32 0 ([dec, own, or_, count, step].flatMap (leBytes 4))

/-- Take the decision of the open step, coded as in R299: 0 committed, 1 not committed, 2 held and committed, 3 held and not
committed (R294 to R299). A feeder forwards it to its spare (R483). -/
def State.settleStep (s : State) (dec or_ count : Nat) : State :=
  match s.trn.barrier with
  | none => s
  | some b =>
    let step := s.stepNo
    let addr := match (s.ctx b.own.c).infl.find? (·.ptr = b.own.p) with | some d => d.u64 24 | none => 0
    let s1 := s.updFab fun f => { f with colls := f.colls.filter (·.own != b.own) }
    let s2 := (s1.updTrn fun t => { t with decision := dec, decisions := (step, dec, or_) :: t.decisions.take 1,
                                           barrier := none }).setReg oStepCause (BitVec.ofNat 32 or_)
    let s3 := s2.setFlt fun x => { x with spareReady := none, spareDecision := none, spareAbsent := false }
    let s4 := if s.role = 2 then s3.sendControl 6 s.pairPeer s.pairGroup step [dec, or_, count] else s3
    let q := if dec % 2 = 0 then s4.commit (b.action = some 3) else (stNotCommitted, s4.eventF 0 0x73 0 1)
    let r := if addr = 0 then (Got.data [] false, q.2)
      else q.2.store (q.2.ctxWho b.own.c) (daddr addr) (resultRecord dec b.bits or_ count step)
    let own := q.1
    let s6 := r.2.complete b.own.c b.own.p (if r.1.status = stSuccess then own else r.1.status)
    if dec % 2 = 0 then s6 else s6.dropStep

/-- The word of a held barrier (R296). -/
def State.postHeld (s : State) : State :=
  s.postMbx 1 0 1 (BitVec.ofNat 32 (5 * 2 ^ 28 + 2 ^ 24 + s.stepNo % 2 ^ 24))

/-- The group's result has arrived (R294): committed, held, or not committed. -/
def State.barrierResult (s : State) (or_ count : Nat) : State :=
  if or_ = 0 then s.settleStep 0 or_ count
  else if or_ = 32 then
    ((s.setStepState 3).updTrn fun t =>
      { t with barrier := t.barrier.map fun b => { b with held := true, or_ := or_, count := count } }).postHeld
  else s.settleStep 1 or_ count

/-- Close an exchange of any kind. -/
def finExchange (x : Coll) (s : State) : State :=
  match x.kind with
  | .barrier => s.barrierResult (x.vals.headD 0) (x.vals.getD 1 0)
  | .actions => match s.trn.barrier with
    | some b => s.settleStep (if x.vals.headD 0 = 0 then 2 else 3) b.or_ b.count
    | none => s
  | _ => finBranch x s

/-- BRANCH (R285, R286). A group that the module does not hold leaves it alone with its own value. -/
def State.branch (s : State) (c : Nat) (d : Desc) : State :=
  if !s.summaryFinal c d then s
  else
    let v := s.summary (d.u16 16) (d.u8 18)
    if (d.u8 26).testBit 0 then
      (s.working c d.ptr).beginColl finExchange
        { own := ⟨c, d.ptr⟩, kind := .branch, group := s.trn.group, vals := [b2n v.isSome, v.getD 0, d.u8 18] }
    else s.branchOn c d v

def execBranch (c n : Nat) (s : State) : Res := onUnit (ctxOk c) (s.runDesc c n 0x16 fun d t => t.branch c d)

/-- Recounts and rung-1 checks of the step are undecided (R293). -/
def State.undecided (s : State) : Bool :=
  s.flt.recounts.any (!·.eval) || s.flt.ladder.any (·.2 = 1) ||
  s.flt.samples.any fun x => mapGet 0 s.flt.ladder (x.die * 16384 + x.ptile) = 0

/-- The module's cause bits at the barrier (Table 8-11). -/
def State.causeBits (s : State) : Nat :=
  let e := wfld (s.reg 0x1000028) 30 23
  let gmax := s.fld 0x208 31 20
  s.trn.causes ||| (if s.trn.nonfin && e = 255 then 16 else 0) ||| (if gmax != 0 && decide (gmax < s.trn.gw) then 32 else 0)

/-- A spare follows the forwarded decision with its own causes (R484). -/
def State.settleSpare (s : State) : State :=
  match s.trn.barrier, s.flt.spareDecision with
  | some b, some (dec, or_) =>
    let own := b.bits ||| (if s.flt.spareAbsent then 64 else 0)
    if dec % 2 = 1 then s.settleStep dec (or_ ||| own) b.count
    else if own = 0 then s.settleStep dec or_ b.count
    else ((s.setBit oFltStat 29).raiseFault 3 0x0603 s.stepNo []).settleStep 1 (or_ ||| own) b.count
  | _, _ => s

def chkStepEnd (d : Desc) : Nat := if d.u64 24 % 64 != 0 || !localOrHost (d.u64 24) then stInvalidField else 0

/-- STEP_END (R293): the cause bits are formed and exchanged. A step whose context was lost sends no bits (R403), nor does a
spare (R483). -/
def State.stepEnd (s : State) (c : Nat) (d : Desc) : State :=
  if s.undecided then s
  else
    let s1 := if s.stepPartials (s.stepNo + 1) = [] && s.trn.opened then s.setNorm 0 else s
    let bits := s1.causeBits
    let own : Owner := ⟨c, d.ptr⟩
    let s2 := ((s1.updTrn fun t => { t with barrier := some { own := own, bits := bits } }).setStepState 2).working c d.ptr
    if s.trn.lostCtx then s2.settleStep 1 bits 1
    else if s.role = 1 then s2.settleSpare
    else s2.beginColl finExchange { own := own, kind := .barrier, group := s.trn.group, vals := [bits, 1] }

def execStepEnd (c n : Nat) (s : State) : Res := onUnit (ctxOk c) (s.runDesc c n 0x17 fun d t => t.stepEnd c d)

/-- Contributions the module knows of. -/
def State.contributed (s : State) (o : Owner) : Nat × Nat :=
  match s.fab.colls.find? (·.own = o) with
  | some x => (x.vals.headD 0, x.vals.getD 1 1)
  | none => (0, 1)

/-- The exchange timeout passes once, and peers are asked; or again, and the step is not committed (R295). -/
def State.barrierTimeout (s : State) : State :=
  match s.trn.barrier with
  | none => s
  | some b =>
    if b.held || s.role = 1 then s
    else if !b.asked then
      let s1 := s.updTrn fun t => { t with barrier := some { b with asked := true } }
      match s1.group s1.sendEpoch s1.trn.group with
      | some g => (g.members.filter (· != s1.self)).foldl (fun t m => t.sendControl 8 m s1.trn.group s1.stepNo []) s1
      | none => s1
    else
      let k := s.contributed b.own
      (s.raiseFault 3 0x0502 s.trn.group []).settleStep 1 (b.bits ||| k.1 ||| 64) k.2

def execBarrierResultTimeout (s : State) : Res := .next (if s.failSafe then s else s.barrierTimeout)

/-- The held word is posted again while no reply has come (R296). -/
def State.repostHeld (s : State) : State :=
  match s.trn.barrier with
  | some b => if b.held && b.action.isNone && !(s.mbx 1 0 1).full then s.postHeld else s
  | none => s

def execHeldBarrierRepost (s : State) : Res := .next (if s.failSafe then s else s.repostHeld)

/-- The host's reply (R296): its action enters the second exchange; another action or step number is ignored and counted. -/
def State.heldReply (s : State) : State :=
  let m := s.mbx 0 0 1
  if !m.full || wfld m.data 31 28 != 5 then s
  else
    let s1 := s.setMbx 0 0 1 { m with full := false }
    let a := wfld m.data 27 24
    match s.trn.barrier with
    | some b =>
      if b.held && b.action.isNone && decide (1 ≤ a) && decide (a ≤ 3) && wfld m.data 23 0 = s.stepNo % 2 ^ 24 then
        (s1.updTrn fun t => { t with barrier := some { b with action := some a } }).beginColl finExchange
          { own := b.own, kind := .actions, group := s.trn.group, vals := [b2n (a = 2)] }
      else s1.eventF 0 0x53 0 1
    | none => s1.eventF 0 0x53 0 1

def execHeldBarrierReply (s : State) : Res := .next (if s.ready && !s.failSafe then s.heldReply else s)

/-- A peer asks for the decision of a step (R295). -/
def State.answerAsk (s : State) (q : List Byte) : State :=
  match s.trn.decisions.find? (·.1 = pktSeq q) with
  | some r => s.sendControl 9 (pktSrc q) (pktGroup q) (pktSeq q) [r.2.1, r.2.2]
  | none => s

/-- A peer answers with the decision it holds. -/
def State.takeAnswer (s : State) (q : List Byte) : State :=
  match s.trn.barrier with
  | some b =>
    if b.asked && pktSeq q = s.stepNo then
      s.settleStep (leAt (pktPayload q) 0 4 % 4) (leAt (pktPayload q) 4 4 % 128) (s.contributed b.own).2
    else s
  | none => s

/-- The class of a control packet. -/
def ctlClass (q : List Byte) : Nat := fld (pktTag q) 31 28

/-- Control of SYNC, barriers, actions and branches, and questions for a decision; notices and decisions of a feeder have rows
of their own. -/
def State.takeControl (s : State) (p : Nat) (q : List Byte) : Option State :=
  let k := ctlClass q
  if k < 4 then s.collArrive p k finExchange q
  else if k = 5 || k = 6 then none
  else if k = 8 then some (s.answerAsk q)
  else if k = 9 then some (s.takeAnswer q)
  else some s

def execPktCollectiveControl (p : Nat) (s : State) : Res := onUnit (portOk p) (s.handle p 8 fun q t => t.takeControl p q)

/-- The feeder's notice for step S reaches the spare (R483). -/
def State.takeNotice (s : State) (q : List Byte) : Option State :=
  if ctlClass q != 5 then none
  else some (if s.role = 1 && pktSrc q = s.pairPeer then s.setFlt fun x => { x with spareReady := some (pktSeq q) } else s)

def execSpareReadyNotice (p : Nat) (s : State) : Res := onUnit (portOk p) (s.handle p 8 fun q t => t.takeNotice q)

/-- The forwarded decision reaches the spare; it is kept until the spare's own STEP_END (R483, R484). -/
def State.takeForwarded (s : State) (q : List Byte) : Option State :=
  if ctlClass q != 6 then none
  else if s.role != 1 || pktSrc q != s.pairPeer || !s.trn.opened || pktSeq q != s.stepNo then some s
  else
    let d := (leAt (pktPayload q) 0 4 % 4, leAt (pktPayload q) 4 4 % 128)
    some ((s.setFlt fun x => { x with spareDecision := some d }).updTrn fun t =>
      { t with barrier := t.barrier.map fun b => { b with count := leAt (pktPayload q) 8 4 } }).settleSpare

def execSpareDecision (p : Nat) (s : State) : Res := onUnit (portOk p) (s.handle p 8 fun q t => t.takeForwarded q)

/-- Neither notice nor decision came within BAR_TMO: ABSENT joins the spare's own bits, and a spare at the barrier does not
commit (R483, R484). -/
def State.spareTimeout (s : State) : State :=
  if s.role != 1 || !s.trn.opened then s
  else
    let s1 := s.setFlt fun x => { x with spareAbsent := true }
    match s.trn.barrier with
    | some b => s1.settleStep 1 (b.bits ||| 64) b.count
    | none => if s.flt.spareReady = some s.stepNo then s else s1

def execSpareNoticeTimeout (s : State) : Res := .next (if s.failSafe then s else s.spareTimeout)

/-- An evaluation pass opens once no step is open (R300, R301). It waits for batches and LOCKs that the window it ends has left on a
port, as no cell may change in a pass (DESIGN CHOICE, log entry 151). -/
def State.evalBegin (s : State) (c : Nat) (d : Desc) : State :=
  if s.trn.opened || s.trn.evalOpen || (List.range 8).any (fun p => (s.port p).batches != [] || (s.port p).scopes != []) then s
  else
    let s1 := s.newWindows.drainAll.updTrn fun t => { t with evalOpen := true, evalCtx := c, summ := [], prodNext := 0 }
    (((s1.setStepState 5).setPhase 0).setFld oStepStat 11 0 c).complete c d.ptr stSuccess

def execEvalBegin (c n : Nat) (s : State) : Res :=
  onUnit (ctxOk c) (s.runDesc c n 0x18 fun d t => if d.u8 16 = 0 then t.evalBegin c d else t)

/-- The pass closes when its descriptors have completed (R300); a ring record of the pass is written (R545). -/
def State.evalEnd (s : State) (c : Nat) (d : Desc) : State :=
  if !s.trn.evalOpen || s.trn.evalCtx != c then s.complete c d.ptr stPhase
  else if ((s.ctx c).infl.takeWhile (·.ptr != d.ptr)).any (·.pass) then s
  else
    let s1 := (s.ringRecord 1 0xFF).newWindows
    let s2 := s1.updTrn fun t => { t with evalOpen := false, dropped := [] }
    (s2.setReg oStepStat (BitVec.ofNat 32 (s2.fld oStepStat 23 12 * 4096))).complete c d.ptr stSuccess

def execEvalEnd (c n : Nat) (s : State) : Res :=
  onUnit (ctxOk c) (s.runDesc c n 0x18 fun d t => if d.u8 16 = 1 then t.evalEnd c d else t)

end Sys2Proof.Machine
end

