-- ==== Sys2Proof/Machine/TimeSync.lean ====
section
/-! DEFINITION. Time sync between modules (R464, R465): sending, taking and forwarding sync, its loss and the conflict of masters. -/

namespace Sys2Proof.Machine

def State.tsOn (s : State) : Bool := s.bit oTsCtl 31
def State.tsIsMaster (s : State) : Bool := s.bit oTsCtl 30

/-- Send sync on the ACTIVE ports but one, as from a master (R464). -/
def State.sendSync (s : State) (master : Nat) (but : Option Nat) : State :=
  (List.range 12).foldl (fun t p =>
    if t.pstate p = 6 && some p != but then
      t.queuePacket p (mkPkt 4 9 t.sendEpoch 0 master (t.fld (oPeerPos p) 27 14) 0 0 0 0 (leBytes 8 t.ts))
    else t) s

/-- The master's period passes (R464). -/
def execTimeSyncSend (s : State) : Res :=
  .next (if s.tsOn && s.tsIsMaster then s.sendSync s.self none else s)

/-- The dimension of a flock port (Table 13-1). -/
def portDim (p : Nat) : Nat := if p < 6 then p else p - 6

/-- Hops to a master of the flock through a port, under R436. -/
def State.syncDist (s : State) (p master : Nat) : Nat :=
  1 + (cubePath true 8 (acrossDim (s.self % 64) (portDim p)) (master % 64)).length

/-- The order in which sources of time are preferred: the master's distance, the master, then the distance through the port and
the port (R464, R465). A drove port that is to be taken comes first. -/
def State.syncRank (s : State) (p master : Nat) : List Nat :=
  if 10 ≤ p then [0, 0, 0, p]
  else [1 + (cubePath true 8 (s.self % 64) (master % 64)).length, master, s.syncDist p master, p]

/-- Adjust the timestamp by an offset in ticks: a step forward beyond 1 µs, else a slew; it never runs backwards (R464). -/
def State.adjustTime (s : State) (ofs : Int) : State :=
  let s1 := s.setFld oTsStat 15 0 (Machine.ofInt 16 (clampI ofs (-32768) 32767))
  if 200 < ofs then { s1.updFab (fun f => { f with slew := 0 }) with ts := (s.ts + ofs.toNat) % 2 ^ 64 }
  else s1.updFab fun f => { f with slew := ofs }

/-- Sync of the master time is taken from, or of a better one, sets the time and is forwarded; sync of another master is ignored,
and marks the conflict at a master (R464, R465). -/
def State.takeSync (s : State) (p delay : Nat) (q : List Byte) : State :=
  let s0 := s.updFab fun f => { f with delay := mapSet 0 f.delay p delay }
  let m := pktSrc q
  let drove := decide (10 ≤ p)
  if !s.tsOn || (drove && !s.bit oTsCtl 29) then s0
  else if s.tsIsMaster && !drove then (if m = s.self then s0 else s0.setBit oTsStat 30)
  else
    let now := s.syncRank p m
    let cur := match s.bit oTsStat 31, s.fab.tsMaster with
      | true, some k => some (s.syncRank (s.fld oTsStat 19 16) k)
      | _, _ => none
    let better := match cur with
      | none => true
      | some c => decide (now ≤ c)
    if !better then s0
    else
      let ofs : Int := ((leAt (pktPayload q) 0 8 + delay : Nat) : Int) - (s.ts : Int)
      let s1 := ((s0.adjustTime ofs).setBit oTsStat 31).setFld oTsStat 19 16 p
      (s1.updFab fun f => { f with tsMaster := some m }).sendSync (if drove then s.self else m) (some p)

def execPktTimeSync (p delay : Nat) (s : State) : Res := onUnit (portOk p) (s.handle p 9 fun q t => some (t.takeSync p delay q))

/-- Ten periods without sync (R464). -/
def State.unlockTime (s : State) : State := (s.clrBit oTsStat 31).updFab fun f => { f with tsMaster := none }

def execTimeSyncLoss (s : State) : Res := .next s.unlockTime

/-- Ten periods without sync of another master (R465). -/
def execMasterConflictClear (s : State) : Res := .next (s.clrBit oTsStat 30)

end Sys2Proof.Machine
end

