-- ==== Sys2Proof/Machine/Precond.lean ====
section
/-! DEFINITION. Preconditioning (R324 to R330, R334): the statistic and direction products of PRECOND_STAT and the Newton roots of
PRECOND_ROOT, with the work of their built-in routines. -/

namespace Sys2Proof.Machine

/-- The state of a stripe of a span: its address and its parts (R324, Table 9-5). -/
def Span.stripe (sp : Span) (j : Nat) : Nat := sp.pstate + 131136 * j

structure Stripe where
  lstep : Nat := 0
  rstep : Nat := 0
  dstep : Nat := 0
  flags : Nat := 0
  iter : Nat := 0
  fails : Nat := 0
  deriving DecidableEq, Repr

def parseStripe (b : List Byte) : Stripe :=
  { lstep := leAt b 0 4, rstep := leAt b 4 4, dstep := leAt b 8 4, flags := leAt b 12 1, iter := leAt b 13 1, fails := leAt b 14 2 }

def Stripe.bytes (h : Stripe) : List Byte :=
  padTo 64 0 (leBytes 4 h.lstep ++ leBytes 4 h.rstep ++ leBytes 4 h.dstep ++ leBytes 1 h.flags ++ leBytes 1 h.iter ++ leBytes 2 h.fails)

/-- A 128 by 128 matrix of FP32 words, row-major. -/
abbrev Mat := Array Nat

def Mat.mk' (f : Nat → Nat → Nat) : Mat := Array.ofFn (n := 16384) fun i => f (i.val / 128) (i.val % 128)
def Mat.at (m : Mat) (i j : Nat) : Nat := m.getD (128 * i + j) 0
def Mat.parse (b : List Byte) : Mat := let a := b.toArray; Mat.mk' fun i j =>
  let o := 4 * (128 * i + j)
  leNat [a.getD o 0, a.getD (o + 1) 0, a.getD (o + 2) 0, a.getD (o + 3) 0]
def Mat.bytes (m : Mat) : List Byte := m.toList.flatMap (leBytes 4)

/-- The engine whose identity the built-in routines take for the stripes of unit k, the first of the partition. -/
def State.routineEngine (s : State) (k part : Nat) : Nat :=
  (s.engines (foldOf k) part ++ s.engines (1 - foldOf k) part).headD 0

/-- The folded gradient of a stripe's columns, row by row, as BF16 words; columns beyond the span are zero (R324). -/
def Pass.stripeGrad (x : Pass) (e : Nat) (sp : Span) (j : Nat) : List (List Nat) × Pass :=
  let base := if sp.ng = 1 then sp.grad else sp.gsum
  let w := min 128 (sp.n - 128 * j)
  (List.range sp.k).foldl (fun (a : List (List Nat) × Pass) r =>
    let q := a.2.readAs (drvMaster e) (base + r * sp.stride 2 + 256 * j) (2 * w)
    (a.1 ++ [(List.range 128).map fun i => if i < w then bfAt q.1 i else 0], q.2)) ([], x)

/-- Elements with the conditions of each, and all their conditions together. -/
def condsOf (xs : List (Nat × Cond)) : Cond := xs.foldl (fun c x => c.or x.2) {}

/-- A matrix whose elements raise conditions. -/
def Mat.build (f : Nat → Nat → Nat × Cond) : Mat × Cond :=
  let xs := Array.ofFn (n := 16384) fun i => f (i.val / 128) (i.val % 128)
  (xs.map (·.1), xs.foldl (fun c x => c.or x.2) {})

def Mat.finite (m : Mat) : Bool := m.all finiteF

/-- Counts of PRECOND_STAT (Table 9-9), and the tile indices taken so far. -/
structure StatCnt where
  updated : Nat := 0
  skipped : Nat := 0
  refused : Nat := 0
  tiles : Nat := 0

/-- Rows of the folded gradient as BF16 words, for random access. -/
abbrev GradRows := Array (Array Nat)

def GradRows.val (g : GradRows) (r c : Nat) : FVal × Cond :=
  let v := (g.getD r #[]).getD c 0
  (bf16.decode v, flushOf bf16 [v])

/-- The chains of the statistic product GᵀG of a stripe (R192, R194, R325). -/
def statChains (s : State) (t : Nat) (g : GradRows) (k : Nat) : List (List (Nat × Cond)) :=
  (List.range (ceilDiv k 65536)).map fun p => (List.range 16384).map fun i =>
    gChain s.seed s.stepNo t i (fun r => g.val r (i / 128)) (fun r => g.val r (i % 128)) (65536 * p) (min 65536 (k - 65536 * p))

/-- The new statistic from the old one and the product, with its conditions; none where an element is not finite (R325). -/
def newStat (l : Mat) (ss : Mat) (rule : Rule) (clip : Nat) : Option Mat × Cond :=
  let c := fp32.decode clip
  let b := rounded .rne [rule.betaL] (FVal.one.sub rule.betaL)
  let cc := rounded .rne [c] (c.mul c)
  let a := rounded .rne [fp32.decode b.1, fp32.decode cc.1] ((fp32.decode b.1).mul (fp32.decode cc.1))
  let A := fp32.decode a.1
  let m := Mat.build fun i j =>
    let L := fp32.decode (l.at i j)
    let S := fp32.decode (ss.at i j)
    let o := rounded .rne [rule.betaL, L, A, S] ((rule.betaL.mul L).add (A.mul S))
    (o.1, o.2.or (flushOf fp32 [l.at i j, ss.at i j]))
  (if m.1.finite then some m.1 else none,
   (((m.2.or b.2).or cc.2).or a.2).or (flushOf fp32 [rule.raw.getD 5 0, clip]))

/-- A row of the direction product G·R of a stripe, K = 128 (R184, R325). -/
def dirRow (s : State) (t0 : Nat) (g : GradRows) (root : Nat → Nat → FVal × Cond) (w row : Nat) : List (Nat × Cond) :=
  (List.range w).map fun c =>
    gChain s.seed s.stepNo ((t0 + 1 + row / 128) % 65536) (128 * (row % 128) + c) (g.val row) (fun q => root q c) 0 128

/-- A root as the direction product fetches it: rounded to BF16, the identity where the stripe has none (R184, R324). -/
def fetchedRoot (rvalid : Bool) (m : Mat) (q c : Nat) : FVal × Cond :=
  if rvalid then let v := fcvt fp32 bf16 .rne (m.at q c); (bf16.decode v.1, v.2)
  else (if q = c then FVal.one else FVal.zero, {})

/-- The tiles of the two products of a stripe as the matrix unit counts them (R197, R325). -/
def State.statCounts (s : State) (u k : Nat) (chains : List Cond) (dirs : List (List (Nat × Cond))) : State :=
  let s1 := (List.range chains.length).foldl (fun t p =>
    t.tileCounts u (min 65536 (k - 65536 * p)) (chains.getD p {}) (p + 1 < chains.length)) s
  (List.range (ceilDiv k 128)).foldl (fun t i =>
    t.tileCounts u 128 (condsOf ((dirs.drop (128 * i)).take 128).flatten) false) s1

/-- What the products and the routine make of a stripe: the tile counts, DIR, the statistic and the header (R325). -/
def statWork (e u t0 : Nat) (rule : Rule) (clip : Nat) (sp : Span) (j : Nat) (hd : Stripe) (g : GradRows) (l r : Mat)
    (cnt : StatCnt) (x : Pass) : StatCnt × Pass :=
  let w := min 128 (sp.n - 128 * j)
  let s := x.s
  let stamp := (s.stepNo + 1) % 2 ^ 32
  let cs := statChains s (t0 % 65536) g sp.k
  let tree := combineTree 16 (cs.map fun p => p.map (·.1))
  let st := newStat l tree.1.toArray rule clip
  let dirs := (List.range sp.k).map (dirRow s t0 g (fetchedRoot (hd.flags.testBit 0) r) w)
  let outs := (List.range sp.k).map fun row => (List.range w).map fun c =>
    fcvt fp32 bf16 (.sr (s.shrDraw sp 5 row (128 * j + c))) (((dirs.getD row []).getD c (0, {})).1)
  let cond := (tree.2.or st.2).or (condsOf outs.flatten)
  let x0 := { x with s := (s.statCounts u sp.k (cs.map condsOf) dirs).raiseCond oDrvCtl (drvCondOff e) cond.bits }
  let x1 := (List.range sp.k).foldl (fun (y : Pass) row =>
    y.writeAs (drvMaster e) (sp.dir + row * sp.stride 2 + 256 * j) ((outs.getD row []).flatMap fun o => leBytes 2 o.1)) x0
  let x2 := match st.1 with
    | some m => x1.writeAs (drvMaster e) (sp.stripe j + 64) m.bytes
    | none => x1
  let hd' := { hd with lstep := stamp, dstep := stamp, flags := hd.flags % 8 + (if st.1.isNone then 8 else 0) }
  let c' := match st.1 with
    | some _ => { cnt with updated := cnt.updated + 1 }
    | none => { cnt with refused := cnt.refused + 1 }
  (c', x2.writeAs (drvMaster e) (sp.stripe j) hd'.bytes)

/-- The statistic and the direction of one stripe (R325). -/
def statStripe (k e u tbase : Nat) (table : List Byte) (clip i j : Nat) (acc : StatCnt × Pass) : StatCnt × Pass :=
  let sp := acc.2.s.spanAt k i
  let cnt := { acc.1 with tiles := acc.1.tiles + (1 + ceilDiv sp.k 128) }
  let h := { acc.2 with wrote := false }.readAs (drvMaster e) (sp.stripe j) 64
  let hd := parseStripe h.1
  if h.2.stop then (cnt, h.2)
  else if hd.lstep = (acc.2.s.stepNo + 1) % 2 ^ 32 then ({ cnt with skipped := cnt.skipped + 1 }, h.2)
  else
    let g := h.2.stripeGrad e sp j
    let l := g.2.readAs (drvMaster e) (sp.stripe j + 64) 65536
    let r := l.2.readAs (drvMaster e) (sp.stripe j + 65600) 65536
    if r.2.stop then (cnt, r.2)
    else statWork e u (tbase + acc.1.tiles) (ruleAt table sp.rule) clip sp j hd (g.1.map (·.toArray)).toArray
      (Mat.parse l.1) (Mat.parse r.1) cnt r.2

/-- The stripes of a span; a span the step has not folded is skipped and counts as a miss (R325). -/
def statSpan (k e u tbase : Nat) (table : List Byte) (clip : Nat) (acc : StatCnt × Pass) (i : Nat) : StatCnt × Pass :=
  if acc.2.stop then acc
  else
    let sp := acc.2.s.spanAt k i
    let n := ceilDiv sp.n 128
    if !sp.pc then acc
    else if sp.ng != 1 && mapGet 0 (acc.2.s.shr k).folded i != acc.2.s.stepNo + 1 then
      ({ acc.1 with skipped := acc.1.skipped + n, tiles := acc.1.tiles + n * (1 + ceilDiv sp.k 128) },
       { acc.2 with s := acc.2.s.setBit (0x1001018 + 64 * k) 25 })
    else (List.range n).foldl (fun a j => if a.2.stop then a else statStripe k e u tbase table clip i j a) acc

/-- The clip factor of the step (R315): of its UPDATE_APPLY, fetched, in hand or already run; else a free value. -/
def State.stepClip (s : State) (c : Nat) : Nat × State :=
  let next := (s.ctx c).infl.takeWhile fun d => d.op != 0x17 && d.op != 0x10
  match next.find? fun d => d.op = 0x29 with
  | some d => (clipFactor (d.u32 32) (s.reg 0x1000028).toNat, s)
  | none =>
    if s.shrs.any fun kv => kv.2.marks.any fun m => m.2.1 = s.stepNo + 1 then ((s.reg 0x100002C).toNat, s)
    else
      let v := s.takeFree
      (v.1 % 2 ^ 32, v.2)

/-- A routine takes the place of the kernels it overlaps (R253, R330). -/
def Drv.overlay (d : Drv) (ofs : Nat) (code : List Nat) : Drv :=
  let n := code.length
  { d with res := d.res.filter fun r => r.2.ofs + r.2.words ≤ ofs || ofs + n ≤ r.2.ofs
           imem := (List.range n).foldl (fun m i => mapSet 0 m (ofs + i) (code.getD i 0)) d.imem
           ibad := d.ibad.filter fun w => !(ofs ≤ w && w < ofs + n) }

/-- A built-in routine is loaded on an engine: its words, and what it leaves in local data memory, are free values (R330; log entry
168). -/
def State.overlayEngine (s : State) (ofs words e : Nat) : State :=
  let v := s.takeFree
  let w := v.2.takeFree
  w.2.updDrv e fun d =>
    { d.overlay ofs ((List.range words).map fun i => v.1 / 2 ^ (64 * i) % 2 ^ 64) with
        loc := memWriteAt [] 0 (leBytes localSize w.1), bad := [] }

/-- A built-in routine is loaded on the partition's engines (R330). -/
def State.loadRoutine (s : State) (part ofs words : Nat) : State :=
  ((s.partEngines part).foldl (fun t e => t.overlayEngine ofs words e) s).trimImages

/-- Words of the built-in routines (R330). -/
def routineWords (op : Nat) : Nat := if op = 0x2A then 512 else 1536

def chkPrecond (d : Desc) : Nat :=
  if 16384 < d.u16 32 + routineWords d.op || d.u64 24 % 64 != 0 || !localOrHost (d.u64 24) || !localOrHost (d.u64 40) then
    stInvalidField else 0

/-- The end of a pass of the two descriptors: its record, 16 bytes per unit (Table 9-9). -/
def State.precondEnd (d : Desc) (r : ShrPass) (s : State) : State :=
  s.endRecord r.c r.ptr (d.u64 40) (r.units.flatMap fun u => (padTo 4 0 (u.cnt.take 4)).flatMap (leBytes 4))

/-- The common course of the two descriptors (R331, R334): the spans named, rights, torn state, the rule table, and the routine loaded between
the invocations of the partition's engines (R253, R330); then the spans in turn. -/
def State.precond (s : State) (c : Nat) (d : Desc) (clipOf : State → Nat × State)
    (f : ShrPass → Nat → Nat → List Nat → List Nat → Pass → SpanOut) : State :=
  let w := s.ctxWho c
  match s.shrPass c d.ptr with
  | some r => s.goOn r (f r) (State.precondEnd d)
  | none =>
    if !d.step then s.complete c d.ptr stPhase
    else
      match s.namedAll (d.u8 16) (d.u16 18) (d.u16 20) with
      | none => s.complete c d.ptr stInvalidField
      | some units =>
        if units = [] then s.complete c d.ptr stSuccess
        else if s.trn.npart ≤ d.u8 17 then s.complete c d.ptr stInvalidField
        else if !s.mayStore w (d.u64 40) (16 * units.length) then
          (s.denyAt w rightW (d.u64 40) (16 * units.length)).complete c d.ptr stDenied
        else if units.any fun u => s.torn u.1 then s.complete c d.ptr stTorn
        else if units.any (fun u => !s.shrReady u.1) || (s.partEngines (d.u8 17)).any fun e => (s.drv e).inv.isSome then s
        else
          let r := s.readRecord w (d.u64 24) 1024
          match r.1 with
          | .inl st => r.2.complete c d.ptr st
          | .inr table =>
            let clip := clipOf r.2
            let p : ShrPass := { newPass c d units with
              rules := table, clip := clip.1, part := d.u8 17, tbase := d.u16 22, force := (d.u8 34).testBit 0 }
            (clip.2.loadRoutine (d.u8 17) (d.u16 32) (routineWords d.op)).goOn p (f p) (State.precondEnd d)

/-- One span of PRECOND_STAT: the engine and the matrix unit are the first of the partition (log entry 105). Tile indices run on from span to
span. -/
def statStep (r : ShrPass) (k i : Nat) (cnt share : List Nat) (x : Pass) : SpanOut :=
  let e := x.s.routineEngine k r.part
  let mu := (x.s.pool (foldOf k) r.part ++ x.s.pool (1 - foldOf k) r.part).headD 0
  let g (n : Nat) : Nat := cnt.getD n 0
  let o := statSpan k e mu r.tbase r.rules r.clip
    ({ updated := g 0, skipped := g 1, refused := g 2, tiles := share.headD 0 }, x) i
  { cnt := [o.1.updated, o.1.skipped, o.1.refused, 0], share := [o.1.tiles], x := o.2 }

def State.precondStat (s : State) (c : Nat) (d : Desc) : State :=
  s.precond c d (fun t => t.stepClip c) fun r => tearing (statStep r)

def execPrecondStat (c n : Nat) (s : State) : Res :=
  onUnit (ctxOk c) (s.runDesc c n 0x2A fun d t => t.precondStat c d)

/-- A matrix product by 128 fused additions per element, each rounded to nearest even (R328). -/
def Mat.mul (a b : Mat) : Mat × Cond :=
  Mat.build fun i j => (List.range 128).foldl (fun (x : Nat × Cond) k =>
    let o := fp32.fma .rne (a.at i k) (b.at k j) x.1
    (o.1, x.2.or o.2)) (0, {})

/-- The root by the coupled Newton iteration (R328): the matrix where it converges, the iterations run, and the conditions raised. -/
def newton (p : Nat) (invP : Nat) (tol : FVal) : Nat → Nat → Mat → Mat → Cond → Option Mat × Nat × Cond
  | 0, it, _, _, c => (none, it, c)
  | fuel + 1, it, m, x, c =>
    let p1 := (fp32.round .rne (FVal.ofInt (p + 1))).1
    let tm := Mat.build fun i j =>
      let d := fp32.op2 .rne FVal.sub (if i = j then p1 else 0) (m.at i j)
      let q := fp32.op2 .rne FVal.mul d.1 invP
      (q.1, d.2.or q.2)
    let x1 := x.mul tm.1
    let t2 := tm.1.mul tm.1
    let t4 := if p = 2 then (t2.1, {}) else t2.1.mul t2.1
    let m1 := t4.1.mul m
    let c1 := ((((c.or tm.2).or x1.2).or t2.2).or t4.2).or m1.2
    let off := Mat.build fun i j => fp32.op2 .rne FVal.sub (m1.1.at i j) (if i = j then 0x3F800000 else 0)
    if !x1.1.finite || !m1.1.finite then (none, it + 1, c1)
    else if off.1.all fun w => (fp32.decode w).abs.le tol then (some x1.1, it + 1, c1.or off.2)
    else newton p invP tol fuel (it + 1) m1.1 x1.1 (c1.or off.2)

/-- A fold of FP32 operations with the conditions of each. -/
def chainF {α : Type} (f : Nat → α → Nat × Cond) (xs : List α) : Nat × Cond :=
  xs.foldl (fun (x : Nat × Cond) a =>
    let o := f x.1 a
    (o.1, x.2.or o.2)) (0, {})

/-- The root of a statistic under a rule block (R328). -/
def rootOf (l : Mat) (rule : Rule) : Option Mat × Nat × Cond :=
  let p : Nat := if rule.pcExp then 4 else 2
  let trace := chainF (fp32.op2 .rne FVal.add) ((List.range 128).map fun i => l.at i i)
  let tv := fp32.decode trace.1
  let damp := rounded .rne [rule.epsRel, tv] ((rule.epsRel.mul tv).scale (-7))
  let abs := rounded .rne [rule.epsAbs] rule.epsAbs
  let delta := fp32.op2 .rne FVal.add damp.1 abs.1
  let a := Mat.build fun i j => if i = j then fp32.op2 .rne FVal.add (l.at i j) delta.1 else (l.at i j, {})
  let sum := chainF (fun x q => fp32.fma .rne q q x) a.1.toList
  let frob := fp32.op1 .rne FVal.sqrt sum.1
  let two := rounded .rne [fp32.decode frob.1] ((fp32.decode frob.1).scale 1)
  let z := fp32.op2 .rne FVal.div ((fp32.round .rne (FVal.ofInt (p + 1))).1) two.1
  let m := Mat.build fun i j => fp32.op2 .rne FVal.mul z.1 (a.1.at i j)
  let r1 := fp32.op1 .rne FVal.sqrt z.1
  let r := if p = 2 then r1 else fp32.op1 .rne FVal.sqrt r1.1
  let c := [trace, damp, delta, sum, frob, two, z, r1, r].foldl (fun (b : Cond) o => b.or o.2)
    ((a.2.or m.2).or (flushOf fp32 [rule.raw.getD 6 0, rule.raw.getD 7 0, rule.raw.getD 8 0]))
  newton p (if p = 2 then 0x3F000000 else 0x3E800000) rule.pcTol 20 0 m.1 (Mat.mk' fun i j => if i = j then r.1 else 0) c

/-- Counts of PRECOND_ROOT (Table 9-9). -/
structure RootCnt where
  tried : Nat := 0
  ok : Nat := 0
  failed : Nat := 0
  iters : Nat := 0

/-- A root found is stored; where none was, the stripe keeps its root with one more failure (R329). -/
def rootStore (k e : Nat) (base stamp : Nat) (hd : Stripe) (cnt : RootCnt) (x : Pass) (n : Nat) : Option Mat → RootCnt × Pass
  | some m =>
    ({ cnt with ok := cnt.ok + 1 }, (x.writeAs (drvMaster e) (base + 65600) m.bytes).writeAs (drvMaster e) base
      { hd with rstep := stamp, iter := n, flags := hd.flags / 8 * 8 + 3 }.bytes)
  | none =>
    let y := x.writeAs (drvMaster e) base
      { hd with rstep := stamp, iter := n, flags := hd.flags / 8 * 8 + hd.flags % 2 + 6, fails := min (hd.fails + 1) 65535 }.bytes
    ({ cnt with failed := cnt.failed + 1 }, { y with s := if y.stop then y.s else y.s.eventF (foldOf k) 0x35 0 1 })

/-- The new root of a stripe from its statistics (R328). -/
def rootFit (k e : Nat) (rule : Rule) (base stamp : Nat) (hd : Stripe) (cnt : RootCnt) (l : List Byte × Pass) : RootCnt × Pass :=
  let r := rootOf (Mat.parse l.1) rule
  rootStore k e base stamp hd { cnt with tried := cnt.tried + 1, iters := cnt.iters + r.2.1 }
    { l.2 with s := l.2.s.raiseCond oDrvCtl (drvCondOff e) r.2.2.bits } r.2.1 r.1

/-- The statistics of a stripe read and its root fitted. -/
def rootTry (k e : Nat) (rule : Rule) (base stamp : Nat) (hd : Stripe) (cnt : RootCnt) (x : Pass) : RootCnt × Pass :=
  let l := x.readAs (drvMaster e) (base + 64) 65536
  if l.2.stop then (cnt, l.2) else rootFit k e rule base stamp hd cnt l

/-- The root of one stripe where it is due (R327, R329). -/
def rootStripe (k e : Nat) (table : List Byte) (force : Bool) (i j ord : Nat) (acc : RootCnt × Pass) : RootCnt × Pass :=
  let sp := acc.2.s.spanAt k i
  let h := { acc.2 with wrote := false }.readAs (drvMaster e) (sp.stripe j) 64
  let hd := parseStripe h.1
  let stamp := (acc.2.s.stepNo + 1) % 2 ^ 32
  let rule := ruleAt table sp.rule
  let due := force || !hd.flags.testBit 1 || (acc.2.s.stepNo + ord) % rule.rootPer = 0
  if h.2.stop || !due || hd.rstep = stamp then (acc.1, h.2) else rootTry k e rule (sp.stripe j) stamp hd acc.1 h.2

/-- The ordinal of a span's first stripe among the stripes of the unit's PC spans (R327). -/
def State.firstStripe (s : State) (k i : Nat) : Nat :=
  (((s.shr k).spans.take i).map fun sp => if sp.pc then ceilDiv sp.n 128 else 0).foldl (· + ·) 0

/-- The stripes of a span, dealt to the partition's engines in turn; `dealt` due stripes of the descriptor went before (R327). -/
def rootSpan (k part : Nat) (table : List Byte) (force : Bool) (dealt : Nat) (acc : RootCnt × Pass) (i : Nat) : RootCnt × Pass :=
  if acc.2.stop || !(acc.2.s.spanAt k i).pc then acc
  else
    let s := acc.2.s
    let q0 := s.firstStripe k i
    let es := s.partEngines part
    (List.range (ceilDiv (s.spanAt k i).n 128)).foldl (fun a j =>
      if a.2.stop then a
      else rootStripe k (es.getD ((dealt + a.1.tried - acc.1.tried) % max es.length 1) 0) table force i j (q0 + j) a) acc

/-- One span of PRECOND_ROOT; the due stripes are dealt on from span to span. -/
def rootStep (r : ShrPass) (k i : Nat) (cnt share : List Nat) (x : Pass) : SpanOut :=
  let g (n : Nat) : Nat := cnt.getD n 0
  let o := rootSpan k r.part r.rules r.force (share.headD 0) ({ tried := g 0, ok := g 1, failed := g 2, iters := g 3 }, x) i
  { cnt := [o.1.tried, o.1.ok, o.1.failed, o.1.iters], share := [share.headD 0 + o.1.tried - g 0], x := o.2 }

def State.precondRoot (s : State) (c : Nat) (d : Desc) : State :=
  s.precond c d (fun t => (0, t)) fun r => tearing (rootStep r)

def execPrecondRoot (c n : Nat) (s : State) : Res :=
  onUnit (ctxOk c) (s.runDesc c n 0x2B fun d t => t.precondRoot c d)

/-- One span of a pass of any descriptor, as far as it comes. -/
def spanStep (r : ShrPass) : Nat → Nat → List Nat → List Nat → Pass → SpanOut :=
  match r.op with
  | 0x28 => normStep r.step
  | 0x29 => updRun r.rules r.clip
  | 0x2A => statStep r
  | _ => rootStep r

/-- A unit stops at once (R336): of the span it is at, a free number of writes has been made. An update pass that stops inside a panel, and
preconditioning that stops inside a stripe, leave it torn; where nothing of the panel or stripe is written yet, a free value says whether
it was begun (log entry 169). -/
def State.cutUnit (s : State) (r : ShrPass) (u : PassUnit) (share : List Nat) : List Nat × State :=
  match u.left with
  | [] => (share, s)
  | i :: _ =>
    let v := s.takeFree
    let b := v.2.takeFree
    let o := spanStep r u.k i u.cnt share { s := b.2, writes := some v.1 }
    (o.share, if o.x.stop && r.op != 0x28 && (o.x.wrote || b.1 % 2 = 1) then o.x.s.tear u.k i else o.x.s)

/-- The passes in hand stop with the units (R336). -/
def State.cutPasses (s : State) : State :=
  let s1 := s.trn.passes.foldl (fun t r =>
    (r.units.foldl (fun (a : List Nat × State) u => a.2.cutUnit r u a.1) (r.share, t)).2) s
  s1.updTrn fun t => { t with passes := [] }

end Sys2Proof.Machine
end

