-- ==== Sys2Proof/Machine/FailSafe.lean ====
section
/-! DEFINITION. The fail-safe state: what every part does on entry (R97, R138, R176, R178, R209, R257, R303, R336, R360, R368, R405,
R427, R466, R507, R508), the causes and the exit (R510), and GLB_BOOT (R404). -/

namespace Sys2Proof.Machine

def oClk : Nat := 0x100000
/-- SVC_CLK runs from the backup oscillator (R505). -/
def State.onBackup (s : State) : Bool := s.pwr.clk.testBit 0

/-- The clocks change, REFCLK, VCO lock and backup as bits 2, 1 and 0, and CLK_STAT reports them as they are. -/
def State.setClk (s : State) (v : Nat) : State := ({ s with pwr := { s.pwr with clk := v } } : State).setFld oClk 31 29 v

def oFsCtl : Nat := 0x100120

/-- A change of GLB_BOOT.STATE raises the BOOT source (Table 11-17). -/
def State.setBoot (s : State) (st : Nat) : State := if s.bootState = st then s else (s.setFld oBoot 31 28 st).raiseIrq 8

/-- READY and FAILED are announced by the BOOT word on F0 (R395). -/
def State.announce (s : State) (st err : Nat) : State :=
  ((s.setFld oBoot 23 16 err).setBoot st).postMbx 1 0 0 (BitVec.ofNat 32 (2 ^ 28 + 2 ^ 24 * st + 2 ^ 16 * err))

/-- `FENCE_N` is asserted (R556). -/
def State.fenceN (s : State) : Bool := s.failSafe || s.bootState = 0 || !s.pgood

/-- `ALERT_N` is asserted (R560). -/
def State.alertN (s : State) : Bool := s.mgmt.alert &&& (255 - s.mgmt.mask % 256) != 0

/-- Every value of a table changed by one function. -/
def mapAll {α : Type} [DecidableEq α] (d : α) (m : Map α) (f : α → α) : Map α :=
  (m.map fun kv => (kv.1, f kv.2)).filter fun kv => decide (kv.2 ≠ d)

/-- The scope of each batch that was running, by weights, and of each LOCK that was set (R138). -/
def Port.inFlight (q : Port) : List Scope :=
  q.batches.flatMap (fun b => b.items.map fun it => { tile := b.tile, col := it.col, kind := .weight it.row, owner := b.owner }) ++
    q.scopes

/-- The program port at entry: every grant and LOCK ends, and what was in flight is recorded (R138, R498). -/
def Port.stop (q : Port) : Port :=
  { q with owner := none, issued := false, yielding := false, scopes := [], batches := [], record := q.record ++ q.inFlight,
           flush := none, jobs := q.jobs.filter (·.desc.isNone), results := [], direct := none, vClosed := false, vIn := false }

/-- The muster engine at entry: musters in progress and pending results are discarded (R178). -/
def Mus.stop (m : Mus) : Mus := { m with pend := {}, gradual := false, runs := [] }

/-- The logical tile a test works on: none for a free physical tile, or a unit that is no tile. -/
def State.testTile (s : State) (t : Test) : Option (Nat × Nat) :=
  if t.cls < 2 then some (t.unit_ / 8192, t.unit_ % 8192)
  else if t.cls = 2 then (s.servesIndex (t.unit_ / 16384) (t.unit_ % 16384)).map fun n => (t.unit_ / 16384, n)
  else none

/-- A logical tile stays FENCED where it was, was when a muster or test took it, or was about to be (R176). -/
def State.stoppedTile (s : State) (p n : Nat) (t : Tile) : Tile :=
  let taken := (s.mus p).runs.any (fun r => r.busy.any fun b => b.1 = n && b.2 = 6) ||
    s.tests.any fun x => x.running && s.testTile x = some (p, n) && x.from_ = 6
  { t with st := if t.st = .fenced || t.fence || taken then .fenced else .hold, banks := [], fence := false }

/-- A pasture die at entry (R97, R138, R178). Tiles in MUSTER report abandoned. -/
def State.stopDie (s : State) (p : Nat) : State :=
  let s1 := (s.mus p).runs.foldl (fun t r => r.busy.foldl (fun u b => u.setFld (musTileOff p b.1) 13 12 3) t) s
  s1.updDie p fun d => { d with
    state := .failSafe, reads := [], packets := [], pulsed := [], port := d.port.stop, mus := d.mus.stop,
    tiles := (d.tiles.map fun kv => (kv.1, s.stoppedTile p kv.1 kv.2)).filter fun kv => decide (kv.2 ≠ {}) }

/-- A matrix unit and a drover engine at entry (R209, R257). -/
def Mu.stop (m : Mu) : Mu := { m with ok := false, test := false, ahead := [], cur := none, full := [] }

def Drv.stop (d : Drv) : Drv :=
  { d with ok := false, test := false, qa := [], qb := [], aq := [], runs := [], inv := none, hold0 := {}, hold1 := {},
           slots := [], copies := [], fifo := [], loads := [] }

/-- A test abandoned counts as not run (R176). -/
def Test.abandon (t : Test) : Test := if t.running then { t with running := false, slices := t.whole } else t

/-- A migration is abandoned: the spare is free and the logical channel stays (R360). -/
def State.abandonMig (s : State) (k : Nat) : State :=
  match mapGet none s.mem.migs k with
  | some m =>
    let off := 0x1401000 + 128 * k + 4 * m.lch
    ({ s with mem := { s.mem with migs := mapSet none s.mem.migs k (some { m with lines := 0, lostFrom := none, off := true }) } } : State).setReg off
      (BitVec.ofNat 32 (2 ^ 31 * (s.fld off 31 31) + s.fld off 4 0))
  | none => s

/-- The state MEM_STK_STAT reports of a stack that answers (Table 10-12). -/
def State.stackState (s : State) (k : Nat) : Nat :=
  match mapGet none s.mem.migs k with
  | some m => if m.off then 1 else 3
  | none =>
    if mapGet false s.mem.degraded k || (List.range 30).any (fun c => mapGet false s.mem.unmapped (32 * k + c)) then 4 else 1

def oFwStat : Nat := 0x40C
def oFwSlot (t : Nat) : Nat := 0x41C + 4 * t

def State.bootRec (s : State) (t : Nat) : BootRec := mapGet {} s.boot.recs t

/-- A copy whose CRC fails is written first, then the one with the lower sequence number (R519). -/
def BootCopy.order (c : BootCopy) : Nat := if c.bad then 0 else c.seq + 1

/-- The bank whose copy of the boot record is written next. -/
def Boot.nextCopy (b : Boot) : Nat := if (mapGet {} b.copies 1).order < (mapGet {} b.copies 0).order then 1 else 0

/-- The MSP writes a change of the boot record, giving the copy the next number (R519). -/
def State.putRecs (s : State) (rs : Map BootRec) : State :=
  if rs = s.boot.recs then s
  else
    let n := max (mapGet {} s.boot.copies 0).seq (mapGet {} s.boot.copies 1).seq + 1
    { s with boot := { s.boot with recs := rs, copies := mapSet {} s.boot.copies s.boot.nextCopy { seq := n, recs := rs } } }

/-- The copy with the highest sequence number whose CRC passes; without one, every type has COMMIT = NEXT = A and no trial (R519). -/
def State.takeRecs (s : State) : State :=
  let a := mapGet {} s.boot.copies 0
  let b := mapGet {} s.boot.copies 1
  let c := if a.order < b.order then b else a
  { s with boot := { s.boot with recs := if c.bad then [] else c.recs } }

/-- A write of the boot record is cut short: the CRC of its copy fails (R519). -/
def State.tearRec (s : State) : State :=
  { s with boot := { s.boot with copies := mapUpd {} s.boot.copies s.boot.nextCopy fun c => { c with bad := true } } }

def State.setRec (s : State) (t : Nat) (r : BootRec) : State :=
  let s1 := s.putRecs (mapSet {} s.boot.recs t r)
  s1.setFld (oFwSlot t) 30 28 (4 * b2n r.next + 2 * b2n r.commit + b2n r.trial)

/-- NEXT becomes COMMIT and the trial ends (R527). -/
def State.revertTrial (s : State) (t : Nat) : State :=
  let r := s.bootRec t
  s.setRec t { r with next := r.commit, trial := false, begun := false }

/-- A firmware command ends with a result (Table 16-16). -/
def State.fwResult (s : State) (r : Nat) : State := (((s.clrBit oFwStat 31).clrBit oFwStat 30).setFld oFwStat 3 0 r)

/-- A WRITE that runs stops: its slot stays not valid (R538). -/
def State.cutWrite (s : State) : State :=
  if s.boot.writing.isSome then ({ s with boot := { s.boot with writing := none } } : State).fwResult 11 else s

/-- A pending or running LOAD ends with result 11 and its trial is reverted (R538); the dies it had quiesced are not so any more. -/
def State.cutLoad (s : State) : State :=
  match s.boot.load with
  | some l =>
    (l.quiet.foldl (fun t p => t.clrBit (pst p + 0x10) 12) ({ s with boot := { s.boot with load := none } } : State)).revertTrial l.type
      |>.fwResult 11
  | none => s

/-- Every unit stops at once; what they hold of the step is discarded. -/
def State.stopUnits (s : State) : State :=
  let s1 := (List.range 8).foldl (fun t p => t.stopDie p) s.cutPasses
  let s2 : State := { s1 with
    units := mapAll {} s1.units Mu.stop, drvs := mapAll {} s1.drvs Drv.stop, chains := [], pstore := [],
    tests := s1.tests.map Test.abandon, mem := { s1.mem with waiting := [] } }
  let s3 := s2.updTrn fun t => { t with works := [], prods := [], dropped := [], barrier := none }
  let s4 := s3.setFlt fun x => { x with recounts := [], samples := [], ladder := x.ladder.filter fun kv => kv.2 != 1 }
  let s5 := s4.updFab fun f => { f with colls := [], inbox := [], xfers := [], reqs := [], streams := [] }
  let s6 := { s5 with boot := { s5.boot with commitWait := none } }
  let s7 : State := (List.range 8).foldl (fun (t : State) k => (t.abandonMig k).refreshStack k 2) ((s6.clrBit 0x504 31).cutLoad.cutWrite)
  if s7.fld 0x318 31 28 = 1 then s7.setFld 0x318 31 28 3 else s7

/-- The fail-safe state is entered with its first cause (R508); the interrupt goes out before bus mastering stops (R405). -/
def State.enterFs (s : State) (i : Nat) : State :=
  let s1 := (s.raiseIrq 10).stopUnits.fencePorts
  let n := min (s1.fld oFsStat 23 16 + 1) 255
  let s2 := s1.setReg oFsStat (BitVec.ofNat 32 (2 ^ 31 + 2 ^ 24 * (i + 1) + 2 ^ 16 * n + 2 ^ i))
  ((s2.setBoot 7).raiseFault 3 0x0602 0 [2 ^ i]).alert 0

/-- Main rails go off; the sequence stops and PWR_EN must go low and high again (R495). -/
def State.stopSequence (s : State) (bad : Nat) : State :=
  let s1 := { s with pwr := { s.pwr with seqStep := none, seqFailed := true } }
  s1.updRail fun w => wset (wset (wset w 28 16 3) 12 0 ((wfld w 12 0 ||| bad) - bad)) 31 31 0

/-- A fail-safe cause arises (R507): recorded where the state is active (R512), stopping the power-up sequence before PWR_GOOD, and
without effect while module reset is in force. -/
def State.assertFs (s : State) (i : Nat) : State :=
  if s.failSafe then s.setBit oFsStat i
  else if s.bootState = 0 then (if s.pwr.seqStep.isSome then s.stopSequence 0 else s)
  else s.enterFs i

def monBase (d : Nat) : Nat := 0x1E00000 + 0x1000 * d
def monLast (d c : Nat) : Nat := monBase d + 0x100 + 4 * c

/-- Channel c of converter d is a temperature channel (Tables 5-3 and 5-4). -/
def tempChannel (d c : Nat) : Bool := if d < 8 then c < 8 else c < 4

/-- The housekeeping channels, as converter and channel. -/
def monChannels : List (Nat × Nat) := (List.range 10).flatMap fun d => (List.range 16).map fun c => (d, c)

/-- The last code of a channel lies outside a window. -/
def outside (code : Nat) (w : Nat × Nat) : Bool := decide (code < w.1) || decide (w.2 < code)

/-- A temperature channel of the module, stack channels included, lies above its warning window (R513, R514). -/
def State.hot (s : State) : Bool :=
  monChannels.any (fun dc => tempChannel dc.1 dc.2 && s.bit (monLast dc.1 dc.2) 15 &&
    decide (s.fld (monBase dc.1 + 0x200 + 4 * dc.2) 27 16 < s.fld (monLast dc.1 dc.2) 11 0)) ||
  (List.range 8).any fun k => decide (85 < mapGet 0 s.mem.stackTemp k)

/-- The fail-safe causes that are not clear (R510): the latched ones recorded, and the recoverable ones still present. -/
def State.causesLeft (s : State) : Nat :=
  let last (dc : Nat × Nat) (b : Nat) : Bool := s.bit (monLast dc.1 dc.2) 15 && s.bit (monLast dc.1 dc.2) b
  let in_ := s.bit (monLast 8 13) 15 && outside (s.fld (monLast 8 13) 11 0) (monWindow true true 13).1
  let above := decide (s.fld (monBase 8 + 0x300 + 4 * 13) 27 16 < s.fld (monLast 8 13) 11 0)
  let rail := monChannels.any fun dc => !tempChannel dc.1 dc.2 && (dc != (8, 13) || above) &&
    s.bit (monBase dc.1 + 0x300 + 4 * dc.2) 31 && last dc 14
  let temp := monChannels.any (fun dc => tempChannel dc.1 dc.2 && last dc 13) ||
    (List.range 8).any fun k => decide (85 < mapGet 0 s.mem.stackTemp k)
  b2n in_ + 2 * b2n rail + 4 * b2n s.onBackup + 8 * b2n temp + s.fld oFsStat 6 4 * 16

/-- The status FAIL_SAFE for every descriptor fetched and not completed; every context not DISABLED is STOPPED (R405). -/
def State.stopContexts (s : State) : State :=
  s.host.ctxs.foldl (fun t kv =>
    if kv.2.state = .disabled then t
    else
      let t1 := t.setCtx kv.1 { t.ctx kv.1 with state := .stopped }
      kv.2.infl.foldl (fun u d => if d.held.isSome then u else u.complete kv.1 d.ptr stFailSafe) t1) s

/-- The open step or pass closes, and the module is not in it (R303). -/
def State.leaveStep (s : State) : State :=
  let s1 := if s.trn.opened then s.closeStep else s
  (s1.updTrn fun t => { t with evalOpen := false }).setReg oStepStat (BitVec.ofNat 32 (s1.fld oStepStat 23 12 * 4096))

/-- Each PF vector whose unmasked source bits are set sends one message (R405). -/
def State.signalPending (s : State) : State :=
  let bits := (s.reg oIrqStat).toNat &&& (2047 - s.fld oIrqMask 10 0)
  let l := s.fld oIrqRoute 0 0
  let s1 := if bits % 4 = 0 then s else s.sendMsi l 0 0
  if bits / 4 = 0 then s1 else s1.sendMsi l 0 1

/-- A die muster of the start-up work: every mapped tile, its results applied at completion (R177). -/
def State.dieMuster (s : State) (p : Nat) : State :=
  s.beginRun p { batchRun (List.range 64) (s.dieBatches p) with now := true }

/-- Self-tests of the serving matrix units and drover engines, which enter READY when they pass (R208, R257). -/
def State.queueSelfTests (s : State) : State :=
  let mus := ((List.range 80).filter fun u => s.bit (muMapOff u) 31).map fun u =>
    ({ cls := 3, unit_ := s.muPhys u, slices := 1, forced := true } : Test)
  let drs := ((List.range 40).filter fun e => s.bit (drvMapOff e) 31).map fun e =>
    ({ cls := 4, unit_ := s.drvPhys e, slices := 1, forced := true } : Test)
  { s with tests := s.tests ++ mus ++ drs }

/-- The module leaves the fail-safe state by itself (R510): it goes to ARRAY_INIT. -/
def State.leaveFs (s : State) : State :=
  let s0 := s.leaveStep
  let s1 := (s0.setReg oFsStat (BitVec.ofNat 32 (2 ^ 16 * (s0.fld oFsStat 23 16)))).stopContexts
  let s2 := (List.range 8).foldl (fun t k =>
    let t1 := match mapGet none t.mem.migs k with
      | some m => (({ t with mem := { t.mem with migs := mapSet none t.mem.migs k (some { m with off := false }) } } : State).setFld
          (0x1401000 + 128 * k + 4 * m.lch) 9 5 m.pch).setBit (0x1401000 + 128 * k + 4 * m.lch) 30
      | none => t
    t1.refreshStack k (t1.stackState k)) s1
  let s3 := (List.range 8).foldl (fun t p =>
    (t.updDie p fun d => { d with
      state := .hold
      port := { d.port with toRecon := d.port.toRecon ++ d.port.record } }).dieMuster p) s2
  let s3a := { s3 with shrs := mapAll {} s3.shrs fun x => if x.state = ShrState.ucode then { x with state := .ready } else x }
  let s4 := s3a.queueSelfTests.unfencePorts.unlockTime
  ((s4.setBoot 4).raiseFault 3 0x0602 0 []).signalPending

/-- The automatic exit, once every cause has been clear for HOLD (R510). -/
def execFailSafeExit (s : State) : Res :=
  .next (if s.failSafe && s.bit oFsCtl 31 && s.causesLeft = 0 then s.leaveFs else s)

/-- An exit request with AUTO = 0 (R510): whether it was granted, and the causes that remain. -/
def State.requestExit (s : State) : Bool × Nat × State :=
  let left := s.causesLeft
  if s.failSafe && !s.bit oFsCtl 31 && left = 0 then (true, 0, s.leaveFs) else (false, left, s)

end Sys2Proof.Machine
end

