-- ==== Sys2Proof/Machine/Tests.lean ====
section
/-! DEFINITION. In-field tests (R173 to R176, R180): tests falling due, their slices, what a pass or a failure does, overdue units,
the escalation ladder's later rungs (R475), and the TILE_TEST descriptor. -/

namespace Sys2Proof.Machine

/-- The unit of a test class exists: a logical tile, a physical tile, a physical matrix unit or drover engine. -/
def testOk (cls u : Nat) : Bool :=
  match cls with
  | 0 => u < 65536
  | 1 => u < 65536
  | 2 => u / 16384 < 8 && u % 16384 < 8320
  | 3 => u < 84
  | 4 => u < 42
  | _ => false

def oTestCtl : Nat := 0x1E0A000

/-- A whole test of a class (Table 5-6). -/
def newTest (cls u : Nat) : Test :=
  let t : Test := { cls := cls, unit_ := u, kinds := [3, 4, 8].getD cls 0, hi := 511 }
  { t with slices := t.whole }

/-- The unit of a class is there to be tested: a mapped logical tile, and a unit that is not retired. -/
def State.testable (s : State) (cls u : Nat) : Bool :=
  match cls with
  | 0 => (s.ptile (u / 8192) (u % 8192)).isSome
  | 1 => (s.ptile (u / 8192) (u % 8192)).isSome
  | 2 => !mapGet false (s.die (u / 16384)).dead (u % 16384)
  | 3 => !mapGet false s.flt.gone u
  | _ => !mapGet false s.flt.gone (128 + u)

/-- A unit's class period has passed: its test falls due (R173). A period of 0 schedules none. -/
def State.testDue (s : State) (cls u : Nat) : State :=
  if s.bit oTestCtl 31 && s.fld (oTestPer cls) 15 0 != 0 && s.testable cls u &&
     !(s.tests.any fun t => t.cls = cls && t.unit_ = u && t.desc.isNone) then
    { s with tests := s.tests ++ [newTest cls u] }
  else s

def execTestDue (cls u : Nat) (s : State) : Res := onUnit (testOk cls u) (s.testDue cls u)

/-- The scheduler lets a matrix unit's test run: between steps or from NORM on (Table 5-6). -/
def State.testPhase (s : State) : Bool := !s.trn.evalOpen && (!s.trn.opened || s.phase = 0 || 4 ≤ s.phase)

/-- A physical matrix unit is idle; one in HOLD has only to run nothing, as its self-test lets it enter service (R208). -/
def State.muIdle (s : State) (p : Nat) : Bool :=
  match s.muOfPhys p with
  | some u => (s.mu u).cur = none && (!(s.mu u).ok || ((s.mu u).ahead = [] && (s.mu u).full = []))
  | none => true

/-- A physical drover engine is idle; one in HOLD has only to run nothing, whatever waits in its queues (R256). -/
def State.drvIdle (s : State) (p : Nat) : Bool :=
  match s.drvOfPhys p with
  | some e =>
    let d := s.drv e
    d.inv = none && (!d.ok || (d.qa = [] && d.qb = [] && d.aq = [] && d.runs = [] && d.copies = []))
  | none => true

/-- A matrix unit or drover engine is tested outside the rules of R174: at once, but an overdue one that serves, for want of a spare, only
at a step boundary (R175). -/
def State.testAtOnce (s : State) (t : Test) (serves : Bool) : Bool :=
  t.forced && (!(t.overdue && serves) || (!s.trn.evalOpen && (!s.trn.opened || s.atBoundary)))

/-- A test's next slice may start now, but for a place of the activity limit (R174, R175, R180). -/
def State.mayTest (s : State) (t : Test) : Bool :=
  !s.failSafe && t.slices != 0 && !t.running &&
  match t.cls with
  | 3 => s.muIdle t.unit_ && (s.testAtOnce t (s.muOfPhys t.unit_).isSome || (!t.overdue && s.testPhase))
  | 4 => s.drvIdle t.unit_ && (s.testAtOnce t (s.drvOfPhys t.unit_).isSome || !t.overdue)
  | _ =>
    let p := t.die.getD 0
    s.testThere t p &&
    match s.testTile t with
    | some (p, n) => t.takes (s.tile p n).st
    | none => t.cls = 2

/-- The slice finds a place of the activity limit, where it needs one (R91, R92). -/
def State.testPlace (s : State) (t : Test) : Bool :=
  if 3 ≤ t.cls then true
  else match s.testTile t with
    | some (p, n) => s.placeFree p n
    | none => s.placeSpare (t.die.getD 0)

/-- The slice of a tile takes its place, or the tile waits for one (R92). -/
def State.testTakes (s : State) (t : Test) (on : Bool) : State :=
  if 3 ≤ t.cls then s
  else match s.testTile t with
    | some (p, n) => if on then s.takePlaceOf p n else s.waitPlace p n
    | none => s

/-- The tests with one replaced at a place of the list. -/
def State.setTest (s : State) (i : Nat) (t : Test) : State := { s with tests := s.tests.set i t }

/-- A unit under test stands in TEST. -/
def State.enterTest (s : State) (t : Test) (on : Bool) : State :=
  if t.cls = 3 then match s.muOfPhys t.unit_ with | some u => s.updMu u fun m => { m with test := on } | none => s
  else if t.cls = 4 then match s.drvOfPhys t.unit_ with | some e => s.updDrv e fun d => { d with test := on } | none => s
  else match s.testTile t with
    | some (p, n) => s.setTileState p n (if on then .test else if t.from_ = 6 then .fenced else if t.from_ = 0 then .hold else .ready)
    | none => s

/-- The state code a test took its tile from; 7 for a free physical tile. -/
def State.testFrom (s : State) (t : Test) : Nat :=
  match s.testTile t with
  | some (p, n) => (s.tile p n).st.code
  | none => 7

/-- A slice of the first test of a unit that may run starts (R174). -/
def State.sliceStart (s : State) (cls u : Nat) : State :=
  let mine (t : Test) : Bool := t.cls = cls && t.unit_ = u
  if s.tests.any fun t => t.running && (mine t || (t.cls < 3 && cls < 3 && s.testTile t = s.testTile (newTest cls u) && (s.testTile t).isSome)) then s
  else
    match s.tests.findIdx? fun t => mine t && s.mayTest t with
    | none => s
    | some i =>
      let t := s.tests.getD i {}
      if s.testPlace t then ((s.testTakes t true).setTest i { t with running := true, from_ := s.testFrom t }).enterTest t true
      else s.testTakes t false

def execTestSliceStart (cls u : Nat) (s : State) : Res := onUnit (testOk cls u) (s.sliceStart cls u)

/-- Rung of the ladder of a physical tile (Table 14-2); 0 where none runs. -/
def State.rung (s : State) (p pt : Nat) : Nat := mapGet 0 s.flt.ladder (p * 16384 + pt)
def State.setRung (s : State) (p pt r : Nat) : State := s.setFlt fun x => { x with ladder := mapSet 0 x.ladder (p * 16384 + pt) r }

/-- Rung 4: the tile is retired, and as it failed its checks it is not read until a spare has taken its index (R143, Table 14-2; log
entry 163). -/
def State.rungRetire (s : State) (p n pt : Nat) : State := ((s.setRung p pt 4).fenceTile p n).askRetire p n

/-- Columns that failed a test are remapped and the tile goes to rung 2; rung 4 follows where spares are lacking (Table 14-2). -/
def State.failColumns (s : State) (p n pt : Nat) (cols : List Nat) : State :=
  let free := ((List.range 16).filter fun i => s.fld (colMapOff p n i) 31 30 = 0).length
  let queued := ((s.port p).remaps.filter (·.1 = pt)).length
  if free < cols.length + queued then s.rungRetire p n pt
  else ((cols.foldl (fun (t : State) c => t.askRemap p pt (s.servedBy p n c)) s).setRung p pt 2).askMuster p n

/-- A tile's test has failed in kinds REF or CONVERTER: it is marked suspect, and a suspect tile goes to the ladder (R161, R173). -/
def State.failTile (s : State) (p n pt : Nat) : State :=
  if (s.tile p n).suspect then (s.setRung p pt 2).askMuster p n else s.suspect p n pt

/-- Free spare columns that failed are retired (R173). -/
def State.failSpares (s : State) (p n : Nat) (cols : List Nat) : State :=
  cols.foldl (fun (t : State) i =>
    if i < 16 && t.fld (colMapOff p n i) 31 30 = 0 then t.setReg (colMapOff p n i) (BitVec.ofNat 32 (2 ^ 31)) else t) s

/-- What the failed kinds of a slice do to the tile. -/
def State.failKinds (s : State) (t : Test) (p n : Nat) (fail : Nat) (cols : List Nat) : State :=
  match s.ptile p n with
  | none => s
  | some pt =>
    let s1 := if fail % 4 != 0 then s.failTile p n pt else s
    let s2 := if fail.testBit 2 then s1.failColumns p n pt cols else s1
    let s3 := if fail.testBit 3 then s2.failSpares p n cols else s2
    if s.rung p pt = 3 && t.kinds = 4 && t.slices ≤ 1 && fail = 0 && t.word / 2 % 16 = 0 then s3.rungRetire p n pt else s3

/-- A waiting periodic test that a passed test of a tile counts as: by its kinds, of the logical tile or, for SPARE, of the physical tile
that serves it (R180). -/
def State.covers (s : State) (t x : Test) : Bool :=
  x.desc.isNone && !x.running &&
  if t.cls < 2 then
    (x.cls = 0 && x.unit_ = t.unit_ && t.kinds % 4 = 3) ||
    (x.cls = 1 && x.unit_ = t.unit_ && t.kinds.testBit 2 && t.lo = 0 && t.hi = 511) ||
    (x.cls = 2 && t.kinds.testBit 3 && s.testTile x = s.testTile t)
  else x.cls = t.cls && x.unit_ = t.unit_

/-- A passed test ends the fence of its tile at the next step boundary, and a suspect tile is mustered again (R161, R175). -/
def State.passTile (s : State) (t : Test) (p n : Nat) : State :=
  let ends := t.forced && (t.desc.isNone || s.tests.any fun x => s.covers t x && x.overdue)
  let s1 := { s with tests := s.tests.filter fun x => !s.covers t x }
  if ends && (s.tile p n).st = .fenced && s1.rung p ((s1.ptile p n).getD 0) = 0 then
    let sus := (s.tile p n).suspect
    let s2 := s1.updTile p n fun x => { x with unfence := true, suspect := false }
    if sus then s2.askMuster p n else s2
  else s1

/-- A self-test passes: the unit leaves HOLD, and one fenced as overdue that a spare replaced is a spare itself (R173, R175, R208). -/
def State.passUnit (s : State) (t : Test) : State :=
  let key := if t.cls = 3 then t.unit_ else 128 + t.unit_
  let s1 := s.setFlt fun x => { x with tested := mapIns x.tested key s.ts }
  if t.cls = 3 then
    match s1.muOfPhys t.unit_ with
    | some u => s1.updMu u fun m => { m with ok := true }
    | none => if s1.fld (muPhysOff t.unit_) 31 28 = 3 then s1.setFld (muPhysOff t.unit_) 31 28 2 else s1
  else
    match s1.drvOfPhys t.unit_ with
    | some e => s1.updDrv e fun d => { d with ok := true }
    | none => if s1.fld (drvPhysOff t.unit_) 31 28 = 3 then s1.setFld (drvPhysOff t.unit_) 31 28 2 else s1

/-- A failed self-test counts in row 8 of Table 14-4 (R173). -/
def State.failUnit (s : State) (t : Test) : State :=
  if t.cls = 3 then
    let r := (s.addLife t.unit_).threshold 8 t.unit_ 1
    if r.1 then r.2.retireMu t.unit_ else r.2
  else
    let r := (s.addLife (128 + t.unit_)).threshold 8 (128 + t.unit_) 1
    if r.1 then r.2.retireDrv t.unit_ else r.2

/-- A TILE_TEST whose entries have all been tested writes its results and completes (R180). -/
def State.finishTests (s : State) (c ptr : Nat) : State :=
  let mine (t : Test) : Bool := match t.desc with | some (a, b, _) => a = c && b = ptr | none => false
  let ts := s.tests.filter mine
  if ts.any fun t => t.slices != 0 || t.running then s
  else
    let s1 := { s with tests := s.tests.filter fun t => !mine t }
    match s1.started c ptr with
    | none => s1
    | some d =>
      let word (i : Nat) : Nat := match ts.find? fun t => (match t.desc with | some (_, _, k) => k = i | none => false) with
        | some t => if t.word / 2 = 0 then 1 else t.word
        | none => 0
      if d.u64 32 = 0 then s1.complete c ptr stSuccess
      else
        let r := s1.store (s1.ctxWho c) (daddr (d.u64 32)) ((List.range (d.u16 18)).flatMap fun i => leBytes 4 (word i))
        r.2.complete c ptr r.1.status

/-- A slice ends; `fail` names the kinds that failed in it and `cols` the failing columns, or spares (R173 to R175). -/
def State.sliceEnd (s : State) (cls u fail : Nat) (cols : List Nat) : State :=
  match s.tests.findIdx? fun t => t.cls = cls && t.unit_ = u && t.running with
  | none => s
  | some i =>
    let t := s.tests.getD i {}
    let kinds := if 3 ≤ cls then fail % 2 else if t.onPort then fail &&& (t.kinds &&& 12) else fail &&& (t.kinds &&& 3)
    let first := if kinds.testBit 2 && !t.word.testBit 3 then cols.foldl min (cols.headD 0) % 512 * 65536 else 0
    let w := t.word ||| (kinds * 2) ||| first
    let t1 := { t with running := false, slices := t.slices - 1, word := w }
    let s1 := (s.setTest i t1).enterTest t false
    if 3 ≤ cls then
      let s2 := { s1 with tests := s1.tests.eraseIdx i }
      if kinds = 0 then s2.passUnit t else s2.failUnit t
    else
      let s2 := match s1.testTile t with
        | some (p, n) =>
          let f := s1.failKinds t p n kinds cols
          if t1.slices = 0 && w / 2 % 16 = 0 then f.passTile t1 p n else f
        | none => s1
      match t.desc with
      | some (c, ptr, _) => s2.finishTests c ptr
      | none => if t1.slices = 0 then { s2 with tests := s2.tests.eraseIdx i } else s2

def execTestSliceEnd (cls u fail : Nat) (cols : List Nat) (s : State) : Res :=
  onUnit (testOk cls u) (s.sliceEnd cls u fail (cols.filter (· < 512)))

/-- A test deferred for DEFER_MAX makes its unit test-overdue: a tile is fenced, once no engine or read has it; a matrix unit or drover engine waits for the step
boundary; the test then runs outside the rules of R174 (R175). -/
def State.testOverdue (s : State) (cls u : Nat) : State :=
  match s.tests.findIdx? fun t => t.cls = cls && t.unit_ = u && !t.running && !t.overdue && !t.forced with
  | none => s
  | some i =>
    let t := s.tests.getD i {}
    let s1 := s.setTest i { t with overdue := true, forced := true }
    match s1.testTile t with
    | some (p, n) =>
      let pt := (s1.ptile p n).getD 0
      (s1.fenceTile p n).raiseFault 0 0x0306 (p * 2 ^ 14 + pt) []
    | none => if cls = 2 then s1 else s1.raiseFault 0 0x0306 u []

def execTestOverdue (cls u : Nat) (s : State) : Res := onUnit (testOk cls u) (s.testOverdue cls u)

def chkTileTest (d : Desc) : Nat :=
  if d.u8 17 % 16 = 0 then 0
  else if d.u16 18 = 0 || 1024 < d.u16 18 || d.u64 24 % 8 != 0 || !localOrHost (d.u64 24) || !localOrHost (d.u64 32)
  then stInvalidField else 0

/-- The tests of the entries of a TILE_TEST; an entry whose tile is not mapped is not run (Table 5-9). -/
def State.entryTests (s : State) (p kinds c ptr : Nat) (es : List Nat) : List Test :=
  es.zipIdx.map fun x =>
    let n := Machine.fld x.1 12 0
    let t : Test := { cls := 0, unit_ := p * 8192 + n, kinds := kinds, lo := Machine.fld x.1 24 16, hi := Machine.fld x.1 40 32, forced := true,
                      desc := some (c, ptr, x.2) }
    if (s.ptile p n).isNone then { t with word := 32 } else { t with slices := t.whole }

/-- TILE_TEST reads its entries and hands the tests to the scheduler (R180). -/
def State.tileTest (s : State) (c : Nat) (d : Desc) : State :=
  let w := s.ctxWho c
  let p := d.u8 16 % 8
  let q := s.dieCfg p w.master
  if !q.1 then q.2.complete c d.ptr stDenied
  else if d.u8 17 % 16 = 0 then s.complete c d.ptr stSuccess
  else if (s.die p).state = .failSafe then s.complete c d.ptr stNotInService
  else if !s.mayStore w (d.u64 32) (4 * d.u16 18) then (s.denyAt w rightW (d.u64 32) (4 * d.u16 18)).complete c d.ptr stDenied
  else
    let r := s.readRecord w (d.u64 24) (8 * d.u16 18)
    match r.1 with
    | .inl st => r.2.complete c d.ptr st
    | .inr bs =>
      let ts := r.2.entryTests p (d.u8 17 % 16) c d.ptr (entriesOf bs (d.u16 18))
      (({ r.2 with tests := r.2.tests ++ ts } : State).working c d.ptr).finishTests c d.ptr

def execTileTest (c n : Nat) (s : State) : Res := onUnit (ctxOk c) (s.runDesc c n 0x39 fun d t => t.tileTest c d)

end Sys2Proof.Machine
end

