-- ==== Sys2Proof/Machine/MemCmds.lean ====
section
/-! DEFINITION. Memory requests of masters outside the modelled units (R362 to R366, R451), errors in control memory (R354), patrol
scrub (R356, R357) and channel migration (R358 to R360). -/

namespace Sys2Proof.Machine

/-- A stack answers requests: past INIT and not in self-refresh (R367, R368). -/
def State.stackUp (s : State) (k : Nat) : Bool :=
  let st := s.fld (0x1400100 + 4 * k) 31 28
  st != 0 && st != 2

/-- The stacks a range reaches all answer; requests to one that does not wait (R367). -/
def State.reachable (s : State) (a n : Nat) : Bool :=
  (pagesOf a n).all fun p => (placeOf s.stripe (p * 4096)).stackOf.all s.stackUp

/-- One module-local request: checked as a whole, then served or merged (R350, R364). A read returns data unless a line of it is
lost. -/
def State.memRequest (s : State) (master a n : Nat) (write : Option (List Byte)) : State :=
  let right := if write.isSome then rightW else rightR
  if n = 0 then s
  else
    match s.memCheck master right a n with
    | .ok =>
      match write with
        | some bs => s.writeMem master a bs
        | none => let r := s.readMem 0 master a n; if r.2.1 then r.2.2 else r.2.2.emit (.memData r.1)
    | c => s.refuse c right master a

/-- An uncorrectable error in control memory: in the firmware region of fold SRAM `f` at an offset, where it is logged, or in a
memory of the MSP or a shepherd core. It drives the fail-safe state (R354). -/
def execControlMemoryUe (inSram : Bool) (f off master : Nat) (s : State) : Res :=
  let a := sramBase f + off
  onUnit (!inSram || (f < 2 && sramRegion off == .firmware))
    ((if inSram then (s.setErrs a [(off % 64 / 8, 3)]).logUe 4 master a else s).assertFs 6)

/-- The module-local address of an offset of a stack (R341). -/
def stackAddr (z k o : Nat) : Nat :=
  if o < gib * z then 32768 * (o / 4096) + 4096 * k + o % 4096 else windowBase z k + (o - gib * z)

/-- The stack offset of a channel offset of a logical channel (R342). -/
def stackOffset (c o : Nat) : Nat := o / 256 * 7680 + c * 256 + o % 256

/-- A line as it is written back or copied: corrected, or poisoned; a line beyond the code's guarantee stays as it is (R356, R359;
log entry 143). -/
def Mark.rewritten (m : Mark) (es poisoned : Errs) : Errs :=
  match m with
  | .good => []
  | .fixed _ => []
  | .poison => poisoned
  | .bad => poisoned
  | .wrong _ _ => es

/-- Patrol scrub of a line that holds no data of an address: of a free spare, a channel under migration or a retired channel. A new
uncorrectable error has no module-local address, and the logged one is free (log entry 119). -/
def State.scrubSpare (s : State) (k p line : Nat) : State :=
  let es := s.spareErrs k p line
  let m := stackMark (spareKey k p line) true es
  let s1 := (s.eventF (foldOf k) 0x40 (k % 4) 1)
  let s2 := match m with
    | .fixed sym => s1.correctedRead k p sym
    | .wrong (some sym) _ => s1.correctedRead k p sym
    | .poison => s1.eventF (foldOf k) 0x44 (k % 4) 1
    | .bad =>
      let f := s1.takeFree
      (f.2.eventF (foldOf k) 0x43 (k % 4) 1).logUe 2 0 (f.1 % 2 ^ 40 / 64 * 64)
    | _ => s1
  s2.setSpare k p line (m.rewritten es poisonErrs)

/-- Patrol scrub reads the line at a channel offset of a physical channel, and writes it back corrected or poisoned (R356). -/
def State.scrub (s : State) (k p o : Nat) : State :=
  if !s.bit 0x1400014 31 || !s.stackUp k then s
  else
    match s.channelServed k p with
    | none => s.scrubSpare k p (o / 64)
    | some c =>
      let a := stackAddr s.stripe k (stackOffset c (o / 64 * 64))
      let s1 := s.readLine 2 0 a
      match s.mark a with
      | .fixed _ => s1.setGood a
      | .bad => s1.poisonLine a
      | _ => s1

def execScrubRead (k p o : Nat) (s : State) : Res := onUnit (k < 8 && p < 32 && o < 2 ^ 32) (s.scrub k p o)

/-- Writing MEM_MIG; GO starts the retirement of a channel unless a migration runs in the stack (R358). -/
def State.writeMig (s : State) (w : Word) : State :=
  let s1 := s.setReg 0x1400018 (w &&& 0x071F000F#32)
  if w.getLsbD 31 && decide (wfld w 20 16 < 30) then s1.retireChannel (wfld w 26 24) (wfld w 20 16) else s1

def execChannelMigrate (master : Nat) (w : Word) (s : State) : Res :=
  .next (s.guardedWrite master 0x1400018 fun t => t.writeMig w)

/-- Lines of a channel: 4 GiB. -/
def channelLines : Nat := 0x4000000

/-- The line of a channel that a line key of stack k belongs to, where it lies in logical channel c. -/
def lineIn (k c key : Nat) : Option Nat :=
  let o := key * 64 - 2 ^ 37 * k
  if key * 64 / 2 ^ 37 = k && (channelOf o).1 = c then some (channelLine o) else none

/-- One listed line is copied to the spare: read with all its effects, and written corrected or poisoned (R359). -/
def State.copyLine (s : State) (k : Nat) (m : Mig) (i : Nat) : State :=
  let a := stackAddr s.stripe k (stackOffset m.lch (64 * i))
  let p := placeOf s.stripe a
  (s.noteRead 2 0 a (s.markIn p) p).setSpare k m.pch i ((s.markIn p).rewritten (s.errsIn p) poisonErrs)

/-- The first line of a migration's next n that is lost with all after it: where the channel no longer answers, or where an earlier
migration from such a channel left it poisoned. -/
def State.lostStart (s : State) (k : Nat) (m : Mig) (n : Nat) : Option Nat :=
  if s.silent k (s.pch k m.lch) then some m.lines
  else match mapGet none s.mem.blank (32 * k + m.lch) with
    | some b => if b < m.lines + n then some (max b m.lines) else none
    | none => none

/-- A migration copies its next n lines, in ascending order (R359): those that hold errors one by one, and the rest, which hold none, at
once. -/
def State.copyLines (s : State) (k n : Nat) : State :=
  match mapGet none s.mem.migs k with
  | none => s
  | some m =>
    let n' := min n (channelLines - m.lines)
    let hit (i : Nat) : Bool := m.lines ≤ i && decide (i < m.lines + n')
    let lost := (s.lostStart k m n').map fun l => (m.lines + n' - l, m.lostFrom.getD l)
    let s1 := ((s.eventF (foldOf k) 0x40 (k % 4) n').eventF (foldOf k) 0x41 (k % 4) n')
    let s2 := match lost with
      | some l => if s.silent k (s.pch k m.lch) then s1.eventF (foldOf k) 0x43 (k % 4) l.1 else s1.eventF (foldOf k) 0x44 (k % 4) l.1
      | none => s1
    let base := spareKey k m.pch 0
    let s3 := { s2 with mem := { s2.mem with
      spare := s2.mem.spare.filter fun e => !(base ≤ e.1 && hit (e.1 - base))
      migs := mapSet none s2.mem.migs k (some { m with lines := m.lines + n', lostFrom := (lost.map (·.2)).or m.lostFrom }) } }
    let s4 := (s.mem.errs.filterMap fun e => lineIn k m.lch e.1).foldl (fun (t : State) i =>
      if hit i && !s.silent k (s.pch k m.lch) then t.copyLine k m i else t) s3
    s4.refreshStack k 3

/-- Channels of a stack whose retirement waited are now retired. -/
def State.retireWaiting (s : State) (k : Nat) : State :=
  let mine := s.mem.retireWait.filter fun x => x / 32 = k
  mine.foldl (fun (t : State) x => t.orderRetire k (x % 32))
    { s with mem := { s.mem with retireWait := s.mem.retireWait.filter fun x => x / 32 != k } }

/-- The logical channel is now the spare's: its lines are those that were copied or written to it, with zero data where poisoned. -/
def State.takeCopy (s : State) (k : Nat) (m : Mig) : State :=
  let base := spareKey k m.pch 0
  let mine := s.mem.spare.filter fun e => base ≤ e.1 && e.1 < base + channelLines
  let gone (key : Nat) : Bool := match lineIn k m.lch (key / 64), m.lostFrom with
    | some i, some l => l ≤ i && (mapFind s.mem.spare (base + i)).getD poisonErrs = poisonErrs
    | _, _ => false
  let s1 := { s with mem := { s.mem with
    cells := s.mem.cells.filter fun c => !gone c.1
    errs := s.mem.errs.filter fun e => (lineIn k m.lch e.1).isNone
    spare := s.mem.spare.filter fun e => !(base ≤ e.1 && e.1 < base + channelLines)
    blank := mapSet none s.mem.blank (32 * k + m.lch) m.lostFrom } }
  mine.foldl (fun (t : State) e =>
    let p : Place := .stack k (stackOffset m.lch (64 * (e.1 - base)))
    let t1 := t.setErrsIn e.2 p
    if e.2 = poisonErrs then t1.poke (stackAddr t.stripe k (stackOffset m.lch (64 * (e.1 - base)))) (List.replicate 64 0) else t1) s1

/-- The last line of a migration is copied: the channel map switches and the old channel is retired (R359, R360). Retirements that waited
for the migration follow. -/
def State.migrationDone (s : State) (k : Nat) : State :=
  match mapGet none s.mem.migs k with
  | none => s
  | some m0 =>
    if m0.off || s.failSafe then s
    else
      let s0 := s.copyLines k channelLines
      let m := (mapGet none s0.mem.migs k).getD m0
      let old := s0.pch k m.lch
      let s1 := ({ s0 with mem := { s0.mem with migs := mapSet none s0.mem.migs k none } } : State).takeCopy k m
      let s2 := s1.setReg (0x1401000 + 128 * k + 4 * m.lch) (BitVec.ofNat 32 (2 ^ 31 + m.pch))
      let s3 := s2.markRetired k old
      let s4 := { s3 with mem := { s3.mem with chmap := mapSet m.lch s3.mem.chmap (32 * k + m.lch) m.pch } }
      ((s4.refreshStack k (s4.stackState k)).raiseFault 2 0x0202 (k * 32 + old) []).retireWaiting k

def execMigrationDone (k : Nat) (s : State) : Res := onUnit (k < 8) (s.migrationDone k)

/-- Lines a channel carries in a cycle of SVC_CLK at a share in sixteenths: 76.8 GB/s for 5 ns is 6 lines (R338, R359). -/
def shareLines (share : Nat) : Nat := 6 * max share 1 / 16

/-- In a cycle each migration copies lines, at most its share of the cycle; how many is free (R359; log entry 120). -/
def State.migrateTick (s : State) : State :=
  s.mem.migs.foldl (fun (t : State) kv =>
    match kv.2 with
    | none => t
    | some m =>
      if m.off || channelLines ≤ m.lines + shareLines (s.fld 0x1400018 3 0) then t
      else
        let f := t.takeFree
        f.2.copyLines kv.1 (f.1 % (shareLines (s.fld 0x1400018 3 0) + 1))) s

end Sys2Proof.Machine
end

