-- ==== Sys2Proof/Machine/Faults.lean ====
section
/-! DEFINITION. Analogue checks and the escalation ladder (R473 to R475), thresholds (R476), fault records (R480, R481, R562) and the
rebuild of a module (R139, R488, R489). -/

namespace Sys2Proof.Machine

/-- Column trims in force, or, for the check at rung 2, the pending ones of the tile's muster (R475). -/
def State.checkOfs (s : State) (new : Bool) (p n col : Nat) : Int :=
  let v := sext 6 (s.colRec p n col / 2 ^ 26)
  if new then (mapGet none (s.mus p).pend.ofs (n * 512 + col)).getD v else v

/-- The factor of R86 under the trims the check uses. -/
def State.checkFactor (s : State) (new : Bool) (p n pt col : Nat) : Nat :=
  let gt := if new then s.headGt p n col else s.colRec p n col / 2 ^ 16 % 1024
  let d := if new then s.headDrift p n else s.drift p (fieldOf pt)
  let a := fp32.round .rne ((fp16.decode (s.scolBits p n col)).mul (.fin false (768 + gt) (-10)))
  (fp32.round .rne ((fp32.decode a.1).mul (fp16.decode d))).1

/-- The tile's own part from repeated reads: `sums` holds Σ(8c_M + c_m) of every leaf of two reads per logical column, of `leaves`
leaves in all; in units of 2^(Et − 54), averaged as under RPT = 1 (R83, R89, R90). -/
def State.rereadPart (s : State) (new : Bool) (p n leaves : Nat) (sums : List Int) : List Int :=
  let k := s.fld (tileCfgOff p n) 2 0
  let rep := s.replica p n
  (List.range (s.tileCols p n)).map fun c =>
    let o := s.checkOfs new p n c + (if rep then s.checkOfs new p n (c + 256) else 0)
    (sums.getD c 0 - leaves * o) * 2 ^ (k + 8) * (if rep then 2 else 4)

/-- The value of the working copy at a weight, and the exponent of its block. -/
def State.workingCopy (s : State) (p n row col : Nat) : Option (FVal × Nat) :=
  match s.locate p n row col with
  | none => none
  | some (sp, r, c) =>
    if sp.wc = 0 then none
    else
      let line := s.peek (sp.wc + (c * ceilDiv sp.k 60 + r / 60) * 64) 64
      let blk := if Machine.fld sp.wcFb 4 3 = 0 then 30 else 60
      some (lineVal .t8 blk line (r % 60), (line.getD (r % 60 / blk) 0).toNat % 64)

/-- The part of the working copy that a column's comparison reads is not lost (R352). -/
def State.fetchCopy (s : State) (p n col part : Nat) : Bool × State :=
  match s.locate p n 0 col with
  | none => (true, s)
  | some (sp, r, c) =>
    if sp.wc = 0 then (true, s)
    else
      let q := s.fetch (drvMaster (s.routineEngine p part)) (sp.wc + (c * ceilDiv sp.k 60 + r / 60) * 64)
        (64 * ceilDiv (min 480 (sp.k - r)) 60)
      (q.1.isSome, q.2)

/-- z_c of a column: the G8 product of the driven inputs with the working copy (R474). The tile index its draws take is `t`. -/
def State.digital (s : State) (x : Sample) (n col t : Nat) : Nat :=
  let a (r : Nat) : FVal × Cond := ((FVal.ofInt (x.taps.getD r 0)).scale ((x.et : Int) - 43), {})
  let b (r : Nat) : FVal × Cond := match s.workingCopy x.die n r col with | some v => (v.1, {}) | none => (.zero, {})
  let len := ((List.range 480).filter fun r => (s.locate x.die n r col).isSome).length
  (gChain s.seed s.stepNo (t + col / 128) (col % 128) a b 0 len).1

/-- The band of a column times its LSB (R474). -/
def State.band (s : State) (x : Sample) (n col : Nat) : FVal :=
  let ks := max (s.fld 0x304 23 16) 1
  let k := s.fld (tileCfgOff x.die n) 2 0
  let sigma := s.fld (pst x.die + 0x140000 + 4 * n) 9 0
  let sc := s.scol x.die n col
  let th := max (s.fld (pst x.die + 0x208) 14 0) 129
  let lsb := sc.scale ((k : Int) + x.et - 40)
  let m : FVal := .fin false (if 2 ≤ k then 3 else 4) (-1)
  let head := lsb.mul ((FVal.fin false (ks * sigma) (-10)).add m)
  (List.range 480).foldl (fun acc r =>
    match s.workingCopy x.die n r col with
    | none => acc
    | some v =>
      let xr : FVal := (FVal.ofInt (x.taps.getD r 0).natAbs).scale ((x.et : Int) - 43)
      acc.add (xr.mul (((sc.scale (-11)).mul (.fin false th 0)).add (.fin false 1 ((v.2 : Int) - 41))))) head

/-- A column of a sample passes, or is not compared: no working copy, or saturations in its column state (R474). -/
def State.columnPasses (s : State) (new : Bool) (x : Sample) (n : Nat) (acc : List Int) (t col : Nat) : Bool :=
  (s.workingCopy x.die n 0 col).isNone || s.satCount x.die n col != 0 ||
    (let a := acc.getD col 0
     let v := (FVal.fin (a < 0) a.natAbs ((x.et : Int) - 54)).mul (fp32.decode (s.checkFactor new x.die n x.ptile col))
     let y := if a = 0 then 0 else (fp32.round .rne v).1
     (((fp32.decode y).sub (fp32.decode (s.digital x n col t))).abs).le (s.band x n col))

/-- The failing columns of a sample, its own part given (R474); none where a line of the working copy is lost. -/
def State.checkSample (s : State) (new : Bool) (x : Sample) (n : Nat) (acc : List Int) : Option (List Nat) × State :=
  let f := s.takeFree
  let cols := List.range (s.tileCols x.die n)
  let r := cols.foldl (fun (a : Bool × State) c =>
    let q := a.2.fetchCopy x.die n c x.part
    let z := q.2.satRead x.die n c
    (a.1 && q.1 && z.1, z.2)) (true, f.2)
  (if r.1 then some (cols.filter fun c => !r.2.columnPasses new x n acc (f.1 % 65536) c) else none, r.2)

def Sample.of (x : Sample) (p pt : Nat) : Bool := x.die = p && x.ptile = pt

def State.setSamples (s : State) (f : Sample → Bool) : State := s.setFlt fun x => { x with samples := x.samples.filter f }

/-- Rung 0: up to 128 samples of a tile are checked; the first that fails starts the ladder with its input captured (R474, R475). -/
def State.checkFresh (s : State) (p n pt : Nat) : State :=
  let mine := s.flt.samples.filter fun x => x.of p pt
  let go := (mine.take 128).foldl (fun (a : Option Sample × State) x =>
    let r := a.2.checkSample false x n x.acc
    (if a.1.isSome then a.1 else match r.1 with
      | some [] => none
      | some _ => some x
      | none => none, r.2)) (none, s)
  let rest := (go.2.setSamples fun x => !x.of p pt).setFlt fun y => { y with samples := y.samples ++ mine.drop 128 }
  match go.1 with
  | none => rest
  | some x => (rest.setFlt fun y => { y with samples := x :: y.samples }).setRung p pt 1

/-- Rung 1 did not clear the tile: it is fenced, the step takes its cause bit, a failure counts, and rung 2 follows (Table 14-2). -/
def State.rungOneFails (s : State) (p n pt : Nat) (x : Sample) : State :=
  let s1 := (s.setSamples fun y => !y.of p pt || y = x).setTileState p n .fenced
  let s2 := ((s1.cause 3).satAdd (pst p + 0x140000 + 4 * n) 20 16 1).raiseFault 0 0x0305 (p * 2 ^ 14 + pt) []
  let r := s2.threshold 5 (p * 2 ^ 14 + pt) 1
  if r.1 then r.2.rungRetire p n pt else (r.2.setRung p pt 2).askMuster p n

/-- Rung 3: a COLUMN test over the failing columns (Table 14-2). -/
def State.rungThree (s : State) (p n pt : Nat) (cols : List Nat) : State :=
  let t : Test := { cls := 0, unit_ := p * 8192 + n, kinds := 4, lo := cols.headD 0, hi := cols.getLastD 511, forced := true }
  ({ s with tests := s.tests ++ [{ t with slices := t.whole }] } : State).setRung p pt 3

/-- A tile cleared at rung 2 leaves FENCED at the next step boundary (Table 14-2). -/
def State.clearTile (s : State) (p n pt : Nat) : State :=
  ((s.setRung p pt 0).setSamples fun y => !y.of p pt).updTile p n fun t => { t with unfence := true }

/-- The analogue check of a physical tile at the rung it stands on; at rungs 1 and 2 the repeated reads of its captured input come
as sums over their leaves (R474, R475). Rung 2 waits for the muster it asked for. -/
def State.analogueCheck (s : State) (p pt leaves : Nat) (sums : List Int) : State :=
  match s.servesIndex p pt with
  | none => (s.setSamples fun x => !x.of p pt).setRung p pt 0
  | some n =>
    let r := s.rung p pt
    let x? := s.flt.samples.find? fun x => x.of p pt
    if s.failSafe then s
    else if r = 0 then s.checkFresh p n pt
    else if r = 1 then
      match x? with
      | none => s.setRung p pt 0
      | some x =>
        let q := s.checkSample false x n (s.rereadPart false p n leaves sums)
        match q.1 with
        | some [] => (q.2.setRung p pt 0).setFlt fun y => { y with samples := y.samples.erase x }
        | some _ => q.2.rungOneFails p n pt x
        | none => q.2
    else if r = 2 then
      if (s.mus p).asked.contains n || (s.tile p n).st = .muster then s
      else match x? with
        | none => s.rungThree p n pt []
        | some x =>
          let q := s.checkSample true x n (s.rereadPart true p n leaves sums)
          match q.1 with
          | some [] => q.2.clearTile p n pt
          | some cols => q.2.rungThree p n pt cols
          | none => q.2
    else s

def execAnalogueCheck (p pt leaves : Nat) (sums : List Int) (s : State) : Res :=
  onUnit (dieOk p && pt < 8320) (s.analogueCheck p pt leaves sums)

/-- Every count of a row returns to 0 (R476). -/
def State.clearRow (s : State) (row : Nat) : State :=
  let s1 := s.setFlt fun x => { x with thrCnt := x.thrCnt.filter fun kv => kv.1 / 2 ^ 32 != row }
  if row = 13 then s1.setFld oFltStat 23 16 0 else s1

/-- Writing GLB_THR_LIMIT, or GLB_THR_WIN, of the row GLB_THR_IDX names (Table 14-16). -/
def State.writeThr (s : State) (win : Bool) (w : Word) : State :=
  let row := s.fld 0x320 3 0
  if 13 < row then s
  else
    (s.setFlt fun x =>
      if win then { x with thrWin := mapSet (winDefault row) x.thrWin row w.toNat }
      else { x with thrLim := mapSet (thrDefault row) x.thrLim row w.toNat }).clearRow row

def execThresholdWrite (master : Nat) (win : Bool) (w : Word) (s : State) : Res :=
  .next (s.guardedWrite master (if win then 0x328 else 0x324) fun t => t.writeThr win w)

/-- A window of a row ends; a window of 0 has no end (R476). -/
def execThresholdWindowExpiry (row : Nat) (s : State) : Res :=
  onUnit (row < 14) (if s.thrWindow row = 0 then s else s.clearRow row)

/-- The 64 bytes of a fault record (Table 14-5). -/
def FaultRec.bytes (r : FaultRec) (seq : Nat) : List Byte :=
  leBytes 4 (2 ^ 24 + seq) ++ leBytes 8 r.ts ++ leBytes 8 Config.serial ++ leBytes 2 r.pos ++ leBytes 1 r.sev ++ leBytes 1 0 ++
    leBytes 2 r.code ++ leBytes 2 0 ++ leBytes 4 r.step ++ leBytes 4 r.subj ++
    (((r.detail.flatMap (leBytes 4)) ++ List.replicate 28 0).take 28)

/-- A record leaves for every collector of the profile (R480, R562). -/
def State.sendRecord (s : State) (r : FaultRec) (seq : Nat) : State :=
  (s.boot.profile.collectors.take 2).foldl (fun t c => t.emit (.record c (r.bytes seq))) s

/-- The MSP runs. -/
def State.mspUp (s : State) : Bool := s.boot.msp == .running

/-- The management port takes requests and sends fault records (Table 18-10): with VSTBY, but not while `RESET_N` is low, in MSP_BOOT or
while the MSP restarts. -/
def State.mgmtUp (s : State) : Bool :=
  s.pwr.standby && !s.pwr.resetLow && s.bootState != 1 && s.boot.msp != .warm && s.boot.msp != .cold

/-- The MSP sends the oldest record not yet sent under the next number, and posts the FAULT word (R480, R481). -/
def State.sendFault (s : State) : State :=
  if !s.mgmtUp then s
  else
    match s.flt.log.findIdx? (·.seq.isNone) with
    | none => s
    | some i =>
      let r := s.flt.log.getD i {}
      let seq := (s.fld oFltSeq 23 0 + 1) % 2 ^ 24
      let s1 := s.setFlt fun x => { x with log := x.log.set i { r with seq := some seq }, wordPend := true }
      (((s1.setFld oFltSeq 23 0 seq).sendRecord r seq).alert 2).postFault

def execFaultRecordSend (s : State) : Res := .next s.sendFault

/-- An unacknowledged record is sent again (R481). -/
def execFaultRecordResend (seq : Nat) (s : State) : Res :=
  .next (if !s.mgmtUp then s
    else match s.flt.log.find? fun r => r.seq = some seq && !r.acked with
      | some r => s.sendRecord r seq
      | none => s)

/-- An acknowledgement datagram from an address marks its record (R481, R562). -/
def execFaultRecordAck (from_ : Nat) (payload : List Byte) (s : State) : Res :=
  .next (if !s.mgmtUp || !(s.boot.profile.collectors.take 2).contains from_ || payload.length != 8 ||
      leAt payload 0 4 != 0x54464B41 then s
    else
      let ack (r : FaultRec) : FaultRec := if r.seq = some (leAt payload 4 3) then { r with acked := true } else r
      s.setFlt fun x => { x with log := x.log.map ack })

def oRbldStat : Nat := 0x318

/-- SET_LAST of GLB_RBLD_CTL (Table 14-15). -/
def execRebuildSetLast (master : Nat) (s : State) : Res :=
  .next (s.guardedWrite master 0x314 fun t =>
    if t.trn.opened then t else ((t.setReg oStepLast (t.reg 0x31C)).setBit oStepLval 0).clrBit oFltStat 29)

/-- GO of GLB_RBLD_CTL starts the array pass (Table 14-15). -/
def execRebuildGo (master : Nat) (s : State) : Res :=
  .next (s.guardedWrite master 0x314 fun t =>
    if t.trn.opened || t.trn.evalOpen || t.fld oRbldStat 31 28 = 1 then t
    else t.setReg oRbldStat (BitVec.ofNat 32 (2 ^ 28)))

/-- A cell of a logical column that failed verify in the array pass. -/
def passFails (fails : List (Nat × Nat × BadCell)) (p n col row copy : Nat) : List BadCell :=
  (fails.filter fun f => f.1 = p * 8192 + n && f.2.1 = col && f.2.2.row = row && f.2.2.copy = copy).map (·.2.2)

/-- One physical column of a weight takes its code where the found one differs; wear and failures count as in any program
(R139, R140). Whether it took the retry is free where no cell failed. -/
def State.passWeight (s : State) (p pt pcol row : Nat) (w : Int) (bad : List BadCell) : State :=
  let f := s.cells p pt row pcol
  if f.code = w then s
  else
    let t := (Aim.request w).target f
    let diff := ((List.range 4).filter fun j => t.level j != f.level j).length
    let c := bad.foldl (fun (c : Cells) b => c.set b.which (min b.level 15)) t
    let s1 := ((s.setCells p pt row pcol c).wearPulse p pt pcol).event p 0x111 0 diff
    let f := s1.takeFree
    let s2 := (List.range (s1.retried p (max (f.1 % 2) (min bad.length 1)))).foldl (fun u _ => u.wearOne p pt pcol) f.2
    if bad = [] then s2 else s2.failColumn p pt pcol bad.length (bad.filter (·.stuck)).length 1

/-- The array pass over one logical column of a mapped tile: the count of weights programmed and the state (R139, R488). -/
def State.passColumn (s : State) (p n pt col : Nat) (fails : List (Nat × Nat × BadCell)) : Nat × State :=
  let sc := s.scol p n col
  (List.range 480).foldl (fun (a : Nat × State) row =>
    match a.2.locate p n row col with
    | none => a
    | some (sp, r, c) =>
      let m := a.2.fetch (shrMaster p) (sp.masterAt r c) 4
      let t := m.2.fetch (shrMaster p) (sp.tallyAt r c) 2
      match m.1, t.1 with
      | some mb, some tb =>
        let w := recoverW (leNat mb) sc (sext 16 (leNat tb))
        let ps := s.pcols p n col
        let diff := ps.any fun pc => (t.2.cells p pt row pc).code != w
        (a.1 + b2n diff, (List.range ps.length).foldl (fun u i =>
          u.passWeight p pt (ps.getD i 0) row w (passFails fails p n col row i)) t.2)
      | _, _ => (a.1, t.2)) (0, s)

/-- Logical tiles of a die that its array spans name. -/
def State.spanTiles (s : State) (p : Nat) : List Nat :=
  (((s.shr p).spans.filter fun sp => sp.valid && sp.kind = 0).flatMap fun sp => (sp.tiles.map (· % 8192))).eraseDups

/-- The array pass over a die: weights programmed and weights walked (R488). -/
def State.passDie (s : State) (p : Nat) (fails : List (Nat × Nat × BadCell)) : Nat × State :=
  (s.spanTiles p).foldl (fun (a : Nat × State) n =>
    match s.ptile p n with
    | none => a
    | some pt => (List.range (s.tileCols p n)).foldl (fun (b : Nat × State) col =>
        let r := b.2.passColumn p n pt col fails
        (b.1 + r.1, r.2)) a) (0, s.newWindow p)

/-- Weights of the array spans of a module. -/
def State.spanWeights (s : State) : Nat :=
  (List.range 8).foldl (fun a p => ((s.shr p).spans.filter fun sp => sp.valid && sp.kind = 0).foldl (fun b sp => b + sp.k * sp.n) a) 0

/-- The array pass runs in a maintenance window of every die and completes; a rebuild-complete record is sent, at SEV 1 where it
programmed more than 1 % of the weights (R488, R489). -/
def State.rebuildComplete (s : State) (fails : List (Nat × Nat × BadCell)) : State :=
  if s.fld oRbldStat 31 28 != 1 || s.failSafe || (List.range 8).any fun p => !s.maintenance p then s
  else
    let r := (List.range 8).foldl (fun (a : Nat × State) p => let q := a.2.passDie p fails; (a.1 + q.1, q.2)) (0, s)
    if r.2.mem.consumed != s.mem.consumed then r.2.setFld oRbldStat 31 28 3
    else
      (r.2.setReg oRbldStat (BitVec.ofNat 32 (2 ^ 29 + min r.1 (2 ^ 28 - 1)))).raiseFault
        (if s.spanWeights < 100 * r.1 then 1 else 0) 0x0604 0 [r.1]

def execRebuildComplete (fails : List (Nat × Nat × BadCell)) (s : State) : Res := .next (s.rebuildComplete fails)

end Sys2Proof.Machine
end

