-- ==== Sys2Proof/Machine/Persist.lean ====
section
/-! DEFINITION. Persistent data (R528 to R530): the two copies of an item, the order in which the MSP writes them, the copy it takes at a
load, and the migration to a higher version. -/

namespace Sys2Proof.Machine

/-- An image in a slot: as written, or as it was at manufacture. -/
def State.slotBytes (s : State) (t : Nat) (b : Bool) : List Byte :=
  match mapFind s.boot.slots (2 * t + b2n b) with
  | some x => x.bytes
  | none => Config.factoryImage (2 * t + b2n b)

def State.slotValid (s : State) (t : Nat) (b : Bool) : Bool :=
  match mapFind s.boot.slots (2 * t + b2n b) with
  | some x => x.valid
  | none => Config.factoryValid (2 * t + b2n b)

/-- The slot that runs (FW_SLOT.RUN). -/
def State.runSlot (s : State) (t : Nat) : Bool := s.bit (oFwSlot t) 31

/-- Registers of a die in a range of its window, as they stand. -/
def State.regsIn (s : State) (a b : Nat) : Map Word := s.regs.filter fun kv => decide (a ≤ kv.1) && decide (kv.1 < b)

/-- The copy of item i in bank b, 0 for A. -/
def State.pdCopy (s : State) (i b : Nat) : PdCopy := mapGet {} s.save.copies (2 * i + b)

/-- What an item holds now (Table 16-8): the calibration tables, the spare maps, or the wear counters with the last committed step. Items 4
and 5 are as delivered: no command changes them (log entry 19). -/
def State.pdBody (s : State) (i : Nat) : PdCopy :=
  let dies (f : Nat → DieSave) : Map DieSave := ((List.range 8).map fun p => (p, f p)).filter fun kv => kv.2 != {}
  match i with
  | 1 => { dies := dies fun p =>
      let u := s.mus p
      { recs := ((List.range (8192 * 512)).map fun k => (k, s.colRec p (k / 512) (k % 512))).filter fun kv => kv.2 != 0
        drift := s.regsIn (pst p + 0x100) (pst p + 0x200)
        slot := u.slot, delay := u.delay, base := u.base, gain := u.gain, refr := u.refr } }
  | 2 => { dies := dies fun p => { maps := s.regsIn (pst p + 0x120000) (pst p + 0x130000) ++ s.regsIn (pst p + 0x200000) (pst p + 0x400000) }
           muMap := s.flt.muMap, drvMap := s.flt.drvMap, chmap := s.mem.chmap, retired := s.mem.retired }
  | 3 => { dies := dies fun p => { wear := (s.die p).wear, wear0 := (s.die p).wear0 }, last := (s.reg oStepLast).toNat,
           thr := s.flt.thrCnt, life := s.flt.life }
  | _ => {}

/-- The version of an item that the running type 1 image writes (R530). -/
def State.itemVer (s : State) (i : Nat) : Nat := Config.itemVersion (s.slotBytes 1 (s.runSlot 1)) i

def State.held (s : State) (i : Nat) : Bool := s.boot.heldItems.testBit (i - 1)

/-- The rank of a copy in the order of writing: a copy whose CRC fails comes first, then the lower SEQ (R529). -/
def PdCopy.order (c : PdCopy) : Nat := if c.bad then 0 else c.seq + 1

/-- The bank whose copy is written next: of a held item that of the new version; else the one with the lower SEQ (R529, R530). -/
def State.pdNext (s : State) (i : Nat) : Nat :=
  let a := s.pdCopy i 0
  let b := s.pdCopy i 1
  if s.held i then (if a.ver < b.ver then 1 else 0) else if b.order < a.order then 1 else 0

/-- One copy of an item is written (R529): the first of the two gets what the item holds now and the next SEQ, the second then the same. -/
def State.pdWrite (s : State) (i : Nat) : State :=
  let b := s.pdNext i
  let x := s.pdCopy i b
  let y := s.pdCopy i (1 - b)
  if s.held i || x.order = y.order then
    s.pdUpd i b fun _ => { s.pdBody i with ver := s.itemVer i, seq := max x.seq y.seq + 1 }
  else s.pdUpd i b fun _ => y

/-- Both copies of an item hold what it holds now. -/
def State.pdSave (s : State) (i : Nat) : State :=
  if s.held i then s.pdWrite i
  else
    let t := if (s.pdCopy i 0).order = (s.pdCopy i 1).order then s else s.pdWrite i
    (t.pdWrite i).pdWrite i

/-- A write of a copy is cut off: its CRC fails (R529). -/
def State.pdTorn (s : State) (i : Nat) : State :=
  let b := s.pdNext i
  s.pdUpd i b fun x => { x with bad := true }

/-- What the MSP wrote of an item before it was stopped: nothing, one copy, both, or a copy cut off within its write. -/
def State.pdSome (s : State) (i v : Nat) : State :=
  match v % 4 with
  | 1 => s.pdWrite i
  | 2 => s.pdSave i
  | 3 => s.pdTorn i
  | _ => s

/-- Persistent data as a module reset leaves it. The spare maps are written when they change; when the MSP writes the calibration tables and
the wear counters is not stated, so a free value says how far it has come (log entry 19). -/
def State.pdReset (s : State) : State :=
  let s1 :=
    if !s.save.live then s
    else
      let v := s.takeFree
      ((v.2.pdSave 2).pdSome 1 v.1).pdSome 3 (v.1 / 4)
  { s1 with save := { s1.save with live := false, sel := [] } }

/-- In a cycle the MSP may write a copy of the calibration tables or of the wear counters. -/
def State.pdTick (s : State) : State :=
  if !s.save.live then s
  else
    let v := s.takeFree
    if v.1 % 4 = 1 then v.2.pdWrite 1 else if v.1 % 4 = 2 then v.2.pdWrite 3 else v.2

/-- A copy may be taken: its CRC passes and the running image reads its version; the delivered copies, at version 0, every image reads
(R529, R530). -/
def State.pdReads (s : State) (i : Nat) (c : PdCopy) : Bool := !c.bad && (c.ver = 0 || decide (c.ver ≤ s.itemVer i))

/-- The bank of the copy a load takes of an item: the highest SEQ among those it may take (R529). -/
def State.pdPick (s : State) (i : Nat) : Option Nat :=
  let a := s.pdCopy i 0
  let b := s.pdCopy i 1
  match s.pdReads i a, s.pdReads i b with
  | true, true => some (if a.seq < b.seq then 1 else 0)
  | true, false => some 0
  | false, true => some 1
  | false, false => none

def pdItems : List Nat := [1, 2, 3, 4, 5]

/-- The copies that a mask names fail their CRC, item by item, bank A first. -/
def State.pdSpoil (s : State) (bad : Nat) : State :=
  pdItems.foldl (fun t i => [0, 1].foldl (fun u b =>
    if bad.testBit (2 * (i - 1) + b) then u.pdUpd i b fun x => { x with bad := true } else u) t) s

/-- The stored copy of an item has a lower version than the running image writes (R530). -/
def State.pdOld (s : State) (i : Nat) : Bool :=
  match s.pdPick i with
  | some b => decide ((s.pdCopy i b).ver < s.itemVer i) && (s.pdCopy i b).seq != 0
  | none => false

/-- The error code of a load of the persistent data, 0 for none; `failed` names items whose migration fails (Table 16-7). -/
def State.pdError (s : State) (failed : Nat) : Nat :=
  match pdItems.find? fun i => (s.pdPick i).isNone with
  | some i => if (s.pdCopy i 0).bad && (s.pdCopy i 1).bad then 0x10 else 0x11
  | none => if pdItems.any fun i => s.pdOld i && failed.testBit (i - 1) then 0x12 else 0

/-- An item is converted: the new version goes into the copy in the bank of the running type 1 slot, and the other copy is held (R530). -/
def State.pdConvert (s : State) (i : Nat) : State :=
  match s.pdPick i with
  | none => s
  | some b =>
    let x := s.pdCopy i b
    let n := max (s.pdCopy i 0).seq (s.pdCopy i 1).seq + 1
    let s1 := s.pdUpd i (b2n (s.runSlot 1)) fun _ => { x with ver := s.itemVer i, seq := n }
    { s1 with boot := { s1.boot with heldItems := s1.boot.heldItems ||| 2 ^ (i - 1) } }

/-- The first start of a type 1 image migrates the items it writes at a higher version, all but those that fail; FW_PD.HELD follows, and a
held copy that a committed image has taken again is held no more (R530). -/
def State.holdItems (s : State) (failed : Nat) : State :=
  let s0 : State := if (s.bootRec 1).trial then s else { s with boot := { s.boot with heldItems := 0 } }
  let s1 := pdItems.foldl (fun t i => if s.pdOld i && !failed.testBit (i - 1) then t.pdConvert i else t) s0
  s1.setFld 0x414 4 0 s1.boot.heldItems

/-- COMMIT of type 1 rewrites each held copy at the new version (R530). -/
def State.commitItems (s : State) : State :=
  let s1 := pdItems.foldl (fun t i => if s.held i then t.pdUpd i (1 - t.pdNext i) fun _ => t.pdCopy i (t.pdNext i) else t) s
  ({ s1 with boot := { s1.boot with heldItems := 0 } } : State).setFld 0x414 4 0 0

/-- The copy of an item that the load took. -/
def State.pdTaken (s : State) (i : Nat) : PdCopy := s.pdCopy i (mapGet 0 s.save.sel i)

/-- The spare maps of units and channels, as item 2 has them, where it was ever written. -/
def State.takeMaps (s : State) : State :=
  let c := s.pdTaken 2
  if c.seq = 0 then s
  else { s with flt := { s.flt with muMap := c.muMap, drvMap := c.drvMap }
                mem := { s.mem with chmap := c.chmap, retired := c.retired } }

/-- The threshold counts and the strikes of item 3, with what has been counted since the reset (R476). -/
def State.takeCounts (s : State) : State :=
  let c := s.pdTaken 3
  let sum (m n : Map Nat) : Map Nat := n.foldl (fun (a : Map Nat) kv => mapUpd 0 a kv.1 (· + kv.2)) m
  { s with flt := { s.flt with thrCnt := sum c.thr s.flt.thrCnt, life := sum c.life s.flt.life } }

/-- The load has taken a copy of every item. -/
def State.pdTake (s : State) : State :=
  ({ s with save := { s.save with sel := pdItems.map fun i => (i, (s.pdPick i).getD 0) } } : State).takeMaps.takeCounts

/-- The wear counters of a die as restored: each with the steps committed and the windows recorded since its copy was written added
(R141). -/
def State.restoreWear (s : State) (p : Nat) : State :=
  let c := s.pdTaken 3
  let x := mapGet {} c.dies p
  let up (v : Nat) : Nat := min (v + c.steps + mapGet 0 c.wins p) (2 ^ 24 - 1)
  s.updDie p fun d =>
    { d with wear0 := up x.wear0, wear := (x.wear.map fun kv => (kv.1, up kv.2)).filter fun kv => kv.2 != up x.wear0 }

end Sys2Proof.Machine
end

