-- ==== Sys2Proof/Machine/Reset.lean ====
section
/-! DEFINITION. Module reset (R13, R402): what it keeps, what it sends (R430), how it ends (R557, R559), and the rails, with the events
of the power input and of `PWR_EN` (R491 to R496). -/

namespace Sys2Proof.Machine

/-- Registers that keep their value through module reset: REPLACE and MSTRIKE (Table 14-13), the sequence number (R480), and the sampled
straps until they are sampled again. A WRITE that the reset stops has result 11 (R538). -/
def State.keptRegs (s : State) : Map Word :=
  let put (m : Map Word) (off : Nat) (mask : Word) : Map Word := mapSet (regReset off) m off (s.reg off &&& mask)
  let m := put (put (put [] oFltStat 0x40FF0000#32) oFltSeq 0xFFFFFFFF#32) 0x600 0xFFFFFFFF#32
  if s.boot.writing.isSome then mapSet (regReset oFwStat) m oFwStat 11 else m

/-- Physical channels whose retirement a reset cuts off: those that a migration was replacing, and those that wait (R360). -/
def State.retireLater (s : State) : List Nat :=
  (s.mem.migs.filterMap fun kv => kv.2.map fun m => 32 * kv.1 + s.pch kv.1 m.lch) ++ s.mem.retireWait

/-- What a module reset leaves (R13, R402), the persistent data being as the MSP had written it: everything returns to its reset value but flash, fuses, cells and retired tiles (R96, R62), the fault log
(R481), the channel maps (R360), pins and rails, the standby-domain management state (R560, R563), host memory, and
the model's own fields. -/
def State.resetTo (s : State) : State :=
  { pending := s.pending, free := s.free, out := s.out
    regs := s.keptRegs
    mem := { host := s.mem.host, chmap := s.mem.chmap, retired := s.mem.retired, unmapped := s.mem.unmapped,
             degraded := s.mem.degraded, silent := s.mem.silent, retireWait := s.retireLater }
    flt := { log := s.flt.log.drop (s.flt.log.length - 1024), lost := s.flt.lost, wordPend := s.flt.wordPend, thrLim := s.flt.thrLim,
             thrWin := s.flt.thrWin, muMap := s.flt.muMap, drvMap := s.flt.drvMap, gone := s.flt.gone }
    pwr := { standby := s.pwr.standby, pwrEn := s.pwr.pwrEn, resetLow := s.pwr.resetLow, perst0 := s.pwr.perst0,
             perst1 := s.pwr.perst1, straps := s.pwr.straps, seqStep := s.pwr.seqStep, seqFailed := s.pwr.seqFailed, rail := s.pwr.rail,
             clk := s.pwr.clk }
    boot := { slots := s.boot.slots, recs := s.boot.recs, copies := s.boot.copies, fused := s.boot.fused, profile := s.boot.profile,
              heldItems := s.boot.heldItems }
    mgmt := s.mgmt
    dies := (s.dies.map fun kv => (kv.1, ({ cells := kv.2.cells, dead := kv.2.dead } : Die))).filter fun kv => decide (kv.2 ≠ {})
    save := s.save }

/-- Module reset: what the MSP has written of the persistent data stands (R529). -/
def State.moduleReset (s : State) : State := s.pdReset.resetTo

def oSlot : Nat := 0x600

/-- The straps sampled (R559). -/
def State.sampleSlot (s : State) : State :=
  let raw := s.pwr.straps % 128
  let odd := popcount 7 raw % 2 = 1
  let s1 := s.setReg oSlot (BitVec.ofNat 32 ((if odd then 2 ^ 31 else 2 ^ 30) + raw))
  if odd then s1 else s1.alert 5

/-- A host link whose `GLB_PERSTh_N` is high trains once module reset has ended (Table 18-6). -/
def State.trainLinks (s : State) : State :=
  let s1 := if s.pwr.perst0 then s else s.setLink 0 true
  if s.pwr.perst1 then s1 else s1.setLink 1 true

/-- Module reset ends where nothing holds it: `RESET_N` is high and `PWR_GOOD` is asserted (R495, R557). The straps are sampled, PWR_RAIL and
CLK_STAT report the rails and clocks again, and the boot chain begins in MSP_BOOT. -/
def State.endReset (s : State) : State :=
  if s.bootState != 0 || s.pwr.resetLow || !s.pgood then s
  else
    let s1 := ((s.updRail id).setClk s.pwr.clk).sampleSlot.trainLinks
    ({ s1 with boot := { s1.boot with msp := .rom } } : State).setBoot 1

/-- A module reset that the module starts itself sends FENCE first (R430). -/
def State.selfReset (s : State) : State := s.sendFences.moduleReset.endReset

/-- GLB_CTL.MOD_RESET with the key (Table 11-17). -/
def execModReset (master : Nat) (w : Word) (s : State) : Res :=
  .next (s.guardedWrite master 0x14 fun t => if wfld w 31 16 = 0xD640 && w.getLsbD 0 then t.selfReset else t)

/-- `RESET_N` low holds the whole module in module reset; no FENCE is sent (R430, R558). -/
def execResetNAssert (s : State) : Res :=
  .next { s.moduleReset with pwr := { s.moduleReset.pwr with resetLow := true } }

/-- `RESET_N` is released with the straps as they are (R557, R559). -/
def execResetNRelease (straps : Nat) (s : State) : Res :=
  .next ({ s with pwr := { s.pwr with resetLow := false, straps := straps % 128 } } : State).endReset

/-- The physical channel a place lies on, as 32k + channel; 0 where it lies on no stack. -/
def State.channelIn (s : State) : Place → Nat
  | .stack k o => k * 32 + s.pch k (channelOf o).1
  | _ => 0

/-- A consumer has met a lost line: the record is sent and the module resets (R352). A line of an engine's local memory is named by its
local address, and lies on no channel (log entry 150). -/
def State.resetConsumed (s : State) : State :=
  match s.mem.consumed with
  | none => s
  | some c =>
    let ch := if c.inLocal then 0 else s.channelIn (placeOf s.stripe c.line)
    (s.raiseFault 3 0x0201 c.master [c.line % 2 ^ 32, c.line / 2 ^ 32, ch]).selfReset

def execUeConsumed (s : State) : Res := .next s.resetConsumed

/-- Rails that each step of the power-up sequence raises (Table 15-3). -/
def stepRails (i : Nat) : Nat := [4, 8, 16, 96, 128, 256, 1536, 6144].getD i 0

/-- Rails switched on, and rails inside their windows (Table 15-14). -/
def State.railsOn (s : State) (m : Nat) : State := s.updRail fun w => wset w 28 16 (wfld w 28 16 ||| m)
def State.railsGood (s : State) (m : Nat) : State := s.updRail fun w => wset w 12 0 (wfld w 12 0 ||| m)

/-- The sequence starts from module reset (R495, R496). -/
def State.startSequence (s : State) : State :=
  let s1 := s.moduleReset
  (({ s1 with pwr := { s1.pwr with seqStep := some 0 } } : State)).railsOn (stepRails 0)

/-- `PWR_EN` is high with the input at a voltage in units of 10 mV; the sequence starts at or above 58 V (R491, R495). -/
def execPowerEnable (vin : Nat) (s : State) : Res :=
  .next (
    if !s.pwr.standby then s
    else
      let s1 := { s with pwr := { s.pwr with pwrEn := true } }
      if decide (5800 ≤ vin) && !s.pgood && s.pwr.seqStep.isNone && !s.pwr.seqFailed then s1.startSequence else s1)

/-- The rails of the step in hand are inside their windows: the next step starts, or PWR_GOOD is asserted (R495). The VCOs lock once
VDD_PLL is up (R503). -/
def State.sequenceStep (s : State) (i : Nat) : State :=
  let s1 := s.railsGood (stepRails i)
  let s2 := if i = 0 then s1.setClk 6 else s1
  if i < 7 then ({ s2 with pwr := { s2.pwr with seqStep := some (i + 1) } } : State).railsOn (stepRails (i + 1))
  else (({ s2 with pwr := { s2.pwr with seqStep := none } } : State).updRail fun w => wset w 31 31 1).endReset

def execRailSequenceStep (s : State) : Res :=
  .next (match s.pwr.seqStep with
    | some i => s.sequenceStep i
    | none => s)

/-- Rails of the step in hand, as a mask by number, have not reached their windows within 5 ms (R495). -/
def execRailSequenceTimeout (bad : Nat) (s : State) : Res :=
  .next (match s.pwr.seqStep with
    | some i => (s.railsGood (stepRails i)).stopSequence (stepRails i &&& bad)
    | none => s)

/-- Everything in the main domain is lost; the standby domain keeps its registers (R494, R496). -/
def State.loseMain (s : State) : State :=
  { s.moduleReset with regs := s.regs, cnt := s.cnt, mons := s.mons, ts := s.ts }

/-- The main rails are off (R496). -/
def State.railsOff (s : State) : State :=
  (s.updRail fun w => wset (wset (wset w 28 16 3) 12 0 3) 31 31 0).setClk (s.pwr.clk / 4 * 4 + 1)

/-- `PWR_EN` goes low (R496): PWR_GOOD falls, the actions of R508 are taken, and the main rails go off, which ends the fail-safe
state. -/
def State.powerDown (s : State) : State :=
  let s1 := if s.pgood then s.alert 4 else s
  let s2 := if s1.failSafe || s1.bootState = 0 then s1
    else (((s1.raiseIrq 10).stopUnits.fencePorts).raiseFault 3 0x0602 0 [])
  let s3 := s2.loseMain.railsOff
  let s4 := { s3 with pwr := { s3.pwr with pwrEn := false, seqStep := none, seqFailed := false } }
  (s4.clrBit oFsStat 31).setFld oBoot 31 28 0

def execPowerDisable (s : State) : Res := .next (if s.pwr.pwrEn then s.powerDown else s)

/-- The input falls below 45 V (R493): the rails collapse without FENCE and every register value is lost. The last 1,024 records stay in
flash (R481). -/
def State.inputLost (s : State) : State :=
  let v := s.moduleReset.takeFree
  let s1 := if v.1 % 2 = 1 then v.2.tearRec else v.2
  let s2 := { s1 with
    mgmt := {}
    pwr := { s1.pwr with standby := false, seqStep := none, seqFailed := false }
    flt := { s1.flt with log := s1.flt.log.drop (s1.flt.log.length - 1024) } }
  (s2.updRail fun _ => 0).setClk 0

def execInputPowerLoss (s : State) : Res := .next (if s.pwr.standby then s.inputLost else s)

/-- The input rises past 54 V: VSTBY and VDD_SVC come up, and the straps are sampled (R491, R559). The module is in module reset. -/
def execStandbyPowerUp (straps : Nat) (s : State) : Res :=
  .next (
    if s.pwr.standby then s
    else
      let s1 := { s.moduleReset with pwr := { s.moduleReset.pwr with standby := true, straps := straps % 128 } }
      (s1.updRail fun _ => BitVec.ofNat 32 0x30003).sampleSlot)

/-- A main rail leaves its fail window: PWR_GOOD falls, and with it FENCE_N is asserted; in the fail-safe state PWR_GOOD stays as it
is (R556). -/
def execRailFault (n : Nat) (s : State) : Res :=
  onUnit (2 ≤ n && n < 13) (
    let s1 := s.updRail fun w => wset w 12 0 ((wfld w 12 0 ||| 2 ^ n) - 2 ^ n)
    if s.pgood && !s.failSafe then (s1.updRail fun w => wset w 31 31 0).alert 4 else s1)

end Sys2Proof.Machine
end

