-- ==== Sys2Proof/Machine/Power.lean ====
section
/-! DEFINITION. Power measurement and the cap (R499 to R502), thermal limits (R513, R514), clocks (R505) and the watchdog (R511). -/

namespace Sys2Proof.Machine

def oCap : Nat := 0x100100
def oPwrIn : Nat := 0x100108
def oPwrAvg : Nat := 0x10010C
def oWdt : Nat := 0x100128

def State.updPwr (s : State) (f : Pwr → Pwr) : State := { s with pwr := f s.pwr }

/-- The cap in watts, held to 400 to 1,250 (Table 15-12). -/
def State.capW (s : State) : Nat := clampN (s.fld oCap 10 0) 400 1250

def State.capLvl (s : State) : Nat := s.fld oPwrStat 27 24
def State.thermLvl (s : State) : Nat := s.fld oPwrStat 23 20

/-- The levels of the two controllers; the level in force is the larger (R501). -/
def State.setLevels (s : State) (cap therm : Nat) : State :=
  ((s.setFld oPwrStat 27 24 cap).setFld oPwrStat 23 20 therm).setFld oPwrStat 31 28 (max cap therm)

/-- A sample of the input: voltage in 10 mV, current in mA (R499); three in a row above 1,350 W or 25 A take the fast limit (R502).
Roundings go to nearest even (R51). -/
def State.powerSample (s : State) (vin ma : Nat) : State :=
  let p := min (rneDiv (vin * ma : Nat) 10000).toNat 65535
  let xs := (p :: s.pwr.samples).take 100
  let ovr := if 13500 < p || 25000 < ma then min (s.pwr.ovr + 1) 3 else 0
  let s1 := s.updPwr fun q => { q with samples := xs, ovr := ovr, energy := q.energy + p }
  let s2 := (s1.setReg oPwrIn (BitVec.ofNat 32 (min vin 65535 * 65536 + p))).setReg oPwrAvg
    (BitVec.ofNat 32 (rneDiv (xs.foldl (· + ·) 0 : Nat) xs.length).toNat)
  let s3 := s2.setFld oPwrStat 16 16 (b2n (decide (5600 ≤ vin) && decide (vin < 6000)))
  if ovr = 3 then (s3.setLevels (max s3.capLvl 8) s3.thermLvl).setBit oPwrStat 18 else s3

def execPowerSample (vin ma : Nat) (s : State) : Res := .next (if s.pwr.standby then s.powerSample vin ma else s)

/-- A period of the cap controller (R500): up by one above the cap, down by one after 10 ms below 97 % of it. -/
def State.capTick (s : State) : State :=
  let avg := s.fld oPwrAvg 15 0
  let cap := 10 * s.capW
  if cap < avg then (s.updPwr fun q => { q with below := 0 }).setLevels (min (s.capLvl + 1) 12) s.thermLvl
  else if 100 * avg < 97 * cap then
    if 100 ≤ s.pwr.below + 1 then (s.updPwr fun q => { q with below := 0 }).setLevels (s.capLvl - 1) s.thermLvl
    else s.updPwr fun q => { q with below := q.below + 1 }
  else s.updPwr fun q => { q with below := 0 }

def execCapControlTick (s : State) : Res := .next (if s.pwr.standby then s.capTick else s)

/-- The level has stayed at 12 for 1 s with the power above the cap (R502). -/
def execCapMiss (s : State) : Res :=
  .next (if s.fld oPwrStat 31 28 = 12 && decide (10 * s.capW < s.fld oPwrAvg 15 0) then
      (s.setBit oPwrStat 19).eventF 0 0x55 0 1
    else s)

def execPowerCapWrite (master : Nat) (w : Word) (s : State) : Res :=
  .next (s.guardedWrite master oCap fun t => t.setFld oCap 10 0 (wfld w 10 0))

/-- A millisecond of the thermal controller (R514). -/
def State.thermalTick (s : State) : State :=
  if s.hot then
    let s1 := s.updPwr fun q => { q with cool := 0 }
    if s.thermLvl < 12 then (s1.setLevels s.capLvl (s.thermLvl + 1)).setBit oPwrStat 17 else s1
  else if 10 ≤ s.pwr.cool + 1 then (s.updPwr fun q => { q with cool := 0 }).setLevels s.capLvl (s.thermLvl - 1)
  else s.updPwr fun q => { q with cool := q.cool + 1 }

def execThermalTick (s : State) : Res := .next s.thermalTick

/-- A stack controller reads its sensor, in °C; above 100 °C it drives the fail-safe state (R513, Table 15-5). -/
def execStackTempRead (k : Nat) (t : Int) (s : State) : Res :=
  onUnit (k < 8) (
    let s1 := { s with mem := { s.mem with stackTemp := mapSet 0 s.mem.stackTemp k t } }
    if 100 < t then s1.assertFs 3 else s1)

/-- Loss of clock: what remains of REFCLK and of the VCO locks (R505). -/
def State.clockLoss (s : State) (ref vco : Bool) : State :=
  let s1 := s.setClk (4 * b2n ref + 2 * b2n vco + 1)
  if s.onBackup then s1 else ((s1.satAdd oClk 15 0 1).unlockTime).assertFs 2

def execClockLoss (ref vco : Bool) (s : State) : Res := .next (if ref && vco then s else s.clockLoss ref vco)

/-- REFCLK has been present and the VCOs locked for 1 ms (R505). -/
def execClockRestore (s : State) : Res := .next (s.setClk 6)

/-- Writing PWR_WDT; KICK restarts the count (R511). -/
def execWatchdogKick (master : Nat) (w : Word) (s : State) : Res :=
  .next (s.guardedWrite master oWdt fun t =>
    let t1 := (t.setFld oWdt 30 30 (wfld w 30 30)).setFld oWdt 15 0 (wfld w 15 0)
    if w.getLsbD 31 then t1.updPwr fun q => { q with wdt := 0 } else t1)

def State.setMsp (s : State) (m : Msp) : State := { s with boot := { s.boot with msp := m } }

/-- The watchdog expires: WDT, and a cold restart of the MSP alone; a type 1 trial is reverted (R511, R533). -/
def State.watchdogExpiry (s : State) : State :=
  let s1 := if (s.bootRec 1).trial then s.revertTrial 1 else s
  let s2 := s1.setFld (oFwSlot 1) 31 31 (b2n (s1.bootRec 1).commit)
  (({ s2 with boot := { s2.boot with load := s2.boot.load.filter fun l => l.type != 1 } } : State).setMsp .cold).assertFs 4

def execWatchdogExpiry (s : State) : Res :=
  .next (if s.bit oWdt 30 && (s.boot.msp = .running || s.boot.msp = .warm) then s.watchdogExpiry else s)

/-- The MSP runs again: it serves the management port and sends what is queued (R511). -/
def execMspColdRestartDone (s : State) : Res :=
  .next (if s.boot.msp = .cold then ((s.setMsp .running).updPwr fun q => { q with wdt := 0 }).postFault else s)

/-- Reading PWR_ENERGY_LO returns the low word in mJ and latches the high word (R499). -/
def execEnergyReadLatch (master : Nat) (s : State) : Res :=
  let e := s.pwr.energy / 1000
  .next (s.guardedRead master 0x100110 (fun _ => BitVec.ofNat 32 e) fun t => t.updPwr fun q => { q with energyLatch := e / 2 ^ 32 % 2 ^ 32 })

/-- The security monitor compares the hash of the resident code with that of the image loaded (R526). -/
def execCodeHashCheck (same : Bool) (s : State) : Res :=
  .next (if same || s.bootState < 3 then s else s.assertFs 5)

end Sys2Proof.Machine
end

