-- ==== Sys2Proof/Machine/Firmware.lean ====
section
/-! DEFINITION. Firmware (chapter 16): image checks (R520, R521), the commands of FW_CTL (R522, R527), live loads (R531 to R533) and
the boot chain (R523 to R525, R404, R367, R482). -/

namespace Sys2Proof.Machine

/-- Body limit of an image type (Table 16-1). -/
def bodyLimit (t : Nat) : Nat := [0, 3145728, 1048576, 3145728, 2097152, 524288, 4194304, 16777216, 25165824].getD t 0

/-- A slot takes an image, and its valid flag is reported (R518, Table 16-18). -/
def State.putSlot (s : State) (t : Nat) (b : Bool) (bs : List Byte) (ok : Bool) : State :=
  let s1 := { s with boot := { s.boot with slots := mapIns s.boot.slots (2 * t + b2n b) { bytes := bs, valid := ok } } }
  s1.setFld (oFwSlot t) (if b then 25 else 26) (if b then 25 else 26) (b2n ok)

/-- Interface level of the MSP boot image that is running (R521). -/
def State.bootIface (s : State) : Nat := leAt (s.slotBytes 1 (s.runSlot 1)) 36 2

/-- The device's key hashes hold that of a key whose revocation fuse is whole. -/
def keyTrusted (key : List Byte) : Bool :=
  (List.range 4).any (fun i => Config.keyHash i = Config.sha384 key) &&
  !(List.range 4).any fun i => Config.keyHash i = Config.sha384 key && Config.keyRevoked i

/-- The checks of Table 16-4 in order, as a result code. The 64-bit and 16-bit fields are little-endian. -/
def State.checkImage (s : State) (t : Nat) (bs : List Byte) : Nat :=
  let f (o n : Nat) : Nat := leAt bs o n
  let body := (bs.drop 512).take (f 32 4)
  let key := (bs.drop 96).take 97
  let bound := (f 7 1).testBit 0
  let step := s.fld 0 7 0
  if f 0 4 != 0x54464D57 || f 4 2 != 1 || f 6 1 != t || f 32 4 = 0 || bodyLimit t < f 32 4 then 1
  else if !keyTrusted key then 3
  else if !Config.ecdsaVerify key ((bs.drop 256).take 48) ((bs.drop 304).take 48) (bs.take 256) then 3
  else if Config.sha384 body != (bs.drop 48).take 48 then 2
  else if f 8 2 != s.fld 0 31 16 || step < f 10 1 || f 11 1 < step then 4
  else if bound && (t ≤ 6 || f 24 8 != Config.serial) then 5
  else if t ≤ 2 && f 16 8 < s.boot.fused then 6
  else if 3 ≤ t && s.bootIface < f 38 2 then 7
  else 0

def State.checkSlot (s : State) (t : Nat) (b : Bool) : Nat := s.checkImage t (s.slotBytes t b)

/-- A slot runs from now on (FW_SLOT.RUN, FW_VER). -/
def State.runFrom (s : State) (t : Nat) (b fb : Bool) : State :=
  ((s.setFld (oFwSlot t) 31 31 (b2n b)).setFld (oFwSlot t) 27 27 (b2n fb)).setReg (0x43C + 4 * t)
    (BitVec.ofNat 32 (leAt (s.slotBytes t b) 12 3))

/-- FW_SLOT of a type as the MSP loads it during FW_LOAD (Table 16-18). -/
def State.reportSlot (s : State) (t : Nat) : State :=
  let r := s.bootRec t
  (s.setReg (oFwSlot t) (BitVec.ofNat 32 (2 ^ 26 * (b2n (s.slotValid t false)) + 2 ^ 25 * (b2n (s.slotValid t true))))).setRec t r

/-- The start of a type from its NEXT slot, with the fallbacks of R524 and the one start of a trial (R525). False where both slots
fail. -/
def State.startType (s : State) (t : Nat) : Bool × State :=
  let s0 := s.reportSlot t
  let s1 := if (s0.bootRec t).trial && (s0.bootRec t).begun then s0.revertTrial t else s0
  let r := s1.bootRec t
  if s1.checkSlot t r.next = 0 then (true, (s1.setRec t { r with begun := r.trial }).runFrom t r.next false)
  else
    let s2 := if r.trial then s1.revertTrial t else s1
    let other := if r.trial then r.commit else !r.next
    if other != r.next && s1.checkSlot t other = 0 then (true, s2.runFrom t other true) else (false, s2)

/-- The MSP boot image is checked and started, and the module enters FW_LOAD (R523, R524). -/
def State.mspBoot (s : State) : State :=
  if s.bootState != 1 || s.boot.msp != .rom then s
  else
    let r := s.takeRecs.startType 1
    if r.1 then ((r.2.setMsp .running).setBoot 2).postFault else r.2.assertFs 5

def execMspBootDone (s : State) : Res := .next s.mspBoot

/-- The types that the security monitor checks, with their error codes (Tables 16-5 and 16-7). -/
def bootTypes : List (Nat × Nat) := [(7, 5), (3, 1), (4, 2), (5, 3), (6, 4)]

/-- The first of a list of types without a good slot, as its error code. -/
def State.startTypes (s : State) : List (Nat × Nat) → Nat × State
  | [] => (0, s)
  | x :: rest =>
    let r := s.startType x.1
    if r.1 then r.2.startTypes rest else (x.2, r.2)

/-- The maps of matrix units and drover engines from the persisted spare map (R208, R256). Units not mapped are spares, or retired. -/
def State.loadUnits (s : State) : State :=
  let gone (k : Nat) : Bool := mapGet false s.flt.gone k
  let s1 := (List.range 84).foldl (fun (t : State) p => t.setReg (muPhysOff p) (BitVec.ofNat 32 (2 ^ 28 * (if gone p then 4 else 2) + 0x7F))) s
  let s2 := (List.range 42).foldl (fun (t : State) p =>
    t.setReg (drvPhysOff p) (BitVec.ofNat 32 (2 ^ 28 * ((if gone (128 + p) then 4 else 2)) + 0x3F))) s1
  let s3 := (List.range 80).foldl (fun (t : State) u =>
    let p := mapGet (if u < 40 then u else u + 2) s.flt.muMap u
    ((t.setReg (muMapOff u) (BitVec.ofNat 32 (2 ^ 31 + p))).setReg (muPhysOff p)
      (BitVec.ofNat 32 (2 ^ 28 * (if gone p then 4 else 1) + u))).updMu u fun m => { m with fenced := gone p }) s2
  let s4 := (List.range 40).foldl (fun (t : State) e =>
    let p := mapGet (if e < 20 then e else e + 1) s.flt.drvMap e
    ((t.setReg (drvMapOff e) (BitVec.ofNat 32 (2 ^ 31 + p))).setReg (drvPhysOff p)
      (BitVec.ofNat 32 (2 ^ 28 * ((if gone (128 + p) then 4 else 1)) + e))).updDrv e fun d => { d with fenced := gone (128 + p) }) s3
  let s5 := s4.queueSelfTests
  { s5 with tests := s5.tests.filter fun t => !gone (if t.cls = 3 then t.unit_ else 128 + t.unit_) }

/-- Configuration profile 0 is committed as epoch 0 (R523, R535): its staged values, bank 0 of the fabric tables, the housekeeping
windows with their locks (R172), and FAB_SELF composed from the straps where their parity is odd (R559). -/
def State.commitProfile (s : State) : State :=
  let q := s.boot.profile
  let s1 := q.staged.foldl (fun (t : State) x => t.setReg x.1 ((t.reg x.1 &&& ~~~(BitVec.ofNat 32 x.2.2)) ||| BitVec.ofNat 32 (x.2.1 &&& x.2.2))) s
  let s2 := (q.fabric ++ q.windows).foldl (fun (t : State) x => t.setReg x.1 (BitVec.ofNat 32 x.2)) s1
  let s3 := (List.range 10).foldl (fun (t : State) d => t.setBit (monBase d + 0xC) 0) s2
  let s4 := if s3.bit oSlot 31 then
      s3.setReg oSelf (BitVec.ofNat 32 (2 ^ 31 + q.mapId % 65536 * 2 ^ 14 + q.flock % 256 * 64 + s3.fld oSlot 5 0))
    else s3.clrBit oSelf 31
  s4.groupsCommit.portsCommit

/-- FW_LOAD ends: the images, the persistent data, of which the copies in `bad` fail their CRC and the items in `failed` their migration, and
profile 0 (R523, R524, R529, R530, Table 16-7). -/
def State.fwLoad (s : State) (bad failed : Nat) : State :=
  if s.bootState != 2 || !s.mspUp then s
  else
    let m := s.startType 2
    if !m.1 then m.2.assertFs 5
    else
      let r := m.2.startTypes bootTypes
      let s1 := (r.2.reportSlot 8).setReg 0x410 (BitVec.ofNat 32 s.boot.fused)
      let q := s1.pdSpoil bad
      if r.1 != 0 then s1.announce 6 r.1
      else if q.pdError failed != 0 then q.announce 6 (q.pdError failed)
      else
        let s2 := ((q.holdItems failed).pdTake.commitProfile).loadUnits
        let s3 := (List.range 8).foldl (fun (t : State) k => t.setShr k { t.shr k with state := .ready }) s2
        s3.setBoot 3

def execFwLoadDone (bad failed : Nat) (s : State) : Res := .next (s.fwLoad bad failed)

/-- The tile map of a module as delivered: each logical tile on the physical tile of its own place. -/
def State.deliverDie (s : State) (p : Nat) : State :=
  (List.range 8192).foldl (fun (t : State) n => t.setPtile p n (n / 128 * 130 + n % 128)) s

/-- The column table of a die with factory trims and s_col 0, by the tile map in force. -/
def State.factoryDie (s : State) (p : Nat) : State :=
  (List.range 8192).foldl (fun (t : State) n =>
    match s.ptile p n with
    | some pt => (List.range 512).foldl (fun (u : State) c => u.factoryTrims p n c pt c) t
    | none => t) s

/-- The persisted calibration tables of a die; factory trims where the item was never written (R96, R177). -/
def State.loadTrims (s : State) (p : Nat) : State :=
  let c := s.pdTaken 1
  if c.seq = 0 then s.factoryDie p
  else
    let x := mapGet {} c.dies p
    let s1 := x.drift.foldl (fun (t : State) kv => t.setReg kv.1 kv.2) s
    let s2 := x.recs.foldl (fun (t : State) kv => t.setColRec p (kv.1 / 512) (kv.1 % 512) kv.2) s1
    s2.updDie p fun d => { d with mus := { d.mus with slot := x.slot, delay := x.delay, base := x.base, gain := x.gain, refr := x.refr } }

/-- The persisted tile and column maps of a die (R96, R147). -/
def State.loadMaps (s : State) (p : Nat) : State :=
  let c := s.pdTaken 2
  if c.seq = 0 then s.deliverDie p else (mapGet {} c.dies p).maps.foldl (fun (t : State) kv => t.setReg kv.1 kv.2) s

/-- The persisted maps, records, trims and counters of a die (R96, R141, R147, R177). -/
def State.loadDie (s : State) (p : Nat) : State := (((s.loadMaps p).loadTrims p).restoreWear p).askWorn p

/-- A stack leaves INIT with the channel map that was persisted (R360, R367). -/
def State.initStack (s : State) (k : Nat) : State :=
  let s1 := (List.range 30).foldl (fun (t : State) c =>
    let p := mapGet c s.mem.chmap (32 * k + c)
    t.setReg (0x1401000 + 128 * k + 4 * c) (BitVec.ofNat 32 (2 ^ 31 + p))) s
  let s2 := (List.range 32).foldl (fun (t : State) p =>
    if mapGet false s.mem.retired (32 * k + p) then t.setBit (0x1402000 + 128 * k + 4 * p) 31 else t) s1
  s2.refreshStack k (s2.stackState k)

/-- MEM_INIT ends; `bad` names the stacks that failed. A stack with an unmapped channel keeps the module out of service (R361, R367,
Table 16-7). The dies are then loaded and their die muster begins (R96, R177). -/
def State.memInit (s : State) (bad : Nat) : State :=
  if s.bootState != 3 then s
  else if bad % 256 != 0 || s.mem.unmapped.any (·.2) then s.announce 6 0x20
  else
    let s1 := (List.range 8).foldl (fun (t : State) k => (t.initStack k).retireWaiting k) s
    let s2 := (List.range 8).foldl (fun (t : State) p => t.loadDie p) s1
    let s3 := { s2 with save := { s2.save with live := true } }
    (List.range 8).foldl (fun (t : State) p => t.dieMuster p) (s3.setBoot 4)

def execMemInitDone (bad : Nat) (s : State) : Res := .next (s.memInit bad)

/-- A die leaves HOLD once its class 0 tests, in which the tiles `failed` failed, its die muster, the two retries of each rejected tile and
its reconciling have ended (R96, R137, R138, R177, R482). Its tiles enter READY but for those marked suspect, which stay FENCED. -/
def State.dieRun (s : State) (p : Nat) (failed : List Nat) : State :=
  let d := s.die p
  if s.bootState != 4 || d.state != .hold || d.mus.runs != [] || d.port.toRecon != [] || d.port.recon != [] ||
     (List.range 8192).any (s.toRetry p) then s
  else
    let s1 := failed.foldl (fun (t : State) n => match t.ptile p n with | some pt => t.suspect p n pt | none => t) s
    let ready (t : State) (n : Nat) : State :=
      if (t.ptile p n).isSome && (t.tile p n).st = .hold then t.setTileState p n .ready else t
    let s2 := (List.range 8192).foldl ready s1
    s2.updDie p fun d => { d with state := .run, port := { d.port with record := [] } }

def execDieRun (p : Nat) (failed : List Nat) (s : State) : Res := onUnit (dieOk p) (s.dieRun p (failed.filter (· < 8192)))

/-- Reaching READY ends every trial start (R525). -/
def State.endTrials (s : State) : State :=
  s.putRecs (mapAll {} s.boot.recs fun r => { r with begun := false })

/-- Every die runs: the module becomes READY (R404, R482), and its firmware takes the words that waited. -/
def State.arrayInit (s : State) : State :=
  if s.bootState != 4 || (List.range 8).any fun p => (s.die p).state != .run then s
  else (s.endTrials.announce 5 0).serveAllMbx

def execArrayInitDone (s : State) : Res := .next s.arrayInit

/-- READY was not reached within 30 s (R404, Table 16-7). -/
def execBootTimeout (s : State) : Res := .next (if 1 ≤ s.bootState && s.bootState ≤ 4 then s.announce 6 0x21 else s)

/-- The microcode update of a die ends (R98); a QUIESCE that the load set is cleared. -/
def State.updateEnd (s : State) (p : Nat) : State :=
  if (s.die p).state = .update then
    let s1 := s.updDie p fun d => { d with state := .run }
    if s.boot.load.any fun l => l.quiet.contains p then s1.clrBit (pst p + 0x10) 12 else s1
  else s

def execDieUpdateEnd (p : Nat) (s : State) : Res := onUnit (dieOk p) (s.updateEnd p)

def oFwCtl : Nat := 0x400

/-- A command runs: it sets BUSY until it ends (R527). Reserved types are refused. -/
def State.fwRun (s : State) (cmd type : Nat) (f : State → State) : State :=
  let s1 := ((s.setFld oFwStat 23 20 cmd).setFld oFwStat 15 8 type).setBit oFwStat 31
  if cmd != 6 && (type = 0 || 8 < type) then s1.fwResult 8 else f s1

/-- A command of FW_CTL by a master: ignored while BUSY (R527). -/
def State.fwCommand (s : State) (master cmd type : Nat) (f : State → State) : State :=
  s.guardedWrite master oFwCtl fun t => if t.bit oFwStat 31 || !t.mspUp then t else t.fwRun cmd type f

/-- The write of a WRITE ends, in the next cycle: its slot is valid, or the flash failed (Table 16-6; log entry 172). -/
def State.flashEnd (s : State) : State :=
  match s.boot.writing with
  | none => s
  | some w =>
    let s1 := { s with boot := { s.boot with writing := none } }
    if w.err then (s1.putSlot w.type w.slot [] false).fwResult 10 else (s1.putSlot w.type w.slot w.bytes true).fwResult 0

/-- WRITE reads the image at FW_SRC, checks it and begins to write it into the slot that does not run, which is not valid meanwhile
(Table 16-6, R538). -/
def State.fwWrite (s : State) (t : Nat) (flashErr : Bool) : State :=
  let b := !s.runSlot t
  let s1 := if (s.bootRec t).trial && (s.bootRec t).next = b then s.revertTrial t else s
  let src := daddr (2 ^ 32 * (s.reg 0x408).toNat + 4096 * s.fld 0x404 31 12)
  let h := s1.request s1.mspWho 1 src 512
  match h.1 with
  | .data hb false =>
    let n := leAt hb 32 4
    if n = 0 || bodyLimit t < n then h.2.fwResult 1
    else
      let r := h.2.request s1.mspWho 1 src (512 + n)
      match r.1 with
      | .data bs false =>
        let c := s1.checkImage t bs
        if c != 0 then r.2.fwResult c
        else
          let q := r.2.putSlot t b (s1.slotBytes t b) false
          { q with boot := { q.boot with writing := some { type := t, slot := b, bytes := bs, err := flashErr } } }
      | _ => (r.2.putSlot t b (s1.slotBytes t b) false).fwResult 12
  | _ => (h.2.putSlot t b (s1.slotBytes t b) false).fwResult 12

def execFwWrite (master type : Nat) (flashErr : Bool) (s : State) : Res :=
  .next (s.fwCommand master 1 type fun t => t.fwWrite type flashErr)

/-- ACTIVATE (Table 16-6). -/
def State.fwActivate (s : State) (t : Nat) : State :=
  let b := !s.runSlot t
  if !s.slotValid t b then s.fwResult 8 else (s.setRec t { s.bootRec t with next := b, trial := true, begun := false }).fwResult 0

def execFwActivate (master type : Nat) (s : State) : Res := .next (s.fwCommand master 2 type fun t => t.fwActivate type)

/-- COMMIT (Table 16-6); for type 1 held copies are rewritten (R530). -/
def State.fwCommit (s : State) (t : Nat) : State :=
  let r := s.bootRec t
  if !r.trial || s.runSlot t != r.next then s.fwResult 8
  else
    let s1 := s.setRec t { r with commit := r.next, trial := false, begun := false }
    (if t = 1 then s1.commitItems else s1).fwResult 0

def execFwCommit (master type : Nat) (s : State) : Res := .next (s.fwCommand master 3 type fun t => t.fwCommit type)

/-- REVERT (Table 16-6). -/
def State.fwRevert (s : State) (t : Nat) : State :=
  if !(s.bootRec t).trial then s.fwResult 8 else (s.revertTrial t).fwResult 0

def execFwRevert (master type : Nat) (s : State) : Res := .next (s.fwCommand master 4 type fun t => t.fwRevert type)

/-- Units of a live load: UNITS, or every unit of the type where it is 0 (R531). -/
def namedUnits (t units : Nat) : Nat :=
  match t with
  | 4 => if units = 0 then 255 else units
  | 5 => if units = 0 then 255 else units
  | 6 => if units % 4 = 0 then 3 else units % 4
  | _ => 0

/-- The body of a slot is staged in the firmware region of both fold dies, from its base (R532, Table 10-2; log entry 173). -/
def State.stageFw (s : State) (t : Nat) (b : Bool) : State :=
  let bs := s.slotBytes t b
  let n := leAt bs 32 4
  let body := padTo (64 * ceilDiv n 64) 0 ((bs.drop 512).take n)
  [0, 1].foldl (fun u f => u.writeMem 0x2000 (sramBase f + 0x9A00000) body) s

/-- LOAD checks the NEXT slot and waits for its conditions; type 1 restarts the MSPs at once (R532, R533). -/
def State.fwLive (s : State) (t units : Nat) : State :=
  if t = 2 || t = 7 then s.fwResult 8
  else
    let c := s.checkSlot t (s.bootRec t).next
    if c != 0 then s.fwResult c
    else
      let s0 := if t = 3 then s.stageFw 3 (s.bootRec 3).next else s
      let s1 := { s0 with boot := { s0.boot with load := some { type := t, units := namedUnits t units, running := t = 1 } } }
      if t = 1 then s1.setMsp .warm else s1.setBit oFwStat 30

def execFwLoad (master type units : Nat) (s : State) : Res := .next (s.fwCommand master 5 type fun t => t.fwLive type units)

/-- The lower security epoch of the committed images of types 1 and 2 (R522). -/
def State.committedEpoch (s : State) : Nat :=
  min (leAt (s.slotBytes 1 (s.bootRec 1).commit) 16 8) (leAt (s.slotBytes 2 (s.bootRec 2).commit) 16 8)

/-- RAISE_EPOCH blows fuses until FUSED equals that epoch (R522, Table 16-6). -/
def State.fwRaise (s : State) (key : Nat) : State :=
  let v := s.committedEpoch
  let odd (t : Nat) : Bool := (s.bootRec t).trial || s.runSlot t != (s.bootRec t).commit
  if key != 0x640 || odd 1 || odd 2 || 64 < v then s.fwResult 8
  else
    let n := max s.boot.fused v
    (({ s with boot := { s.boot with fused := n } } : State).setFld 0x410 6 0 n).fwResult 0

def execFwRaiseEpoch (master key : Nat) (s : State) : Res := .next (s.fwCommand master 6 0 fun t => t.fwRaise key)

/-- A step boundary of chapter 16: no step and no pass is open (R531). -/
def State.boundary16 (s : State) : Bool := !s.trn.opened && !s.trn.evalOpen

/-- The conditions of Table 16-9: for the shepherd firmware every matrix unit and drover engine READY, FENCED or in HOLD (R210, R258); for a
die its port idle with no reconcile read due, no tile in MUSTER or TEST, and no MVM in progress (R98, R137). -/
def State.mayLoad (s : State) (l : LiveLoad) : Bool :=
  s.boundary16 &&
  match l.type with
  | 3 => (List.range 80).all (fun u => [0, 1, 4].contains (s.muState u)) && (List.range 40).all fun e => [0, 1, 4].contains (s.drvState e)
  | 4 => (bitsSet 8 l.units).all fun p => let d := s.die p
    d.state = .run && d.port.owner = none && d.port.scopes = [] && d.port.toRecon = [] &&
      d.tiles.all fun kv => kv.2.st != .muster && kv.2.st != .test && kv.2.banks = []
  | 5 => (bitsSet 8 l.units).all fun k => (s.shr k).fill = 0
  | _ => true

/-- The dies of a load of the tile sequencers are quiesced first (R98). -/
def State.quiesceFor (s : State) (l : LiveLoad) : LiveLoad × State :=
  let ps := if l.type = 4 && s.boundary16 then (bitsSet 8 l.units).filter fun p => !s.quiesced p else []
  let l1 := { l with quiet := l.quiet ++ ps }
  (l1, ps.foldl (fun t p => t.setBit (pst p + 0x10) 12) { s with boot := { s.boot with load := some l1 } })

/-- A pending load reaches its boundary: the named units leave service (R98, R337, R531). -/
def State.loadStart (s : State) : State :=
  match s.boot.load with
  | none => s
  | some l0 =>
    if l0.running || s.failSafe then s
    else
      let r := s.quiesceFor l0
      let l := r.1
      if !r.2.mayLoad l then r.2
      else
      let s1 := ({ r.2 with boot := { r.2.boot with load := some { l with running := true } } } : State).clrBit oFwStat 30
      match l.type with
      | 4 => (bitsSet 8 l.units).foldl (fun (t : State) p => t.updDie p fun d => { d with state := .update }) s1
      | 5 => (bitsSet 8 l.units).foldl (fun (t : State) k => t.setShr k { t.shr k with state := .ucode }) s1
      | _ => s1

def execLiveLoadStart (s : State) : Res := .next s.loadStart

/-- A running load of the serial-link firmware moves on to the next fold die, which waits for its own step boundary (R432, Table 16-9). -/
def State.nextFold (s : State) (l : LiveLoad) (f : Nat) : State :=
  (({ s with boot := { s.boot with load := some { l with units := l.units - 2 ^ f, running := false } } } : State).setBit oFwStat 30).linkResume f

/-- A running load ends. Units that resumed run NEXT; where one did not, they are loaded from COMMIT, the trial is reverted and the
result is 9 (R532). Dies come back by DIE_UPDATE_END of their own; `failed` names items a new MSP image cannot migrate. -/
def State.loadEnd (s : State) (ok : Bool) (failed : Nat) : State :=
  match s.boot.load with
  | none => s
  | some l =>
    let f := (bitsSet 2 l.units).headD 0
    if !l.running || (l.type = 4 && (List.range 8).any fun p => (s.die p).state = .update) then s
    else if l.type = 6 && ok && 2 ^ f < l.units then s.nextFold l f
    else
      let s1 := { s with boot := { s.boot with load := none } }
      let s2 := if l.type = 5 then (bitsSet 8 l.units).foldl (fun (t : State) k => t.setShr k { t.shr k with state := .ready }) s1 else s1
      let r := s2.bootRec l.type
      let s3 := if ok then (s2.runFrom l.type r.next false).fwResult 0
        else ((s2.revertTrial l.type).runFrom l.type r.commit false).fwResult 9
      let s3 := if l.type = 3 && !ok then s3.stageFw 3 r.commit else s3
      let s4 := if l.type = 8 then { s3 with boot := { s3.boot with diag := ok } } else s3
      if l.type = 1 then ((s4.setMsp .running).holdItems failed).serveAllMbx.postFault
      else if l.type = 6 then (s4.linkResume 0).linkResume 1
      else s4

def execLiveLoadResume (ok : Bool) (failed : Nat) (s : State) : Res := .next (s.loadEnd ok failed)

end Sys2Proof.Machine
end

