-- ==== Sys2Proof/Machine/RegRead.lean ====
section
/-! DEFINITION. What a register read returns (R12, R372, R534): the stored value in force, and the fields that report what the units hold
at the moment of reading. -/

namespace Sys2Proof.Machine

/-- A word from fields given as value and lowest bit. -/
def pack (fs : List (Nat × Nat)) : Word := BitVec.ofNat 32 (fs.foldl (fun a f => a + f.1 * 2 ^ f.2) 0)

/-- Context registers 0x1C to 0x2C (Table 11-18). -/
def State.ctxWord (s : State) (c i : Nat) : Word :=
  let x := s.ctx c
  let ptr (v n : Nat) : Word := pack [(v / n, 16), (v % n, 0)]
  match i with
  | 0x1C => pack [(x.state.code, 28), (x.err, 20), (x.fetch / s.sqSize c, 16), (x.fetch % s.sqSize c, 0)]
  | 0x20 => ptr x.tail (s.sqSize c)
  | 0x24 => ptr x.cqTail (s.cqSize c)
  | 0x28 => ptr x.cqHead (s.cqSize c)
  | 0x2C => pack [(min x.infl.length 256, 0)]
  | _ => s.reg (ctxBase c + i)

/-- Mailbox registers by offset in a fold die's bank; host-to-firmware words are WO (Table 11-19). -/
def State.mbxWord (s : State) (f o : Nat) : Word :=
  if o < 0x80 then 0
  else if 0x100 ≤ o ∧ o < 0x180 then (s.mbx 1 f ((o - 0x100) / 4)).data
  else if o = 0x200 then pack ((List.range 32).map fun n => (b2n (s.mbx 1 f n).full, n))
  else s.reg (0x400000 + 0x10000 * f + o)

/-- State and occupancy of a logical matrix unit (Tables 6-8 and 6-13). Complete buffers are reported before the one that fills. -/
def State.muStat (s : State) (u : Nat) : Word :=
  let m := s.mu u
  let bufs := m.full.map (fun _ => 2) ++ (if m.cur.isSome then [1] else [])
  let q := (if u % 2 = 0 then (s.drv (u / 2)).qa else (s.drv (u / 2)).qb).length
  let part := match m.cur with
    | some j => match s.findProd j.key with
      | some p => p.partNo j.idx
      | none => 0
    | none => 0
  let rec_ := match m.cur with
    | some j => b2n (j.kind = 1 || j.kind = 2)
    | none => 0
  pack [(s.muState u, 28), (bufs.getD 0 0, 26), (bufs.getD 1 0, 24), (min q 4, 16), (part % 256, 8), (rec_, 0)]

/-- State and occupancy of a logical drover engine (Tables 7-18 and 7-27). -/
def State.drvStat (s : State) (e : Nat) : Word :=
  let d := s.drv e
  pack [(s.drvState e, 28), (d.fault % 16, 24), (min d.qa.length 4, 21), (min d.qb.length 4, 18), (min d.aq.length 64, 11),
    (b2n (d.hold1.st != 0), 10), (b2n (d.hold0.st != 0), 9), (min d.fifo.length 64, 0)]

/-- The resident-table entry that DRV_KIDX names (Tables 7-23 to 7-25). -/
def State.kernelIdx (s : State) : Option Resident :=
  if 39 < s.fld 0xC00030 13 8 then none else mapFind (s.drv (s.fld 0xC00030 13 8)).res (s.fld 0xC00030 4 0)

def State.drvBlock (s : State) (off : Nat) : Word :=
  if off = 0xC00020 ∨ off = 0xC00024 then pack [(min (mapGet [] s.pstore ((off - 0xC00020) / 4)).length 384, 16), (384, 0)]
  else if off = 0xC00034 then BitVec.ofNat 32 ((s.kernelIdx.map (·.id)).getD 0)
  else if off = 0xC00038 then match s.kernelIdx with
    | some r => pack [(1, 31), (r.ofs, 16), (r.words, 0)]
    | none => 0
  else if 0xC01000 ≤ off ∧ off < 0xC01280 ∧ off % 16 = 4 then s.drvStat ((off - 0xC01000) / 16)
  else s.reg off

/-- SHR_STAT with the state of the unit: BUSY in a pass or a rescale path (Tables 9-10 and 9-17, R306, R337). -/
def State.shrStat (s : State) (k : Nat) : Word :=
  let st := if s.failSafe then 3 else match (s.shr k).state with
    | .hold => 0
    | .ucode => 4
    | .ready => if s.bit 0x1000010 0 then 3 else if s.shrBusy k || (s.port k).scopes.any (·.owner = 1) then 2 else 1
  wset (s.reg (0x1001018 + 64 * k)) 31 28 st

/-- Entries of a unit's list not yet applied: those not handed to a batch, and those in one (Table 9-16). -/
def State.listUnapplied (s : State) (k : Nat) : Nat :=
  s.listLeft k + (((s.port k).batches.filter (·.owner = 0)).map (·.items.length)).foldl (· + ·) 0

def State.shrBlock (s : State) (off : Nat) : Word :=
  let k := (off - 0x1001000) / 64
  if 0x1001000 ≤ off ∧ off < 0x1001200 then
    if off % 64 = 0x18 then s.shrStat k
    else if off % 64 = 0x1C then BitVec.ofNat 32 (s.listUnapplied k % 2 ^ 28)
    else s.reg off
  else s.reg off

/-- The counter that a register of a counter window belongs to, as die and counter, with the register's place. -/
def cntPlace (off : Nat) : Option (Nat × Nat × Nat) :=
  let d := (off - 0x1C00000) / 0x1000
  let o := off % 0x1000
  if 0x1C00000 ≤ off ∧ d < 10 ∧ 0x100 ≤ o ∧ (o - 0x100) / 32 < cntCount d then some (d, (o - 0x100) / 32, (o - 0x100) % 32) else none

/-- CFG_ERR bits of 32 counters of a die (Table 17-7). -/
def State.cntErrs (s : State) (d lo : Nat) : Word :=
  pack ((List.range 32).map fun i => (b2n (decide (lo + i < cntCount d) && s.cntErr d (lo + i)), i))

def State.cntBlock (s : State) (off : Nat) : Word :=
  match cntPlace off with
  | some (d, i, 0xC) => BitVec.ofNat 32 (mapGet 0 s.cnt.val (64 * d + i))
  | some (d, i, 0x10) => BitVec.ofNat 32 (mapGet 0 s.cnt.rdLatch (64 * d + i))
  | _ =>
    let d := (off - 0x1C00000) / 0x1000
    if d < 10 ∧ off % 0x1000 = 8 then s.cntErrs d 0 else if d < 10 ∧ off % 0x1000 = 0xC then s.cntErrs d 32 else s.reg off

/-- A pasture die's state (Table 3-15), with the tiles active and mapped. -/
def State.dieStat (s : State) (p : Nat) : Word :=
  let st := match (s.die p).state with
    | .hold => 0
    | .run => if s.quiesced p then 2 else 1
    | .update => 3
    | .failSafe => 4
  let mapped := ((List.range 8192).filter fun n => (s.ptile p n).isSome).length
  wset (wset (wset (s.reg (pst p + 0x20)) 31 28 st) 24 14 (s.activeTiles p)) 13 0 mapped

/-- The program port (Table 4-15). -/
def State.portStat (s : State) (p : Nat) : Word :=
  let q := s.port p
  let owner := if q.reconHeld then 5 else q.owner.getD 7
  pack ([(owner, 29), (b2n (q.scopes != []), 28), (b2n (s.portOpen p), 27), (b2n (q.record != []), 26), (min q.recon.length 2048, 0)] ++
    (List.range 5).map fun i => (b2n (s.asserted p i && q.owner != some i), 16 + i))

/-- The physical column that PST_PP_WEAR_IDX names, as the key of its wear counter (Table 4-17). -/
def State.wearIdx (s : State) (p : Nat) : Option Nat :=
  let o := pst p + 0x218
  if s.fld o 17 10 < 130 ∧ s.fld o 9 0 < 536 then some ((s.fld o 23 18 * 130 + s.fld o 17 10) * 536 + s.fld o 9 0) else none

def State.wearWord (s : State) (p : Nat) : Word :=
  match s.wearIdx p with
  | some k =>
    let v := (s.die p).worn k
    pack [(b2n (decide (min (s.fld (pst p + 0x20C) 23 0) 1000000 ≤ v)), 31), (v, 0)]
  | none => 0

/-- AINC moves the index on by one column after an access to PST_PP_WEAR_DATA (Table 4-17). -/
def State.wearNext (s : State) (p : Nat) : State :=
  let o := pst p + 0x218
  if !s.bit o 31 then s
  else if s.fld o 9 0 < 535 then s.setFld o 9 0 (s.fld o 9 0 + 1)
  else
    let s1 := s.setFld o 9 0 0
    if s.fld o 17 10 < 129 then s1.setFld o 17 10 (s.fld o 17 10 + 1)
    else (s1.setFld o 17 10 0).setFld o 23 18 ((s.fld o 23 18 + 1) % 64)

/-- The muster engine (Table 5-12). -/
def State.musStat (s : State) (p : Nat) : Word :=
  let m := s.mus p
  let n := m.pend.tiles.length
  let run := ((s.die p).tiles.filter fun kv => kv.2.st = .muster).length
  pack [(if m.pend = {} then 0 else if m.gradual then 2 else 1, 30), (min n 8192, 16), (min run 1024, 0)]

/-- A field's record, with the seconds since its last muster began (Table 5-13). -/
def State.musField (s : State) (p f : Nat) : Word :=
  let age := match mapFind (s.mus p).began f with
    | some t => min ((s.ts - t) / 200000000) 65535
    | none => 0
  wset (s.reg (pst p + 0x400 + 4 * f)) 15 0 age

/-- A tile's state as it reports it (Tables 3-11 and 3-18). -/
def State.tileStat (s : State) (p n : Nat) : Word :=
  let st := match (s.die p).state with
    | .failSafe => 7
    | .update => 7
    | _ => (s.tile p n).st.code
  wset (wset (s.reg (tileStatOff p n)) 31 28 st) 7 7 (b2n (s.tile p n).suspect)

/-- PST_ACHK_TILE with the rung of the tile's ladder (Table 14-18). -/
def State.achkTile (s : State) (p n : Nat) : Word :=
  let r := match s.ptile p n with
    | some pt => s.rung p pt
    | none => 0
  wset (s.reg (pst p + 0x140000 + 4 * n)) 23 21 r

/-- A register of the window of a pasture die by its offset there. -/
def State.dieBlock (s : State) (p o : Nat) : Word :=
  if o = 0x20 then s.dieStat p
  else if o = 0x210 then s.portStat p
  else if o = 0x21C then s.wearWord p
  else if o = 0x304 then s.musStat p
  else if 0x400 ≤ o ∧ o < 0x500 then s.musField p ((o - 0x400) / 4)
  else if 0x110000 ≤ o ∧ o < 0x118000 then s.tileStat p ((o - 0x110000) / 4)
  else if 0x140000 ≤ o ∧ o < 0x148000 then s.achkTile p ((o - 0x140000) / 4)
  else s.reg (pst p + o)

/-- The strikes of the unit that GLB_STRK_IDX names (Table 14-17). -/
def State.strikes (s : State) : Word :=
  let p := s.fld 0x32C 6 0
  let life (k : Nat) := mapGet 0 s.flt.life k
  let win (row : Nat) := mapGet 0 s.flt.thrCnt (thrKey row p)
  if s.fld 0x32C 31 28 = 0 ∧ p < 84 then pack [(life p, 16), (min (win 7) 65535, 0)]
  else if s.fld 0x32C 31 28 = 1 ∧ p < 42 then pack [(life (128 + p), 16), (min (win 9) 65535, 0)]
  else 0

/-- Some shadow differs from its value in force (Table 16-19). -/
def State.dirty (s : State) : Bool := s.shadow.any fun kv => kv.2 != s.reg kv.1 &&& stagedMask kv.1

/-- A register of the global block. Seed words are WO; GLB_SEED_STAT computes the check value (R58). -/
def State.glbBlock (s : State) (off : Nat) : Word :=
  let row := s.fld 0x320 3 0
  if 0x120 ≤ off ∧ off < 0x140 then 0
  else if off = 0x140 then wset (s.reg off) 15 0 (seedCheck s.seed)
  else if off = 0x324 then (if 13 < row then 0 else BitVec.ofNat 32 (s.thrLimit row))
  else if off = 0x328 then (if 13 < row then 0 else BitVec.ofNat 32 (s.thrWindow row))
  else if off = 0x330 then s.strikes
  else if off = 0x504 then wset (s.reg off) 30 30 (b2n s.dirty)
  else s.reg off

/-- The interlock (Table 15-14, R497). -/
def State.intlk (s : State) : Word :=
  pack ((b2n (s.pgood && !s.failSafe && s.bootState != 0), 16) ::
    (List.range 8).flatMap fun p => [(b2n (s.port p).vIn, 8 + p), (b2n (s.port p).vClosed, p)])

def State.pwrBlock (s : State) (off : Nat) : Word :=
  if off = 0x100110 then BitVec.ofNat 32 (s.pwr.energy / 1000)
  else if off = 0x100114 then BitVec.ofNat 32 s.pwr.energyLatch
  else if off = 0x10011C then s.intlk
  else s.reg off

def State.memBlock (s : State) (off : Nat) : Word :=
  if off = 0x1400028 ∨ off = 0x140002C then wset (s.reg off) 12 0 (min (s.tagsHeld ((off - 0x1400028) / 4)) 4096) else s.reg off

/-- Units of the test scheduler that wait, and that are fenced as overdue (Table 5-27). -/
def State.testStat (s : State) : Word :=
  let waiting := (s.tests.filter fun t => !t.running && t.desc.isNone && t.slices != 0).length
  pack [(min waiting 65535, 16), (min (s.tests.filter (·.overdue)).length 65535, 0)]

/-- The words of access-table entries, in force (Table 11-14). -/
def State.aclBlock (s : State) (off : Nat) : Word :=
  if 0x509000 ≤ off ∧ off < 0x510000 then 0
  else if off < 0x510000 then
    let k := (off - 0x500000) / 16
    BitVec.ofNat 32 ((mapGet (aclDefault k) s.host.acl k).word (off % 16 / 4))
  else s.reg off

/-- The word a register reads as, wherever it is read from. An offset that no register has reads 0 (R372). -/
def State.regWord (s : State) (off : Nat) : Word :=
  if off % 4 ≠ 0 then 0
  else if off < 0x100000 then s.glbBlock off
  else if off < 0x200000 then s.pwrBlock off
  else if off < 0x240000 then s.ctxWord ((off - 0x200000) / 64) (off % 64)
  else if off < 0x400000 then 0
  else if off < 0x500000 then s.mbxWord ((off - 0x400000) / 0x10000) (off % 0x10000)
  else if off < 0x800000 then s.aclBlock off
  else if off < 0xC00000 then
    (if 0x801000 ≤ off ∧ off < 0x801500 ∧ off % 16 = 4 then s.muStat ((off - 0x801000) / 16) else s.reg off)
  else if off < 0x1000000 then s.drvBlock off
  else if off < 0x1400000 then s.shrBlock off
  else if off < 0x1800000 then s.memBlock off
  else if off < 0x1C00000 then s.reg off
  else if off < 0x1E00000 then s.cntBlock off
  else if off < 0x2000000 then (if off = 0x1E0A020 then s.testStat else s.reg off)
  else if off < 0x4000000 then s.dieBlock ((off - 0x2000000) / 0x400000) (off % 0x400000)
  else 0

/-- BAR0 of a virtual function: VF_ID, and the view of the context in each of its slots (Tables 11-2 and 11-18). -/
def State.vfWord (s : State) (master off : Nat) : Word :=
  if off = 0 then pack [(0x0641, 16), (master / 64 % 2, 15), (master % 64, 0)]
  else if 0x1000 ≤ off ∧ off < 0x2000 ∧ 16 ≤ off % 64 ∧ off % 64 < 48 then
    match s.pageCtx (master / 64 % 2) (master % 64) ((off - 0x1000) / 64) with
    | some c => s.ctxWord c (off % 64)
    | none => 0
  else 0

/-- The word a register returns to a master: `GLB_ID.FOLD` names the fold die that serves the access, F1 for what comes through H1 and for
the masters of F1 (R2). A virtual function has a BAR0 of its own. -/
def State.regWordFor (s : State) (master off : Nat) : Word :=
  if masterClass master = .hostVf then s.vfWord master off
  else if off = 0 then wset (s.regWord 0) 8 8 (masterDie master) else s.regWord off

/-- What reading a register does besides: FULL of a firmware-to-host word clears (R394), CNT_VAL_LO and PWR_ENERGY_LO latch their
high words (R542, R499), and AINC moves the wear index on. -/
def State.readEffect (s : State) (off : Nat) : State :=
  let p := (off - 0x2000000) / 0x400000
  if off = 0x100110 then s.updPwr fun q => { q with energyLatch := s.pwr.energy / 1000 / 2 ^ 32 % 2 ^ 32 }
  else if 0x400000 ≤ off ∧ off < 0x420000 ∧ 0x100 ≤ off % 0x10000 ∧ off % 0x10000 < 0x180 then
    let f := (off - 0x400000) / 0x10000
    let n := (off % 0x10000 - 0x100) / 4
    (s.setMbx 1 f n { s.mbx 1 f n with full := false }).postFault
  else if 0x2000000 ≤ off ∧ off < 0x4000000 ∧ off % 0x400000 = 0x21C then s.wearNext p
  else match cntPlace off with
    | some (d, i, 0xC) =>
      { s with cnt := { s.cnt with rdLatch := mapSet 0 s.cnt.rdLatch (64 * d + i) (mapGet 0 s.cnt.val (64 * d + i) / 2 ^ 32) } }
    | _ => s

/-- A master reads the register at an offset (R372, R404). -/
def State.readReg (s : State) (master off : Nat) : State :=
  s.guardedRead master off (fun t => t.regWordFor master off) fun t => t.readEffect off

end Sys2Proof.Machine
end

