-- ==== Sys2Proof/Machine/Mgmt.lean ====
section
/-! DEFINITION. The SMBus target (R560) and the management port (R561 to R564). -/

namespace Sys2Proof.Machine

/-- The SMBus target answers whenever VSTBY is up (R560). The bytes are the data of the reply, low byte first. -/
def State.smbus (s : State) (bs : List Byte) : State := if s.pwr.standby then s.emit (.smbus bs) else s

/-- The MSP, on F0, serves the SMBus target and the management port. -/
def execSmbGlbId (s : State) : Res := .next (s.smbus (leBytes 4 (s.regWordFor mspMaster 0).toNat))

/-- The state byte of command 0x01 (Table 18-8). -/
def State.stateByte (s : State) : Nat :=
  s.bootState * 16 + b2n s.failSafe * 8 + b2n s.pgood * 4 + b2n (s.bit oFltStat 31) * 2 + b2n (s.bit oFltStat 30)

def execSmbState (s : State) : Res := .next (s.smbus (leBytes 1 s.stateByte))

def execSmbVin (s : State) : Res := .next (s.smbus (leBytes 2 (s.fld oPwrIn 31 16)))

def execSmbPinAvg (s : State) : Res := .next (s.smbus (leBytes 2 (s.fld oPwrAvg 15 0)))

/-- The highest last code among the converted temperature channels, stacks excluded; 0 where none has been converted. -/
def State.hottest (s : State) : Nat :=
  ((monChannels.filter fun dc => tempChannel dc.1 dc.2 && s.bit (monLast dc.1 dc.2) 15).map fun dc =>
    s.fld (monLast dc.1 dc.2) 11 0).foldl max 0

def execSmbTemp (s : State) : Res := .next (s.smbus (leBytes 2 s.hottest))

def execSmbFsCause (s : State) : Res := .next (s.smbus (leBytes 1 (s.fld oFsStat 6 0)))

def execSmbFltSeq (s : State) : Res := .next (s.smbus (leBytes 3 (s.fld oFltSeq 23 0)))

def execSmbAlertStatus (s : State) : Res := .next (s.smbus (leBytes 1 s.mgmt.alert))

/-- Writing 1 to a bit clears the same bit of the alert status. -/
def execSmbAlertClear (v : Nat) (s : State) : Res :=
  .next (if s.pwr.standby then { s with mgmt := { s.mgmt with alert := s.mgmt.alert &&& (255 - v % 256) } } else s)

/-- The alert mask is written, or read. -/
def execSmbAlertMask (w : Option Nat) (s : State) : Res :=
  .next (match w with
    | some v => if s.pwr.standby then { s with mgmt := { s.mgmt with mask := v % 256 } } else s
    | none => s.smbus (leBytes 1 s.mgmt.mask))

def execSmbSerial (s : State) : Res := .next (s.smbus (leBytes 8 Config.serial))

/-- The Alert Response Address is answered with the target's own address while `ALERT_N` is asserted. -/
def execSmbAlertResponse (s : State) : Res :=
  .next (if s.alertN then s.smbus (leBytes 1 ((0x58 + s.fld oSlot 1 0) * 2)) else s)

/-- Fields of a management request (R563). -/
def reqOp (q : List Byte) : Nat := leAt q 8 1
def reqSeq (q : List Byte) : Nat := leAt q 4 4
def reqBody (q : List Byte) : List Byte := (q.drop 16).take (leAt q 10 2)

/-- A datagram has the form of a request. -/
def reqFormed (q : List Byte) : Bool :=
  leAt q 0 4 = 0x544D5251 && leAt q 10 2 ≤ 1024 && q.length = 32 + leAt q 10 2

/-- The first 16 bytes of the HMAC over header and body. -/
def macOf (key bs : List Byte) : List Byte := (Config.hmac384 key bs).take 16

/-- The management key of profile 0 is not all zero. -/
def State.keySet (s : State) : Bool := s.boot.profile.key.any (· != 0)

/-- A request other than STATUS is accepted: its MAC verifies and its SEQ exceeds the last one accepted (R563). -/
def State.reqAccepted (s : State) (q : List Byte) : Bool :=
  s.keySet && macOf s.boot.profile.key (q.take (q.length - 16)) = q.drop (q.length - 16) &&
  (match s.mgmt.lastSeq with
   | some l => decide (l < reqSeq q)
   | none => true)

/-- The reply to a request, with a status and a body (R563). -/
def State.reply (s : State) (q : List Byte) (status : Nat) (body : List Byte) : State :=
  let h := leBytes 4 0x544D5251 ++ leBytes 4 (reqSeq q) ++ leBytes 1 (reqOp q ||| 0x80) ++ leBytes 1 status ++
    leBytes 2 body.length ++ leBytes 4 0
  s.emit (.mgmt (h ++ body ++ macOf s.boot.profile.key (h ++ body)))

/-- A request of the operations a command covers reaches the port: it is dropped, or carried out by `f` (R563, R564). -/
def State.request18 (s : State) (ops : Nat → Bool) (q : List Byte) (f : State → State) : State :=
  if !s.mgmtUp || !reqFormed q || !ops (reqOp q) then s
  else if reqOp q = 1 then f s
  else if !s.reqAccepted q then s
  else f { s with mgmt := { s.mgmt with lastSeq := some (reqSeq q) } }

/-- The body of the STATUS reply, six words (Table 18-9). -/
def State.statusBody (s : State) : List Byte :=
  [s.reg oBoot, s.reg oFsStat, s.reg oPwrIn, s.reg oFltStat, s.reg oSlot].flatMap (fun w => leBytes 4 w.toNat) ++
    leBytes 4 (s.mgmt.lastSeq.getD 0)

/-- FW_CMD runs a command of FW_CTL but WRITE (Table 18-9, R527). -/
def State.fwRequest (s : State) (q : List Byte) : State :=
  let w := leAt q 16 4
  let cmd := Machine.fld w 31 28
  let t := Machine.fld w 15 8
  let run (f : State → State) : State :=
    let u := s.fwRun cmd t f
    u.reply q (if !u.bit oFwStat 31 && u.fld oFwStat 3 0 = 8 then 2 else 0) []
  if s.bit oFwStat 31 then s.reply q 3 []
  else match cmd with
    | 1 => s.reply q 2 []
    | 2 => run fun u => u.fwActivate t
    | 3 => run fun u => u.fwCommit t
    | 4 => run fun u => u.fwRevert t
    | 5 => run fun u => if u.mspUp then u.fwLive t (Machine.fld w 7 0) else u.fwResult 8
    | 6 => run fun u => u.fwRaise (Machine.fld w 27 16)
    | _ => s.reply q 0 []

/-- STATUS, FW_CMD, which has no row of its own, and operations that do not exist. -/
def State.statusRequest (s : State) (q : List Byte) : State :=
  if reqOp q = 1 then (if reqBody q = [] then s.reply q 0 s.statusBody else s.reply q 1 [])
  else if reqOp q = 3 && (reqBody q).length = 4 then s.fwRequest q
  else s.reply q 1 []

def execStatus (req : List Byte) (s : State) : Res :=
  .next (s.request18 (fun op => op != 2 && op != 4 && op != 5 && op != 6) req fun t => t.statusRequest req)

/-- FS_EXIT: granted, or refused with the causes that remain (R510). -/
def State.exitRequest (s : State) (q : List Byte) : State :=
  if reqBody q != [] then s.reply q 1 []
  else
    let r := s.requestExit
    if r.1 then r.2.2.reply q 0 [] else r.2.2.reply q 2 (leBytes 4 r.2.1)

def execFsExit (req : List Byte) (s : State) : Res := .next (s.request18 (· == 2) req fun t => t.exitRequest req)

/-- Size of the slot of a type (Table 16-2). -/
def slotSize (t : Nat) : Nat := ([0, 4, 4, 32, 16, 8, 16, 32, 32].getD t 0) * 2 ^ 20

/-- IMAGE_CHUNK writes into the slot that is not RUN and marks it not valid. -/
def State.chunkRequest (s : State) (q : List Byte) : State :=
  let b := reqBody q
  let t := leAt b 0 1
  let off := leAt b 1 4
  let data := b.drop 5
  if data = [] || 1000 < data.length then s.reply q 1 []
  else if s.bit oFwStat 31 then s.reply q 3 []
  else if t = 0 || 8 < t || slotSize t < off + data.length then s.reply q 2 []
  else
    let slot := !s.runSlot t
    let old := s.slotBytes t slot
    let pad := freeBytes s (off - old.length)
    let bs := (old ++ pad.1).take off ++ data ++ old.drop (off + data.length)
    (pad.2.putSlot t slot bs false).reply q 0 []

def execImageChunk (req : List Byte) (s : State) : Res := .next (s.request18 (· == 4) req fun t => t.chunkRequest req)

/-- IMAGE_CHECK checks that slot and marks it valid where it passes. -/
def State.checkRequest (s : State) (q : List Byte) : State :=
  let t := leAt (reqBody q) 0 1
  if (reqBody q).length != 1 then s.reply q 1 []
  else if s.bit oFwStat 31 then s.reply q 3 []
  else if t = 0 || 8 < t then s.reply q 2 []
  else
    let slot := !s.runSlot t
    if s.checkSlot t slot = 0 then (s.putSlot t slot (s.slotBytes t slot) true).reply q 0 [] else s.reply q 2 []

def execImageCheck (req : List Byte) (s : State) : Res := .next (s.request18 (· == 5) req fun t => t.checkRequest req)

/-- The register answers the management port: while `PWR_GOOD` is low, only the global, clock and power, and monitor blocks. -/
def State.mgmtReads (s : State) (off : Nat) : Bool :=
  let b := (regBlock off).1
  s.pgood || b = 0 || b = 1 || b = 11

/-- READ_REG replies with the register word. -/
def State.readRequest (s : State) (q : List Byte) : State :=
  let off := leAt (reqBody q) 0 4
  if (reqBody q).length != 4 then s.reply q 1 []
  else if s.mgmtReads off then (s.readEffect off).reply q 0 (leBytes 4 (s.regWordFor mspMaster off).toNat)
  else s.reply q 0 (leBytes 4 0)

def execReadReg (req : List Byte) (s : State) : Res := .next (s.request18 (· == 6) req fun t => t.readRequest req)

/-- An ICMP echo is answered with its identifier, sequence number and data, given as they came (R561). -/
def execIcmpEcho (data : List Byte) (s : State) : Res := .next (if s.mgmtUp then s.emit (.net 0 data) else s)

/-- An ARP request, or a neighbour solicitation, that names the module is answered with its MAC address (R561). -/
def execArpRequest (mine nd : Bool) (s : State) : Res :=
  .next (if s.mgmtUp && mine then s.emit (.net (if nd then 2 else 1) (beBytes 6 Config.macAddr)) else s)

end Sys2Proof.Machine
end

