-- ==== Sys2Proof/Machine/Monitors.lean ====
section
/-! DEFINITION. The housekeeping converters (R165 to R172) and the temperature trigger of muster (R152, R156). -/

namespace Sys2Proof.Machine

def State.mon (s : State) (d : Nat) : Mon := mapGet {} s.mons d
def State.updMon (s : State) (d : Nat) (f : Mon → Mon) : State := { s with mons := mapUpd {} s.mons d f }

/-- A channel is converted: in the scan mask, or with its fail window enabled (R165, R172). -/
def State.scanned (s : State) (d c : Nat) : Bool := s.bit (monBase d) c || s.bit (monBase d + 0x300 + 4 * c) 31

/-- The channel of the conversion in progress: the next one scanned, in ascending order (R165). -/
def State.nextChannel (s : State) (d : Nat) : Option Nat :=
  ((List.range 16).map fun i => ((s.mon d).next + i) % 16).find? (s.scanned d)

/-- Address of an entry of a converter's buffer, in the device-buffer region of its fold die (R167; log entry 21). -/
def monRing (d i : Nat) : Nat :=
  let f := if d < 8 then d / 4 else d - 8
  sramBase f + 0xA200000 + (if d < 8 then d % 4 else 4) * 4096 + 8 * i

/-- The buffer takes an entry (R167). -/
def State.monBuffer (s : State) (d e : Nat) : State :=
  let off := monBase d + 8
  let wp := s.fld off 8 0
  let s1 := (s.poke (monRing d wp) (leBytes 8 e)).setGood (monRing d wp)
  let s2 := s1.setFld off 8 0 ((wp + 1) % 512)
  if wp = 511 then s2.setFld off 31 16 ((s.fld off 31 16 + 1) % 65536) else s2

/-- The mirror takes an entry, and writes bursts of 32; a denied write turns mirroring off, and none is made in the fail-safe state
(R168). -/
def State.monMirror (s : State) (d e : Nat) : State :=
  let lo := monBase d + 0x10
  if !s.bit lo 0 || s.failSafe then s
  else
    let b := (s.mon d).burst ++ [e]
    if b.length < 32 then s.updMon d fun m => { m with burst := b }
    else
      let n := 512 * 2 ^ s.fld lo 3 1
      let wp := s.fld (monBase d + 0x18) 15 0
      let a := 2 ^ 32 * (s.reg (monBase d + 0x14)).toNat + 4096 * s.fld lo 31 12 + 8 * wp
      let r := (s.updMon d fun m => { m with burst := [] }).store s.mspWho (.host (a % 2 ^ 62)) (b.flatMap (leBytes 8))
      match r.1 with
      | .denied => r.2.clrBit lo 0
      | _ => r.2.setFld (monBase d + 0x18) 15 0 ((wp + 32) % n)

/-- The rail a voltage channel watches (Tables 5-3, 5-4 and 15-2). -/
def channelRail (d c : Nat) : Option Nat :=
  if d < 8 then
    match c with
    | 8 => some 8
    | 9 => some 9
    | 10 => some 10
    | 12 => some 11
    | 13 => some 12
    | _ => none
  else
    match c with
    | 4 => some 3
    | 5 => some 4
    | 6 => some 5
    | 7 => some 7
    | 8 => some 6
    | 9 => some 2
    | 10 => some 0
    | 11 => some 1
    | _ => none

/-- A rail that the power-up sequence has not raised yet asserts nothing (log entry 22). -/
def State.railPending (s : State) (d c : Nat) : Bool :=
  s.pwr.seqStep.isSome && (match channelRail d c with | some n => !s.pwr.rail.getLsbD n | none => false)

/-- The causes a channel outside its fail window counts as, the first recorded first: F0 channel 13 below its window the input cause (R171),
above it the input cause of Table 15-5 and the rail cause of a voltage channel (R171; log entry 162). -/
def channelCauses (d c : Nat) (low : Bool) : List Nat :=
  if tempChannel d c then [3] else if d = 8 && c = 13 then (if low then [0] else [0, 1]) else [1]

/-- The fail comparator: DEB conversions in a row outside the window assert the trigger (R170). -/
def State.monFail (s : State) (d c : Nat) (bad low : Bool) : State :=
  let off := monBase d + 0x300 + 4 * c
  let n := if bad then mapGet 0 (s.mon d).run c + 1 else 0
  let s1 := s.updMon d fun m => { m with run := mapSet 0 m.run c (min n 16) }
  if s.bit off 31 && bad && decide (max (s.fld off 15 12) 1 ≤ n) && !s.railPending d c then
    (channelCauses d c low).foldl State.assertFs (s1.setBit (monBase d + 4) c)
  else s1

/-- A code outside the warning window: the monitors' interrupt, the event source and the alert (R170, Table 18-8). -/
def State.monWarn (s : State) (d c : Nat) : State :=
  ((s.event d (if d < 8 then 0x125 else 0x78) c 1).raiseIrq 3).alert 1

/-- Fields whose sensor has moved MUSTER_DT from their muster temperature fall due (R152); fields that used a sensor that turns faulty take
another one, each counted, their own or one that stood in for it (R156). -/
def State.tempTrigger (s : State) (p c : Nat) (users : List Nat) : State :=
  let s1 := if s.sensorBad p c then s.event p 0x123 0 (users.filter fun f => s.fieldSensor p f != c).length else s
  let dt := max (s.fld (pst p + 0x300) 7 0) 8
  let m := s1.sensorMean p c
  ((List.range 64).filter fun f => s1.fieldSensor p f = c).foldl (fun t f =>
    let l := t.fld (pst p + 0x400 + 4 * f) 31 20
    if l + dt ≤ m || m + dt ≤ l then t.fieldDue p f else t) s1

/-- A conversion of channel c ends with a code (R165 to R171). -/
def State.convert (s : State) (d c code : Nat) : State :=
  let warn := outside code (s.fld (monBase d + 0x200 + 4 * c) 11 0, s.fld (monBase d + 0x200 + 4 * c) 27 16)
  let fail := outside code (s.fld (monBase d + 0x300 + 4 * c) 11 0, s.fld (monBase d + 0x300 + 4 * c) 27 16)
  let e := 2 ^ 32 * (s.ts % 2 ^ 32) + 2 ^ 28 * c + 2 ^ 27 * (b2n fail) + 2 ^ 26 * (b2n warn) + 2 ^ 25 * (b2n (s.bit (monBase d + 4) 30)) + code
  let users := if d < 8 && c < 8 && !s.sensorBad d c then (List.range 64).filter fun f => s.fieldSensor d f = c else []
  let s1 := s.updMon d fun m =>
    { m with next := (c + 1) % 16, codes := mapSet [] m.codes c ((code :: mapGet [] m.codes c).take 64) }
  let s2 := s1.setReg (monLast d c) (BitVec.ofNat 32 (2 ^ 15 + b2n fail * 2 ^ 14 + b2n warn * 2 ^ 13 + code))
  let s3 := (s2.monBuffer d e).monMirror d e
  let s4 := if warn then s3.monWarn d c else s3
  let s5 := if d < 8 && c < 8 then s4.tempTrigger d c users else s4
  s5.monFail d c fail (decide (code < s.fld (monBase d + 0x300 + 4 * c) 11 0))

/-- A conversion ends; channel 15 of a fold die reads 0 (Table 5-4). The converters run from module reset on (R165). -/
def execHkConversion (d code : Nat) (s : State) : Res :=
  onUnit (d < 10) (
    if !s.pwr.standby then s
    else match s.nextChannel d with
      | some c => s.convert d c (if 8 ≤ d && c = 15 then 0 else code % 4096)
      | none => s)

/-- A change of MON_CTL.LP takes effect at the end of the conversion in progress (R169). -/
def execHkLowPower (d : Nat) (s : State) : Res :=
  onUnit (d < 10) (s.setFld (monBase d + 4) 30 30 (s.fld (monBase d) 16 16))

/-- MON_LOCK.LOCK holds until module reset (R172). -/
def execMonLock (master d : Nat) (w : Word) (s : State) : Res :=
  onUnit (d < 10) (s.guardedWrite master (monBase d + 0xC) fun t => if w.getLsbD 0 then t.setBit (monBase d + 0xC) 0 else t)

/-- A write of MON_MIRROR_LO; EN going from 0 to 1 clears the write count (R168, Table 5-21). -/
def State.setMirror (s : State) (d : Nat) (w : Word) : State :=
  let off := monBase d + 0x10
  let s1 := s.setReg off (w &&& 0xFFFFF00F#32)
  if w.getLsbD 0 && !s.bit off 0 then (s1.setReg (monBase d + 0x18) 0).updMon d fun m => { m with burst := [] } else s1

def execMirrorEnable (master d : Nat) (w : Word) (s : State) : Res :=
  onUnit (d < 10) (s.guardedWrite master (monBase d + 0x10) fun t => t.setMirror d w)

end Sys2Proof.Machine
end

