-- ==== Sys2Proof/Machine/RegWrite.lean ====
section
/-! DEFINITION. Register writes (R12, R372, R378, R449, R534): the effect by access code, the registers whose writes do more, and the
staged fields. -/

namespace Sys2Proof.Machine

/-- The effect by access codes (R12): RW bits set, W1C bits cleared by 1, staged bits into the shadow. `skip` names bits that this write
leaves alone. -/
def State.putReg (s : State) (off : Nat) (skip w : Word) : State :=
  match regRow off with
  | none => s
  | some r =>
    let rw := BitVec.ofNat 32 r.rw &&& ~~~(BitVec.ofNat 32 r.staged) &&& ~~~skip
    let c := BitVec.ofNat 32 r.w1c &&& ~~~skip
    let s1 := s.setReg off (((s.reg off &&& ~~~rw) ||| (w &&& rw)) &&& ~~~(w &&& c))
    if r.staged = 0 then s1 else s1.stage off (BitVec.ofNat 32 r.staged) w

/-- CTX_* other than CTX_CTL, by their owner in DISABLED (R375, R378). -/
def State.putCtxReg (s : State) (master off : Nat) (w : Word) : State :=
  let c := (off - 0x200000) / 64
  if (s.ctx c).state = .disabled ∧ s.ownsCtx master c = true then s.putReg off 0 w else s

/-- CTX_CTL: the rebinding of R400, EN = 1, or EN = 0. -/
def State.putCtxCtl (s : State) (master c : Nat) (w : Word) : State :=
  let rebinds := masterClass master = .hostPf && (s.ctx c).state = .suspended && wfld w 22 22 = master % 4096 && wfld w 21 16 = 0 &&
    s.ctxLink c != master % 4096
  if rebinds then s.guardedWrite master (ctxBase c + 16) fun t => t.rebind (master % 4096) c
  else if w.getLsbD 31 then s.writeEnable master c w
  else s.guardedWrite master (ctxBase c + 16) fun t => t.disableCtx master c w

/-- The fabric bank that a table register belongs to (R449). -/
def bankOf (off : Nat) : Option Nat := if 0x1810000 ≤ off ∧ off < 0x1820000 then some ((off - 0x1810000) / 0x8000) else none

/-- Writes go only to the inactive bank, not in HOLD, and clear its VALID until it is marked complete (R449). -/
def State.putBank (s : State) (b off : Nat) (w : Word) : State :=
  if b = s.sendEpoch || s.bit oEpoch (26 + b) || (regRow off).isNone then s else (s.putReg off 0 w).clrBit oEpoch (28 + b)

/-- A port's control register: EN and LANE_OFF, then RETRAIN and LANE_CLR (Table 12-12). -/
def State.putPortCtl (s : State) (p : Nat) (w : Word) : State :=
  let s1 := (s.putReg (oPortCtl p) 0 w).settlePort p
  let s2 := if w.getLsbD 29 then (List.range 8).foldl (fun (u : State) i => u.clrBit (oLane p i) 31) s1 else s1
  if w.getLsbD 29 || w.getLsbD 30 then s2.retrain p else s2

/-- CNT_RING_CTL: DIE_MASK and SLOTS only while EN = 0, and EN from 0 to 1 begins the ring anew (Table 17-8). -/
def State.putRingCtl (s : State) (w : Word) : State :=
  let was := s.bit 0x1C0A004 31
  let s1 := s.putReg 0x1C0A004 (if was then 0x03FFFFFF#32 else 0) w
  if w.getLsbD 31 && !was then s1.setReg 0x1C0A010 0 else s1

/-- GLB_RBLD_CTL (Table 14-15). -/
def State.putRebuild (s : State) (w : Word) : State :=
  let s1 := if !w.getLsbD 30 || s.trn.opened then s
    else ((s.setReg oStepLast (s.reg 0x31C)).setBit oStepLval 0).clrBit oFltStat 29
  if !w.getLsbD 31 || s1.trn.opened || s1.trn.evalOpen || s1.fld oRbldStat 31 28 = 1 then s1
  else s1.setReg oRbldStat (BitVec.ofNat 32 (2 ^ 28))

/-- FW_CTL (Tables 16-6 and 16-14); a free value says whether the flash takes what is written to it. -/
def State.putFw (s : State) (w : Word) : State :=
  let t := wfld w 15 8
  let run (cmd : Nat) (f : State → State) : State := if s.bit oFwStat 31 || !s.mspUp then s else s.fwRun cmd t f
  match wfld w 31 28 with
  | 1 => run 1 fun u => let v := u.takeFree; v.2.fwWrite t (v.1 % 2 = 1)
  | 2 => run 2 fun u => u.fwActivate t
  | 3 => run 3 fun u => u.fwCommit t
  | 4 => run 4 fun u => u.fwRevert t
  | 5 => run 5 fun u => u.fwLive t (wfld w 7 0)
  | 6 => run 6 fun u => u.fwRaise (wfld w 27 16)
  | _ => s

/-- PWR_WDT (Table 15-16). -/
def State.putWdt (s : State) (w : Word) : State :=
  let s1 := s.putReg oWdt 0 w
  if w.getLsbD 31 then s1.updPwr fun q => { q with wdt := 0 } else s1

/-- PST_PP_WEAR_DATA sets the counter the index names, and AINC moves the index on (Tables 4-17 and 4-18). -/
def State.putWear (s : State) (p : Nat) (w : Word) : State :=
  (match s.wearIdx p with
   | some k => (s.updDie p fun d => { d with wear := mapSet d.wear0 d.wear k (wfld w 23 0) }).askWorn p
   | none => s).wearNext p

/-- Counter values: the high word is held, the low word loads the counter (R542, Table 17-6). -/
def State.putCounter (s : State) (d i o : Nat) (w : Word) : State :=
  let k := 64 * d + i
  if o = 0x10 then { s with cnt := { s.cnt with wrHold := mapSet 0 s.cnt.wrHold k (wfld w 15 0) } }
  else { s with cnt := { s.cnt with val := mapSet 0 s.cnt.val k (2 ^ 32 * mapGet 0 s.cnt.wrHold k + w.toNat) } }

/-- Counter and ring registers. -/
def State.putCnt (s : State) (off : Nat) (w : Word) : State :=
  match cntPlace off with
  | some (d, i, 0xC) => s.putCounter d i 0xC w
  | some (d, i, 0x10) => s.putCounter d i 0x10 w
  | _ =>
    if off = 0x1C0A004 then s.putRingCtl w
    else if off = 0x1C0A008 ∨ off = 0x1C0A00C then (if s.bit 0x1C0A004 31 then s else s.putReg off 0 w)
    else s.putReg off 0 w

/-- Monitor registers: MON_FAIL is RWL under MON_LOCK (R172). -/
def State.putMon (s : State) (off : Nat) (w : Word) : State :=
  let d := (off - 0x1E00000) / 0x1000
  let o := off % 0x1000
  if d < 10 ∧ o = 0xC then (if w.getLsbD 0 then s.setBit off 0 else s)
  else if d < 10 ∧ o = 0x10 then s.setMirror d w
  else if d < 10 ∧ 0x300 ≤ o ∧ s.bit (monBase d + 0xC) 0 then s
  else s.putReg off 0 w

/-- Registers of a die's window; only the MSP clears a fence. -/
def State.putDie (s : State) (off : Nat) (w : Word) : State :=
  let p := (off - 0x2000000) / 0x400000
  if off % 0x400000 = 0x21C then s.putWear p w
  else (s.putReg off 0 w).afterQuiesce p (s.quiesced p)

/-- Registers of the memory block: MEM_CFG is RWL under its own lock (Table 10-5). -/
def State.putMem (s : State) (off : Nat) (w : Word) : State :=
  if off = oMemCfg ∧ s.bit oMemCfg 31 then s
  else if off = 0x1400018 then s.writeMig w
  else s.putReg off 0 w

/-- Registers of the global block. -/
def State.putGlb (s : State) (off : Nat) (w : Word) : State :=
  if off = 0x14 then (if wfld w 31 16 = 0xD640 && w.getLsbD 0 then s.selfReset else s)
  else if off = 0x314 then s.putRebuild w
  else if off = 0x324 then s.writeThr false w
  else if off = 0x328 then s.writeThr true w
  else if off = 0x400 then s.putFw w
  else s.putReg off 0 w

/-- Registers of the fabric block. -/
def State.putFab (s : State) (off : Nat) (w : Word) : State :=
  match bankOf off with
  | some b => s.putBank b off w
  | none =>
    if 0x1801000 ≤ off ∧ off < 0x1801C00 ∧ off % 0x100 = 0 then s.putPortCtl ((off - 0x1801000) / 0x100) w
    else if off = oEpoch then (let s1 := s.putReg off 0 w; if w.getLsbD 25 then s1.bankLoad else s1)
    else s.putReg off 0 w

/-- SHR_STAT.TORN is cleared only by the MSP; the write of another master is denied (R392, Table 9-17). -/
def State.putShr (s : State) (master off : Nat) (w : Word) : State :=
  if 0x1001000 ≤ off ∧ off < 0x1001200 ∧ off % 64 = 0x18 ∧ w.getLsbD 27 = true ∧ master ≠ mspMaster then
    s.deny 27 rightCfg master ((off - 0x1000000) / 4096)
  else s.putReg off 0 w

/-- Words of access-table entries below the fixed ones, and the drain (R392). -/
def State.putAclReg (s : State) (off : Nat) (w : Word) : State :=
  if off = 0x510000 then (if w.getLsbD 0 then s.setBit off 31 else s)
  else if off < 0x510000 then
    let k := (off - 0x500000) / 16
    if !aclWritable (k / 64) (k % 64) then s
    else if off % 16 = 0 then s.putAcl k w
    else { s with host := { s.host with aclShadow := mapIns s.host.aclShadow (4 * k + off % 16 / 4) w } }
  else s.putReg off 0 w

/-- A register write that has passed its checks. -/
def State.putAny (s : State) (master off : Nat) (w : Word) : State :=
  match (regBlock off).1 with
  | 0 => s.putGlb off w
  | 1 => if off = oWdt then s.putWdt w else s.putReg off 0 w
  | 2 => s.putCtxReg master off w
  | 4 => s.putAclReg off w
  | 5 => if off = oMuCtl then (s.putReg off 1 w).setQuiesce (w.getLsbD 0) else s.putReg off 0 w
  | 7 => s.putShr master off w
  | 8 => s.putMem off w
  | 9 => s.putFab off w
  | 10 => s.putCnt off w
  | 11 => s.putMon off w
  | 12 => s.putDie off w
  | _ => s.putReg off 0 w

/-- Host-to-firmware words, checked by the bank's own table, as fold die and word. -/
def mbxWordAt (off : Nat) : Option (Nat × Nat) :=
  if 0x400000 ≤ off ∧ off < 0x420000 ∧ off % 0x10000 < 0x80 then some ((off - 0x400000) / 0x10000, off % 0x10000 / 4) else none

/-- The context whose CTX_CTL an offset names. -/
def ctxCtlAt (off : Nat) : Option Nat :=
  if 0x200000 ≤ off ∧ off < 0x240000 ∧ off % 64 = 16 then some ((off - 0x200000) / 64) else none

/-- A write of a 32-bit word to a BAR0 offset by a master (R372). Nothing in the BAR0 of a virtual function takes writes (Table 11-2). -/
def State.writeReg (s : State) (master off : Nat) (w : Word) : State :=
  if off % 4 ≠ 0 ∨ 0x4000000 ≤ off ∨ masterClass master = .hostVf then s
  else match mbxWordAt off with
  | some fn => s.writeMbx master 0 fn.1 fn.2 w
  | none => match ctxCtlAt off with
    | some c => s.putCtxCtl master c w
    | none => s.guardedWrite master off fun t => t.putAny master off w

def execRegisterWrite (master off : Nat) (w : Word) (s : State) : Res := .next (s.writeReg master off w)

/-- A write to a register with staged fields (R534); a register without any is not this command's. -/
def execStagedRegisterWrite (master off : Nat) (w : Word) (s : State) : Res :=
  .next (if stagedMask off = 0 then s else s.writeReg master off w)

end Sys2Proof.Machine
end

