-- ==== Sys2Proof/Machine/MemSpace.lean ====
section
/-! DEFINITION. The module-local address space as masters outside the modelled units reach it: stacks, fold SRAM and the register space
(R339, R364), the pen window (R451), and the waits for a tag or for a stack (R362, R363, R366, R367). -/

namespace Sys2Proof.Machine

/-- The register space, laid out as BAR0, which shepherd cores and the MSP reach (R339): words of 4 bytes, or two of them, the lower address
first; another size, or an access that is not aligned, is unsupported and has no effect (R372). -/
def State.regSpace (s : State) (q : MemReq) (off : Nat) : State :=
  match s.memCheck q.master (if q.write.isSome then rightW else rightR) q.a q.n with
  | .ok =>
    if off % 4 ≠ 0 ∨ (q.n ≠ 4 ∧ q.n ≠ 8) then s
    else match q.write with
      | some bs =>
        let s1 := s.writeReg q.master off (BitVec.ofNat 32 (leAt bs 0 4))
        if q.n = 8 then s1.writeReg q.master (off + 4) (BitVec.ofNat 32 (leAt bs 4 4)) else s1
      | none =>
        let s1 := s.readReg q.master off
        if q.n = 8 then s1.readReg q.master (off + 4) else s1
  | c => s.refuse c (if q.write.isSome then rightW else rightR) q.master q.a

/-- The master has a pen window (R451). -/
def MemReq.hasPen (q : MemReq) : Bool :=
  match masterClass q.master with
  | .shepherd => true
  | .dma => true
  | _ => false

/-- A request as one of the module's own memory: a pen-window address of the module's own slot is one (R451). -/
def State.asLocal (s : State) (q : MemReq) : Option MemReq :=
  if !q.pen then some q
  else if Machine.fld q.a 41 40 = s.self % 4 then some { q with pen := false, a := q.a % 2 ^ 40 }
  else none

/-- A request finds no tag (R362): of its class on its fold die, or, for another module of the pen, of the fabric class. -/
def State.tagWait (s : State) (q : MemReq) : Bool :=
  match s.asLocal q with
  | some l => (match placeOf s.stripe l.a with | .regs _ => false | _ => !s.localTag l.master)
  | none => !s.fabTag (masterDie q.master)

/-- Carry out a request whose tag and stacks are there. -/
def State.serveReq (s : State) (q : MemReq) : State :=
  if q.pen && !q.hasPen then s
  else match s.asLocal q with
    | some l => (match placeOf s.stripe l.a with | .regs off => s.regSpace l off | _ => s.memRequest l.master l.a l.n l.write)
    | none => s.penAccess q.master (q.a % 2 ^ 42) q.n q.write

/-- A request must wait: behind an earlier one of its master, for a tag, or for a stack that does not answer (R362, R366, R367; log entry
144). -/
def State.reqWaits (s : State) (q : MemReq) : Bool :=
  s.mem.waiting.any (·.master = q.master) || s.tagWait q || (match s.asLocal q with | some l => !s.reachable l.a l.n | none => false)

def State.setWaiting (s : State) (qs : List MemReq) : State := { s with mem := { s.mem with waiting := qs } }

/-- A request is served, or joins those that wait; a cycle without a tag counts as a tag stall. -/
def State.submit (s : State) (q : MemReq) : State :=
  if !s.reqWaits q then s.serveReq q
  else
    let s1 := s.setWaiting (s.mem.waiting ++ [q])
    if s.tagWait q then s1.eventF (masterDie q.master) 0x48 0 1 else s1

/-- Requests that wait are tried again, oldest first. -/
def State.retryWaiting (s : State) : State := s.mem.waiting.foldl State.submit (s.setWaiting [])

/-- A memory request of a master; with `pen` set the address is one of the pen window. -/
def execMemoryRequest (pen : Bool) (master a n : Nat) (write : Bool) (data : List Byte) (s : State) : Res :=
  .next (s.submit { pen := pen, master := master, a := a, n := if write then data.length else n,
                    write := if write then some data else none })

end Sys2Proof.Machine
end

