-- ==== Sys2Proof/Machine/Commit.lean ====
section
/-! DEFINITION. Staged configuration through a ring: CONFIG_STAGE (R535) and CONFIG_COMMIT (R536, R537). -/

namespace Sys2Proof.Machine

def oCfgEpoch : Nat := 0x500
def oCfgStat : Nat := 0x504

/-- The epoch a CONFIG_STAGE or CONFIG_COMMIT must carry. -/
def State.nextEpoch (s : State) : Nat := ((s.reg oCfgEpoch).toNat + 1) % 2 ^ 32

def chkStage (d : Desc) : Nat :=
  if 4096 < d.u16 16 || d.u64 24 % 16 != 0 || !localOrHost (d.u64 24) then stInvalidField else 0

/-- An entry of the list: offset, value and mask (Table 16-11). -/
def stageEntry (bs : List Byte) (i : Nat) : Nat × Word × Word :=
  (leAt bs (16 * i) 4 % 2 ^ 26, BitVec.ofNat 32 (leAt bs (16 * i + 4) 4), BitVec.ofNat 32 (leAt bs (16 * i + 8) 4))

def stageValid (e : Nat × Word × Word) : Bool := e.1 % 4 = 0 && e.2.2 &&& ~~~(stagedMask e.1) = 0

/-- The master holds the CFG right on the page of every entry; a refusal takes the effects of a denial. -/
def State.stageRights (s : State) (master : Nat) : List (Nat × Word × Word) → Bool × State
  | [] => (true, s)
  | e :: rest =>
    let r := s.regCheck rightCfg master e.1
    if r.1 then r.2.stageRights master rest else r

/-- Entries applied in list order. -/
def State.stageAll (s : State) (es : List (Nat × Word × Word)) : State := es.foldl (fun t e => t.stage e.1 e.2.2 e.2.1) s

/-- CONFIG_STAGE: every entry is checked before any shadow changes; DISCARD first drops every shadow (R535). -/
def State.configStage (s : State) (c : Nat) (d : Desc) : State :=
  let n := d.u16 16
  let r := if n = 0 then (.inr [], s) else s.readRecord (s.ctxWho c) (d.u64 24) (16 * n)
  if chkStage d != 0 || d.epoch != s.nextEpoch then s.complete c d.ptr stInvalidField
  else match r.1 with
  | .inl st => r.2.complete c d.ptr st
  | .inr bs =>
    let es := (List.range n).map (stageEntry bs)
    if !es.all stageValid then r.2.complete c d.ptr stInvalidField
    else
      let q := r.2.stageRights (s.ctxMaster c) es
      if !q.1 then q.2.complete c d.ptr stDenied
      else
        let s1 := if d.u8 18 % 2 = 1 then { q.2 with shadow := [] } else q.2
        (s1.stageAll es).complete c d.ptr stSuccess

def execConfigStage (c n : Nat) (s : State) : Res := onUnit (ctxOk c) (s.runDesc c n 0x50 fun d t => t.configStage c d)

/-- The staged fields of a register, by the base of its row, as highest and lowest bit. -/
def stagedFields (base : Nat) : List (Nat × Nat) :=
  match base with
  | 0x100 => [(31, 20), (19, 14), (7, 0)]
  | 0x200 => [(15, 0)]
  | 0x204 => [(31, 28), (27, 24), (23, 8), (7, 0)]
  | 0x208 => [(31, 20), (19, 10), (9, 0)]
  | 0x310 => [(31, 30), (29, 14), (13, 0)]
  | 0x1000010 => [(1, 1)]
  | 0x1001000 => [(31, 7)]
  | 0x1001008 => [(12, 0)]
  | 0x100100C => [(31, 6)]
  | 0x1001014 => [(27, 0)]
  | 0x1400020 => [(31, 20), (19, 8), (7, 0)]
  | 0x1800004 => [(31, 31), (29, 14), (13, 6), (5, 0)]
  | 0x1800008 => [(23, 16), (15, 8), (7, 0)]
  | 0x1801008 => [(31, 31), (30, 30), (25, 18), (17, 12), (3, 0)]
  | 0x1802000 => [(31, 16), (15, 8), (7, 0)]
  | 0x1802004 => [(30, 30), (15, 0)]
  | 0x180200C => [(29, 24), (21, 16), (13, 8), (5, 0)]
  | 0x1802010 => [(31, 31), (30, 30), (29, 29), (15, 0)]
  | 0x2000010 => [(10, 0)]
  | 0x2000200 => [(24, 24), (23, 20), (16, 16), (8, 0)]
  | 0x2000204 => [(28, 24), (14, 12), (11, 9), (8, 6), (5, 3), (2, 0)]
  | 0x2000208 => [(29, 23), (22, 15), (14, 0)]
  | 0x200020C => [(23, 0)]
  | 0x2000300 => [(29, 29), (28, 28), (27, 20), (19, 8), (7, 0)]
  | 0x2000400 => [(18, 16)]
  | 0x2100000 => [(15, 15), (11, 10), (9, 9), (8, 8), (2, 0)]
  | 0x2130000 => [(31, 31), (28, 16)]
  | _ => [(31, 0)]

/-- Fields of a register whose value differs between two words. -/
def fieldsChanged (off : Nat) (a b : Word) : Nat :=
  match regRow off with
  | some r => ((stagedFields r.base).filter fun f => wfld a f.1 f.2 != wfld b f.1 f.2).length
  | none => 0

/-- Tags that a value of MEM_TAG_CTL reserves (R363). -/
def tagSum (w : Word) : Nat := wfld w 31 20 + 4 * wfld w 19 8 + wfld w 7 0

/-- One shadow becomes the value in force; a tag reservation above 4,096 does not (R363). Counts the fields changed. -/
def State.commitOne (a : Nat × State) (kv : Nat × Word) : Nat × State :=
  let s := a.2
  let m := stagedMask kv.1
  let new := (s.reg kv.1 &&& ~~~m) ||| (kv.2 &&& m)
  let s1 := s.setReg kv.1 new
  let n := a.1 + fieldsChanged kv.1 (s.reg kv.1) new
  if kv.1 = 0x1400020 ∨ kv.1 = 0x1400024 then
    if 4096 < tagSum new then (a.1, s.setBit (kv.1 + 8) 31) else (n, s1.clrBit (kv.1 + 8) 31)
  else if seedWord kv.1 then (n, s1.setBit 0x140 16)
  else (n, s1)

/-- Every shadow becomes the value in force in one cycle (R536, item 2). -/
def State.commitShadows (s : State) : Nat × State :=
  s.shadow.foldl State.commitOne (0, { s with shadow := [] })

/-- The actions that follow a commit (R536, item 3). The fabric epoch takes effect before the group entries of its bank are judged. -/
def State.commitActions (s : State) : State :=
  let s1 := (List.range 8).foldl (fun (t : State) k => t.askWorn k) s.commitSpans
  s1.epochCommit.groupsCommit.portsCommit

/-- The result record: E, the fields changed, the refusals, and a reserved word. -/
def State.commitRecord (s : State) (e n : Nat) : List Byte :=
  let shr := (List.range 8).any fun k => s.bit (0x1001018 + 64 * k) 23
  let tag := s.bit 0x1400028 31 || s.bit 0x140002C 31
  leBytes 4 e ++ leBytes 4 n ++ leBytes 4 (b2n shr + 2 * b2n tag + 4 * b2n (s.bit oFabStat 31)) ++ leBytes 4 0

def chkCommit (d : Desc) : Nat := if !localOrHost (d.u64 16) then stInvalidField else 0

/-- A LOAD goes first: none is pending, and none runs but a restart of the MSP (R537, Table 16-12). -/
def State.loadFirst (s : State) : Bool :=
  match s.boot.load with
  | some l => l.type != 1
  | none => false

/-- A committed SENSOR that names a faulty channel is substituted at once, and each field's substitution counted (R156). -/
def State.sensorsCommit (old s : State) : State :=
  (List.range 8).foldl (fun (t : State) p =>
    let moved (f : Nat) : Bool :=
      let a := s.fld (pst p + 0x400 + 4 * f) 18 16
      a != old.fld (pst p + 0x400 + 4 * f) 18 16 && s.fieldSensor p f != a
    t.event p 0x123 0 ((List.range 64).filter moved).length) s

/-- The commit itself, at a step boundary. -/
def State.commitNow (s : State) (c : Nat) (d : Desc) : State :=
  let r := s.commitShadows
  let s1 := (s.sensorsCommit (r.2.setReg oCfgEpoch (BitVec.ofNat 32 d.epoch))).commitActions
  let s2 := (({ s1 with boot := { s1.boot with commitWait := none } } : State).clrBit oCfgStat 31)
  if d.u64 16 = 0 then s2.complete c d.ptr stSuccess
  else
    let q := s2.store (s2.ctxWho c) (daddr (d.u64 16)) (s2.commitRecord d.epoch r.1)
    q.2.complete c d.ptr q.1.status

/-- CONFIG_COMMIT (R536): it waits for a step boundary and sets WAIT; a later one with the same E is invalid. -/
def State.configCommit (s : State) (c : Nat) (d : Desc) : State :=
  let other := match s.boot.commitWait with
    | some w => w != (c, d.ptr)
    | none => false
  if chkCommit d != 0 || d.epoch != s.nextEpoch || other then s.complete c d.ptr stInvalidField
  else if s.boundary16 && !s.loadFirst then s.commitNow c d
  else ({ s with boot := { s.boot with commitWait := some (c, d.ptr) } } : State).setBit oCfgStat 31

def execConfigCommit (c n : Nat) (s : State) : Res := onUnit (ctxOk c) (s.runDesc c n 0x51 fun d t => t.configCommit c d)

end Sys2Proof.Machine
end

