-- ==== Sys2Proof/Machine/Mishap.lean ====
section
/-! DEFINITION. What goes wrong of itself: erroneous symbols and bits of memories (R345, R347), channels that fail (R358, R361), errors in the
memories of drover engines (R15, R247, R248), and permanent faults of the bridge, ports and shearer units (R19, R479). The spec says
what each comes to and not when it comes: in a cycle a free value brings one of them, or none (log entry 170). -/

namespace Sys2Proof.Machine

/-- Bits of one symbol, or one word, of a codeword turn over. -/
def Errs.flip (es : Errs) (i mask : Nat) : Errs := mapSet 0 es i (mapGet 0 es i ^^^ mask)

/-- A symbol of a stack line goes wrong, in the logical channel that a physical channel serves or in a channel that serves none (R345). -/
def State.symbolError (s : State) (k p line sym mask : Nat) : State :=
  match s.channelServed k p with
  | some c =>
    let at_ : Place := .stack k (stackOffset c (64 * line))
    let key := (2 ^ 37 * k + stackOffset c (64 * line)) / 64
    { s with mem := { s.mem with errs := mapSet (s.errDefault at_) s.mem.errs key ((s.errsIn at_).flip sym mask) } }
  | none => s.setSpare k p line ((s.spareErrs k p line).flip sym mask)

/-- A bit of a fold SRAM line turns over: of word i, or of the poison bit at 8 (R347). -/
def State.sramError (s : State) (f line i bit : Nat) : State :=
  let a := sramBase f + 64 * line
  s.setErrs a ((s.errsIn (placeOf s.stripe a)).flip i (if i = 8 then 1 else 2 ^ bit))

/-- A channel fails its pin test or link training, or no longer answers at all: it is retired (R358, R361). -/
def State.channelFails (s : State) (k p : Nat) (dead : Bool) : State :=
  (if dead then { s with mem := { s.mem with silent := mapSet false s.mem.silent (32 * k + p) true } } else s).orderRetire k p

/-- An uncorrectable error hits a word of an engine's instruction memory (R247, code 10). -/
def State.imemError (s : State) (e w : Nat) : State :=
  s.updDrv e fun d => if d.ibad.contains w then d else { d with ibad := w :: d.ibad }

/-- An uncorrectable error hits a line of an engine's local data memory (R248). -/
def State.localError (s : State) (e line : Nat) : State :=
  s.updDrv e fun d => if d.bad.contains (64 * line) then d else { d with bad := 64 * line :: d.bad }

/-- What a free value brings: its lowest hexadecimal digit names it, and the rest says where. -/
def State.mishapOf (s : State) (v : Nat) : State :=
  let a := v / 16
  match v % 16 with
  | 0 => s.symbolError (a % 8) (a / 8 % 32) (a / 2 ^ 8 % channelLines) (a / 2 ^ 34 % 72) (1 + a / 2 ^ 41 % 255)
  | 1 => s.sramError (a % 2) (a / 2 % (192 * 2 ^ 20 / 64)) (a / 2 ^ 24 % 9) (a / 2 ^ 28 % 72)
  | 2 => s.channelFails (a % 8) (a / 8 % 32) false
  | 3 => s.channelFails (a % 8) (a / 8 % 32) true
  | 4 => s.imemError (a % 40) (a / 64 % 16384)
  | 5 => s.localError (a % 40) (a / 64 % (localSize / 64))
  | 6 => s.drvFault 9 (a % 40) 1
  | 7 => s.drain true
  | 8 => s.drain false
  | _ => s

def State.mishap (s : State) : State :=
  let v := s.takeFree
  v.2.mishapOf v.1

end Sys2Proof.Machine
end

