-- ==== Sys2Proof/Machine/Tick.lean ====
section
/-! DEFINITION. A cycle of SVC_CLK, which passes when no command waits: the timestamp with its slew (R464, R506), the watchdog's count
(R511), the counters of clock cycles and levels (R539 to R541, R549), channel migration (R359), the requests that wait (R362), what goes wrong
of itself, and what the MSP writes of the persistent data (R529). -/

namespace Sys2Proof.Machine

/-- 5 ns ticks in a cycle of SVC_CLK (R506). -/
def State.cycleTicks (s : State) : Nat := if s.onBackup then 8 else 1

/-- The timestamp of a cycle: an offset still to remove moves it by one tick in each 10,000, 100 ppm, never backwards (R464). -/
def State.tickTime (s : State) : State :=
  let n := s.cycleTicks
  let due := decide (10000 ≤ s.fab.slewAt + n) && s.fab.slew != 0
  let by_ : Int := if !due then 0 else if 0 < s.fab.slew then 1 else -1
  let at_ := if due then s.fab.slewAt + n - 10000 else min (s.fab.slewAt + n) 10000
  let s1 := s.updFab fun f => { f with slew := f.slew - by_, slewAt := at_ }
  { s1 with ts := (s.ts + ((n : Int) + by_).toNat) % 2 ^ 64 }

/-- The watchdog counts while it is on. -/
def State.tickWdt (s : State) : State := if s.bit oWdt 30 then s.updPwr fun q => { q with wdt := q.wdt + s.cycleTicks } else s

/-- The level of a source of a die for an instance, 0xFF for all of them; temperatures then give the highest (R540, Table 17-2). -/
def State.level (s : State) (d src q : Nat) : Nat :=
  let insts (n : Nat) : List Nat := if q = 0xFF then List.range n else [q]
  match src with
  | 0x29 => ((insts 20).map fun i => (s.drv (20 * (d - 8) + i)).aq.length).foldl (· + ·) 0
  | 0x49 => s.tagsHeld (d - 8)
  | 0x79 => ((insts 4).map fun c => s.fld (monLast d c) 11 0).foldl max 0
  | 0x106 => s.activeTiles d
  | 0x126 => ((insts 8).map fun c => s.fld (monLast d c) 11 0).foldl max 0
  | _ => 0

/-- A counter of a level source in one cycle (Table 17-1). -/
def State.sampleLevel (s : State) (d i : Nat) : State :=
  let src := s.fld (cntCfg d i) 9 0
  let q := s.fld (cntCfg d i) 23 16
  let isLevel := match sourceOf src with
    | some r => r.level && (r.inst = 0 || q = 0xFF || decide (q < r.inst))
    | none => false
  if !isLevel || !s.cntTakes d i src q then s
  else
    let v := s.level d src q
    let thr := 2 ^ 32 * (s.reg (cntCfg d i + 8)).toNat + (s.reg (cntCfg d i + 4)).toNat
    match s.fld (cntCfg d i) 30 29 with
    | 0 => s.cntAdd d i v
    | 1 => if max thr 1 ≤ v then s.cntAdd d i 1 else s
    | _ =>
      let k := 64 * d + i
      let up := decide (thr ≤ v)
      let s1 := if up && !mapGet false s.cnt.above k then s.cntAdd d i 1 else s
      { s1 with cnt := { s1.cnt with above := mapSet false s1.cnt.above k up } }

/-- Counters of a die in one cycle; those of pasture dies stop with ARRAY_CLK (R549). -/
def State.tickDie (s : State) (d : Nat) : State :=
  if d < 8 && s.onBackup then s
  else
    let s1 := if d < 8 then s else s.event d 1 0 1
    (List.range (cntCount d)).foldl (fun (t : State) i => t.sampleLevel d i) s1

/-- A request that left with a tag and waits at a port for credits counts as a tag stall in every cycle (R442). -/
def State.stallPort (s : State) (p : Nat) : State :=
  let n := ((s.lport p).sendq.filter fun q => [0, 1, 4].contains (pktOp q) && pktSrc q = s.self).length
  s.eventF (portDie p) 0x48 0 n

/-- The ports in a cycle: packets at a port that takes them no more are routed again (R438). -/
def State.tickPorts (s : State) : State := (List.range 12).foldl (fun t p => (t.reroute p).stallPort p) s

/-- Gated cycles at the level in force (R501): of the 16 cycles of CORE_CLK in two cycles of SVC_CLK, each of the 40 matrix units, 20 drover
engines and 4 shearer units of a fold die misses as many as the level. -/
def State.tickGate (s : State) : State :=
  if s.onBackup || s.failSafe || s.ts % 2 = 0 then s
  else [0, 1].foldl (fun t f => t.eventF f 0x02 0 (64 * min (s.fld oPwrStat 31 28) 15)) s

/-- The snapshot buffer has written its record (R547). -/
def State.tickRing (s : State) : State := { s with cnt := { s.cnt with ringBusy := false } }

/-- A cycle passes. Without VSTBY, and while module reset is in force, nothing counts. -/
def State.tick (s : State) : State :=
  if !s.pwr.standby || s.bootState = 0 then s
  else ((List.range 10).foldl (fun (t : State) d => t.tickDie d) s).tickRing.tickGate.tickWdt.tickTime.mishap.migrateTick.retryWaiting.tickPorts.flashEnd.pdTick

end Sys2Proof.Machine
end

