-- ==== Sys2Proof/Machine/Start.lean ====
section
/-! DEFINITION. The descriptor scheduler (R379): the waits of a descriptor (R265, R270, R286, R385), its skips and chains (R287,
R385), and the checks it meets before it starts (R260 to R264, R300, R301, R386). -/

namespace Sys2Proof.Machine

/-- Groups of opcodes (R264). -/
def stepOp (op : Nat) : Bool := 0x11 ≤ op && op ≤ 0x17
def updateOp (op : Nat) : Bool := (0x28 ≤ op && op ≤ 0x2B) || op = 0x30
def collOp (op : Nat) : Bool := 0x40 ≤ op && op ≤ 0x42
def levelOp (op : Nat) : Bool := (0x10 ≤ op && op ≤ 0x18) || updateOp op || collOp op

/-- Header bytes 4 to 7 hold a dependency (Table 11-6). -/
def depOp (op : Nat) : Bool := !(0x10 ≤ op && op ≤ 0x18) && op != 0x50 && op != 0x51

/-- The step, or the evaluation pass, of a context is open. -/
def State.stepOf (s : State) (c : Nat) : Bool := s.trn.opened && s.trn.ctx = c
def State.passOf (s : State) (c : Nat) : Bool := s.trn.evalOpen && s.trn.evalCtx = c

/-- RECOMP of LAYER_FWD and ATTN_FWD (Tables 8-4 and 8-6). -/
def Desc.recomp (d : Desc) : Bool := (d.op = 0x11 && (d.u8 40).testBit 0) || (d.op = 0x13 && (d.u8 31).testBit 0)

/-- Step-level descriptors that a phase allows (Table 8-1). -/
def phaseAllows (ph : Nat) (d : Desc) : Bool :=
  let fwd := d.op = 0x11 || d.op = 0x13
  match ph with
  | 1 => (fwd && !d.recomp) || d.op = 0x16 || d.op = 0x15
  | 3 => (fwd && d.recomp) || d.op = 0x12 || d.op = 0x14 || d.op = 0x16 || collOp d.op || d.op = 0x28 || d.op = 0x17
  | 4 => d.op = 0x28 || d.op = 0x16 || d.op = 0x17
  | 6 => updateOp d.op && d.op != 0x28
  | 7 => d.op = 0x30
  | _ => false

/-- Product sequence numbers that a descriptor takes (R277). -/
def Desc.prods (d : Desc) : Nat :=
  match d.op with
  | 0x11 => 1
  | 0x12 => 2
  | 0x13 | 0x14 => d.u32 24
  | _ => 0

/-- Earlier descriptors of the step that orderings count (R264). -/
def State.ordered (s : State) (c : Nat) (e : Desc) : Bool := e.step && !s.awaitsClose c e

/-- A STEP_BEGIN or EVAL has started in some context and has not completed. -/
def State.opening (s : State) : Bool :=
  s.host.ctxs.any fun kv => kv.2.infl.any fun e => (e.op = 0x10 || e.op = 0x18) && e.started && e.held.isNone

/-- A CONFIG_COMMIT waits (R536). -/
def State.commitWaits (s : State) : Bool := s.boot.commitWait.isSome

/-- A LOAD is pending or runs (R532). -/
def State.loadWaits (s : State) : Bool := s.loadFirst || s.bit oFwStat 30

/-- The waits of a descriptor's header (R385): a fence, a dependency, and the chain of the descriptor before it. -/
def State.headerWaits (s : State) (c : Nat) (d : Desc) (earlier : List Desc) : Bool :=
  ((d.fenceBefore || d.op = 0x03) && earlier != []) ||
  (depOp d.op && d.epoch.testBit 31 && earlier.any fun e => e.tag = d.epoch % 65536 && !e.passed) ||
  (match earlier.getLast? with
   | some e => e.chain && (e.ptr + 1) % (2 * s.sqSize c) = d.ptr
   | none => false)

/-- The orderings of the step and of evaluation passes (R265, R270, R286, R300, R483, R532, R536). -/
def State.stepWaits (s : State) (c : Nat) (d : Desc) (earlier : List Desc) : Bool :=
  let first := d.op = 0x28 && s.stepOf c && s.phase = 3
  earlier.any (fun e => e.op = 0x10 || e.op = 0x16 || e.op = 0x18) ||
  (s.stepOf c && earlier.any fun e => e.step && e.op = 0x15) ||
  (s.stepOf c && d.op = 0x15 && earlier.any fun e => e.step && (e.op = 0x11 || e.op = 0x13)) ||
  (s.stepOf c && (d.op = 0x17 || first) && earlier.any (s.ordered c)) ||
  (first && s.role = 1 && s.flt.spareReady != some s.stepNo && !s.flt.spareAbsent) ||
  (s.stepOf c && updateOp d.op && d.op != 0x28 && s.phase = 5)

/-- The waits of STEP_BEGIN and of an EVAL that opens a pass. -/
def State.openWaits (s : State) (d : Desc) : Bool :=
  if d.op = 0x10 then s.opening || !s.mayBegin || s.commitWaits || s.loadWaits
  else if d.op = 0x18 && d.u8 16 = 0 && !s.trn.evalOpen then s.opening || s.trn.opened || s.commitWaits || s.loadFirst
  else false

/-- The first descriptor of a context that has not started, which alone may start next (R265). -/
def Ctx.front (x : Ctx) : Option Desc := x.infl.find? fun d => !d.started && d.held.isNone

/-- A context's descriptor whose ordering waits are met, the opening of a step or pass aside. -/
def State.inOrder (s : State) (c : Nat) : Option Desc :=
  let x := s.ctx c
  if x.state != .run then none
  else match x.front with
  | some d =>
    let earlier := x.infl.takeWhile (·.ptr != d.ptr)
    if s.headerWaits c d earlier || s.stepWaits c d earlier then none else some d
  | none => none

/-- A descriptor that its chain or a branch completes without a start waits for no opening. -/
def State.unstarted (s : State) (c : Nat) (d : Desc) : Bool :=
  let x := s.ctx c
  x.aborts.contains d.ptr || (x.skip != 0 && !(d.op = 0x10 || d.op = 0x17 || d.op = 0x18))

def State.candidate (s : State) (c : Nat) : Option Desc :=
  match s.inOrder c with
  | some d => if !s.unstarted c d && s.openWaits d then none else some d
  | none => none

/-- Contexts with a descriptor ready to start, in ascending order. -/
def State.candidates (s : State) : List Nat :=
  if !s.ready || s.failSafe || (match s.boot.load with | some l => l.type = 3 && l.running | none => false) then []
  else (s.host.ctxs.map (·.1)).filter fun c => (s.candidate c).isSome

/-- The winner: the highest rank; ties by the rank's round-robin pointer (R379). -/
def State.chosen (s : State) : Option Nat :=
  let cs := s.candidates
  let rank (c : Nat) : Nat := s.ctxCtl c 30 28
  let top := (cs.map rank).foldl max 0
  let ties := cs.filter fun c => rank c = top
  let at_ := mapGet 0 s.host.rr top
  match ties.find? fun c => at_ ≤ c with
  | some c => some c
  | none => ties.head?

/-- A committed step whose descriptors have completed closes when a STEP_BEGIN is processed, also one that then waits for a
commit or a LOAD (R263, R532, R536). -/
def State.closeDone (s : State) : State :=
  let next (c : Nat) : Bool := match s.inOrder c with | some d => d.op = 0x10 && !s.unstarted c d | none => false
  if s.trn.opened && s.mayBegin && (s.commitWaits || s.loadWaits) && (s.host.ctxs.map (·.1)).any next then s.closeStep else s

/-- Item 3 of R386: the phase and the step number; a descriptor of chapter 9 outside a step (R331). -/
def State.phaseStatus (s : State) (c : Nat) (d : Desc) : Nat :=
  if d.op = 0x10 then (if s.stepMatches d then 0 else stMismatch)
  else if d.op = 0x18 then
    (if s.trn.evalOpen then (if s.trn.evalCtx != c || d.u8 16 = 0 then stPhase else 0)
     else if d.u8 16 = 1 then stPhase else 0)
  else if s.stepOf c then
    if stepOp d.op && d.epoch != s.stepNo then stMismatch
    else if !levelOp d.op then 0
    else if s.role = 1 && 0x11 ≤ d.op && d.op ≤ 0x15 then stPhase
    else if phaseAllows s.phase d then 0 else stPhase
  else if s.passOf c then
    (if !levelOp d.op || d.op = 0x15 || d.op = 0x16 || ((d.op = 0x11 || d.op = 0x13) && !d.recomp) then 0 else stPhase)
  else if stepOp d.op then stPhase
  else if updateOp d.op && d.op != 0x28 && s.trn.voidCtx = some c then stNotCommitted
  else if 0x29 ≤ d.op && d.op ≤ 0x2B then stPhase
  else 0

/-- Item 4 of R386: a descriptor's own fields. -/
def fieldStatus (d : Desc) : Nat :=
  match d.op with
  | 0x01 => chkCopy d
  | 0x02 => chkFill d
  | 0x03 => chkFence d
  | 0x04 => chkPost d
  | 0x05 => chkSnapshot d
  | 0x10 => chkStepBegin d
  | 0x11 => chkLayerFwd d
  | 0x12 => chkLayerBwd d
  | 0x13 | 0x14 => chkAttn d
  | 0x16 => chkBranch d
  | 0x17 => chkStepEnd d
  | 0x18 => if 1 < d.u8 16 then stInvalidField else 0
  | 0x20 => chkVecKernel d
  | 0x28 => chkUpdateNorm d
  | 0x29 => chkUpdateApply d
  | 0x2A | 0x2B => chkPrecond d
  | 0x30 => chkProgramFlush d
  | 0x31 => chkProgramDirect d
  | 0x32 => chkColumnRescale d
  | 0x38 => chkMuster d
  | 0x39 => chkTileTest d
  | 0x40 | 0x41 | 0x42 => chkColl d
  | 0x48 | 0x49 | 0x4A => chkRemote d
  | 0x50 => chkStage d
  | 0x51 => chkCommit d
  | _ => 0

/-- Further checks of the descriptors whose start moves the phase. -/
def State.ownCheck (s : State) (c : Nat) (d : Desc) : Nat × State :=
  match d.op with
  | 0x15 => (if s.residentOn (s.lossEngines d) (d.u32 24) then stSuccess else stNotResident, s)
  | 0x28 => s.normCheck c d
  | 0x30 => s.flushCheck c d
  | _ => (stSuccess, s)

/-- The checks of a descriptor in the order of R386; success where it may start. -/
def State.startStatus (s : State) (c : Nat) (d : Desc) : Nat × State :=
  if d.b1 / 16 != 1 then (stBadVersion, s)
  else if !opcodeListed d.op then (stUnknownOpcode, s)
  else
    let ph := s.phaseStatus c d
    if ph != 0 then (ph, s)
    else if fieldStatus d != 0 then (fieldStatus d, s)
    else s.ownCheck c d

/-- The phase a start enters (Table 8-1); a feeder's first UPDATE_NORM sends the ready notice (R483). -/
def State.enterPhase (s : State) (c : Nat) (d : Desc) : State :=
  if !s.stepOf c then s
  else match d.op with
  | 0x15 => s.setPhase 2
  | 0x17 => (s.setPhase 5).setStepState 2
  | 0x28 =>
    if s.phase != 3 then s
    else if s.role = 2 then (s.setPhase 4).sendControl 5 s.pairPeer s.pairGroup s.stepNo []
    else s.setPhase 4
  | 0x30 => s.setPhase 7
  | _ => s

/-- The descriptor's place in the step or pass, with its product numbers (R264, R277). -/
def State.takePlace (s : State) (c : Nat) (d : Desc) : State :=
  let opens := d.op = 0x10 || d.op = 0x18
  let inStep := s.stepOf c && !opens
  let inPass := s.passOf c && !opens
  let first := s.trn.prodNext
  let s1 := s.updDesc c d.ptr fun e => { e with step := inStep, pass := inPass, prod := first }
  if inStep || inPass then s1.updTrn fun t => { t with prodNext := t.prodNext + d.prods } else s1

/-- A descriptor's turn: it completes with the chain, with a branch, or with the status of a check, or it starts. -/
def State.startDesc (s : State) (c : Nat) (d : Desc) : State :=
  let s1 := s.takePlace c d
  let x := s1.ctx c
  if x.aborts.contains d.ptr then s1.complete c d.ptr stChainAborted
  else if s1.unstarted c d then (s1.setCtx c { x with skip := x.skip - 1 }).complete c d.ptr stSkipped
  else
    let s2 := if d.op = 0x10 || d.op = 0x17 || d.op = 0x18 then s1.setCtx c { x with skip := 0 } else s1
    let r := s2.startStatus c d
    if r.1 != stSuccess then r.2.complete c d.ptr r.1
    else (r.2.updDesc c d.ptr fun e => { e with started := true }).enterPhase c d

/-- One start of the scheduler (R379). A diagnostic opcode that a loaded image serves has no meaning in the spec (R9). -/
def execDescriptorStart (s : State) : Res :=
  let s0 := s.closeDone
  match s0.chosen with
  | none => .next s0
  | some c =>
    match s0.candidate c with
    | none => .next s0
    | some d =>
      let rank := s0.ctxCtl c 30 28
      let s1 := { s0 with host := { s0.host with rr := mapSet 0 s0.host.rr rank ((c + 1) % 4096) } }
      if diagOpcode d.op && s1.boot.diag && !s1.unstarted c d && d.b1 / 16 = 1 then .refused .diagnosticOpcode
      else .next (s1.startDesc c d)

end Sys2Proof.Machine
end

