-- ==== Sys2Proof/Machine/Dispatch.lean ====
section
/-! DEFINITION. The meaning of every command, one arm per constructor. -/

namespace Sys2Proof.Machine

def exec (i : Instr) (s : State) : Host.Outcome State Fault Refusal :=
  match i with
  | .nop c n => Sys2Proof.Machine.execNop c n s
  | .copy c n => Sys2Proof.Machine.execCopy c n s
  | .fill c n => Sys2Proof.Machine.execFill c n s
  | .fence c n => Sys2Proof.Machine.execFence c n s
  | .mailboxPost c n => Sys2Proof.Machine.execMailboxPost c n s
  | .counterSnapshot c n => Sys2Proof.Machine.execCounterSnapshot c n s
  | .reservedOpcode c n => Sys2Proof.Machine.execReservedOpcode c n s
  | .stepBegin c n => Sys2Proof.Machine.execStepBegin c n s
  | .layerFwd c n => Sys2Proof.Machine.execLayerFwd c n s
  | .layerBwd c n => Sys2Proof.Machine.execLayerBwd c n s
  | .attnFwd c n => Sys2Proof.Machine.execAttnFwd c n s
  | .attnBwd c n => Sys2Proof.Machine.execAttnBwd c n s
  | .loss c n => Sys2Proof.Machine.execLoss c n s
  | .branch c n => Sys2Proof.Machine.execBranch c n s
  | .stepEnd c n => Sys2Proof.Machine.execStepEnd c n s
  | .evalBegin c n => Sys2Proof.Machine.execEvalBegin c n s
  | .evalEnd c n => Sys2Proof.Machine.execEvalEnd c n s
  | .vecKernelLoad c n => Sys2Proof.Machine.execVecKernelLoad c n s
  | .vecKernelRun c n => Sys2Proof.Machine.execVecKernelRun c n s
  | .vecKernelUnload c n => Sys2Proof.Machine.execVecKernelUnload c n s
  | .vecKernelLoadRun c n => Sys2Proof.Machine.execVecKernelLoadRun c n s
  | .updateNorm c n => Sys2Proof.Machine.execUpdateNorm c n s
  | .updateApply c n => Sys2Proof.Machine.execUpdateApply c n s
  | .precondStat c n => Sys2Proof.Machine.execPrecondStat c n s
  | .precondRoot c n => Sys2Proof.Machine.execPrecondRoot c n s
  | .programFlush c n => Sys2Proof.Machine.execProgramFlush c n s
  | .programDirectLevels c n => Sys2Proof.Machine.execProgramDirectLevels c n s
  | .programDirectMaster c n => Sys2Proof.Machine.execProgramDirectMaster c n s
  | .columnRescaleAuto c n => Sys2Proof.Machine.execColumnRescaleAuto c n s
  | .columnRescaleExplicit c n => Sys2Proof.Machine.execColumnRescaleExplicit c n s
  | .columnRescaleRestore c n => Sys2Proof.Machine.execColumnRescaleRestore c n s
  | .muster c n => Sys2Proof.Machine.execMuster c n s
  | .tileTest c n => Sys2Proof.Machine.execTileTest c n s
  | .reduce c n => Sys2Proof.Machine.execReduce c n s
  | .gather c n => Sys2Proof.Machine.execGather c n s
  | .sync c n => Sys2Proof.Machine.execSync c n s
  | .fabricPut c n => Sys2Proof.Machine.execFabricPut c n s
  | .fabricGet c n => Sys2Proof.Machine.execFabricGet c n s
  | .fabricAtomicAdd c n => Sys2Proof.Machine.execFabricAtomicAdd c n s
  | .fabricAtomicSwap c n => Sys2Proof.Machine.execFabricAtomicSwap c n s
  | .fabricAtomicCas c n => Sys2Proof.Machine.execFabricAtomicCas c n s
  | .fabricAtomicAnd c n => Sys2Proof.Machine.execFabricAtomicAnd c n s
  | .fabricAtomicOr c n => Sys2Proof.Machine.execFabricAtomicOr c n s
  | .fabricAtomicUmax c n => Sys2Proof.Machine.execFabricAtomicUmax c n s
  | .configStage c n => Sys2Proof.Machine.execConfigStage c n s
  | .configCommit c n => Sys2Proof.Machine.execConfigCommit c n s
  | .descriptorStart => Sys2Proof.Machine.execDescriptorStart s
  | .descriptorFetch c => Sys2Proof.Machine.execDescriptorFetch c s
  | .doorbellTail link func page v => Sys2Proof.Machine.execDoorbellTail link func page v s
  | .doorbellHead link func page v => Sys2Proof.Machine.execDoorbellHead link func page v s
  | .irqGapExpiry c => Sys2Proof.Machine.execIrqGapExpiry c s
  | .msixUnmask link func vec => Sys2Proof.Machine.execMsixUnmask link func vec s
  | .contextEnable master c w => Sys2Proof.Machine.execContextEnable master c w s
  | .contextDisable master c w => Sys2Proof.Machine.execContextDisable master c w s
  | .contextRebind link c => Sys2Proof.Machine.execContextRebind link c s
  | .registerWrite master off w => Sys2Proof.Machine.execRegisterWrite master off w s
  | .stagedRegisterWrite master off w => Sys2Proof.Machine.execStagedRegisterWrite master off w s
  | .mailboxWrite master dir f n w => Sys2Proof.Machine.execMailboxWrite master dir f n w s
  | .mailboxRead master dir f n => Sys2Proof.Machine.execMailboxRead master dir f n s
  | .aclShadowWrite master t e word w => Sys2Proof.Machine.execAclShadowWrite master t e word w s
  | .aclEntryWrite master t e w => Sys2Proof.Machine.execAclEntryWrite master t e w s
  | .aclSync master => Sys2Proof.Machine.execAclSync master s
  | .aclDrainDone => Sys2Proof.Machine.execAclDrainDone s
  | .modReset master w => Sys2Proof.Machine.execModReset master w s
  | .resetNAssert => Sys2Proof.Machine.execResetNAssert s
  | .resetNRelease straps => Sys2Proof.Machine.execResetNRelease straps s
  | .mspBootDone => Sys2Proof.Machine.execMspBootDone s
  | .fwLoadDone bad failed => Sys2Proof.Machine.execFwLoadDone bad failed s
  | .memInitDone bad => Sys2Proof.Machine.execMemInitDone bad s
  | .arrayInitDone => Sys2Proof.Machine.execArrayInitDone s
  | .bootTimeout => Sys2Proof.Machine.execBootTimeout s
  | .linkDown link => Sys2Proof.Machine.execLinkDown link s
  | .linkUp link => Sys2Proof.Machine.execLinkUp link s
  | .hostLinkReset link perst => Sys2Proof.Machine.execHostLinkReset link perst s
  | .pfFlr link => Sys2Proof.Machine.execPfFlr link s
  | .vfFlr link vf => Sys2Proof.Machine.execVfFlr link vf s
  | .mvmStart p n => Sys2Proof.Machine.execMvmStart p n s
  | .mvmComplete p n err => Sys2Proof.Machine.execMvmComplete p n err s
  | .codePacket p => Sys2Proof.Machine.execCodePacket p s
  | .arrayResultDeliver p => Sys2Proof.Machine.execArrayResultDeliver p s
  | .dieQuiesce master p on => Sys2Proof.Machine.execDieQuiesce master p on s
  | .dieRun p failed => Sys2Proof.Machine.execDieRun p failed s
  | .dieUpdateEnd p => Sys2Proof.Machine.execDieUpdateEnd p s
  | .portArbitrate p => Sys2Proof.Machine.execPortArbitrate p s
  | .portPreempt p => Sys2Proof.Machine.execPortPreempt p s
  | .requestDrop p => Sys2Proof.Machine.execRequestDrop p s
  | .lockSet p n col kind => Sys2Proof.Machine.execLockSet p n col kind s
  | .lockClear p n => Sys2Proof.Machine.execLockClear p n s
  | .batchStart p => Sys2Proof.Machine.execBatchStart p s
  | .levelReadDone p n g => Sys2Proof.Machine.execLevelReadDone p n g s
  | .verifyReadDone p n g => Sys2Proof.Machine.execVerifyReadDone p n g s
  | .batchEnd p n => Sys2Proof.Machine.execBatchEnd p n s
  | .livenessRevoke p => Sys2Proof.Machine.execLivenessRevoke p s
  | .reconcileRead p g => Sys2Proof.Machine.execReconcileRead p g s
  | .reconcileDrain p => Sys2Proof.Machine.execReconcileDrain p s
  | .columnRescaleRun p bad retries => Sys2Proof.Machine.execColumnRescaleRun p bad retries s
  | .columnRemap p bad retries => Sys2Proof.Machine.execColumnRemap p bad retries s
  | .tileRetire p n cols bad => Sys2Proof.Machine.execTileRetire p n cols bad s
  | .referenceRestore p bad retries => Sys2Proof.Machine.execReferenceRestore p bad retries s
  | .vprogClose p => Sys2Proof.Machine.execVprogClose p s
  | .vprogOutOfWindow p => Sys2Proof.Machine.execVprogOutOfWindow p s
  | .vprogIdleOpen p => Sys2Proof.Machine.execVprogIdleOpen p s
  | .hkConversion d code => Sys2Proof.Machine.execHkConversion d code s
  | .hkLowPower d => Sys2Proof.Machine.execHkLowPower d s
  | .monLock master d w => Sys2Proof.Machine.execMonLock master d w s
  | .mirrorEnable master d w => Sys2Proof.Machine.execMirrorEnable master d w s
  | .musterDueTimer p f => Sys2Proof.Machine.execMusterDueTimer p f s
  | .driftTrackerUpdate p f => Sys2Proof.Machine.execDriftTrackerUpdate p f s
  | .musterStart p f => Sys2Proof.Machine.execMusterStart p f s
  | .musterForce p f => Sys2Proof.Machine.execMusterForce p f s
  | .musterComplete p n m => Sys2Proof.Machine.execMusterComplete p n m s
  | .musterRetry p n => Sys2Proof.Machine.execMusterRetry p n s
  | .gradualApplyStart p => Sys2Proof.Machine.execGradualApplyStart p s
  | .gradualApplyStep p n field => Sys2Proof.Machine.execGradualApplyStep p n field s
  | .testDue cls unit => Sys2Proof.Machine.execTestDue cls unit s
  | .testSliceStart cls unit => Sys2Proof.Machine.execTestSliceStart cls unit s
  | .testSliceEnd cls unit fail cols => Sys2Proof.Machine.execTestSliceEnd cls unit fail cols s
  | .testOverdue cls unit => Sys2Proof.Machine.execTestOverdue cls unit s
  | .chainAssign ix u dr => Sys2Proof.Machine.execChainAssign ix u dr s
  | .chainComplete u err => Sys2Proof.Machine.execChainComplete u err s
  | .tileDrain u => Sys2Proof.Machine.execTileDrain u s
  | .recountDone u err => Sys2Proof.Machine.execRecountDone u err s
  | .muQuiesce master on => Sys2Proof.Machine.execMuQuiesce master on s
  | .invocationStart e => Sys2Proof.Machine.execInvocationStart e s
  | .partialCombine e => Sys2Proof.Machine.execPartialCombine e s
  | .kernelWatchdog e => Sys2Proof.Machine.execKernelWatchdog e s
  | .holdWaitExpiry e => Sys2Proof.Machine.execHoldWaitExpiry e s
  | .copyEngineDone e ix => Sys2Proof.Machine.execCopyEngineDone e ix s
  | .summaryDrain e => Sys2Proof.Machine.execSummaryDrain e s
  | .drvQuiesce master on => Sys2Proof.Machine.execDrvQuiesce master on s
  | .varith e => Sys2Proof.Machine.execVarith e s
  | .vfma e => Sys2Proof.Machine.execVfma e s
  | .vun1 e => Sys2Proof.Machine.execVun1 e s
  | .vun2 e => Sys2Proof.Machine.execVun2 e s
  | .vcmp e => Sys2Proof.Machine.execVcmp e s
  | .vsel e => Sys2Proof.Machine.execVsel e s
  | .vsmxSexp e => Sys2Proof.Machine.execVsmxSexp e s
  | .vsmxSnorm e => Sys2Proof.Machine.execVsmxSnorm e s
  | .vcvt e => Sys2Proof.Machine.execVcvt e s
  | .vbcastBs e => Sys2Proof.Machine.execVbcastBs e s
  | .vbcastBl e => Sys2Proof.Machine.execVbcastBl e s
  | .vbcastIota e => Sys2Proof.Machine.execVbcastIota e s
  | .vpermIdx e => Sys2Proof.Machine.execVpermIdx e s
  | .vpermRot e => Sys2Proof.Machine.execVpermRot e s
  | .vred e => Sys2Proof.Machine.execVred e s
  | .pred e => Sys2Proof.Machine.execPred e s
  | .setvl e => Sys2Proof.Machine.execSetvl e s
  | .vld e => Sys2Proof.Machine.execVld e s
  | .vst e => Sys2Proof.Machine.execVst e s
  | .vldt e => Sys2Proof.Machine.execVldt e s
  | .vstt e => Sys2Proof.Machine.execVstt e s
  | .top e => Sys2Proof.Machine.execTop e s
  | .tred e => Sys2Proof.Machine.execTred e s
  | .xcopy e => Sys2Proof.Machine.execXcopy e s
  | .xwait e => Sys2Proof.Machine.execXwait e s
  | .wrOpen e => Sys2Proof.Machine.execWrOpen e s
  | .wrRow e => Sys2Proof.Machine.execWrRow e s
  | .wrClose e => Sys2Proof.Machine.execWrClose e s
  | .wrSatcnt e => Sys2Proof.Machine.execWrSatcnt e s
  | .wrUnfcnt e => Sys2Proof.Machine.execWrUnfcnt e s
  | .voutl e => Sys2Proof.Machine.execVoutl e s
  | .salu e => Sys2Proof.Machine.execSalu e s
  | .saddi e => Sys2Proof.Machine.execSaddi e s
  | .sli e => Sys2Proof.Machine.execSli e s
  | .sld e => Sys2Proof.Machine.execSld e s
  | .sst e => Sys2Proof.Machine.execSst e s
  | .slane e => Sys2Proof.Machine.execSlane e s
  | .scond e => Sys2Proof.Machine.execScond e s
  | .br e => Sys2Proof.Machine.execBr e s
  | .tqHdr e => Sys2Proof.Machine.execTqHdr e s
  | .tqHbind e => Sys2Proof.Machine.execTqHbind e s
  | .tqHdone e => Sys2Proof.Machine.execTqHdone e s
  | .tqHtake e => Sys2Proof.Machine.execTqHtake e s
  | .tqHrel e => Sys2Proof.Machine.execTqHrel e s
  | .spush e => Sys2Proof.Machine.execSpush e s
  | .ctlNop e => Sys2Proof.Machine.execCtlNop e s
  | .ctlEnd e => Sys2Proof.Machine.execCtlEnd e s
  | .ctlFault e => Sys2Proof.Machine.execCtlFault e s
  | .shrQuiesce master on => Sys2Proof.Machine.execShrQuiesce master on s
  | .memoryRequest pen master a n write data => Sys2Proof.Machine.execMemoryRequest pen master a n write data s
  | .ueConsumed => Sys2Proof.Machine.execUeConsumed s
  | .controlMemoryUe inSram f off master => Sys2Proof.Machine.execControlMemoryUe inSram f off master s
  | .scrubRead k p o => Sys2Proof.Machine.execScrubRead k p o s
  | .channelMigrate master w => Sys2Proof.Machine.execChannelMigrate master w s
  | .migrationDone k => Sys2Proof.Machine.execMigrationDone k s
  | .signalDetect p lanes => Sys2Proof.Machine.execSignalDetect p lanes s
  | .trainDone p peer => Sys2Proof.Machine.execTrainDone p peer s
  | .trainTimeout p ok peer => Sys2Proof.Machine.execTrainTimeout p ok peer s
  | .alignMask p mask skew => Sys2Proof.Machine.execAlignMask p mask skew s
  | .alignTimeout p => Sys2Proof.Machine.execAlignTimeout p s
  | .identitySend p => Sys2Proof.Machine.execIdentitySend p s
  | .identityRecord p r => Sys2Proof.Machine.execIdentityRecord p r s
  | .identTimeout p => Sys2Proof.Machine.execIdentTimeout p s
  | .bringupRetry p => Sys2Proof.Machine.execBringupRetry p s
  | .portRetrain master p => Sys2Proof.Machine.execPortRetrain master p s
  | .portLaneClr master p => Sys2Proof.Machine.execPortLaneClr master p s
  | .frameReceive p bs => Sys2Proof.Machine.execFrameReceive p bs s
  | .ackTimeout p => Sys2Proof.Machine.execAckTimeout p s
  | .recoverDone p mask => Sys2Proof.Machine.execRecoverDone p mask s
  | .recoverTimeout p => Sys2Proof.Machine.execRecoverTimeout p s
  | .skipSend p => Sys2Proof.Machine.execSkipSend p s
  | .lossOfSignal p lanes => Sys2Proof.Machine.execLossOfSignal p lanes s
  | .fenceReceive p => Sys2Proof.Machine.execFenceReceive p s
  | .pktWrite p => Sys2Proof.Machine.execPktWrite p s
  | .pktRead p => Sys2Proof.Machine.execPktRead p s
  | .pktReadData p => Sys2Proof.Machine.execPktReadData p s
  | .pktWriteAck p => Sys2Proof.Machine.execPktWriteAck p s
  | .pktAtomic p => Sys2Proof.Machine.execPktAtomic p s
  | .pktAtomicResult p => Sys2Proof.Machine.execPktAtomicResult p s
  | .pktDenial p => Sys2Proof.Machine.execPktDenial p s
  | .pktCollectiveData p => Sys2Proof.Machine.execPktCollectiveData p s
  | .pktCollectiveControl p => Sys2Proof.Machine.execPktCollectiveControl p s
  | .pktRingData p => Sys2Proof.Machine.execPktRingData p s
  | .pktTimeSync p delay => Sys2Proof.Machine.execPktTimeSync p delay s
  | .pktCredit p => Sys2Proof.Machine.execPktCredit p s
  | .pktManagement p => Sys2Proof.Machine.execPktManagement p s
  | .ringStepSend c n => Sys2Proof.Machine.execRingStepSend c n s
  | .remoteReqTimeout tag => Sys2Proof.Machine.execRemoteReqTimeout tag s
  | .collectiveTimeout c n => Sys2Proof.Machine.execCollectiveTimeout c n s
  | .bankLoad master => Sys2Proof.Machine.execBankLoad master s
  | .epochHoldExpiry b => Sys2Proof.Machine.execEpochHoldExpiry b s
  | .timeSyncSend => Sys2Proof.Machine.execTimeSyncSend s
  | .timeSyncLoss => Sys2Proof.Machine.execTimeSyncLoss s
  | .barrierResultTimeout => Sys2Proof.Machine.execBarrierResultTimeout s
  | .heldBarrierRepost => Sys2Proof.Machine.execHeldBarrierRepost s
  | .heldBarrierReply => Sys2Proof.Machine.execHeldBarrierReply s
  | .spareReadyNotice p => Sys2Proof.Machine.execSpareReadyNotice p s
  | .spareDecision p => Sys2Proof.Machine.execSpareDecision p s
  | .analogueCheck p pt leaves sums => Sys2Proof.Machine.execAnalogueCheck p pt leaves sums s
  | .thresholdWrite master win w => Sys2Proof.Machine.execThresholdWrite master win w s
  | .thresholdWindowExpiry row => Sys2Proof.Machine.execThresholdWindowExpiry row s
  | .faultRecordSend => Sys2Proof.Machine.execFaultRecordSend s
  | .faultRecordResend seq => Sys2Proof.Machine.execFaultRecordResend seq s
  | .faultRecordAck from_ payload => Sys2Proof.Machine.execFaultRecordAck from_ payload s
  | .rebuildSetLast master => Sys2Proof.Machine.execRebuildSetLast master s
  | .rebuildGo master => Sys2Proof.Machine.execRebuildGo master s
  | .rebuildComplete fails => Sys2Proof.Machine.execRebuildComplete fails s
  | .powerEnable vin => Sys2Proof.Machine.execPowerEnable vin s
  | .railSequenceStep => Sys2Proof.Machine.execRailSequenceStep s
  | .railSequenceTimeout bad => Sys2Proof.Machine.execRailSequenceTimeout bad s
  | .powerDisable => Sys2Proof.Machine.execPowerDisable s
  | .inputPowerLoss => Sys2Proof.Machine.execInputPowerLoss s
  | .powerSample vin ma => Sys2Proof.Machine.execPowerSample vin ma s
  | .capControlTick => Sys2Proof.Machine.execCapControlTick s
  | .capMiss => Sys2Proof.Machine.execCapMiss s
  | .powerCapWrite master w => Sys2Proof.Machine.execPowerCapWrite master w s
  | .thermalTick => Sys2Proof.Machine.execThermalTick s
  | .stackTempRead k t => Sys2Proof.Machine.execStackTempRead k t s
  | .clockLoss ref vco => Sys2Proof.Machine.execClockLoss ref vco s
  | .clockRestore => Sys2Proof.Machine.execClockRestore s
  | .failSafeExit => Sys2Proof.Machine.execFailSafeExit s
  | .watchdogKick master w => Sys2Proof.Machine.execWatchdogKick master w s
  | .watchdogExpiry => Sys2Proof.Machine.execWatchdogExpiry s
  | .codeHashCheck same => Sys2Proof.Machine.execCodeHashCheck same s
  | .fwWrite master type flashErr => Sys2Proof.Machine.execFwWrite master type flashErr s
  | .fwActivate master type => Sys2Proof.Machine.execFwActivate master type s
  | .fwCommit master type => Sys2Proof.Machine.execFwCommit master type s
  | .fwRevert master type => Sys2Proof.Machine.execFwRevert master type s
  | .fwLoad master type units => Sys2Proof.Machine.execFwLoad master type units s
  | .fwRaiseEpoch master key => Sys2Proof.Machine.execFwRaiseEpoch master key s
  | .liveLoadStart => Sys2Proof.Machine.execLiveLoadStart s
  | .liveLoadResume ok failed => Sys2Proof.Machine.execLiveLoadResume ok failed s
  | .counterLoad master d ix w => Sys2Proof.Machine.execCounterLoad master d ix w s
  | .counterReadLatch master d ix => Sys2Proof.Machine.execCounterReadLatch master d ix s
  | .energyReadLatch master => Sys2Proof.Machine.execEnergyReadLatch master s
  | .counterFreeze master freeze => Sys2Proof.Machine.execCounterFreeze master freeze s
  | .smbGlbId => Sys2Proof.Machine.execSmbGlbId s
  | .smbState => Sys2Proof.Machine.execSmbState s
  | .smbVin => Sys2Proof.Machine.execSmbVin s
  | .smbPinAvg => Sys2Proof.Machine.execSmbPinAvg s
  | .smbTemp => Sys2Proof.Machine.execSmbTemp s
  | .smbFsCause => Sys2Proof.Machine.execSmbFsCause s
  | .smbFltSeq => Sys2Proof.Machine.execSmbFltSeq s
  | .smbAlertStatus => Sys2Proof.Machine.execSmbAlertStatus s
  | .smbAlertClear v => Sys2Proof.Machine.execSmbAlertClear v s
  | .smbAlertMask w => Sys2Proof.Machine.execSmbAlertMask w s
  | .smbSerial => Sys2Proof.Machine.execSmbSerial s
  | .smbAlertResponse => Sys2Proof.Machine.execSmbAlertResponse s
  | .status req => Sys2Proof.Machine.execStatus req s
  | .fsExit req => Sys2Proof.Machine.execFsExit req s
  | .imageChunk req => Sys2Proof.Machine.execImageChunk req s
  | .imageCheck req => Sys2Proof.Machine.execImageCheck req s
  | .readReg req => Sys2Proof.Machine.execReadReg req s
  | .icmpEcho data => Sys2Proof.Machine.execIcmpEcho data s
  | .arpRequest mine nd => Sys2Proof.Machine.execArpRequest mine nd s
  | .standbyPowerUp straps => Sys2Proof.Machine.execStandbyPowerUp straps s
  | .hostLinkResetExit link => Sys2Proof.Machine.execHostLinkResetExit link s
  | .vprogInWindow p => Sys2Proof.Machine.execVprogInWindow p s
  | .mspColdRestartDone => Sys2Proof.Machine.execMspColdRestartDone s
  | .masterConflictClear => Sys2Proof.Machine.execMasterConflictClear s
  | .spareNoticeTimeout => Sys2Proof.Machine.execSpareNoticeTimeout s
  | .illegalInstruction e => Sys2Proof.Machine.execIllegalInstruction e s
  | .nakResendTimeout p => Sys2Proof.Machine.execNakResendTimeout p s
  | .railFault n => Sys2Proof.Machine.execRailFault n s

end Sys2Proof.Machine
end

