-- ==== Sys2Proof/Safety.lean ====
section
/-! DEFINITION. What the claims call a safe state and a safe command. -/

namespace Sys2Proof.Machine

/-- The memories are in their canonical form: equal memories are equal data. -/
def State.memOk (s : State) : Bool := Memory.wf s.mem.cells && Memory.wf s.mem.host

/-- The commands that wait name instances the module has. -/
def State.queueOk (s : State) : Bool := s.pending.all Instr.wf

/-- The block goes on: its next step answers a next state. -/
def State.goesOn (s : State) : Prop := ∃ t, step s = .next t

/-- The started descriptor of an opcode at a ring pointer of a context whose work a command may carry out now. -/
def State.atHand (s : State) (c n op : Nat) : Option Desc :=
  match s.started c n with
  | some d => if ctxOk c && d.op = op && !d.working && !s.failSafe then some d else none
  | none => none

/-- A write to a register passes the operating state and the access tables. -/
def State.lets (s : State) (master off : Nat) : Bool :=
  (s.hostWritable off || (firmwareMaster master && s.bootState != 0)) && (s.regWriteCheck master off).1

/-- A read of a register passes the operating state and the access tables. -/
def State.letsRead (s : State) (master off : Nat) : Bool :=
  (s.hostReadable off || (firmwareMaster master && s.bootState != 0)) && (s.regCheck rightR master off).1

/-- Engine e is about to execute a word of its running invocation, which is no illegal instruction and has no error in its memory. -/
def State.atWord (s : State) (e w : Nat) : Option Kx :=
  match (s.drv e).inv with
  | some i =>
    if drvIx e && !s.failSafe && s.mem.consumed.isNone && !(s.drv e).ibad.contains (i.ofs + i.pc) && i.code.getD i.pc 0 = w &&
        kLegal w then some { s := s, i := i, e := e }
    else none
  | none => none

/-- An executed instruction neither faults nor waits, ends nothing, consumes no lost line, and its next word is at pc. -/
def Kx.clear (x : Kx) (pc : Nat) : Bool :=
  x.fault = 0 && !x.wait && !x.ended && x.s.mem.consumed.isNone && x.nxt.getD (x.i.pc + 1) = pc && pc < x.i.code.length

/-- The state after an executed instruction: its conditions noted and the program counter moved on. -/
def Kx.moved (x : Kx) (pc : Nat) : State := x.note.s.updDrv x.e fun d => { d with inv := some { x.note.i with pc := pc } }

end Sys2Proof.Machine
end

