-- ==== Sys2Proof/Certificates/Slice0/Obligations.lean ====
section
/-! DEFINITION. The statements. A descriptor is at hand when its context holds it started and its command may carry out its work; an
engine is at a word when that word is the next one of its running invocation; a register access passes (lets, letsRead) when the
operating state and the access tables let it. Each completion statement gives the whole next state, or what holds of it. -/

open Sys2Proof Sys2Proof.Machine

/-- A step takes the command at the front of the queue and runs it on the state with the queue's rest; with no command waiting a cycle of
SVC_CLK passes (the model's choice, log entry 24). -/
def Obligations.StepRunsTheFrontCommand : Prop :=
  (∀ (s : State) (c : Instr) (rest : List Instr), step { s with pending := c :: rest } = exec c { s with pending := rest }) ∧
  ∀ s : State, s.pending = [] → step s = .next s.tick

/-- Every step keeps both memories in canonical form and takes exactly the front command off the queue, the empty queue staying empty. -/
def Obligations.StepKeepsMemoriesCanonicalAndTheQueueInOrder : Prop :=
  ∀ s t : State, s.memOk = true → step s = .next t → t.memOk = true ∧ t.pending = s.pending.tail

/-- The memories of the reset state are in canonical form, its queue is empty, and module memory reads 0 (R13, R367), before the first
MEM_INIT by the model's choice (log entry 3). -/
def Obligations.ResetIsCanonical : Prop :=
  State.reset.memOk = true ∧ State.reset.pending = [] ∧ ∀ a, memByte State.reset.mem.cells a = 0

/-- A command that names an instance the module does not have stops with a fault (the model's choice, log entry 2), and no other command
faults. -/
def Obligations.FaultExactlyOnMissingInstance : Prop :=
  ∀ (i : Instr) (s : State), (i.wf = false → exec i s = .fault .noSuchUnit) ∧
    (i.wf = true → ∀ f, exec i s ≠ .fault f)

/-- A refusal is of a diagnostic opcode that a loaded diagnostic image serves, at the rejection or at the start of its descriptor (R9,
R517), and of no other command. -/
def Obligations.RefusalOnlyOfDiagnosticOpcodes : Prop :=
  ∀ (i : Instr) (s : State) (r : Refusal), exec i s = .refused r →
    r = .diagnosticOpcode ∧ s.boot.diag = true ∧ ((∃ c n, i = .reservedOpcode c n) ∨ i = .descriptorStart)

/-- NOP, COPY, FILL, FENCE, MAILBOX_POST and COUNTER_SNAPSHOT descriptors at hand run and complete (R389): a NOP at once; a FENCE, whose
scope is not a lost link, at once; a COPY and a FILL with the status of their requests, one by one; a MAILBOX_POST as a register write
would post; a snapshot of no die at once, of allowed dies without CLEAR by one store of the record of Table 11-11. A fetched descriptor of
an opcode that no table lists completes as an unknown opcode (R9). -/
def Obligations.CommonDescriptorsComplete : Prop :=
  ∀ (s : State) (c n : Nat) (d : Desc),
    (s.atHand c n 0x00 = some d → exec (.nop c n) s = .next (s.complete c n stSuccess)) ∧
    (s.atHand c n 0x01 = some d →
      let m := moveRows (s.ctxWho c) (daddr (d.u64 16)) (daddr (d.u64 24)) (d.u32 32) (d.u32 36 % 2 ^ 24) (d.u32 40) (d.u32 44) s
      m.denied = false → m.cut = false → m.lost = false → exec (.copy c n) s = .next (m.s.complete c n stSuccess)) ∧
    (s.atHand c n 0x02 = some d → d.u32 36 % 2 ^ 24 = 1 → 0 < d.u32 32 → (daddr (d.u64 24)).off % 4096 + d.u32 32 ≤ 4096 →
      let r := s.store (s.ctxWho c) (daddr (d.u64 24)) ((List.range (d.u32 32)).map fun i => ((d.bytes.drop 16).take 8).getD (i % 8) 0)
      r.1 = .data [] false → exec (.fill c n) s = .next (r.2.complete c n stSuccess)) ∧
    (s.atHand c n 0x03 = some d → (d.u8 16 = 2 → s.linkUp (s.ctxLink c) = true) →
      exec (.fence c n) s = .next (s.complete c n stSuccess)) ∧
    (s.atHand c n 0x04 = some d → s.aclAllows (18 + d.u8 16 % 2) rightW (s.ctxMaster c) (d.u8 17) (d.u8 17) = true →
      exec (.mailboxPost c n) s = .next (((s.postMbx 0 (d.u8 16 % 2) (d.u8 17) (BitVec.ofNat 32 (d.u32 20))).serveMbx (d.u8 16 % 2)
        (d.u8 17)).complete c n stSuccess)) ∧
    (s.atHand c n 0x05 = some d → d.u16 16 % 1024 = 0 → exec (.counterSnapshot c n) s = .next (s.complete c n stSuccess)) ∧
    (s.atHand c n 0x05 = some d → d.u16 16 % 1024 ≠ 0 → d.u8 18 % 2 = 0 →
      s.aclAllows 30 rightR (s.ctxMaster c) ((diesOf (d.u16 16 % 1024)).headD 0) ((diesOf (d.u16 16 % 1024)).getLastD 0) = true →
      let ws := s.cntWords (d.u16 16 % 1024)
      let r := s.store (s.ctxWho c) (daddr (d.u64 24)) (leBytes 8 s.ts ++ leBytes 4 s.stepNo ++ leBytes 2 (d.u16 16 % 1024) ++
        leBytes 2 ws.length ++ leBytes 16 0 ++ ws.flatMap (leBytes 8))
      exec (.counterSnapshot c n) s = .next (r.2.complete c n r.1.status)) ∧
    (c < 4096 → (s.ctx c).infl.find? (fun d => d.ptr = n && d.held.isNone && !d.started) = some d → opcodeListed d.op = false →
      (diagOpcode d.op && s.boot.diag) = false →
      exec (.reservedOpcode c n) s = .next (s.complete c n (if d.b1 / 16 = 1 then stUnknownOpcode else stBadVersion)))

/-- STEP_BEGIN, BRANCH, STEP_END, EVAL_BEGIN and EVAL_END at hand run and complete (R270, R286, R293, R300): STEP_BEGIN, its watch table
readable and nothing due at the boundary, opens the step with its number, its context and its shares in force; BRANCH on a final value
sets the skip count where its comparison holds; STEP_END with its checks decided forms the cause bits and enters the barrier of its group;
an evaluation pass opens where no batch or LOCK is left on a port, and closes once its descriptors have completed. -/
def Obligations.StepDescriptorsComplete : Prop :=
  ∀ (s : State) (c n : Nat) (d : Desc),
    (s.atHand c n 0x10 = some d → s.mayBegin = true →
      (d.u32 28 ≠ 0 → s.mayUse (s.ctxWho c) rightW (d.u64 32) (16 * d.u32 28) = true ∧
        (d.first = true → s.mayUse (s.ctxWho c) rightR (d.u64 32) (16 * d.u32 28) = true)) →
      ∀ bs u, (if d.u32 28 = 0 ∨ d.first = true then (.inr [], s) else s.readRecord (s.ctxWho c) (d.u64 32) (16 * d.u32 28)) = (.inr bs, u) →
      let s1 := (u.beginStep c).takeovers.unfenceDue
      let s2 := s1.flushLeft
      s1.testsBefore = false → s2.flushPending = false →
      let s3 := (List.range 8).foldl (fun t p => t.applyPending p) s2
      let replay := (u.beginStep c).replays d
      let t := ((if replay then s3.dropRingData else s3).rechoose d.epoch replay).openStep c d bs
      exec (.stepBegin c n) s = .next (t.complete c n stSuccess) ∧ t.trn.opened = true ∧ t.trn.ctx = c ∧
        t.trn.share = d.shares ∧ t.stepNo = d.epoch ∧ t.reg oStepCause = 0 ∧ (t.phase = 1 ∨ t.phase = 3) ∧
        (s.atBoundary = false → (s.beginStep c).fld oStepStat 31 28 = 1 ∧ (s.beginStep c).fld oStepStat 11 0 = c)) ∧
    (s.atHand c n 0x16 = some d → s.summaryFinal c d = true → (d.u8 26).testBit 0 = false →
      exec (.branch c n) s = .next ((if (s.summary (d.u16 16) (d.u8 18)).any fun v => branchHolds (d.u8 19) (d.u8 18) v (d.u32 20)
        then s.setCtx c { s.ctx c with skip := d.u16 24 } else s).complete c n stSuccess)) ∧
    (s.atHand c n 0x17 = some d → s.undecided = false → s.trn.opened = true → s.trn.lostCtx = false → s.role ≠ 1 →
      let s1 := if s.stepPartials (s.stepNo + 1) = [] then s.setNorm 0 else s
      exec (.stepEnd c n) s = .next ((((s1.updTrn fun t =>
        { t with barrier := some { own := ⟨c, n⟩, bits := s1.causeBits } }).setStepState 2).working c n).beginColl finExchange
          { own := ⟨c, n⟩, kind := .barrier, group := s.trn.group, vals := [s1.causeBits, 1] })) ∧
    (s.atHand c n 0x18 = some d → d.u8 16 = 0 → s.trn.opened = false → s.trn.evalOpen = false →
      (List.range 8).any (fun p => (s.port p).batches != [] || (s.port p).scopes != []) = false →
      exec (.evalBegin c n) s = .next ((((s.newWindows.drainAll.updTrn fun t =>
        { t with evalOpen := true, evalCtx := c, summ := [], prodNext := 0 }).setStepState 5).setPhase 0 |>.setFld oStepStat 11 0
          c).complete c n stSuccess)) ∧
    (s.atHand c n 0x18 = some d → d.u8 16 = 1 → s.trn.evalOpen = true → s.trn.evalCtx = c →
      ((s.ctx c).infl.takeWhile (·.ptr != n)).any (·.pass) = false →
      let s2 := (s.ringRecord 1 0xFF).newWindows.updTrn fun t => { t with evalOpen := false, dropped := [] }
      exec (.evalEnd c n) s = .next ((s2.setReg oStepStat (BitVec.ofNat 32 (s2.fld oStepStat 23 12 * 4096))).complete c n stSuccess))

/-- LAYER_FWD, LAYER_BWD, ATTN_FWD, ATTN_BWD and LOSS at hand, with their records read and every check passed, put their work in hand: the
reads of an array layer (R272, R276), the forward product of a digital layer and the two backward products (R274), the records of an
attention list in order (R282), and the run requests of the loss kernel on its engines (R283). -/
def Obligations.LayerDescriptorsComplete : Prop :=
  ∀ (s : State) (c n : Nat) (d : Desc),
    (∀ b s1, s.readRec64 (s.ctxWho c) (d.u64 16) = (.inr b, s1) → (parseLRec b).ok s.trn.npart = true →
      s.unitsHeld (parseLRec b).part = false →
      let l := parseLRec b
      let u := if d.pass then s1 else s1.observe l
      let w := u.ctxWho c
      let o : Owner := ⟨c, n⟩
      (s.atHand c n 0x11 = some d → l.kind = 0 → l.outKernel = 0 → l.outl = false → ∀ bi u1 bo u2 ts u3 i x,
        u.readRec64 w (d.u64 24) = (.inr bi, u1) → u1.readRec64 w (d.u64 48) = (.inr bo, u2) →
        u2.readRecord w l.tileList (2 * l.rb * l.cb) = (.inr ts, u3) → layerTensors l bi bo = .inr (i, x) →
        u3.tilesStatus l.rb (tileChains l.rb l.cb ts) = 0 →
        (((tileChains l.rb l.cb ts).map fun ts => ts.headD 0 / 8192).eraseDups.any fun p => (u.die p).state != .run) = false →
        let r := (u3.addWork { own := o, op := 0x11, recomp := (d.u8 40).testBit 0, eval := d.pass, layer := l.layer }).makeReads
          (u3.ctxWho c) { own := o, prod := d.prod, l := l, out := x, recomp := (d.u8 40).testBit 0, eval := d.pass,
                          master := u3.ctxMaster c } i (d.u32 32) (d.u32 36) (tileChains l.rb l.cb ts)
        r.1 = 0 → exec (.layerFwd c n) s = .next ((r.2.chainSettle 65536).finishWork o)) ∧
      (s.atHand c n 0x11 = some d → l.kind ≠ 0 → ∀ p u1, u.readPrec w (d.u64 24) l.part true = (.inr p, u1) →
        let rc := (d.u8 40).testBit 0
        exec (.layerFwd c n) s = .next ((u1.addWork { own := o, op := 0x11, recomp := rc, eval := d.pass, layer := l.layer }).addProduct
          { own := o, prod := d.prod, info := p, part := l.part, master := u.ctxMaster c, recomp := rc, eval := d.pass })) ∧
      (s.atHand c n 0x12 = some d → (d.u8 48).testBit 0 = false → (d.u8 48).testBit 1 = false → ∀ u0, u.listStatus w l = (0, u0) →
        ∀ px u1 pw u2, u0.readPrec w (d.u64 24) l.part (l.kind = 1) = (.inr px, u1) → u1.readDw w d l = (.inr pw, u2) →
        exec (.layerBwd c n) s = .next ((((u2.addWork { own := o, op := 0x12, layer := l.layer }).addProduct
          { own := o, prod := d.prod, info := px, part := l.part, master := w.master }).addProduct
            { own := o, prod := d.prod + 1, info := pw, part := l.part, master := w.master }).finishWork o))) ∧
    (d.u8 30 < s.trn.npart → s.unitsHeld (d.u8 30) = false → (d.u8 31).testBit 1 = false → ∀ ps s1, s.readList c d = (ps, 0, s1) →
      let t := ((s1.addWork { own := ⟨c, n⟩, op := d.op, recomp := (d.u8 31).testBit 0, eval := d.pass, layer := d.u16 28 }).addRecords
        c d none ps).finishWork ⟨c, n⟩
      (s.atHand c n 0x13 = some d → exec (.attnFwd c n) s = .next t) ∧
      (s.atHand c n 0x14 = some d → exec (.attnBwd c n) s = .next t)) ∧
    (s.atHand c n 0x15 = some d → s.unitsHeld 0 = false → s.residentOn (s.lossEngines d) (d.u32 24) = true →
      let es := s.lossEngines d
      exec (.loss c n) s = .next (((List.range es.length).foldl (fun t r => t.updDrv (es.getD r 0) fun q =>
        { q with runs := q.runs ++ [{ own := ⟨c, n⟩, kernel := d.u32 24, karg := d.u64 32, arg0 := d.u32 28, count := es.length,
                                      rank := r, eval := d.pass }] })
        (s.addWork { own := ⟨c, n⟩, op := 0x15, eval := d.pass })).finishWork ⟨c, n⟩))

/-- VEC_KERNEL at hand (R252 to R255): LOAD of a sound image puts it into every named engine, at once or as the engine's invocation ends,
and into the image copies of their fold dies; RUN on engines that hold the kernel gives each of them a run request with its rank; LOAD_RUN
does both; UNLOAD leaves no named engine with the kernel, nor a fold die with an image none of its engines holds. -/
def Obligations.KernelDescriptorsComplete : Prop :=
  ∀ (s : State) (c n : Nat) (d : Desc), s.atHand c n 0x20 = some d → d.engines ≠ [] →
    let o : Owner := ⟨c, n⟩
    let es := d.engines
    let load (k : KImage) (u : State) (run : Nat → Option RunReq) : State :=
      (((List.range es.length).foldl (fun t r => t.loadEngine (es.getD r 0) { own := o, res := k.res, code := k.code, run := run r })
        (u.addWork { own := o, op := 0x20, eval := d.pass })).keepImages es k).finishWork o
    let drop : State := es.foldl (fun t e => t.updDrv e fun q => { q with res := q.res.filter fun r => r.2.id != d.u32 28 }) s
    (∀ k u, s.readImage c d = (.inr k, u) →
      (d.kop = 0 → exec (.vecKernelLoad c n) s = .next (load k u fun _ => none)) ∧
      (d.kop = 3 → exec (.vecKernelLoadRun c n) s = .next (load k u fun r => some (runReq o d es.length r)))) ∧
    (d.kop = 1 → (∀ e ∈ es, ((s.drv e).find (d.u32 28)).isSome = true) → exec (.vecKernelRun c n) s = .next
      ((List.range es.length).foldl (fun t r => t.updDrv (es.getD r 0) fun q => { q with runs := q.runs ++ [runReq o d es.length r] })
        (s.addWork { own := o, op := 0x20, eval := d.pass }))) ∧
    (d.kop = 2 → exec (.vecKernelUnload c n) s = .next (drop.trimImages.complete c n stSuccess))

/-- UPDATE_NORM, UPDATE_APPLY, PRECOND_STAT and PRECOND_ROOT at hand, with their rights and operands in order and their units ready, start
a pass over the spans they name, and a pass in hand runs the next span of each of its units, units ascending (R321, R327, R331 to R333):
UPDATE_APPLY puts the clip factor into SHR_CLIP, PRECOND_STAT and PRECOND_ROOT load their routine first. While SHR_CTL.QUIESCE is set the
pass stands where it is (R337). After its last span the descriptor completes, UPDATE_NORM of the step with the sum and its norm in the
SHR_NORM registers. -/
def Obligations.ShearerDescriptorsComplete : Prop :=
  ∀ (s : State) (c n : Nat) (d : Desc),
    (∀ units, units ≠ [] → s.shrPass c n = none → s.namedAll (d.u8 16) (d.u16 18) (d.u16 20) = some units →
      (units.any fun u => !s.shrReady u.1) = false →
      (s.atHand c n 0x28 = some d → d.u64 24 = 0 → d.step = true → exec (.updateNorm c n) s = .next (s.goNorm d (newPass c d units))) ∧
      (d.step = true → (units.any fun u => s.torn u.1) = false → ∀ table s1,
        s.readRecord (s.ctxWho c) (d.u64 24) 1024 = (.inr table, s1) → d.u64 40 = 0 →
        let p : ShrPass := { newPass c d units with rules := table }
        (s.atHand c n 0x29 = some d → s1.ruleBad table units = false →
          (units.any fun u => (s.port u.1).recon != [] && !s.fenced u.1 1) = false →
          let clip := clipFactor (d.u32 32) (s1.reg 0x1000028).toNat
          exec (.updateApply c n) s = .next ((s1.setReg 0x100002C (BitVec.ofNat 32 clip)).goApply d { p with clip := clip })) ∧
        (d.u8 17 < s.trn.npart → (s.partEngines (d.u8 17)).all (fun e => (s.drv e).inv.isNone) = true →
          let q : ShrPass := { p with part := d.u8 17, tbase := d.u16 22, force := (d.u8 34).testBit 0 }
          (s.atHand c n 0x2A = some d →
            let clip := s1.stepClip c
            let r : ShrPass := { q with clip := clip.1 }
            exec (.precondStat c n) s = .next ((clip.2.loadRoutine (d.u8 17) (d.u16 32) (routineWords d.op)).goOn r
              (tearing (statStep r)) (State.precondEnd d))) ∧
          (s.atHand c n 0x2B = some d →
            let r : ShrPass := { q with clip := 0 }
            exec (.precondRoot c n) s = .next ((s1.loadRoutine (d.u8 17) (d.u16 32) (routineWords d.op)).goOn r
              (tearing (rootStep r)) (State.precondEnd d)))))) ∧
    (∀ r : ShrPass, s.shrPass c n = some r →
      (s.atHand c n 0x28 = some d → exec (.updateNorm c n) s = .next (s.goNorm d r)) ∧
      (s.atHand c n 0x29 = some d → exec (.updateApply c n) s = .next (s.goApply d r)) ∧
      (s.atHand c n 0x2A = some d → exec (.precondStat c n) s = .next (s.goOn r (tearing (statStep r)) (State.precondEnd d))) ∧
      (s.atHand c n 0x2B = some d → exec (.precondRoot c n) s = .next (s.goOn r (tearing (rootStep r)) (State.precondEnd d)))) ∧
    (∀ (r : ShrPass) f (fin : ShrPass → State → State), s.bit 0x1000010 0 = true → s.goOn r f fin = s.putPass r) ∧
    (∀ (r : ShrPass) f (fin : ShrPass → State → State) us share x, s.bit 0x1000010 0 = false → spanRound f r.units r.share s = (us, share, x) →
      x.stop = false → x.denied = false → us.all (·.left = []) = true →
      s.goOn r f fin = fin { r with units := us, share := share } (x.s.dropPass r.c r.ptr)) ∧
    (∀ r : ShrPass, d.u64 24 = 0 → r.step = true → State.normEnd d r s =
      (s.setNorm (sum64 (s.stepPartials (s.stepNo + 1)))).complete r.c r.ptr stSuccess)

/-- PROGRAM_FLUSH, PROGRAM_DIRECT by levels and by master weights, and the three modes of COLUMN_RESCALE at hand, their rights and entries
in order, hand their work to the ports of the dies they name (R144 to R146). -/
def Obligations.ArrayDescriptorsComplete : Prop :=
  ∀ (s : State) (c n : Nat) (d : Desc),
    (s.atHand c n 0x30 = some d → dieList (d.u8 16) ≠ [] → (s.flushCheck c d).1 = stSuccess →
      (∀ p ∈ dieList (d.u8 16), (s.die p).state = .run ∧ (s.port p).flush = none) →
      exec (.programFlush c n) s = .next ((((dieList (d.u8 16)).foldl (fun t p => (t.newWindow p).updPort p fun q =>
        { q with flush := some { desc := some (c, n), lim := d.u16 18, rescale := (d.u8 17).testBit 0,
                                 remap := (d.u8 17).testBit 1, waitRecon := (d.u8 17).testBit 2 } }) s).working c n).finishFlush
          c d)) ∧
    (∀ bs s1, s.readRecord (s.ctxWho c) (d.u64 24) (8 * d.u16 18) = (.inr bs, s1) →
      let p := d.u8 16 % 8
      let es := entriesOf bs (d.u16 18)
      (∀ e ∈ es, s.aclAllows (10 + p) rightProg (s.ctxMaster c) (reqTile e) (reqTile e) = true) →
      (s.mayStore (s.ctxWho c) (d.u64 32) (2 * d.u16 18) = true → (s.port p).direct = none →
        let t (master : Bool) : State := (s1.updPort p fun q =>
          { q with direct := some { ctx := c, ptr := n, master := master, entries := es } }).working c n
        (s.atHand c n 0x31 = some d → d.u8 17 = 0 → exec (.programDirectLevels c n) s = .next (t false)) ∧
        (s.atHand c n 0x31 = some d → d.u8 17 = 1 → exec (.programDirectMaster c n) s = .next (t true))) ∧
      (s.mayStore (s.ctxWho c) (d.u64 32) (4 * d.u16 18) = true → s.atHand c n 0x32 = some d →
        let t := (s1.updPort p fun q => { q with jobs := q.jobs ++ rescaleJobs c n (d.u8 17) es }).working c n
        (d.u8 17 = 0 → exec (.columnRescaleAuto c n) s = .next t) ∧
        (d.u8 17 = 1 → exec (.columnRescaleExplicit c n) s = .next t) ∧
        (d.u8 17 = 2 → exec (.columnRescaleRestore c n) s = .next t)))

/-- MUSTER of the whole of its dies and TILE_TEST of its entries at hand, their rights in order and their dies in service, begin their
runs and tests (R179, R180). -/
def Obligations.CareDescriptorsComplete : Prop :=
  ∀ (s : State) (c n : Nat) (d : Desc),
    (s.atHand c n 0x38 = some d → dieList (d.u8 16) ≠ [] → d.u8 17 = 0 →
      (∀ p ∈ dieList (d.u8 16), s.aclAllows 32 rightCfg (s.ctxMaster c) (p * 0x400) (p * 0x400 + 0x3FF) = true ∧
        (s.die p).state ≠ .failSafe) →
      s.mayStore (s.ctxWho c) (d.u64 32) (16 * (dieList (d.u8 16)).length) = true →
      let s1 := s.working c n
      let run (p : Nat) : MRun := s1.musterRun p d c []
      let s2 := (dieList (d.u8 16)).foldl (fun t p => t.beginRun p (run p)) s1
      exec (.muster c n) s = .next ((dieList (d.u8 16)).foldl (fun t p => t.endRun p ((t.mus p).runs.length - 1)) s2)) ∧
    (s.atHand c n 0x39 = some d → (s.dieCfg (d.u8 16 % 8) (s.ctxMaster c)).1 = true → d.u8 17 % 16 ≠ 0 →
      (s.die (d.u8 16 % 8)).state ≠ .failSafe → s.mayStore (s.ctxWho c) (d.u64 32) (4 * d.u16 18) = true →
      ∀ bs s1, s.readRecord (s.ctxWho c) (d.u64 24) (8 * d.u16 18) = (.inr bs, s1) →
      let ts := s1.entryTests (d.u8 16 % 8) (d.u8 17 % 16) c n (entriesOf bs (d.u16 18))
      exec (.tileTest c n) s = .next ((({ s1 with tests := s1.tests ++ ts } : State).working c n).finishTests c n))

/-- REDUCE, GATHER and SYNC at hand, of a group the module holds and with readable operands, begin their exchanges; puts, gets and the six
atomics at hand, of a module that the group reaches, begin their transfers (R450, R457, R462, R463). -/
def Obligations.FabricDescriptorsComplete : Prop :=
  ∀ (s : State) (c n : Nat) (d : Desc),
    ((s.group s.sendEpoch (d.u16 16)).isSome = true →
      (s.atHand c n 0x40 = some d → ∀ bs m, getBytes (s.ctxWho c) (daddr (d.u64 24)) (2 * d.u32 20) s = (bs, m) →
        m.status = stSuccess → exec (.reduce c n) s = .next ((m.s.working c n).beginColl Coll.finish
          { own := ⟨c, n⟩, kind := .reduce, group := d.u16 16, n := d.u32 20, src := d.u64 24 % 2 ^ 40, dst := d.u64 32 % 2 ^ 40,
            tbase := d.u16 40, vals := (List.range (d.u32 20)).map fun i => leAt bs (2 * i) 2 })) ∧
      (s.atHand c n 0x41 = some d → ∀ g, s.group s.sendEpoch (d.u16 16) = some g →
        let m := moveRows (s.ctxWho c) (daddr (d.u64 24)) (.mod (d.u64 32 % 2 ^ 40 + g.members.idxOf s.self * d.u32 20)) (d.u32 20) 1 0 0 s
        m.denied = false → m.cut = false → exec (.gather c n) s = .next ((m.s.working c n).beginColl Coll.finish
          { own := ⟨c, n⟩, kind := .gather, group := d.u16 16, n := d.u32 20, dst := d.u64 32 % 2 ^ 40, lost := m.lost })) ∧
      (s.atHand c n 0x42 = some d → exec (.sync c n) s = .next ((s.working c n).beginColl Coll.finish
        { own := ⟨c, n⟩, kind := .sync, group := d.u16 16, dst := d.u64 32 % 2 ^ 40, vals := [d.u64 24 % 2 ^ 32] }))) ∧
    (∀ m, s.moduleOf (d.u64 32 % 2 ^ 54) = some m → m ≠ s.self → s.inGroup (d.u16 16) m = true →
      let t (kind len aop : Nat) : State := (s.working c n).startXfer
        { own := ⟨c, n⟩, kind := kind, group := d.u16 16, dst := m, remote := d.u64 32 % 2 ^ 54 % 2 ^ 40, loc := d.u64 24, len := len,
          aop := aop, opnd := d.u64 40, cmp := d.u64 48 }
      (s.atHand c n 0x48 = some d → exec (.fabricPut c n) s = .next (t 0 (d.u32 20) 0)) ∧
      (s.atHand c n 0x49 = some d → exec (.fabricGet c n) s = .next (t 1 (d.u32 20) 0)) ∧
      (s.atHand c n 0x4A = some d →
        (d.u8 18 = 0 → exec (.fabricAtomicAdd c n) s = .next (t 2 8 0)) ∧
        (d.u8 18 = 1 → exec (.fabricAtomicSwap c n) s = .next (t 2 8 1)) ∧
        (d.u8 18 = 2 → exec (.fabricAtomicCas c n) s = .next (t 2 8 2)) ∧
        (d.u8 18 = 3 → exec (.fabricAtomicAnd c n) s = .next (t 2 8 3)) ∧
        (d.u8 18 = 4 → exec (.fabricAtomicOr c n) s = .next (t 2 8 4)) ∧
        (d.u8 18 = 5 → exec (.fabricAtomicUmax c n) s = .next (t 2 8 5))))

/-- CONFIG_STAGE of valid entries of the next epoch, allowed, puts them into the shadows in list order; CONFIG_COMMIT at a step boundary
puts every shadow in force (R535, R536); a start takes the chosen context's next descriptor, unless a diagnostic image serves it. -/
def Obligations.ConfigDescriptorsComplete : Prop :=
  ∀ (s : State) (c n : Nat) (d : Desc),
    (s.atHand c n 0x50 = some d → d.u16 16 ≠ 0 → chkStage d = 0 → d.epoch = s.nextEpoch → d.u8 18 % 2 = 0 → ∀ bs s1,
      s.readRecord (s.ctxWho c) (d.u64 24) (16 * d.u16 16) = (.inr bs, s1) →
      let es := (List.range (d.u16 16)).map (stageEntry bs)
      es.all stageValid = true → (∀ e ∈ es, s1.aclAllows (20 + (regBlock e.1).1) rightCfg (s.ctxMaster c)
        ((regBlock e.1).2 / 4096) ((regBlock e.1).2 / 4096) = true) →
      exec (.configStage c n) s = .next ((s1.stageAll es).complete c n stSuccess)) ∧
    (s.atHand c n 0x51 = some d → chkCommit d = 0 → d.epoch = s.nextEpoch → s.boot.commitWait = none → s.boundary16 = true →
      s.loadFirst = false → exec (.configCommit c n) s = .next (s.commitNow c d)) ∧
    (s.closeDone.chosen = some c → s.closeDone.candidate c = some d → diagOpcode d.op = false →
      let s0 := s.closeDone
      let s1 := { s0 with host := { s0.host with rr := mapSet 0 s0.host.rr (s0.ctxCtl c 30 28) ((c + 1) % 4096) } }
      exec .descriptorStart s = .next (s1.startDesc c d))

/-- A tail doorbell within the ring's announced and free slots moves the tail (R382); a head doorbell within the unread entries moves the
head and releases held completions (R382, R383); a fetch reads the next announced descriptor into the context and goes on (R379). -/
def Obligations.RingCommandsComplete : Prop :=
  ∀ (s : State) (link func page c v t : Nat), link < 2 → func < 64 → s.failSafe = false →
    (s.ready = true → s.pageCtx link func page = some c →
      (((s.ctx c).state = .run ∨ (s.ctx c).state = .suspended) → doorPtr (s.sqSize c) v = some t →
        (t + 2 * s.sqSize c - (s.ctx c).fetch) % (2 * s.sqSize c) ≤ s.sqSize c →
        ((s.ctx c).tail + 2 * s.sqSize c - (s.ctx c).fetch) % (2 * s.sqSize c) ≤
          (t + 2 * s.sqSize c - (s.ctx c).fetch) % (2 * s.sqSize c) →
        exec (.doorbellTail link func page v) s = .next (s.setCtx c { s.ctx c with tail := t })) ∧
      ((s.ctx c).state ≠ .disabled → doorPtr (s.cqSize c) v = some t →
        (t + 2 * s.cqSize c - (s.ctx c).cqHead) % (2 * s.cqSize c) ≤
          ((s.ctx c).cqTail + 2 * s.cqSize c - (s.ctx c).cqHead) % (2 * s.cqSize c) →
        exec (.doorbellHead link func page v) s = .next ((s.setCtx c { s.ctx c with cqHead := t }).releaseHeld c 256))) ∧
    (c < 4096 → s.mayFetch c = true → ∀ bs s1,
      s.request (s.ctxWho c) 1 ((s.sqAddr c).plus (64 * ((s.ctx c).fetch % s.sqSize c))) 64 = (.data bs false, s1) →
      exec (.descriptorFetch c) s = .next ((s1.takeDesc c bs).fetchRing c 255) ∧
      ((s1.takeDesc c bs).ctx c).infl = (s1.ctx c).infl ++ [{ ptr := (s1.ctx c).fetch, bytes := bs }])

/-- The owner enables a DISABLED context whose configuration is valid: it enters RUN with its rings empty and EN set; the owner disables a
context: EN clears and it drains; the PF of the surviving link takes over a suspended context (R378, R400). A completion interrupt held
back by the gap is sent when the gap ends, and the gap then runs again, else the gap ends (R397); an unmasked vector sends the message
that was pending for it (R396). -/
def Obligations.ContextAndInterruptCommandsComplete : Prop :=
  (∀ (s : State) (master c : Nat) (w : Word), c < 4096 → s.lets master (ctxBase c + 16) = true →
    (s.ready = true → s.failSafe = false → (s.ctx c).state = .disabled → (s.putCtl c w).ownsCtx master c = true →
      (s.putCtl c w).enableErr c = 0 →
      exec (.contextEnable master c w) s = .next (((s.putCtl c w).setBit (ctxBase c + 16) 31).setCtx c { state := .run })) ∧
    ((s.ctx c).state ≠ .disabled → s.ownsCtx master c = true → exec (.contextDisable master c w) s = .next
      ((((s.clrBit (ctxBase c + 16) 31).setCtx c { s.ctx c with state := .draining }).abortWaiting c).settle c)) ∧
    (master < 2 → (s.ctx c).state = .suspended → s.ctxFunc c = 0 → s.ctxLink c ≠ master → s.linkUp master = true →
      exec (.contextRebind master c) s = .next (((s.setFld (ctxBase c + 16) 22 22 master).setCtx c { s.ctx c with state := .run }).releaseHeld
        c 256))) ∧
  (∀ (s : State) (c link func vec : Nat),
    (c < 4096 → (s.ctx c).gap = true → (s.ctx c).gapPend = false →
      exec (.irqGapExpiry c) s = .next (s.setCtx c { s.ctx c with gap := false })) ∧
    (c < 4096 → (s.ctx c).gap = true → (s.ctx c).gapPend = true →
      exec (.irqGapExpiry c) s = .next ((s.setCtx c { s.ctx c with gapPend := false }).sendMsi (s.ctxLink c) (s.ctxFunc c)
        (s.ctxCtl c 27 23))) ∧
    (link < 2 → func < 64 → vec < 32 → ∃ t : State, exec (.msixUnmask link func vec) s = .next t ∧
      let m := mapGet {} s.host.msix (link * 64 + func)
      let m' := mapGet {} t.host.msix (link * 64 + func)
      m'.open_ = m.open_ ||| 2 ^ vec ∧
      (m.pend.testBit vec = true → s.failSafe = false → t.out = .msi link func vec :: s.out ∧ m'.pend = m.pend - 2 ^ vec) ∧
      (m.pend.testBit vec = false ∨ s.failSafe = true → t.out = s.out ∧ m'.pend = m.pend)))

/-- A register write that passes its checks sets the RW bits, clears the W1C bits written as 1, puts the staged bits into the shadow (R12,
R534), and leaves every other bit of the register, every other register and the rest of the state as they were: of the registers of blocks
1 (power), 5 and 6 (units), whose writes do no more but for MU_CTL, which has a statement of its own. A write by a virtual function
changes nothing (R372, Table 11-2). A write to a register with staged fields changes the shadow of their bits and, of a register all of
whose written bits are staged, no bit in force (R534). -/
def Obligations.RegisterWritesByAccessCodeAndStaging : Prop :=
  (∀ (s : State) (master off : Nat) (w : Word),
    (masterClass master = .hostVf → exec (.registerWrite master off w) s = .next s) ∧
    ∀ r : RegRow, off % 4 = 0 → regRow off = some r → masterClass master ≠ .hostVf → off ≠ oMuCtl →
      ((0x100000 ≤ off ∧ off < 0x100128) ∨ (0x800000 ≤ off ∧ off < 0x1000000)) → s.lets master off = true →
      ∃ t : State, exec (.registerWrite master off w) s = .next t ∧
        (∀ i, t.bit off i = ((if (BitVec.ofNat 32 r.rw).getLsbD i && !(BitVec.ofNat 32 r.staged).getLsbD i then w.getLsbD i
          else s.bit off i) && !((BitVec.ofNat 32 r.w1c).getLsbD i && w.getLsbD i))) ∧
        (∀ o, o ≠ off → t.reg o = s.reg o) ∧ t = { s with regs := t.regs, shadow := t.shadow } ∧ (r.staged = 0 → t.shadow = s.shadow)) ∧
  (∀ (s : State) (master off : Nat) (w : Word) (r : RegRow), off % 4 = 0 → off < 0x100000 → regRow off = some r → r.staged ≠ 0 →
    r.rw = r.staged → r.w1c = 0 → masterClass master ≠ .hostVf → s.lets master off = true →
    ∃ t : State, exec (.stagedRegisterWrite master off w) s = .next t ∧ (∀ o, t.reg o = s.reg o) ∧
      t.shadowOf off = (s.shadowOf off &&& ~~~stagedMask off) ||| (w &&& stagedMask off))

/-- A write of an empty mailbox word stores it with FULL set, a write of a full one is dropped, and a read returns the word and clears
FULL (R394): firmware's writes of firmware-to-host words, and reads by the host. Words 1 to 3 of an access-table entry go to its shadow;
word 0 puts the whole entry in force with them; the fixed entries take none; ACL_SYNC reads busy from GO until the requests checked
earlier have drained (R392). -/
def Obligations.MailboxAndAclCommandsComplete : Prop :=
  (∀ (s : State) (master f n : Nat) (w : Word), f < 2 → n < 32 →
    (firmwareMaster master = true → (s.mbx 1 f n).full = false → ∃ t : State, exec (.mailboxWrite master 1 f n w) s = .next t ∧
      t.mbx 1 f n = ⟨w, true⟩) ∧
    (firmwareMaster master = true → (s.mbx 1 f n).full = true → ∃ t : State, exec (.mailboxWrite master 1 f n w) s = .next t ∧
      t.mbx 1 f n = s.mbx 1 f n) ∧
    (firmwareMaster master = false → (f ≠ 0 ∨ n ≠ 0) →
      (s.regCheck rightR master (0x400100 + 0x10000 * f + 4 * n)).1 = true → ∃ t : State, exec (.mailboxRead master 1 f n) s = .next t ∧
      (∃ us, t.out = us ++ .readData (s.mbx 1 f n).data :: s.out) ∧ (t.mbx 1 f n).full = false)) ∧
  (∀ (s : State) (master t e : Nat) (w : Word), t < 36 → e < 62 →
    (s.lets master (oAcl t e) = true →
      (∀ word, 1 ≤ word → word ≤ 3 → exec (.aclShadowWrite master t e word w) s = .next { s with host := { s.host with
        aclShadow := mapIns s.host.aclShadow (4 * (64 * t + e) + word) w } }) ∧
      exec (.aclEntryWrite master t e w) s = .next (s.putAcl (64 * t + e) w) ∧
      (s.putAcl (64 * t + e) w).aclEnt t e =
        { valid := w.getLsbD 31, anyidx := w.getLsbD 30, rights := wfld w 20 16, master := wfld w 15 0
          base := 2 ^ 32 * (s.aclWord (64 * t + e) 3 % 65536) + s.aclWord (64 * t + e) 1
          limit := 2 ^ 32 * (s.aclWord (64 * t + e) 3 / 65536) + s.aclWord (64 * t + e) 2 }) ∧
    (s.lets master 0x510000 = true → exec (.aclSync master) s = .next (s.setBit 0x510000 31)) ∧
    exec .aclDrainDone s = .next (s.clrBit 0x510000 31) ∧ (s.clrBit 0x510000 31).bit 0x510000 31 = false)

/-- A host link falls: its contexts in RUN become SUSPENDED, and source 9 is raised; it rises: they return to RUN and held completions go
out; a link that answers after a reset, with the module out of reset, is up; a reset of a link, of a physical or of a virtual function
disables the contexts of the functions with their completions discarded and closes their vectors (R398, R399, R402, R557). -/
def Obligations.LinkCommandsComplete : Prop :=
  ∀ (s : State) (link : Nat), link < 2 →
    (s.linkUp link = true → ∃ t : State, exec (.linkDown link) s = .next (t.raiseIrq 9) ∧ t.linkUp link = false ∧
      ∀ c, s.ctxLink c = link → (t.ctx c).state = if (s.ctx c).state = .run then .suspended else (s.ctx c).state) ∧
    (s.linkUp link = false → let t := s.setLink link true
      exec (.linkUp link) s = .next ((((t.linkContexts link fun _ => true).foldl (fun t c =>
        (if (t.ctx c).state = .suspended then t.setCtx c { t.ctx c with state := .run } else t).releaseHeld c 256) t)).raiseIrq 9)) ∧
    (s.bootState ≠ 0 → ∃ t : State, exec (.hostLinkResetExit link) s = .next t ∧ t.linkUp link = true ∧ t.regs = s.regs) ∧
    (∀ perst, ∃ t : State, exec (.hostLinkReset link perst) s = .next t ∧ t.linkUp link = false ∧
      (perst = true → (if link = 0 then t.pwr.perst0 else t.pwr.perst1) = true)) ∧
    exec (.pfFlr link) s = .next (s.resetFunctions link fun _ => true) ∧
    (∀ vf, 1 ≤ vf → vf < 64 → exec (.vfFlr link vf) s = .next (s.resetFunctions link fun f => f = vf)) ∧
    (∀ f k, k / 64 = link → f (k % 64) = true → mapGet {} (s.resetFunctions link f).host.msix k = {})

/-- Module reset by its key, by RESET_N, and by a consumed lost line (R13, R352, R481, R557): RESET_N low holds the module in reset with
only the registers that survive, no module memory, and what flash, fuses, cells, the last 1,024 records and the pins hold; its release
with PWR_GOOD starts the boot chain; the two other resets start it at once. -/
def Obligations.ResetCommandsComplete : Prop :=
  ∀ (s : State),
    (∀ master w, s.lets master 0x14 = true → wfld w 31 16 = 0xD640 → w.getLsbD 0 = true →
      exec (.modReset master w) s = .next s.selfReset ∧ s.selfReset = s.sendFences.moduleReset.endReset) ∧
    (∃ t : State, exec .resetNAssert s = .next t ∧ t.bootState = 0 ∧ t.pwr.resetLow = true ∧ t.regs = s.keptRegs ∧ t.shadow = [] ∧
      t.mem.cells = [] ∧ t.mem.host = s.mem.host ∧ t.ts = 0 ∧ t.boot.slots = s.boot.slots ∧ t.boot.fused = s.boot.fused ∧
      t.boot.copies = s.boot.copies ∧ t.flt.log = s.flt.log.drop (s.flt.log.length - 1024) ∧ t.flt.thrCnt = [] ∧ t.host = {} ∧ t.trn = {} ∧ t.drvs = [] ∧ t.units = []) ∧
    (∀ straps, s.bootState = 0 → s.pgood = true → ∃ t : State, exec (.resetNRelease straps) s = .next t ∧ t.bootState = 1 ∧
      t.boot.msp = .rom ∧ t.pwr.resetLow = false ∧ t.fld oSlot 6 0 = straps % 128 ∧
      t.linkUp 0 = (s.linkUp 0 || !s.pwr.perst0) ∧ t.linkUp 1 = (s.linkUp 1 || !s.pwr.perst1)) ∧
    (∀ x, s.mem.consumed = some x → exec .ueConsumed s = .next (s.raiseFault 3 0x0201 x.master
      [x.line % 2 ^ 32, x.line / 2 ^ 32, if x.inLocal then 0 else s.channelIn (placeOf s.stripe x.line)]).selfReset)

/-- The boot chain goes from MSP_BOOT through FW_LOAD, MEM_INIT and ARRAY_INIT to READY as each part ends, with good images, sound
persistent data, all stacks and all dies; it fails where READY is not reached in time (R404, R523, Table 16-7). -/
def Obligations.BootChainAdvances : Prop :=
  ∀ (s : State),
    (s.bootState = 1 → s.boot.msp = .rom → (s.takeRecs.startType 1).1 = true →
      exec .mspBootDone s = .next ((((s.takeRecs.startType 1).2.setMsp .running).setBoot 2).postFault)) ∧
    (∀ bad failed, s.bootState = 2 → s.mspUp = true → (s.startType 2).1 = true → ((s.startType 2).2.startTypes bootTypes).1 = 0 →
      let q := ((((s.startType 2).2.startTypes bootTypes).2.reportSlot 8).setReg 0x410 (BitVec.ofNat 32 s.boot.fused)).pdSpoil bad
      (q.pdError failed ≠ 0 → exec (.fwLoadDone bad failed) s = .next (q.announce 6 (q.pdError failed))) ∧
      (q.pdError failed = 0 → exec (.fwLoadDone bad failed) s = .next (((List.range 8).foldl (fun (t : State) k =>
        t.setShr k { t.shr k with state := .ready }) ((q.holdItems failed).pdTake.commitProfile).loadUnits).setBoot 3))) ∧
    (∀ bad, s.bootState = 3 → bad % 256 = 0 → (s.mem.unmapped.any (·.2)) = false →
      let u := (List.range 8).foldl (fun (t : State) p => t.loadDie p)
        ((List.range 8).foldl (fun (t : State) k => (t.initStack k).retireWaiting k) s)
      exec (.memInitDone bad) s = .next ((List.range 8).foldl (fun (t : State) p => t.dieMuster p)
        (({ u with save := { u.save with live := true } } : State).setBoot 4))) ∧
    (s.bootState = 4 → (∀ p, p < 8 → (s.die p).state = .run) → exec .arrayInitDone s = .next ((s.endTrials.announce 5 0).serveAllMbx)) ∧
    (1 ≤ s.bootState → s.bootState ≤ 4 → exec .bootTimeout s = .next (s.announce 6 0x21))

/-- The input, PWR_EN and the rails (R491 to R496, R556): the input's rise brings the standby domain up with its straps; its fall loses
everything but flash; PWR_EN high with the input at 58 V starts the sequence; each step that reaches its windows starts the next, the last
asserts PWR_GOOD; a rail late switches the main rails off; PWR_EN low takes the main domain away; a rail that leaves its fail window takes
PWR_GOOD away. -/
def Obligations.RailCommandsComplete : Prop :=
  ∀ (s : State),
    (∀ straps, s.pwr.standby = false → ∃ t : State, exec (.standbyPowerUp straps) s = .next t ∧ t.pwr.standby = true ∧
      t.fld oSlot 6 0 = straps % 128 ∧ t.bootState = 0) ∧
    (s.pwr.standby = true → ∃ t : State, exec .inputPowerLoss s = .next t ∧ t.pwr.standby = false ∧ t.mem.cells = [] ∧
      t.boot.slots = s.boot.slots ∧ t.reg oRail = 0 ∧ t.bootState = 0) ∧
    (∀ vin, s.pwr.standby = true → 5800 ≤ vin → s.pgood = false → s.pwr.seqStep = none → s.pwr.seqFailed = false →
      ∃ t : State, exec (.powerEnable vin) s = .next t ∧ t.pwr.pwrEn = true ∧ t.pwr.seqStep = some 0) ∧
    (∀ i, s.pwr.seqStep = some i → i < 7 → ∃ t : State, exec .railSequenceStep s = .next t ∧ t.pwr.seqStep = some (i + 1) ∧
      t.reg oRail = t.pwr.rail ∧ wfld t.pwr.rail 28 16 = (wfld s.pwr.rail 28 16 ||| stepRails (i + 1)) % 8192 ∧
      wfld t.pwr.rail 12 0 = (wfld s.pwr.rail 12 0 ||| stepRails i) % 8192) ∧
    (s.pwr.seqStep = some 7 → s.bootState = 0 → s.pwr.resetLow = false → ∃ t : State, exec .railSequenceStep s = .next t ∧
      t.pgood = true ∧ t.pwr.seqStep = none ∧ t.bootState = 1) ∧
    (∀ i bad, s.pwr.seqStep = some i → ∃ t : State, exec (.railSequenceTimeout bad) s = .next t ∧ t.pwr.seqFailed = true ∧
      t.pwr.seqStep = none ∧ t.fld oRail 28 16 = 3 ∧ t.pgood = false) ∧
    (s.pwr.pwrEn = true → ∃ t : State, exec .powerDisable s = .next t ∧ t.pwr.pwrEn = false ∧ t.pgood = false ∧ t.failSafe = false ∧
      t.bootState = 0 ∧ t.mem.cells = []) ∧
    (∀ n, 2 ≤ n → n < 13 → s.pgood = true → s.failSafe = false → ∃ t : State, exec (.railFault n) s = .next t ∧ t.pgood = false ∧
      t.mgmt.alert = s.mgmt.alert ||| 16)

/-- Power measurement and the cap controller (R499 to R502): a sample of ordinary power gives PWR_IN, the average and the energy, rounded
to nearest even (R51); a period above the cap raises the level by one; a second at level 12 above the cap reports a miss; a write of the
cap sets its field; a read of the energy returns its low word and latches its high one. -/
def Obligations.PowerCommandsComplete : Prop :=
  ∀ (s : State),
    (∀ vin ma, s.pwr.standby = true → let p := (rneDiv (vin * ma : Nat) 10000).toNat
      p ≤ 13500 → ma ≤ 25000 → ∃ t : State, exec (.powerSample vin ma) s = .next t ∧
        t.reg oPwrIn = BitVec.ofNat 32 (min vin 65535 * 65536 + p) ∧ t.pwr.energy = s.pwr.energy + p ∧ t.pwr.ovr = 0 ∧
        t.reg oPwrAvg = BitVec.ofNat 32 (rneDiv (((p :: s.pwr.samples).take 100).foldl (· + ·) 0 : Nat)
          ((p :: s.pwr.samples).take 100).length).toNat ∧ t.capLvl = s.capLvl) ∧
    (s.pwr.standby = true → 10 * s.capW < s.fld oPwrAvg 15 0 → ∃ t : State, exec .capControlTick s = .next t ∧
      t.capLvl = min (s.capLvl + 1) 12 ∧ t.thermLvl = s.thermLvl ∧ t.fld oPwrStat 31 28 = max t.capLvl t.thermLvl) ∧
    (s.fld oPwrStat 31 28 = 12 → 10 * s.capW < s.fld oPwrAvg 15 0 →
      exec .capMiss s = .next ((s.setBit oPwrStat 19).eventF 0 0x55 0 1)) ∧
    (∀ master w, s.lets master oCap = true → exec (.powerCapWrite master w) s = .next (s.setFld oCap 10 0 (wfld w 10 0))) ∧
    (∀ master, s.letsRead master 0x100110 = true → exec (.energyReadLatch master) s = .next ((s.updPwr fun q =>
      { q with energyLatch := s.pwr.energy / 1000 / 2 ^ 32 % 2 ^ 32 }).emit (.readData (BitVec.ofNat 32 (s.pwr.energy / 1000)))))

/-- Thermal control, clocks, the watchdog and the security monitor (R505, R511, R513, R514, R526): a hot millisecond raises the level and
reports it; a stack's sensor is kept, and above 100 °C is a fail-safe cause; a lost clock is counted, unlocks the time and is a cause;
restored clocks report both locks; a kick restarts the count; its expiry restarts the MSP cold and is a cause; the restarted MSP runs; a
changed code hash is a cause. -/
def Obligations.ThermalClockWatchdogComplete : Prop :=
  ∀ (s : State),
    (s.hot = true → s.thermLvl < 12 → ∃ t : State, exec .thermalTick s = .next t ∧ t.thermLvl = s.thermLvl + 1 ∧ t.bit oPwrStat 17 = true ∧
      t.pwr.cool = 0) ∧
    (∀ k c, k < 8 → c ≤ 100 → exec (.stackTempRead k c) s =
      .next { s with mem := { s.mem with stackTemp := mapSet 0 s.mem.stackTemp k c } }) ∧
    (∀ k c, k < 8 → 100 < c → exec (.stackTempRead k c) s =
      .next (({ s with mem := { s.mem with stackTemp := mapSet 0 s.mem.stackTemp k c } } : State).assertFs 3)) ∧
    (∀ ref vco, (ref && vco) = false → let u := s.setClk (4 * b2n ref + 2 * b2n vco + 1)
      exec (.clockLoss ref vco) s = .next (if s.onBackup then u else ((u.satAdd oClk 15 0 1).unlockTime).assertFs 2) ∧
      u.bit oClk 31 = ref ∧ u.bit oClk 30 = vco ∧ u.bit oClk 29 = true) ∧
    (∃ t : State, exec .clockRestore s = .next t ∧ t.bit oClk 31 = true ∧ t.bit oClk 30 = true ∧ t.bit oClk 29 = false ∧ t.pwr.clk = 6) ∧
    (∀ master w, s.lets master oWdt = true → w.getLsbD 31 = true → ∃ t : State, exec (.watchdogKick master w) s = .next t ∧ t.pwr.wdt = 0 ∧
      t.bit oWdt 30 = w.getLsbD 30 ∧ t.fld oWdt 15 0 = wfld w 15 0) ∧
    (s.bit oWdt 30 = true → s.boot.msp = .running → (s.bootRec 1).trial = false → ∃ t : State,
      exec .watchdogExpiry s = .next (t.assertFs 4) ∧ t.boot.msp = .cold) ∧
    (s.boot.msp = .cold → exec .mspColdRestartDone s = .next (((s.setMsp .running).updPwr fun q => { q with wdt := 0 }).postFault)) ∧
    (3 ≤ s.bootState → exec (.codeHashCheck false) s = .next (s.assertFs 5))

/-- A fail-safe cause outside module reset enters the fail-safe state: the cause is recorded as the first, the boot state reports it, and
the alert is set; a further cause is only recorded; the automatic exit with every cause clear takes the module to ARRAY_INIT with its dies
in HOLD (R405, R507, R508, R510, R512). -/
def Obligations.FailSafeEntryAndExit : Prop :=
  ∀ (s : State),
    (∀ i, i < 7 → s.failSafe = false → s.bootState ≠ 0 → ∃ t : State, s.assertFs i = t ∧ t.failSafe = true ∧ t.bootState = 7 ∧
      t.bit oFsStat i = true ∧ t.fld oFsStat 30 24 = i + 1 ∧ t.mgmt.alert.testBit 0 = true) ∧
    (∀ i, s.failSafe = true → s.assertFs i = s.setBit oFsStat i) ∧
    (s.failSafe = true → s.bit oFsCtl 31 = true → s.causesLeft = 0 → exec .failSafeExit s = .next s.leaveFs)

/-- The commands of FW_CTL by a master that passes, with the MSP up and none in progress (R522, R527, R532, Table 16-6): WRITE of a sound
image puts it into the slot that does not run; ACTIVATE of a valid slot makes it NEXT on trial; COMMIT of a trial that runs makes it
COMMIT; REVERT returns NEXT to COMMIT; LOAD of a sound slot waits for its boundary, of type 1 it restarts the MSPs at once, of types 2 and
7 it is refused; RAISE_EPOCH with its key blows the fuses up to the committed epoch. The body of a staged type 3 image lies in the
firmware region (R532). WRITE of an image whose header and body are read without loss and pass every check begins to write it into the
slot that does not run, which is not valid meanwhile, and ends with the image in the slot, valid, and result 0, or with result 10 where
the flash failed; a WRITE that stops has result 11 and leaves the slot not valid; an image that fails a check leaves the slots as they
are, with that check's result (R520, R538, Table 16-6). That the write takes until the next cycle is the model's choice (log entry 172).
-/
def Obligations.FirmwareCommandsCompleteAndCheckImages : Prop :=
  (∀ (s : State) (master type : Nat), s.lets master oFwCtl = true → s.bit oFwStat 31 = false → s.mspUp = true → 1 ≤ type → type ≤ 8 →
    let busy (cmd : Nat) : State := ((s.setFld oFwStat 23 20 cmd).setFld oFwStat 15 8 type).setBit oFwStat 31
    (∀ err, exec (.fwWrite master type err) s = .next ((busy 1).fwWrite type err)) ∧
    ((busy 2).slotValid type (!(busy 2).runSlot type) = true → exec (.fwActivate master type) s = .next (((busy 2).setRec type
      { (busy 2).bootRec type with next := !(busy 2).runSlot type, trial := true, begun := false }).fwResult 0)) ∧
    ((s.bootRec type).trial = true → (busy 3).runSlot type = (s.bootRec type).next →
      let t := (busy 3).setRec type { s.bootRec type with commit := (s.bootRec type).next, trial := false, begun := false }
      exec (.fwCommit master type) s = .next ((if type = 1 then t.commitItems else t).fwResult 0)) ∧
    ((s.bootRec type).trial = true → exec (.fwRevert master type) s = .next (((busy 4).setRec type { s.bootRec type with
        next := (s.bootRec type).commit, trial := false, begun := false }).fwResult 0)) ∧
    (∀ units, (type = 2 ∨ type = 7) → exec (.fwLoad master type units) s = .next ((busy 5).fwResult 8)) ∧
    (∀ units, type = 1 → (busy 5).checkSlot type (s.bootRec type).next = 0 → exec (.fwLoad master type units) s =
      .next (({ busy 5 with boot := { s.boot with load := some { type := 1, units := 0, running := true } } } : State).setMsp .warm)) ∧
    (∀ units, type ≠ 1 → type ≠ 2 → type ≠ 7 → (busy 5).checkSlot type (s.bootRec type).next = 0 →
      let b := if type = 3 then (busy 5).stageFw 3 (s.bootRec 3).next else busy 5
      exec (.fwLoad master type units) s = .next (({ b with boot := { b.boot with
        load := some { type := type, units := namedUnits type units, running := false } } } : State).setBit oFwStat 30)) ∧
    (let b0 := ((s.setFld oFwStat 23 20 6).setFld oFwStat 15 8 0).setBit oFwStat 31
     (∀ t, t = 1 ∨ t = 2 → (s.bootRec t).trial = false ∧ b0.runSlot t = (s.bootRec t).commit) → b0.committedEpoch ≤ 64 →
      exec (.fwRaiseEpoch master 0x640) s = .next ((({ b0 with boot := { s.boot with
        fused := max s.boot.fused b0.committedEpoch } } : State).setFld 0x410 6 0 (max s.boot.fused b0.committedEpoch)).fwResult 0))) ∧
  (∀ (s : State),
    (∀ (type : Nat) (err : Bool) (hb bs : List Byte) (s1 s2 : State), (s.bootRec type).trial = false →
      let src := daddr (2 ^ 32 * (s.reg 0x408).toNat + 4096 * s.fld 0x404 31 12)
      s.request s.mspWho 1 src 512 = (.data hb false, s1) → leAt hb 32 4 ≠ 0 → leAt hb 32 4 ≤ bodyLimit type →
      s1.request s.mspWho 1 src (512 + leAt hb 32 4) = (.data bs false, s2) →
      let q := s2.putSlot type (!s.runSlot type) (s.slotBytes type (!s.runSlot type)) false
      (s.checkImage type bs = 0 → s.fwWrite type err =
        { q with boot := { q.boot with writing := some { type := type, slot := !s.runSlot type, bytes := bs, err := err } } } ∧
        q.slotValid type (!s.runSlot type) = false) ∧
      (s.checkImage type bs ≠ 0 → s.fwWrite type err = s2.fwResult (s.checkImage type bs))) ∧
    (∀ w, s.boot.writing = some w →
      let u : State := { s with boot := { s.boot with writing := none } }
      (w.err = false → s.flashEnd = (u.putSlot w.type w.slot w.bytes true).fwResult 0) ∧
      (w.err = true → s.flashEnd = (u.putSlot w.type w.slot [] false).fwResult 10) ∧ s.cutWrite = u.fwResult 11))

/-- A pending live load whose conditions hold takes its units out of service, the dies of a tile-sequencer load being quiesced first; one
whose conditions do not hold waits (R98, R531); a running one that succeeds runs NEXT with result 0, of the serial-link firmware one fold
die at a time; one that fails runs COMMIT again with result 9 (R532); an update of a die ends with the die in RUN. -/
def Obligations.LiveLoadsComplete : Prop :=
  ∀ (s : State) (l : LiveLoad), s.boot.load = some l →
    (l.running = false → s.failSafe = false →
      let q := (s.quiesceFor l).1
      let u := (s.quiesceFor l).2
      let s1 := ({ u with boot := { u.boot with load := some { q with running := true } } } : State).clrBit oFwStat 30
      (u.mayLoad q = false → exec .liveLoadStart s = .next u) ∧
      (u.mayLoad q = true →
        (q.type = 4 → exec .liveLoadStart s = .next ((bitsSet 8 q.units).foldl (fun (t : State) p =>
          t.updDie p fun d => { d with state := .update }) s1)) ∧
        (q.type = 5 → exec .liveLoadStart s = .next ((bitsSet 8 q.units).foldl (fun (t : State) k =>
          t.setShr k { t.shr k with state := .ucode }) s1)) ∧
        (q.type ≠ 4 → q.type ≠ 5 → exec .liveLoadStart s = .next s1)) ∧
      (l.type = 4 → s.boundary16 = true → ∀ p, p < 8 → l.units.testBit p = true → u.quiesced p = true)) ∧
    (l.running = true → ∀ failed,
      let u : State := { s with boot := { s.boot with load := none } }
      (l.type = 3 → exec (.liveLoadResume true failed) s = .next ((u.runFrom 3 (u.bootRec 3).next false).fwResult 0) ∧
        exec (.liveLoadResume false failed) s = .next
          ((((u.revertTrial 3).runFrom 3 (u.bootRec 3).commit false).fwResult 9).stageFw 3 (u.bootRec 3).commit)) ∧
      (l.type = 5 → exec (.liveLoadResume true failed) s = .next ((((bitsSet 8 l.units).foldl (fun (t : State) k =>
        t.setShr k { t.shr k with state := .ready }) u).runFrom 5 (u.bootRec 5).next false).fwResult 0)) ∧
      (l.type = 6 → l.units = 3 → exec (.liveLoadResume true failed) s = .next (s.nextFold l 0)) ∧
      (l.type = 6 → (l.units = 1 ∨ l.units = 2) → exec (.liveLoadResume true failed) s = .next
        ((((u.runFrom 6 (u.bootRec 6).next false).fwResult 0).linkResume 0).linkResume 1))) ∧
    (∀ p, p < 8 → (s.die p).state = .update → l.quiet.contains p = false → exec (.dieUpdateEnd p) s =
      .next (s.updDie p fun d => { d with state := .run })) ∧
    (∀ p, p < 8 → (s.die p).state = .update → l.quiet.contains p = true → exec (.dieUpdateEnd p) s =
      .next ((s.updDie p fun d => { d with state := .run }).clrBit (pst p + 0x10) 12))

/-- Of an item of the persistent data a load takes a copy whose CRC passes and whose version the running image reads, with the highest SEQ
of those; where there is none it takes none. A save leaves the one copy with a higher SEQ and the other untouched, and two saves leave
both copies, of an item not held, with what the item holds and one SEQ (R529, R530). -/
def Obligations.PersistentItemsKeepTwoCopies : Prop :=
  ∀ (s : State) (i : Nat), 1 ≤ i → i ≤ 5 →
    (∀ b, s.pdPick i = some b → b < 2 ∧ s.pdReads i (s.pdCopy i b) = true ∧
      (s.pdReads i (s.pdCopy i (1 - b)) = true → (s.pdCopy i (1 - b)).seq ≤ (s.pdCopy i b).seq)) ∧
    (s.pdPick i = none → ∀ b, b < 2 → s.pdReads i (s.pdCopy i b) = false) ∧
    (s.held i = false → (s.pdCopy i 0).order = (s.pdCopy i 1).order →
      let t := s.pdWrite i
      let n := max (s.pdCopy i 0).seq (s.pdCopy i 1).seq + 1
      let x : PdCopy := { s.pdBody i with ver := s.itemVer i, seq := n }
      t.pdCopy i (s.pdNext i) = x ∧ t.pdCopy i (1 - s.pdNext i) = s.pdCopy i (1 - s.pdNext i) ∧
      (t.pdWrite i).pdCopy i (s.pdNext i) = x ∧ (t.pdWrite i).pdCopy i (1 - s.pdNext i) = x ∧
      ∀ j b, b < 2 → j ≠ i → t.pdCopy j b = s.pdCopy j b) ∧
    (s.pdTorn i).pdCopy i (s.pdNext i) = { s.pdCopy i (s.pdNext i) with bad := true } ∧
      (s.pdTorn i).pdCopy i (1 - s.pdNext i) = s.pdCopy i (1 - s.pdNext i)

/-- A ready tile of a running die starts the next MVM of its oldest read where an active place is free for it and the buffer has room: its
place in the banks is taken and the MVM counted (R75, R79, R81). The oldest MVM of a tile completes: it leaves the banks and its packet,
an overrange packet where it splits, joins the die's result buffer (R74, R76, R77). The oldest packet leaves the buffer for its block
accumulator unless that holds a result, and an overrange packet adds nothing (R80, R83); the oldest ready result joins the queue of its
engine (R242). A running die quiesces as PST_DIE_CTL says (R98). -/
def Obligations.ArrayCommandsComplete : Prop :=
  ∀ (s : State) (p n : Nat), p < 8 → n < 8192 →
    (∀ r, s.nextRead p n = some r → ((s.tile p n).st = .ready ∨ (s.tile p n).st = .read) → (s.die p).state = .run →
      s.quiesced p = false → s.failSafe = false → (s.tile p n).fence = false → (s.tile p n).banks.length < 2 → s.placeFree p n = true →
      s.bufferUsed p + s.packetBytes p n ≤ 524288 → ∃ t : State, exec (.mvmStart p n) s = .next t ∧
        (t.tile p n).st = .read ∧ (t.tile p n).banks = (s.tile p n).banks ++ [r.chain] ∧
        (t.tile p n).mvms = ((s.tile p n).mvms + 1) % 64) ∧
    (∀ key rest r err, (s.tile p n).banks = key :: rest →
      (s.die p).reads.find? (fun r => decide (r.chain = key) && decide (r.tile = n)) = some r → r.busy ≠ [] →
      ∃ (t : State) (q : Packet), exec (.mvmComplete p n err) s = .next t ∧ (t.tile p n).banks = rest ∧
        (t.die p).packets = (s.die p).packets ++ [q] ∧ q.chain = key ∧ q.tile = n ∧ q.leaf = r.busy.headD {}) ∧
    (∀ q rest, s.failSafe = false → (s.die p).packets = q :: rest → s.resultHeld p = false →
      let s1 := (s.seeRefs p q).updDie p fun d => { d with packets := rest }
      (q.ovr = true → exec (.codePacket p) s = .next s1) ∧
      ∀ c bs s2, q.ovr = false → s1.findChain q.chain = some c → s1.fetch baMaster (recAddr p q.tile 0) 2048 = (some bs, s2) →
        exec (.codePacket p) s = .next (((s2.addPacket p q).chainSettle 65536).finishWork c.own)) ∧
    (∀ c, s.chains.find? (fun c => c.die = p && c.kernel != 0 && s.chainReady c && decide ((s.drv c.engine).aq.length < 64)) = some c →
      (s.readRecords c).1 = true →
      let v := (s.readRecords c).2.resultOf c
      exec (.arrayResultDeliver p) s = .next ((v.2.2.updDrv c.engine fun d => { d with aq := d.aq ++ [c.entry v.1 v.2.1] }).dropChains
        (·.key = c.key))) ∧
    (∀ master on, s.lets master (pst p + 0x10) = true →
      exec (.dieQuiesce master p on) s = .next (s.setDieQuiesce p on) ∧ (s.setDieQuiesce p on).quiesced p = on)

/-- The arbiter of a free port grants the eligible requester of highest rank, round robin among equals (R125); a higher rank takes the
port from an owner with no scope whose batches have ended or wait for their retry (R120, R126); an owner without work drops the port
(R129); an owner with LOCKEN locks a scope on a free tile and clears it (R127); the liveness monitor fences an owner that holds a scope
and takes its grant and scopes (R131, R133); the VPROG switch closes for a port with work and opens when it is idle, and out of its window
every batch ends (R497, R498). -/
def Obligations.PortCommandsComplete : Prop :=
  ∀ (s : State) (p : Nat), p < 8 →
    (∀ i r, (s.port p).owner = none → (s.port p).toRecon = [] → s.winner p = some (i, r) →
      ∃ t : State, exec (.portArbitrate p) s = .next t ∧ (t.port p).owner = some i ∧ i ∈ s.eligible p ∧
        ∀ j ∈ s.eligible p, s.rank p j ≤ s.rank p i) ∧
    ((s.port p).scopes = [] → s.outranked p = true →
      ((s.port p).idle = true → s.sliceOnPort p = false → ∀ i r, (s.passGrant p).winner p = some (i, r) →
        ∃ t : State, exec (.portPreempt p) s = .next t ∧ (t.port p).owner = some i) ∧
      ((s.port p).idle = false → exec (.portPreempt p) s = .next (s.updPort p fun q => { q with yielding := true }))) ∧
    ((s.port p).owner ≠ none → (s.port p).batches = [] → (s.port p).scopes = [] → s.sliceOnPort p = false →
      exec (.requestDrop p) s = .next (s.updPort p fun q => { q with owner := none, issued := false, yielding := false })) ∧
    (∀ n col kind o, n < 8192 → (s.port p).owner = some o → s.lockEn p o = true → (∀ sc ∈ (s.port p).scopes, sc.tile ≠ n) →
      (s.port p).scopes.length < s.tileLim p →
      exec (.lockSet p n col kind) s = .next (s.updPort p fun q => { q with scopes := q.scopes ++ [⟨n, col, kind, o⟩] })) ∧
    (∀ n, n < 8192 → ∃ t : State, exec (.lockClear p n) s = .next t ∧
      (t.port p).scopes = (s.port p).scopes.filter (·.tile != n)) ∧
    (∀ o, (s.port p).owner = some o → (s.port p).scopes ≠ [] → exec (.livenessRevoke p) s = .next (s.revoke p o)) ∧
    (s.vprogMay p = true → exec (.vprogClose p) s = .next (s.updPort p fun q => { q with vClosed := true })) ∧
    ((s.port p).vClosed = true → exec (.vprogInWindow p) s = .next (s.updPort p fun q => { q with vIn := true })) ∧
    ((s.port p).vClosed = true → (s.port p).batches = [] → exec (.vprogOutOfWindow p) s =
      .next (s.updPort p fun q => { q with vClosed := false, vIn := false })) ∧
    ((s.port p).vClosed = true → ∀ b, (s.port p).batches = [b] → exec (.vprogOutOfWindow p) s =
      .next (((s.updPort p fun q => { q with vClosed := false, vIn := false }).event p 0x112 0
        (if b.phase = .ended || b.retry then 0 else (b.cells.filter (!·.done)).length)).batchEnd p b)) ∧
    ((s.port p).batches = [] → exec (.vprogIdleOpen p) s =
      .next (s.updPort p fun q => { q with vClosed := false, vIn := false }))

/-- A batch of PROGRAM_DIRECT of cell levels takes the run of entries at its head and the tile takes state PROGRAM (R112, R116, R145); the
level read derives each cell's target and pulses the cells that differ (R102, R116); a verify read judges each cell, ends the batch where
none fails, and after the sixth iteration a batch that retries no more (R117, R118); the batch's end stores the levels, clears its scope
and frees the tile (R119). The reconcile read enters the codes of the oldest revoked scope in the buffer, and the engine empties it into
the tallies (R133, R134). -/
def Obligations.BatchCommandsComplete : Prop :=
  ∀ (s : State) (p n : Nat), p < 8 → n < 8192 →
    (∀ d e es pt, (s.port p).owner = some 4 → (s.port p).direct = some d → s.permitted p 4 = true → d.master = false →
      d.entries.drop d.pos = e :: es → s.entryTile p e = some pt → s.mayBatch p (reqTile e) (s.nextRun p (e :: es)) = true →
      ∃ t : State, exec (.batchStart p) s = .next t ∧ (t.tile p (reqTile e)).st = .program ∧
        ∃ b, (t.port p).batches = (s.port p).batches ++ [b] ∧ b.owner = 4 ∧ b.tile = reqTile e ∧ b.ptile = pt ∧
          b.phase = .reading ∧ b.items.length = (s.nextRun p (e :: es)).length) ∧
    (∀ b g, s.batchOn p n .reading = some b → b.retry = false → (s.levelCells p b g).2.2 = none →
      exec (.levelReadDone p n g) s = .next ((s.event p 0x114 0 (s.levelCells p b g).2.1).nextPulse p
        { b with cells := (s.levelCells p b g).1 } false)) ∧
    (∀ b g, s.batchOn p n .pulsing = some b → (s.port p).vIn = true →
      let cs := (List.range b.cells.length).map fun i =>
        let c := b.cells.getD i {}
        { c with g := readOr g i c.g, done := c.done || passes (s.vtol p) (readOr g i c.g) c.target }
      ((cs.filter (!·.done) = [] ∨ b.iter + 1 < 6) →
        exec (.verifyReadDone p n g) s = .next (s.nextPulse p { b with cells := cs, iter := b.iter + 1 } false)) ∧
      (cs.filter (!·.done) ≠ [] → b.iter = 5 → b.retry = true → ∃ t : State, exec (.verifyReadDone p n g) s = .next t ∧
        (t.port p).batches = (s.port p).batches.map fun x => if x.tile = b.tile then
          { b with cells := cs, iter := 6, phase := .ended } else x)) ∧
    (∀ b, s.batchOn p n .ended = some b → exec (.batchEnd p n) s = .next (s.batchEnd p b)) ∧
    (∀ g sc rest, s.permitted p 1 = true → (s.port p).toRecon = sc :: rest → (s.port p).recon.length + sc.rows.length ≤ 2048 →
      ∃ t : State, exec (.reconcileRead p g) s = .next t ∧ (t.port p).toRecon = rest ∧
        ∃ es, (t.port p).recon = (s.port p).recon ++ es ∧ es.length = sc.rows.length ∧ ∀ e ∈ es, e.tile = sc.tile ∧ e.col = sc.col) ∧
    (s.fenced p 1 = false → s.trn.evalOpen = false → exec (.reconcileDrain p) s = .next ((s.drainRecon p).portSettle p) ∧
      ((s.drainRecon p).port p).recon = [])

/-- The remap and rescale engine, owning the port with room for its batches, runs the first rescale it may, those queued again first
(R121, R135); it moves the first column that waits for remap to the first free spare column, or enters its tile for retirement where none
is free (R142); and it writes the further columns of a retiring tile (R143). The muster engine, owning the port, restores the first
reference column that is not usable (R160). -/
def Obligations.MaintenanceCommandsComplete : Prop :=
  ∀ (s : State) (p : Nat) (bad : List BadCell) (retries : Nat), p < 8 →
    (s.seqMay p 1 bad = true →
      (∀ j, ((s.port p).jobs.filter (·.unfence) ++ (s.port p).jobs).find? (s.jobMay p) = some j →
        exec (.columnRescaleRun p bad retries) s = .next (s.rescaleColumn p j bad (s.retried p retries))) ∧
      (s.mayRemap p = true → ∀ pt pcol n, (s.port p).remaps.find? (s.remapMay p) = some (pt, pcol) → s.servesIndex p pt = some n →
        s.colInUse p n pcol = true →
        let home := if pcol < 512 then pcol else s.fld (colMapOff p n (pcol - 512)) 8 0
        (∀ sp, (List.range 16).find? (fun i => s.fld (colMapOff p n i) 31 30 = 0) = some sp → exec (.columnRemap p bad retries) s =
          .next ((s.remapTo p n pt home pcol sp bad (s.retried p retries)).portSettle p)) ∧
        ((List.range 16).find? (fun i => s.fld (colMapOff p n i) 31 30 = 0) = none → exec (.columnRemap p bad retries) s =
          .next (((s.updPort p fun q => { q with remaps := q.remaps.filter (· != (pt, pcol)) }).askRetire p n).portSettle p))) ∧
      (s.mayRemap p = true → ∀ n cols, n < 8192 → s.columnMay p n true = true →
        exec (.tileRetire p n cols bad) s = .next ((s.retireTile p n cols bad).portSettle p))) ∧
    (s.seqMay p 2 bad = true → ∀ pt pcol n, (s.port p).restore.find? (s.restoreMay p) = some (pt, pcol) → s.servesIndex p pt = some n →
      exec (.referenceRestore p bad retries) s = .next (s.restoreRef p pt pcol bad (s.retried p retries)))

/-- A conversion ends: its code is the newest of its channel's last 64 and the next channel follows; channel 15 of a fold die reads 0
(R165, Table 5-4). A change of LP takes effect (R169); MON_LOCK.LOCK is set and stays (R172); MON_MIRROR_LO takes its fields, and the
write count is 0 once EN turns on (R168). -/
def Obligations.MonitorCommandsComplete : Prop :=
  ∀ (s : State) (d : Nat), d < 10 →
    (∀ c code, s.pwr.standby = true → s.nextChannel d = some c → outside (if 8 ≤ d ∧ c = 15 then 0 else code % 4096)
        (s.fld (monBase d + 0x300 + 4 * c) 11 0, s.fld (monBase d + 0x300 + 4 * c) 27 16) = false →
      ∃ t : State, exec (.hkConversion d code) s = .next t ∧ (t.mon d).next = (c + 1) % 16 ∧
        mapGet [] (t.mon d).codes c =
          ((if 8 ≤ d ∧ c = 15 then 0 else code % 4096) :: mapGet [] (s.mon d).codes c).take 64) ∧
    (∃ t : State, exec (.hkLowPower d) s = .next t ∧ t.bit (monBase d + 4) 30 = s.bit (monBase d) 16 ∧
      ∀ i, i ≠ 30 → t.bit (monBase d + 4) i = s.bit (monBase d + 4) i) ∧
    (∀ master (w : Word), s.lets master (monBase d + 0xC) = true →
      (w.getLsbD 0 = true → exec (.monLock master d w) s = .next (s.setBit (monBase d + 0xC) 0)) ∧
      (w.getLsbD 0 = false → exec (.monLock master d w) s = .next s)) ∧
    (∀ master (w : Word), s.lets master (monBase d + 0x10) = true → ∃ t : State, exec (.mirrorEnable master d w) s = .next t ∧
      t.reg (monBase d + 0x10) = w &&& 0xFFFFF00F#32 ∧
      (w.getLsbD 0 = true → s.bit (monBase d + 0x10) 0 = false → t.reg (monBase d + 0x18) = 0))

/-- A field whose age reaches the interval falls due (R152); 16,384 ratios of the drift tracker are acted on and begin again, a ratio more
than 3 % from 1 making the field due (R157). A due field is mustered in an array-idle interval, or taken tile by tile where it is forced
(R154), and a rejected or asked-for tile alone (R153, R161); a muster of a tile that ends is counted in its run and its values accepted
where nothing rejects them (R159). Pending values begin to be applied gradually, a step at a time (R164). -/
def Obligations.MusterCommandsComplete : Prop :=
  ∀ (s : State) (p : Nat), p < 8 →
    (∀ f, f < 64 →
      (s.fld (pst p + 0x300) 19 8 ≠ 0 → ∃ t : State, exec (.musterDueTimer p f) s = .next t ∧ f ∈ (t.mus p).due ∧
        (∀ g, g ≠ f → (g ∈ (t.mus p).due ↔ g ∈ (s.mus p).due))) ∧
      (16384 ≤ mapGet 0 (s.mus p).ratioN f → ∃ t : State, exec (.driftTrackerUpdate p f) s = .next t ∧
        mapGet 0 (t.mus p).ratioN f = 0 ∧ mapGet 0 (t.mus p).ratioSum f = 0 ∧
        (mapGet 0 (s.mus p).ratioSum f * 100 < 2 ^ 20 * (97 * mapGet 0 (s.mus p).ratioN f) ∨
          2 ^ 20 * (103 * mapGet 0 (s.mus p).ratioN f) < mapGet 0 (s.mus p).ratioSum f * 100 → f ∈ (t.mus p).due)) ∧
      (f ∈ (s.mus p).due → s.bit (pst p + 0x300) 28 = true →
        (s.arrayIdle p = true → exec (.musterStart p f) s = .next (s.beginRun p { fields := [f], want := s.fieldTiles p f })) ∧
        ((s.die p).state = .run →
          exec (.musterForce p f) s = .next (s.beginRun p { fields := [f], want := s.fieldTiles p f })))) ∧
    (∀ n, n < 8192 →
      (n ∈ (s.mus p).asked ∨ (s.fld (musTileOff p n) 13 12 = 2 ∧ 0 < s.fld (musTileOff p n) 15 14 ∧ s.fld (musTileOff p n) 15 14 < 3) →
        (s.ptile p n).isSome = true → (∀ r ∈ (s.mus p).runs, n ∉ r.want ∧ (∀ b ∈ r.busy, b.1 ≠ n) ∧ ∀ l ∈ r.later, n ∉ l) →
        (s.arrayIdle p = true ∨ (s.die p).state = .hold) → exec (.musterRetry p n) s =
          .next ((s.updMus p fun m => { m with asked := m.asked.filter (· != n) }).beginRun p { want := [n] })) ∧
      (∀ m i, ((s.mus p).runs.findIdx? fun r => r.busy.any (·.1 = n)) = some i →
        let r := (s.mus p).runs.getD i {}
        let q := s.musterTile p n r m
        exec (.musterComplete p n m) s =
          .next (((q.1.updMus p fun u => { u with runs := u.runs.set i q.2 }).endRun p i).musterTake p) ∧
        q.2.mustered = r.mustered + 1 ∧ q.2.busy = r.busy.filter (·.1 != n) ∧
        (∀ pt, s.ptile p n = some pt → (((s.setTileState p n (if ((r.busy.find? (·.1 = n)).map (·.2)).getD 1 = 0 then .hold
            else if ((r.busy.find? (·.1 = n)).map (·.2)).getD 1 = 6 then .fenced else .ready)).event p 0x120 (fieldOf pt)
            1).enterRestore p pt m.unusable).rejects p n pt m = false →
          q.2.acc = r.acc ++ [(n, m)] ∧ q.2.rejected = r.rejected))) ∧
    (s.nonePending p = false → s.bit (pst p + 0x300) 29 = true → (s.die p).state = .run →
      exec (.gradualApplyStart p) s = .next (s.updMus p fun m => { m with gradual := true })) ∧
    (∀ n field, n < 8192 → (s.mus p).gradual = true → (s.die p).state = .run →
      exec (.gradualApplyStep p n field) s = .next (if field then s.gradField p n else s.gradTile p n))

/-- A unit's test falls due once (R173); its next slice starts where the rules of R174 let it, the unit in TEST; a slice ends, its failing
kinds noted in the test's word, and a self-test without a failure puts its unit in service (R173, R208); a test deferred too long is
overdue and is forced from then on (R175). -/
def Obligations.TestCommandsComplete : Prop :=
  ∀ (s : State) (cls u : Nat), testOk cls u = true →
    (s.bit oTestCtl 31 = true → s.fld (oTestPer cls) 15 0 ≠ 0 → s.testable cls u = true →
      (∀ t ∈ s.tests, t.cls = cls → t.unit_ = u → t.desc ≠ none) →
      exec (.testDue cls u) s = .next { s with tests := s.tests ++ [newTest cls u] }) ∧
    (∀ i, (∀ t ∈ s.tests, t.running = true → (t.cls ≠ cls ∨ t.unit_ ≠ u) ∧
          (t.cls < 3 → cls < 3 → s.testTile t ≠ s.testTile (newTest cls u) ∨ s.testTile t = none)) →
      s.tests.findIdx? (fun t => t.cls = cls && t.unit_ = u && s.mayTest t) = some i →
      let t := s.tests.getD i {}
      (s.testPlace t = true → exec (.testSliceStart cls u) s =
        .next (((s.testTakes t true).setTest i { t with running := true, from_ := s.testFrom t }).enterTest t true)) ∧
      (s.testPlace t = false → exec (.testSliceStart cls u) s = .next (s.testTakes t false))) ∧
    (∀ i fail cols, 3 ≤ cls → s.tests.findIdx? (fun t => t.cls = cls && t.unit_ = u && t.running) = some i →
      let t := s.tests.getD i {}
      let t1 := { t with running := false, slices := t.slices - 1, word := t.word ||| (fail % 2 * 2) }
      let s1 := (s.setTest i t1).enterTest t false
      let s2 := { s1 with tests := s1.tests.eraseIdx i }
      exec (.testSliceEnd cls u fail cols) s = .next (if fail % 2 = 0 then s2.passUnit t else s2.failUnit t)) ∧
    (∀ i fail cols, cls < 3 → s.tests.findIdx? (fun t => t.cls = cls && t.unit_ = u && t.running) = some i →
      ∃ t : State, exec (.testSliceEnd cls u fail cols) s = .next t) ∧
    (∀ i p n, s.tests.findIdx? (fun t => t.cls = cls && t.unit_ = u && !t.running && !t.overdue && !t.forced) = some i →
      let t := s.tests.getD i {}
      let s1 := s.setTest i { t with overdue := true, forced := true }
      s1.testTile t = some (p, n) → exec (.testOverdue cls u) s =
        .next ((s1.fenceTile p n).raiseFault 0 0x0306 (p * 2 ^ 14 + (s1.ptile p n).getD 0) []))

/-- The next chain of a product goes to a free unit of its partition, which holds it until it completes (R191); a chain that completes
leaves the unit's finished tile in a full buffer, its CRC reported (R202, R206); a full buffer drains into its engine's queue where there
is room (R202); a recount reports its CRC (R207, R470); MU_CTL takes QUIESCE (R212). -/
def Obligations.MatrixUnitCommandsComplete : Prop :=
  ∀ (s : State) (u : Nat), u < 80 →
    (∀ i dr p, s.trn.prods[i]? = some p → s.mayAssign p = true → s.muFree u = true → (s.mu u).ahead = [] → s.muQuiesced = false →
      u / 40 ∈ p.folds → u ∈ s.pool (u / 40) p.part → p.partNo p.next + 1 = p.info.parts →
      (s.bit 0x300 31 = false ∨ min (if p.eval then s.fld 0x300 12 0 else s.trn.frac) 4096 ≤ dr % 65536) →
      let s1 := s.updMu u fun m => { m with cur := some { key := p.key, idx := p.next } }
      exec (.chainAssign i u dr) s = .next (s1.updTrn fun t => { t with prods := t.prods.map fun q =>
        if q.key = p.key then { q with next := p.next + 1 } else q })) ∧
    (∀ j p err, (s.mu u).cur = some j → s.findProd j.key = some p → (s.mu u).full = [] → (s.fetchChain p j.idx).1 ≠ .lost →
      s.trn.dropped = [] → (∀ r ∈ s.flt.recounts, r.key ≠ j.key) → j.kind ≠ 1 → j.kind ≠ 2 →
      let q := (s.fetchChain p j.idx).2.tileOf p j.idx err (s.fetchChain p j.idx).1
      let s1 := ((q.2.operandStall u).chainCounts u p j.idx q.1.2).eventMu u 0x19 (b2n (p.sub.isSome && j.idx = 0 && j.kind = 0))
      exec (.chainComplete u err) s = .next (((s1.updMu u fun m =>
        { m with cur := none, full := m.full ++ [p.entry j.idx q.1.1 q.1.2 false] }).muNext u).finishWork p.own)) ∧
    (∀ e rest, s.failSafe = false → (s.mu u).full = e :: rest → e.sub = none → (e.split = false ∨ e.last = true) →
      (if u % 2 = 0 then (s.drv (u / 2)).qa else (s.drv (u / 2)).qb).length < 4 →
      exec (.tileDrain u) s = .next (((s.updMu u fun m => { m with full := rest }).updDrv (u / 2) fun d =>
        if u % 2 = 0 then { d with qa := d.qa ++ [e] } else { d with qb := d.qb ++ [e] }).muNext u)) ∧
    (∀ j p r err, (s.mu u).cur = some j → s.findProd j.key = some p → j.kind = 2 →
      (s.flt.recounts.find? fun r => decide (r.key = j.key) && decide (r.idx = j.idx)) = some r → (s.fetchChain p j.idx).1 ≠ .lost →
      let q := (s.fetchChain p j.idx).2.tileOf p j.idx err (s.fetchChain p j.idx).1
      let s1 := ((q.2.operandStall u).chainCounts u p j.idx q.1.2).eventMu u 0x18 1
      let r1 := { r with cond := r.cond ||| q.1.2.bits }
      let s2 := (s1.updMu u fun m => { m with cur := none }).setFlt fun y =>
        { y with recounts := y.recounts.map fun x => if x.key = j.key && x.idx = j.idx then r1 else x }
      exec (.recountDone u err) s = .next (((s2.judgeThird r1 p u (tileCrc q.1.1)).muNext u).finishWork p.own)) ∧
    (∀ master on, s.lets master oMuCtl = true → exec (.muQuiesce master on) s = .next (s.setQuiesce on) ∧
      (s.setQuiesce on).bit oMuCtl 0 = on)

/-- A free engine takes its next work by round robin and starts its kernel with its scalars and program counter (R215, R216); it combines
the partials of a split tile first (R221); its watchdog and the limit of a hold wait are kernel faults 7 and 8 (R223, R247); a copy ends
(R239); the oldest summary record joins the table (R245); DRV_CTL takes QUIESCE (R258). -/
def Obligations.DroverCommandsComplete : Prop :=
  ∀ (s : State) (e : Nat), e < 40 →
    (s.drvFree e = true →
      (∀ r rest k, s.nextSource e = some 3 → (s.drv e).runs = r :: rest → (s.drv e).find r.kernel = some k →
        ∃ t : State, exec (.invocationStart e) s = .next t ∧ ∃ i, (t.drv e).inv = some i ∧ i.work = .run r ∧ i.pc = k.entry ∧
          i.kernel = r.kernel ∧ i.sreg 0 = r.karg % 2 ^ 32 ∧ i.sreg 2 = r.arg0 ∧ i.sreg 3 = r.arg1 ∧ i.sreg 4 = e) ∧
      (∀ t rest, s.nextSource e = some 0 → (s.drv e).qa = t :: rest → (t.split && t.last) = false →
        exec (.invocationStart e) s = .next (s.startTile e 0 t)) ∧
      (∀ a rest, s.nextSource e = some 2 → (s.drv e).aq = a :: rest → exec (.invocationStart e) s = .next (s.startArr e a)) ∧
      (∀ t rest, s.nextSource e = some 0 → (s.drv e).qa = t :: rest → t.split = true → t.last = true →
        exec (.partialCombine e) s = .next ((s.combine e t).2.startTile e 0 (s.combine e t).1))) ∧
    (∀ i, (s.drv e).inv = some i → exec (.kernelWatchdog e) s = .next (s.kfault e i 7) ∧
      (i.holdWait = true → exec (.holdWaitExpiry e) s = .next (s.kfault e i 8))) ∧
    (∀ i c, (s.drv e).copies[i]? = some c → s.failSafe = false → ∃ t : State, exec (.copyEngineDone e i) s = .next t ∧
      (t.drv e).copies.length + 1 = (s.drv e).copies.length) ∧
    (∀ r rest, s.failSafe = false → (s.drv e).fifo = r :: rest →
      ((s.trn.summ.map fun x => (x.layer, x.kind)).eraseDups.length < 4096) → exec (.summaryDrain e) s =
        .next ((s.updDrv e fun d => { d with fifo := rest }).updTrn fun t => { t with summ := t.summ ++ [r] })) ∧
    (∀ master on, s.lets master oDrvCtl = true → exec (.drvQuiesce master on) s = .next (s.setFld oDrvCtl 0 0 (b2n on)) ∧
      (s.setFld oDrvCtl 0 0 (b2n on)).bit oDrvCtl 0 = on)

/-- A vector instruction executes on the active lanes and the engine moves on: VARITH, VFMA, VUN1, VUN2, VCMP and VSEL (R224 to R226,
R229, R230). -/
def Obligations.VectorInstructionsComplete : Prop :=
  ∀ (s : State) (e w : Nat) (x : Kx), s.atWord e w = some x → x.i.pc + 1 < x.i.code.length →
    (wOp w = 0x00 → exec (.varith e) s = .next ((x.mapV (wTY w) (wVD w) (wPG w) fun k =>
        arithLane (wTY w) (wFN w) ((x.i.lanes (wTY w) (wVA w)).getD k 0) ((x.i.srcB (wTY w) w).getD k 0)).moved (x.i.pc + 1))) ∧
    (wOp w = 0x01 → exec (.vfma e) s = .next ((x.mapV (wTY w) (wVD w) (wPG w) fun k =>
        fmaLane (wTY w) (wFN w) ((x.i.lanes (wTY w) (wVA w)).getD k 0) ((x.i.srcB (wTY w) w).getD k 0)
          ((x.i.lanes (wTY w) (wVD w)).getD k 0)).moved (x.i.pc + 1))) ∧
    (wOp w = 0x02 → exec (.vun1 e) s = .next ((x.mapV (wTY w) (wVD w) (wPG w) fun k =>
        un1Lane (wTY w) (wFN w) ((x.i.lanes (wTY w) (wVA w)).getD k 0)).moved (x.i.pc + 1))) ∧
    (wOp w = 0x03 → exec (.vun2 e) s = .next ((x.mapV (wTY w) (wVD w) (wPG w) fun k =>
        viaFp32 (wTY w) (un2Word (wFN w)) ((x.i.lanes (wTY w) (wVA w)).getD k 0)).moved (x.i.pc + 1))) ∧
    (wOp w = 0x04 → exec (.vcmp e) s = .next ((kVcmp w x).moved (x.i.pc + 1)) ∧ (kVcmp w x).i.v = x.i.v) ∧
    (wOp w = 0x05 → exec (.vsel e) s = .next ((x.mapV (wTY w) (wVD w) 0 fun k =>
        (if (x.i.pred (wPG w)).testBit k then (x.i.lanes (wTY w) (wVA w)).getD k 0 else (x.i.srcB (wTY w) w).getD k 0, 0)).moved
          (x.i.pc + 1)))

/-- A lane instruction executes on the active lanes and the engine moves on: VSMX, VCVT, which changes its destination register only,
VBCAST, whose lane at or beyond the effective length reads +0 with PERM_RANGE, and VPERM (R230, R233, R236, R237). -/
def Obligations.LaneInstructionsComplete : Prop :=
  ∀ (s : State) (e w : Nat) (x : Kx), s.atWord e w = some x → x.i.pc + 1 < x.i.code.length →
    (wOp w = 0x06 → wFN w = 0 → exec (.vsmxSexp e) s = .next ((x.mapV (wTY w) (wVD w) (wPG w) fun k =>
        smxLane (wTY w) 0 ((x.i.lanes (wTY w) (wVA w)).getD k 0) ((x.i.srcB (wTY w) w).getD k 0)).moved (x.i.pc + 1))) ∧
    (wOp w = 0x06 → wFN w = 1 → exec (.vsmxSnorm e) s = .next ((x.mapV (wTY w) (wVD w) (wPG w) fun k =>
        smxLane (wTY w) 1 ((x.i.lanes (wTY w) (wVA w)).getD k 0) ((x.i.srcB (wTY w) w).getD k 0)).moved (x.i.pc + 1))) ∧
    (wOp w = 0x07 → exec (.vcvt e) s = .next ((kVcvt w x).moved (x.i.pc + 1)) ∧
      ∀ r, r ≠ wVD w → (kVcvt w x).i.vreg r = x.i.vreg r) ∧
    (wOp w = 0x08 → wFN w = 0 → exec (.vbcastBs e) s = .next ((x.mapV (wTY w) (wVD w) (wPG w) fun _ =>
        (x.i.sreg (wVB w % 16) % 2 ^ tyWidth (wTY w), 0)).moved (x.i.pc + 1))) ∧
    (wOp w = 0x08 → wFN w = 1 →
      (x.i.sreg (wVB w % 16) < x.i.eff (wTY w) → exec (.vbcastBl e) s = .next ((x.mapV (wTY w) (wVD w) (wPG w) fun _ =>
        ((x.i.lanes (wTY w) (wVA w)).getD (x.i.sreg (wVB w % 16)) 0, 0)).moved (x.i.pc + 1))) ∧
      (x.i.eff (wTY w) ≤ x.i.sreg (wVB w % 16) →
        let y := x.mapV (wTY w) (wVD w) (wPG w) fun _ => (0, 0)
        exec (.vbcastBl e) s = .next (({ y with cond := y.cond ||| 32 } : Kx).moved (x.i.pc + 1)))) ∧
    (wOp w = 0x08 → wFN w = 2 → tyFloat (wTY w) = false → exec (.vbcastIota e) s = .next ((x.mapV (wTY w) (wVD w) (wPG w) fun k =>
        (ofInt (tyWidth (wTY w)) (k + sext 32 (x.i.sreg (wVB w % 16))), 0)).moved (x.i.pc + 1))) ∧
    (wOp w = 0x08 → wFN w = 2 → tyFloat (wTY w) = true → exec (.vbcastIota e) s = .next ((x.mapV (wTY w) (wVD w) (wPG w) fun k =>
        outBits ((kFmt (wTY w)).round .rne (.ofInt (k + sext 32 (x.i.sreg (wVB w % 16)))))).moved (x.i.pc + 1))) ∧
    (wOp w = 0x09 → wFN w = 0 → exec (.vpermIdx e) s = .next ((x.mapV (wTY w) (wVD w) (wPG w) fun k =>
        if (x.i.srcB (wTY w) w).getD k 0 < x.i.eff (wTY w) then
          ((x.i.lanes (wTY w) (wVA w)).getD ((x.i.srcB (wTY w) w).getD k 0) 0, 0)
        else (0, 32)).moved (x.i.pc + 1))) ∧
    (wOp w = 0x09 → wFN w = 1 → exec (.vpermRot e) s = .next ((x.mapV (wTY w) (wVD w) (wPG w) fun k =>
        ((x.i.lanes (wTY w) (wVA w)).getD ((k + x.i.sreg (wVB w % 16)) % x.i.eff (wTY w)) 0, 0)).moved (x.i.pc + 1)))

/-- Reductions, predicate and scalar instructions execute and the engine moves on; a branch goes to its target where its condition holds
(R224, R226, R228, R232): VRED, PRED, SETVL, SALU, SADDI, SLI, SLANE, SCOND, BR, NOP. -/
def Obligations.ScalarInstructionsComplete : Prop :=
  ∀ (s : State) (e w : Nat) (x : Kx), s.atWord e w = some x →
    (x.i.pc + 1 < x.i.code.length →
      (wOp w = 0x0A → tyFloat (wTY w) = false → exec (.vred e) s = .next ((x.setS (wVD w % 16)
        (redInt (wTY w) (wFN w) (x.i.lanes (wTY w) (wVA w)) (x.i.active (wTY w) (wPG w)))).moved (x.i.pc + 1))) ∧
      (wOp w = 0x0A → tyFloat (wTY w) = true →
        let r := redFloat (wTY w) (wFN w) (x.i.lanes (wTY w) (wVA w)) (x.i.active (wTY w) (wPG w))
        exec (.vred e) s = .next (((x.raise r.2).setS (wVD w % 16) r.1).moved (x.i.pc + 1))) ∧
      (wOp w = 0x0B → exec (.pred e) s = .next ((kPred w x).moved (x.i.pc + 1)) ∧ (kPred w x).i.v = x.i.v ∧
        (wFN w = 0 → (kPred w x).i = x.i.setPred (fld w 25 23) (x.i.pred (fld w 22 20) &&& x.i.pred (fld w 19 17))) ∧
        (wFN w = 7 → (kPred w x).i = x.i.setS (fld w 16 13) (bitsSet (min x.i.vl 256) (x.i.pred (fld w 22 20))).length)) ∧
      (wOp w = 0x0C → ∃ v : Nat, v ≤ 256 ∧ (v : Int) = clampI (sext 32 (x.i.sreg (wSA w)) + imm18 w) 0 256 ∧
        exec (.setvl e) s = .next ((({ x with i := { x.i with vl := v } } : Kx).setS (wSD w) v).moved (x.i.pc + 1))) ∧
      (wOp w = 0x20 → let r := saluWord (wFN w) (x.i.sreg (wSA w)) (x.i.sreg (wSB w))
        exec (.salu e) s = .next (((x.raise r.2).setS (wSD w) r.1).moved (x.i.pc + 1))) ∧
      (wOp w = 0x21 → exec (.saddi e) s =
        .next ((x.setS (wSD w) (ofInt 32 (sext 32 (x.i.sreg (wSA w)) + imm18 w))).moved (x.i.pc + 1))) ∧
      (wOp w = 0x22 → exec (.sli e) s = .next ((x.setS (wSD w) (if fld w 21 21 = 0 then
          Machine.setFld (x.i.sreg (wSD w)) 15 0 (fld w 15 0) else Machine.setFld (x.i.sreg (wSD w)) 31 16 (fld w 15 0))).moved
        (x.i.pc + 1))) ∧
      (wOp w = 0x25 → exec (.slane e) s =
        .next ((x.setS (wSD w) ((x.i.vreg (fld w 21 17)).getD (fld w 7 0) 0)).moved (x.i.pc + 1))) ∧
      (wOp w = 0x26 → wFN w = 0 → exec (.scond e) s = .next ((x.setS (wSD w) x.i.cond).moved (x.i.pc + 1))) ∧
      (wOp w = 0x26 → wFN w = 1 → exec (.scond e) s =
        .next (({ x with i := { x.i.setS (wSD w) x.i.cond with cond := 0 } } : Kx).moved (x.i.pc + 1))) ∧
      (wOp w = 0x28 → brTaken (fld w 17 15) (x.i.sreg (wSD w)) (x.i.sreg (wSA w)) = false →
        exec (.br e) s = .next (x.moved (x.i.pc + 1))) ∧
      (wOp w = 0x3F → wFN w = 0 → exec (.ctlNop e) s = .next (x.moved (x.i.pc + 1)))) ∧
    (wOp w = 0x28 → brTaken (fld w 17 15) (x.i.sreg (wSD w)) (x.i.sreg (wSA w)) = true →
      ∀ pc : Nat, (x.i.pc : Int) + sext 15 (fld w 14 0) = pc → pc < x.i.code.length → exec (.br e) s = .next (x.moved pc))

/-- Loads, stores and tile instructions on local memory without lost lines and copies in flight, in bounds and aligned, execute and the
engine moves on (R234, R235, R239, R243): VLD, VST, VLDT, VSTT, SLD, SST, TOP, TRED, VOUTL. -/
def Obligations.LocalMemoryInstructionsComplete : Prop :=
  ∀ (s : State) (e w : Nat) (x : Kx), s.atWord e w = some x → x.i.pc + 1 < x.i.code.length →
    (s.drv e).copies = [] → (s.drv e).bad = [] →
    (wOp w = 0x10 → localFault (mAddr w x.i) 512 64 = 0 → exec (.vld e) s = .next ((x.mapV 0 (fld w 25 21) (fld w 16 14) fun k =>
        (leNat (memReadAt (s.drv e).loc (mAddr w x.i + 4 * k) 4), 0)).moved (x.i.pc + 1))) ∧
    (wOp w = 0x11 → localFault (mAddr w x.i) 512 64 = 0 → exec (.vst e) s = .next ((x.writeLocal (mAddr w x.i)
        (x.i.actives 0 (fld w 16 14)) fun k => (x.i.vreg (fld w 25 21)).getD k 0).moved (x.i.pc + 1)) ∧
      (x.writeLocal (mAddr w x.i) (x.i.actives 0 (fld w 16 14)) fun k => (x.i.vreg (fld w 25 21)).getD k 0).i = x.i) ∧
    (wOp w = 0x12 → x.hasTile (fld w 20 17) = true → exec (.vldt e) s = .next ((kVldt w x).moved (x.i.pc + 1)) ∧
      (fld w 20 17 = 0 → (kVldt w x).s = s)) ∧
    (wOp w = 0x13 → x.hasTile (fld w 20 17) = true → exec (.vstt e) s = .next ((x.setTileRow (fld w 20 17) (rRow w x.i)
        (x.i.actives 0 (fld w 12 10)) fun k => (x.i.vreg (fld w 25 21)).getD k 0).moved (x.i.pc + 1))) ∧
    (wOp w = 0x23 → ∀ a : Nat, slAddr w x.i = a → localFault a 4 4 = 0 →
      exec (.sld e) s = .next ((x.setS (wSD w) (leNat (memReadAt (s.drv e).loc a 4))).moved (x.i.pc + 1))) ∧
    (wOp w = 0x24 → ∀ a : Nat, slAddr w x.i = a → localFault a 4 4 = 0 →
      exec (.sst e) s = .next ((x.writeLocal a [0] fun _ => x.i.sreg (wSD w)).moved (x.i.pc + 1))) ∧
    (wOp w = 0x14 → x.hasTile (fld w 16 13) = true → x.hasTile (fld w 20 17) = true →
      exec (.top e) s = .next ((kTop w x).moved (x.i.pc + 1))) ∧
    (wOp w = 0x15 → x.hasTile (fld w 16 13) = true → exec (.tred e) s = .next ((kTred w x).moved (x.i.pc + 1))) ∧
    (wOp w = 0x1B → x.i.sreg (fld w 20 17) + 16 * x.i.sreg (fld w 12 9) ≤ 524288 →
      x.i.sreg (fld w 16 13) + 8192 * x.i.sreg (fld w 12 9) ≤ 524288 →
      exec (.voutl e) s = .next ((kVoutl w x).moved (x.i.pc + 1)))

/-- A copy is issued where its operands, its access and a place allow it; XWAIT goes on once no copy of its tag is in flight; the tensor
writer opens a closed slot from a valid descriptor, takes a row's columns in order, closes, and reports the counts of an open slot (R239
to R241). -/
def Obligations.CopyAndWriterInstructionsComplete : Prop :=
  ∀ (s : State) (e w : Nat) (x : Kx), s.atWord e w = some x → x.i.pc + 1 < x.i.code.length →
    (wOp w = 0x18 →
      let sl := x.i.sreg (fld w 25 22)
      let sm := fld w 21 18
      let n := x.i.sreg (fld w 17 14)
      ∀ a, sm % 2 = 0 → n % 64 = 0 → 0 < n → localFault sl n 64 = 0 → (x.i.sreg sm + 2 ^ 32 * x.i.sreg (sm + 1)) % 64 = 0 →
        (s.drv e).copies.length < 16 → daddr (x.i.sreg sm + 2 ^ 32 * x.i.sreg (sm + 1)) = .mod a →
        s.memCheck (drvMaster e) (if w.testBit 13 then rightW else rightR) a n = .ok →
        exec (.xcopy e) s = .next (({ x with s := s.updDrv e fun d => { d with copies := d.copies ++
          [{ loc := sl, addr := a, len := n, out := w.testBit 13, tag := fld w 3 0, drop := s.discards x.i.work.own, own := x.i.work.own }] } }
            : Kx).moved (x.i.pc + 1))) ∧
    (wOp w = 0x19 → ((s.drv e).copies.any fun c => w.testBit 4 || decide (c.tag = fld w 3 0)) = false →
      exec (.xwait e) s = .next (x.moved (x.i.pc + 1))) ∧
    (wOp w = 0x1A →
      (wFN w = 0 → (s.drv e).slot (wSlotNo w) = none → (s.drv e).copies = [] → (s.drv e).bad = [] →
        x.i.sreg (fld w 20 17) + 64 ≤ 524288 →
        let t := parseTensor (memReadAt (s.drv e).loc (x.i.sreg (fld w 20 17)) 64)
        t.status = 0 → exec (.wrOpen e) s = .next ((x.setSlot (wSlotNo w) (some t)).moved (x.i.pc + 1))) ∧
      (wFN w = 1 → ∀ t, (s.drv e).slot (wSlotNo w) = some t →
        x.i.sreg (fld w 16 13) = (if t.row = some (x.i.sreg (fld w 20 17)) then t.col else 0) →
        (kWrRow w x).fault = 0 → (kWrRow w x).s.mem.consumed = none →
        exec (.wrRow e) s = .next ((kWrRow w x).moved (x.i.pc + 1))) ∧
      (wFN w = 2 → (s.drv e).slot (wSlotNo w) = none → exec (.wrClose e) s = .next (x.moved (x.i.pc + 1))) ∧
      (wFN w = 2 → ∀ t, (s.drv e).slot (wSlotNo w) = some t → (t.autosum = true → (s.drv e).fifo.length ≤ 61) →
        (x.closeSlot (wSlotNo w)).fault = 0 → (x.closeSlot (wSlotNo w)).s.mem.consumed = none →
        exec (.wrClose e) s = .next ((x.closeSlot (wSlotNo w)).moved (x.i.pc + 1))) ∧
      (∀ t, (s.drv e).slot (wSlotNo w) = some t →
        (wFN w = 3 → exec (.wrSatcnt e) s = .next ((x.setS (fld w 7 4) t.sat).moved (x.i.pc + 1))) ∧
        (wFN w = 4 → exec (.wrUnfcnt e) s = .next ((x.setS (fld w 7 4) t.unf).moved (x.i.pc + 1)))) ∧
      ((s.drv e).slot (wSlotNo w) = none → ∃ v s', s.takeFree = (v, s') ∧
        (wFN w = 3 → exec (.wrSatcnt e) s = .next ((({ x with s := s' } : Kx).setS (fld w 7 4) v).moved (x.i.pc + 1))) ∧
        (wFN w = 4 → exec (.wrUnfcnt e) s = .next ((({ x with s := s' } : Kx).setS (fld w 7 4) v).moved (x.i.pc + 1)))))

/-- TQ reads a word of the entry's header, binds, fills, takes and frees hold entries (Table 7-3); SPUSH appends a record to a FIFO that
is not full (R244); END, which needs a place for its ASAT record, ends the invocation and releases its entry (R217); FAULT, a word that is
no legal instruction, and a word that an uncorrectable error has hit are kernel faults of codes 11, 1 and 10, which end it (R228, R247).
-/
def Obligations.QueueAndEndInstructionsComplete : Prop :=
  (∀ (s : State) (e w : Nat) (x : Kx), s.atWord e w = some x →
    (x.i.pc + 1 < x.i.code.length →
      (wOp w = 0x30 →
        (wFN w = 0 → x.i.sreg (wSA w) < 8 → exec (.tqHdr e) s =
          .next ((x.setS (wSD w) (leAt x.i.work.header (4 * x.i.sreg (wSA w)) 4)).moved (x.i.pc + 1))) ∧
        (wFN w = 0 → 8 ≤ x.i.sreg (wSA w) → ∃ v s', s.takeFree = (v, s') ∧ exec (.tqHdr e) s =
          .next ((({ x with s := s' } : Kx).setS (wSD w) v).moved (x.i.pc + 1))) ∧
        (wFN w = 1 → ∀ h, (s.drv e).findHold 1 (some (x.i.sreg (wSA w))) = some h → exec (.tqHbind e) s =
          .next (({ x with i := { x.i with bound := some (h, false) } } : Kx).moved (x.i.pc + 1))) ∧
        (wFN w = 1 → (s.drv e).findHold 1 (some (x.i.sreg (wSA w))) = none → ∀ h, (s.drv e).findHold 0 none = some h →
          exec (.tqHbind e) s = .next (({ x with
            s := s.updDrv e fun d => d.setHold h { d.hold h with st := 1, key := x.i.sreg (wSA w),
                                                                 target := x.i.sreg (wSB w) % 65536, fill := 0 }
            i := { x.i with bound := some (h, false) } } : Kx).moved (x.i.pc + 1))) ∧
        (wFN w = 2 → ∀ b, x.i.bound = some b → exec (.tqHdone e) s = .next (({ x with
            s := s.updDrv e fun d => d.setHold b.1 { d.hold b.1 with
              fill := (d.hold b.1).fill + 1,
              st := if (d.hold b.1).target ≤ (d.hold b.1).fill + 1 then 2 else (d.hold b.1).st }
            i := { x.i with bound := none } } : Kx).moved (x.i.pc + 1))) ∧
        (wFN w = 3 → ∀ h, (s.drv e).findHold 2 (some (x.i.sreg (wSA w))) = some h → exec (.tqHtake e) s =
          .next (({ x with i := { x.i with bound := some (h, true) } } : Kx).moved (x.i.pc + 1))) ∧
        (wFN w = 4 → ∀ b, x.i.bound = some b → exec (.tqHrel e) s = .next (({ x with
            s := s.updDrv e fun d => d.setHold b.1 { d.hold b.1 with st := 0, fill := 0 }
            i := { x.i with bound := none } } : Kx).moved (x.i.pc + 1)))) ∧
      (wOp w = 0x31 → (s.drv e).fifo.length < 64 → exec (.spush e) s =
        .next ((x.push (x.i.sreg (wSA w)) (x.i.sreg (wSB w))).moved (x.i.pc + 1)))) ∧
    (wOp w = 0x3F → wFN w = 1 → (x.i.asat ≠ none → (s.drv e).fifo.length < 64) → let y := kEnd w x
      exec (.ctlEnd e) s = .next ((y.note.s.endInv e y.note.i).finishWork x.i.work.own)) ∧
    (wOp w = 0x3F → wFN w = 2 → exec (.ctlFault e) s = .next (x.note.s.kfault e x.note.i 11))) ∧
  ∀ (s : State) (e : Nat) (i : Inv), e < 40 → s.failSafe = false → s.mem.consumed = none → (s.drv e).inv = some i →
    ((s.drv e).ibad.contains (i.ofs + i.pc) = false → kLegal (i.code.getD i.pc 0) = false →
      let x : Kx := { s := s, i := i, e := e }
      exec (.illegalInstruction e) s = .next (x.note.s.kfault e x.note.i 1)) ∧
    ((s.drv e).ibad.contains (i.ofs + i.pc) = true →
      exec (.ctlNop e) s = .next (s.kfault e i 10) ∧ exec (.illegalInstruction e) s = .next (s.kfault e i 10))

/-- A request that its master may make, for which a tag is free, to stacks that answer, is served: a write stores its bytes, a read of
lines that are not lost answers their bytes; without a tag, or behind an earlier request of its master, it waits (R362, R366); a register
address is served as a register (R339); a pen-window address of another module becomes a request to it (R451). An uncorrectable error in
control memory asserts the fail-safe trigger (R354); the scrub leaves a corrected line good and an uncorrectable one poisoned (R356); a
migration is ordered, and when it ends the logical channel is served by its spare (R358, R359); SHR_CTL takes QUIESCE (R337). -/
def Obligations.MemoryCommandsComplete : Prop :=
  ∀ s : State,
    (∀ master a n data pen, (pen = true → masterClass master = .shepherd ∨ masterClass master = .dma) →
      (pen = true → Machine.fld a 41 40 = s.self % 4) →
      let a' := if pen then a % 2 ^ 40 else a
      ((∀ off, placeOf s.stripe a' ≠ .regs off) → (∀ r ∈ s.mem.waiting, r.master ≠ master) → s.localTag master = true →
        (data ≠ [] → s.memCheck master rightW a' data.length = .ok → s.reachable a' data.length = true →
          exec (.memoryRequest pen master a n true data) s = .next (s.writeMem master a' data)) ∧
        (0 < n → s.memCheck master rightR a' n = .ok → s.reachable a' n = true → s.rangeBad a' n = false →
          exec (.memoryRequest pen master a n false data) s = .next (((linesOf a' n).foldl (fun t l => t.readLine 0 master l)
            (s.noteTag (masterDie master))).emit (.memData (s.peek a' n))))) ∧
      (∀ off, placeOf s.stripe a' = .regs off → (∀ r ∈ s.mem.waiting, r.master ≠ master) → s.reachable a' n = true →
        exec (.memoryRequest pen master a n false data) s =
          .next (s.regSpace { pen := false, master := master, a := a', n := n } off)) ∧
      ((∀ off, placeOf s.stripe a' ≠ .regs off) → s.localTag master = false →
        exec (.memoryRequest pen master a n false data) s = .next ((s.setWaiting (s.mem.waiting ++
          [{ pen := pen, master := master, a := a, n := n }])).eventF (masterDie master) 0x48 0 1))) ∧
    (∀ master a n data, masterClass master = .shepherd ∨ masterClass master = .dma → Machine.fld a 41 40 ≠ s.self % 4 →
      (∀ r ∈ s.mem.waiting, r.master ≠ master) → s.fabTag (masterDie master) = true →
      exec (.memoryRequest true master a n false data) s = .next (s.penAccess master (a % 2 ^ 42) n none) ∧
      exec (.memoryRequest true master a n true data) s = .next (s.penAccess master (a % 2 ^ 42) data.length (some data))) ∧
    (∀ f off master, exec (.controlMemoryUe false f off master) s = .next (s.assertFs 6) ∧
      (f < 2 → sramRegion off = .firmware → exec (.controlMemoryUe true f off master) s =
        .next (((s.setErrs (sramBase f + off) [(off % 64 / 8, 3)]).logUe 4 master (sramBase f + off)).assertFs 6))) ∧
    (∀ k p o, k < 8 → p < 32 → o < 2 ^ 32 → s.bit 0x1400014 31 = true → s.stackUp k = true →
      (∀ c, s.channelServed k p = some c →
        let a := stackAddr s.stripe k (stackOffset c (o / 64 * 64))
        (s.mark a = .good → exec (.scrubRead k p o) s = .next (s.readLine 2 0 a)) ∧
        (∀ m, s.mark a = .fixed m → exec (.scrubRead k p o) s = .next ((s.readLine 2 0 a).setGood a)) ∧
        (s.mark a = .bad → exec (.scrubRead k p o) s = .next ((s.readLine 2 0 a).poisonLine a))) ∧
      (s.channelServed k p = none → exec (.scrubRead k p o) s = .next (s.scrubSpare k p (o / 64)))) ∧
    (∀ master (w : Word), s.lets master 0x1400018 = true → w.getLsbD 31 = true → wfld w 20 16 < 30 →
      exec (.channelMigrate master w) s =
        .next ((s.setReg 0x1400018 (w &&& 0x071F000F#32)).retireChannel (wfld w 26 24) (wfld w 20 16))) ∧
    (∀ k m, k < 8 → mapGet none s.mem.migs k = some m → m.off = false → m.lch < 30 → m.pch < 32 → s.failSafe = false →
      (∀ x ∈ s.mem.retireWait, x / 32 ≠ k) → (∀ c, c < 30 → s.pch k c = s.pch k m.lch → c = m.lch) →
      ∃ t : State, exec (.migrationDone k) s = .next t ∧ t.pch k m.lch = m.pch ∧ mapGet none t.mem.migs k = none ∧
        mapGet false t.mem.retired (32 * k + s.pch k m.lch) = true) ∧
    (∀ master on, s.lets master 0x1000010 = true → exec (.shrQuiesce master on) s = .next (s.setFld 0x1000010 0 0 (b2n on)) ∧
      (s.setFld 0x1000010 0 0 (b2n on)).bit 0x1000010 0 = on)

/-- What the line codes make of a line (R345 to R348): up to three symbols of a stack line that are in error are corrected, and the read
leaves the line as it was; four or five are uncorrectable; in fold SRAM a bit of each word is corrected and two of one word are
uncorrectable; and a line that was written poisoned reads as poisoned. -/
def Obligations.LineCodesDecodeAsStated : Prop :=
  ∀ (s : State) (master a : Nat), a % 64 = 0 →
    (∀ k o, placeOf s.stripe a = .stack k o → s.unmappedIn (.stack k o) = false → s.silent k (s.pch k (channelOf o).1) = false →
      ((s.errsIn (.stack k o)).length ≤ 3 → (s.mark a).lost = false ∧
        (s.peek a 64 = (List.range 64).map fun i => memByte s.mem.cells (2 ^ 37 * k + o + i)) ∧
        (s.readLine 0 master a).errsIn (.stack k o) = s.errsIn (.stack k o)) ∧
      ((s.errsIn (.stack k o)).length = 4 ∨ (s.errsIn (.stack k o)).length = 5 → s.mark a = .bad) ∧
      (s.poisonLine a).mark a = .poison) ∧
    (∀ f o, placeOf s.stripe a = .sram f o →
      ((∀ e ∈ s.errsIn (.sram f o), e.1 ≠ 8 ∧ popcount 72 e.2 = 1) → (s.mark a).lost = false ∧
        s.peek a 64 = (List.range 64).map fun i => memByte s.mem.cells (2 ^ 40 + 2 ^ 28 * f + o + i)) ∧
      ((∀ e ∈ s.errsIn (.sram f o), e.1 ≠ 8) → (∃ e ∈ s.errsIn (.sram f o), popcount 72 e.2 = 2) → s.mark a = .bad) ∧
      (s.poisonLine a).mark a = .poison)

/-- The bring-up of a port (R413 to R417, R425): signal on four lanes takes it from DETECT to TRAIN; equalised lanes take it to ALIGN, and
a timeout with fewer than four is a failed attempt; the peer's mask takes it to IDENT with the lanes and width both ends have; identity
records are sent; a valid record that says the peer has this end's takes it to ACTIVE where every check passes; a state that lasts too
long is a failed attempt, after whose pause the port tries again; the eighth in a row takes it DOWN. -/
def Obligations.PortBringUpComplete : Prop :=
  ∀ (s : State) (p : Nat), p < 12 → s.linkFw (portDie p) = true →
    (∀ lanes, s.pstate p = 2 → (s.lport p).failed = false → 4 ≤ popcount 8 (((s.lport p).sig ||| lanes) % 256) →
      ∃ t : State, exec (.signalDetect p lanes) s = .next t ∧ t.pstate p = 3 ∧ (t.lport p).sig = ((s.lport p).sig ||| lanes) % 256) ∧
    (s.pstate p = 3 → (s.lport p).failed = false →
      (∀ peer, (s.lport p).sig < 256 → 4 ≤ popcount 8 (s.lport p).sig →
        ∃ t : State, exec (.trainDone p peer) s = .next t ∧ t.pstate p = 4 ∧ (t.lport p).trained = (s.lport p).sig) ∧
      (∀ ok peer, popcount 8 (laneMask fun i => (s.lport p).sig.testBit i && ok.testBit i) < 4 →
        ∃ t : State, exec (.trainTimeout p ok peer) s = .next t ∧
          ((s.lport p).attempts < 7 → (t.lport p).failed = true ∧ (t.lport p).attempts = (s.lport p).attempts + 1) ∧
          (7 ≤ (s.lport p).attempts → t.pstate p = 11))) ∧
    (∀ mask, s.pstate p = 4 → (s.lport p).failed = false → 4 ≤ (s.goodLanes p).length → 4 ≤ popcount 8 mask →
      ∃ t : State, exec (.alignMask p mask 0) s = .next t ∧ t.pstate p = 5 ∧
        t.fld (oPortStat p) 15 12 = widthOf (s.goodLanes p).length (popcount 8 mask)) ∧
    ((s.pstate p = 5 ∨ s.pstate p = 8) →
      exec (.identitySend p) s = .next (s.putFrame p 0 2 false (s.identity p))) ∧
    (∀ r, recordValid r = true → s.pstate p = 5 → (s.lport p).failed = false →
      ((s.lport p).seenGot = true ∨ (leAt r 18 1).testBit 0 = true) →
      exec (.identityRecord p r) s = .next ((s.keepRecord p r).identCheck p r) ∧
      ((s.keepRecord p r).quarReason p r = 0 → ((s.keepRecord p r).identCheck p r).pstate p = 6)) ∧
    ((s.lport p).failed = false →
      (s.pstate p = 4 → exec (.alignTimeout p) s = .next (s.failAttempt p)) ∧
      (s.pstate p = 5 → exec (.identTimeout p) s = .next (s.failAttempt p)) ∧
      ((s.lport p).attempts < 7 →
        s.failAttempt p = s.updPort_ p fun x => { x with attempts := x.attempts + 1, failed := true }) ∧
      (7 ≤ (s.lport p).attempts → (s.failAttempt p).pstate p = 11 ∧ ((s.failAttempt p).lport p).attempts = 0)) ∧
    ((s.lport p).failed = true → exec (.bringupRetry p) s = .next (s.startDetect p) ∧ (s.startDetect p).pstate p = 2)

/-- A port that is up (R409 to R412, R422 to R429, R433): RETRAIN and LANE_CLR start a full bring-up, LANE_CLR with no lane retired; a
frame whose correction fails is an error answered by one NAK; with no acknowledgement in time every buffered frame is sent again; RECOVER
ends with the peer's mask, or in a full bring-up; a SKIP block goes out on each active lane; losing four lanes starts a full bring-up;
FENCE takes the port to PEER_FENCED with nothing queued; an awaited frame that does not come is asked for again. -/
def Obligations.PortFramesComplete : Prop :=
  ∀ (s : State) (p : Nat), p < 12 →
    (∀ master, s.lets master (oPortCtl p) = true → 2 ≤ s.pstate p → s.pstate p ≠ 9 → s.pstate p ≠ 10 →
      exec (.portRetrain master p) s = .next ((s.updPort_ p fun x => { x with attempts := 0 }).startDetect p) ∧
      ∃ t : State, exec (.portLaneClr master p) s = .next t ∧ ∀ i, i < 8 → t.bit (oLane p i) 31 = false) ∧
    (∀ bs, s.portUp p = true → readFrame bs = none → exec (.frameReceive p bs) s =
      .next (((((s.updPort_ p fun x => { x with phase := (x.phase + 256) % max (s.fld (oPortStat p) 15 12) 1 }).frameError p).sendNak
        p)).pumpAll p)) ∧
    (∀ bs f fixed, s.portUp p = true → readFrame bs = some (f, fixed) → Machine.fld (leAt f 0 4) 7 5 = 0 →
      let s2 := (s.countSymbols p fixed).takeAck p (Machine.fld (leAt f 0 4) 19 8) ((leAt f 0 4).testBit 4)
      Machine.fld (leAt f 0 4) 31 20 = (s2.lport p).rxSeq →
      exec (.frameReceive p bs) s = .next (((s2.acceptFrame p (f.drop 4)).putFrame p 0 1 false []).pumpAll p)) ∧
    (s.portUp p = true → (s.lport p).replay ≠ [] → (s.lport p).resends + 1 < max (s.fld oLinkCtl 15 8) 1 →
      ∃ s1 : State, exec (.ackTimeout p) s = .next (s1.resendAll p) ∧ (s1.lport p).replay = (s.lport p).replay ∧
        (s1.lport p).resends = (s.lport p).resends + 1) ∧
    (∀ mask t, s.pstate p = 7 → s.linkFw (portDie p) = true → s.align p mask = some t →
      exec (.recoverDone p mask) s = .next ((((t.setPstate p (if t.fld (oPortStat p) 27 24 = 0 then 6 else 8)).updPort_ p fun x =>
        { x with resends := 0 }).resendAll p).pumpAll p)) ∧
    (s.pstate p = 7 → exec (.recoverTimeout p) s = .next (s.startDetect p)) ∧
    (s.portUp p = true → exec (.skipSend p) s = .next (s.emit (.line p 1 (bitsSet 8 (s.lport p).txLanes)))) ∧
    (∀ lanes, 3 ≤ s.pstate p → s.pstate p ≤ 8 → 4 ≤ (bitsSet 8 (lanes &&& (s.lport p).sig)).length → s.linkFw (portDie p) = true →
      ∃ t : State, exec (.lossOfSignal p lanes) s = .next t ∧ t.pstate p = 2 ∧ (t.lport p).replay = []) ∧
    (2 ≤ s.pstate p → s.pstate p ≤ 8 → ∃ t : State, exec (.fenceReceive p) s = .next t ∧ t.pstate p = 10 ∧
      (t.lport p).replay = [] ∧ (t.lport p).sendq = [] ∧ (t.lport p).rxq = []) ∧
    (s.portUp p = true → (s.lport p).nak = true → exec (.nakResendTimeout p) s = .next (s.putFrame p 0 1 true []))

/-- The oldest packet of its operation, for another module, is forwarded and its buffer freed, whatever its operation (R446); delivered, a
write, read or atomic request that finds a fabric tag of its port's die and that the exporting table and the memory allow is carried out
and answered, and one that the exporting table refuses is answered with a denial (R450, R452); without a tag it waits and a stall is
counted (R362). -/
def Obligations.RemoteRequestPacketsComplete : Prop :=
  ∀ (s : State) (p : Nat) (q : List Byte), p < 12 →
    (∀ op c, (op, c) ∈ [(0, Instr.pktWrite p), (1, .pktRead p), (2, .pktReadData p), (3, .pktWriteAck p), (4, .pktAtomic p),
        (5, .pktAtomicResult p), (11, .pktDenial p), (6, .pktCollectiveData p), (8, .pktCollectiveControl p), (7, .pktRingData p),
        (9, .pktTimeSync p 0), (12, .pktManagement p)] → s.headPacket p op = some q → s.verdict q = .forward →
      exec c s = .next ((s.freePacket p q).route q)) ∧
    (∀ n right, (n = 8 ∧ right = rightAtomic ∨ n = min (pktSeq q) 256 ∧ (right = rightW ∨ right = rightR)) → s.verdict q = .deliver →
      let m := 0x8000 + pktSrc q
      let a := pktAddr q
      let back := pktTag q % 2 ^ 28
      let u := s.noteTag (portDie p)
      (s.fabTag (portDie p) = true →
        (u.aclAllows 33 right m (a / 4096) ((a + max n 1 - 1) / 4096) = true → u.memCheck m right a n = .ok →
          (right = rightW → s.headPacket p 0 = some q → exec (.pktWrite p) s =
            .next ((((u.writeMem m a ((pktPayload q).take n)).poisonBlock a (pktTag q / 2 ^ 28)).respond q 2 3 back 0 []).freePacket p q)) ∧
          (right = rightR → s.headPacket p 1 = some q → exec (.pktRead p) s =
            .next (((((linesOf a n).foldl (fun t l => t.readLine 1 m l) (u.noteTag (masterDie m)))).respond q (if n ≤ 64 then 2 else 3) 2
              (2 ^ 28 * (u.lostLines (.mod a) n a) + back) n (u.peek a n)).freePacket p q)) ∧
          (right = rightAtomic → s.headPacket p 4 = some q →
            let r := u.atomicAt m a (leAt (pktPayload q) 16 1) (leAt (pktPayload q) 0 8) (leAt (pktPayload q) 8 8)
            exec (.pktAtomic p) s = .next ((r.2.2.respond q 2 5 (2 ^ 28 * (b2n r.2.1) + back) 8 (leBytes 8 r.1)).freePacket p q) ∧
            r.1 = leNat (s.peek a 8))) ∧
        (u.aclAllows 33 right m (a / 4096) ((a + max n 1 - 1) / 4096) = false → right = rightW → s.headPacket p 0 = some q →
          exec (.pktWrite p) s = .next (((u.deny 33 right m (a / 4096)).respond q 2 11 back 0 []).freePacket p q))) ∧
      (s.fabTag (portDie p) = false → ∀ op c, (op, c) ∈ [(0, Instr.pktWrite p), (1, .pktRead p), (4, .pktAtomic p)] →
        s.headPacket p op = some q → exec c s = .next (s.eventF (portDie p) 0x48 0 1)))

/-- An answer delivered to the request under its tag: an acknowledgement, data, an atomic's old value or a denial closes the request, the
data landing and the old value being returned; the transfer completes when all its requests are answered, with the denied status after a
denial (R452, R463). A request that is not answered in time ends its transfer with the timeout status (R463). -/
def Obligations.RemoteAnswerPacketsComplete : Prop :=
  ∀ (s : State) (p : Nat) (q : List Byte) (x : Xfer) (r : Rreq), p < 12 →
    s.fab.xfers.find? (·.own = r.own) = some x →
    (s.verdict q = .deliver → s.fab.reqs.find? (fun r => r.tag = pktTag q % 2 ^ 28) = some r →
      let s1 := s.updFab fun g => { g with reqs := g.reqs.filter (·.tag != r.tag) }
      (s.headPacket p 3 = some q → exec (.pktWriteAck p) s = .next (((s1.settleXfer r.own).pumpXfers).freePacket p q)) ∧
      (s.headPacket p 2 = some q → exec (.pktReadData p) s =
        .next ((((s1.landData x r (pktPayload q) (pktTag q / 2 ^ 28)).settleXfer r.own).pumpXfers).freePacket p q)) ∧
      (s.headPacket p 5 = some q →
        let v := s1.putOld (s1.xferWho x.own) x.loc (leAt (pktPayload q) 0 8) (pktTag q / 2 ^ 28 != 0)
        exec (.pktAtomicResult p) s = .next ((((v.2.endXfer x.own v.1).settleXfer r.own).pumpXfers).freePacket p q)) ∧
      (s.headPacket p 11 = some q → exec (.pktDenial p) s =
        .next ((((s1.endXfer x.own stDenied).settleXfer r.own).pumpXfers).freePacket p q))) ∧
    (∀ tag, s.fab.reqs.find? (fun r => r.tag = tag) = some r →
      exec (.remoteReqTimeout tag) s = .next ((s.endXfer r.own stTimeout).pumpXfers) ∧
      (s.endXfer r.own stTimeout).fab.xfers.find? (·.own = r.own) = none)

/-- Collective data and control for a collective in progress join its inbox and let it go on; for one not begun they are kept (R461); ring
data land in their slot (R454); time sync is taken (R464); credits come back (R442); a management packet is delivered (R446). A ring
stream sends the block of its next step (R454); a collective whose packets do not come in time ends with the timeout status (R461). -/
def Obligations.CollectivePacketsComplete : Prop :=
  ∀ (s : State) (p : Nat) (q : List Byte), p < 12 →
    (s.verdict q = .deliver →
      (∀ cls x, (cls = 0 → s.headPacket p 6 = some q) → (0 < cls → s.headPacket p 8 = some q) → (cls = 0 ∨ cls = ctlClass q) → cls < 4 →
        s.fab.colls.find? (fun x => x.chan = 4 * pktGroup q + cls && x.seq = pktSeq q) = some x →
        ∃ k : CPkt, k.group = x.chan ∧ k.seq = x.seq ∧ k.j = Machine.fld (pktTag q) 27 16 ∧
          k.bytes = (pktPayload q).take (pktTag q % 65536) ∧
          let s1 := s.updFab fun f => { f with inbox := f.inbox ++ [k] }
          (cls = 0 → exec (.pktCollectiveData p) s = .next ((s1.advance Coll.finish x.own 64).freePacket p q)) ∧
          (0 < cls → exec (.pktCollectiveControl p) s = .next ((s1.advance finExchange x.own 64).freePacket p q))) ∧
      (∀ t, s.headPacket p 7 = some q → s.landRing p q = some t → exec (.pktRingData p) s = .next (t.freePacket p q)) ∧
      (∀ delay, s.headPacket p 9 = some q → exec (.pktTimeSync p delay) s = .next ((s.takeSync p delay q).freePacket p q)) ∧
      (s.headPacket p 12 = some q → exec (.pktManagement p) s = .next (s.freePacket p q))) ∧
    (s.headPacket p 10 = some q → exec (.pktCredit p) s = .next ((s.updPort_ p fun x =>
      { x with rxq := x.rxq.erase q, used := mapUpd 0 x.used (pktTag q) (· - pktSeq q) }).pumpAll p)) ∧
    (∀ c n, c < 4096 →
      (∀ x, s.failSafe = false → s.fab.streams.find? (·.own = ⟨c, n⟩) = some x →
        exec (.ringStepSend c n) s = .next (s.sendBlock x)) ∧
      (∀ x, s.fab.colls.find? (fun x => x.own = ⟨c, n⟩ && x.kind != .barrier && x.kind != .actions) = some x →
        exec (.collectiveTimeout c n) s = .next ((s.dropColl x).complete c n stTimeout) ∧ x ∉ (s.dropColl x).fab.colls))

/-- The inactive bank is marked complete unless it is in HOLD, which it leaves when its time is over (R449). A master of time sends sync;
ten periods without sync end the lock, and ten without another master's clear the conflict (R464, R465). The barrier of the open step: a
first timeout asks the members, a second leaves the step not committed with ABSENT (R295); the held word is posted again while it is not
answered, and the host's reply begins the second exchange (R296). A feeder's notice and its forwarded decision reach its spare (R483);
with neither in time the spare takes ABSENT, and at the barrier does not commit (R484). -/
def Obligations.BankTimeAndBarrierCommandsComplete : Prop :=
  (∀ s : State,
    (∀ master, s.lets master oEpoch = true → s.bit oEpoch (27 - s.sendEpoch) = false →
      exec (.bankLoad master) s = .next (s.setBit oEpoch (29 - s.sendEpoch)) ∧
      (s.setBit oEpoch (29 - s.sendEpoch)).bankValid (1 - s.sendEpoch) = true) ∧
    (∀ b, b < 2 → exec (.epochHoldExpiry b) s = .next (s.clrBit oEpoch (26 + b)) ∧ (s.clrBit oEpoch (26 + b)).bit oEpoch (26 + b) = false) ∧
    (s.bit oTsCtl 31 = true → s.bit oTsCtl 30 = true → exec .timeSyncSend s = .next (s.sendSync s.self none)) ∧
    (∃ t : State, exec .timeSyncLoss s = .next t ∧ t.bit oTsStat 31 = false ∧ t.fab.tsMaster = none ∧ t.ts = s.ts) ∧
    exec .masterConflictClear s = .next (s.clrBit oTsStat 30) ∧ (s.clrBit oTsStat 30).bit oTsStat 30 = false) ∧
  (∀ (s : State) (b : Barrier), s.failSafe = false → s.trn.barrier = some b →
    (b.held = false → s.role ≠ 1 →
      (b.asked = false → ∃ t : State, exec .barrierResultTimeout s = .next t ∧
        t.trn.barrier = some { b with asked := true } ∧ t.stepNo = s.stepNo) ∧
      (b.asked = true → exec .barrierResultTimeout s =
        .next ((s.raiseFault 3 0x0502 s.trn.group []).settleStep 1 (b.bits ||| (s.contributed b.own).1 ||| 64) (s.contributed b.own).2))) ∧
    (b.held = true → b.action = none → (s.mbx 1 0 1).full = false → exec .heldBarrierRepost s = .next s.postHeld) ∧
    (b.held = true → b.action = none → s.ready = true → (s.mbx 0 0 1).full = true → wfld (s.mbx 0 0 1).data 31 28 = 5 →
      ∀ a, 1 ≤ a → a ≤ 3 → wfld (s.mbx 0 0 1).data 27 24 = a → wfld (s.mbx 0 0 1).data 23 0 = s.stepNo % 2 ^ 24 →
      let s1 := (s.setMbx 0 0 1 { s.mbx 0 0 1 with full := false }).updTrn fun t => { t with barrier := some { b with action := some a } }
      exec .heldBarrierReply s = .next (s1.beginColl finExchange
        { own := b.own, kind := .actions, group := s.trn.group, vals := [b2n (a = 2)] })) ∧
    (s.role = 1 → ∀ p q, p < 12 → s.headPacket p 8 = some q → s.verdict q = .deliver → pktSrc q = s.pairPeer →
      (ctlClass q = 5 → exec (.spareReadyNotice p) s =
        .next ((s.setFlt fun x => { x with spareReady := some (pktSeq q) }).freePacket p q)) ∧
      (ctlClass q = 6 → s.trn.opened = true → pktSeq q = s.stepNo →
        let d := (leAt (pktPayload q) 0 4 % 4, leAt (pktPayload q) 4 4 % 128)
        exec (.spareDecision p) s = .next ((((s.setFlt fun x => { x with spareDecision := some d }).updTrn fun t =>
          { t with barrier := some { b with count := leAt (pktPayload q) 8 4 } }).settleSpare).freePacket p q))) ∧
    (s.role = 1 → s.trn.opened = true → exec .spareNoticeTimeout s =
      .next ((s.setFlt fun x => { x with spareAbsent := true }).settleStep 1 (b.bits ||| 64) b.count)))

/-- A check of a tile at rung 0 judges its fresh samples; a check at rung 1 whose captured input no longer fails ends the ladder (R474,
R475). A limit or a window of the indexed row is written and the row's counts return to 0, as they do when its window ends (R476).
SET_LAST sets the last committed step and GO starts the array pass (R488, Table 14-15), which ends as stopped where a line was lost, else
as complete with its count in a record (R488, R489). A die of a module in ARRAY_INIT leaves HOLD once no run, no reconciliation and no
retry of a rejected tile is left (R96, R137, R177). -/
def Obligations.FaultCommandsComplete : Prop :=
  ∀ s : State,
    (∀ p pt leaves sums n, p < 8 → pt < 8320 → s.servesIndex p pt = some n → s.failSafe = false →
      (s.rung p pt = 0 → exec (.analogueCheck p pt leaves sums) s = .next (s.checkFresh p n pt)) ∧
      (∀ x q, s.rung p pt = 1 → s.flt.samples.find? (fun x => x.of p pt) = some x →
        s.checkSample false x n (s.rereadPart false p n leaves sums) = (some [], q) →
        exec (.analogueCheck p pt leaves sums) s =
          .next ((q.setRung p pt 0).setFlt fun y => { y with samples := y.samples.erase x }))) ∧
    (∀ master win (w : Word), s.lets master (if win then 0x328 else 0x324) = true → s.fld 0x320 3 0 ≤ 13 →
      ∃ t : State, exec (.thresholdWrite master win w) s = .next t ∧
        (win = true → t.thrWindow (s.fld 0x320 3 0) = w.toNat) ∧ (win = false → t.thrLimit (s.fld 0x320 3 0) = w.toNat) ∧
        ∀ k, k / 2 ^ 32 = s.fld 0x320 3 0 → mapGet 0 t.flt.thrCnt k = 0) ∧
    (∀ row, row < 14 → s.thrWindow row ≠ 0 → exec (.thresholdWindowExpiry row) s = .next (s.clearRow row) ∧
      ∀ k, k / 2 ^ 32 = row → mapGet 0 (s.clearRow row).flt.thrCnt k = 0) ∧
    (∀ master, s.lets master 0x314 = true → s.trn.opened = false →
      (∃ t : State, exec (.rebuildSetLast master) s = .next t ∧ t.reg oStepLast = s.reg 0x31C ∧ t.bit oStepLval 0 = true ∧
        t.bit oFltStat 29 = false) ∧
      (s.trn.evalOpen = false → s.fld oRbldStat 31 28 ≠ 1 → exec (.rebuildGo master) s =
        .next (s.setReg oRbldStat (BitVec.ofNat 32 (2 ^ 28))) ∧
        (s.setReg oRbldStat (BitVec.ofNat 32 (2 ^ 28))).fld oRbldStat 31 28 = 1)) ∧
    (∀ fails, s.fld oRbldStat 31 28 = 1 → s.failSafe = false → (∀ p, p < 8 → s.maintenance p = true) →
      let r := (List.range 8).foldl (fun (a : Nat × State) p => let q := a.2.passDie p fails; (a.1 + q.1, q.2)) (0, s)
      (r.2.mem.consumed = s.mem.consumed → exec (.rebuildComplete fails) s =
        .next ((r.2.setReg oRbldStat (BitVec.ofNat 32 (2 ^ 29 + min r.1 (2 ^ 28 - 1)))).raiseFault
          (if s.spanWeights < 100 * r.1 then 1 else 0) 0x0604 0 [r.1])) ∧
      (r.2.mem.consumed ≠ s.mem.consumed → exec (.rebuildComplete fails) s = .next (r.2.setFld oRbldStat 31 28 3))) ∧
    (∀ p failed, p < 8 → s.bootState = 4 → (s.die p).state = .hold → (s.die p).mus.runs = [] → (s.die p).port.toRecon = [] →
      (s.die p).port.recon = [] → (∀ n, n < 8192 → s.toRetry p n = false) → ∃ t : State, exec (.dieRun p failed) s = .next t ∧ (t.die p).state = .run)

/-- The oldest record without a number is sent under the next one to every collector (R480, R562); an unacknowledged record is sent again
(R481); an acknowledgement from a collector marks its record (R481). -/
def Obligations.FaultRecordCommandsComplete : Prop :=
  ∀ s : State, s.mgmtUp = true →
    (∀ i, s.flt.log.findIdx? (·.seq.isNone) = some i → ∃ t : State, exec .faultRecordSend s = .next t ∧
      t.fld oFltSeq 23 0 = (s.fld oFltSeq 23 0 + 1) % 2 ^ 24 ∧
      t.flt.log = s.flt.log.set i { s.flt.log.getD i {} with seq := some ((s.fld oFltSeq 23 0 + 1) % 2 ^ 24) } ∧
      ∀ a, (s.boot.profile.collectors.take 2) = [a] →
        .record a ((s.flt.log.getD i {}).bytes ((s.fld oFltSeq 23 0 + 1) % 2 ^ 24)) ∈ t.out) ∧
    (∀ seq r, s.flt.log.find? (fun r => r.seq = some seq && !r.acked) = some r →
      exec (.faultRecordResend seq) s = .next (s.sendRecord r seq) ∧
      (s.sendRecord r seq).out = ((s.boot.profile.collectors.take 2).map fun a => .record a (r.bytes seq)).reverse ++ s.out) ∧
    (∀ a payload, a ∈ s.boot.profile.collectors.take 2 → payload.length = 8 → leAt payload 0 4 = 0x54464B41 →
      ∃ t : State, exec (.faultRecordAck a payload) s = .next t ∧ t.flt.log.length = s.flt.log.length ∧
        (∀ r ∈ t.flt.log, r.seq = some (leAt payload 4 3) → r.acked = true) ∧
        ∀ r ∈ s.flt.log, r.seq ≠ some (leAt payload 4 3) → r ∈ t.flt.log)

/-- With the standby supply up, the SMBus target answers each command of Table 18-8 with its data, low byte first; writing 1 to a bit of
the alert status clears it; the alert mask is written; the Alert Response Address is answered while ALERT_N is asserted (R560). -/
def Obligations.SmbusCommandsComplete : Prop :=
  ∀ s : State, s.pwr.standby = true →
    exec .smbGlbId s = .next (s.emit (.smbus (leBytes 4 (s.regWordFor mspMaster 0).toNat))) ∧
    exec .smbState s = .next (s.emit (.smbus (leBytes 1 (s.bootState * 16 + b2n s.failSafe * 8 + b2n s.pgood * 4 +
      b2n (s.bit oFltStat 31) * 2 + b2n (s.bit oFltStat 30))))) ∧
    exec .smbVin s = .next (s.emit (.smbus (leBytes 2 (s.fld oPwrIn 31 16)))) ∧
    exec .smbPinAvg s = .next (s.emit (.smbus (leBytes 2 (s.fld oPwrAvg 15 0)))) ∧
    exec .smbTemp s = .next (s.emit (.smbus (leBytes 2 s.hottest))) ∧
    exec .smbFsCause s = .next (s.emit (.smbus (leBytes 1 (s.fld oFsStat 6 0)))) ∧
    exec .smbFltSeq s = .next (s.emit (.smbus (leBytes 3 (s.fld oFltSeq 23 0)))) ∧
    exec .smbAlertStatus s = .next (s.emit (.smbus (leBytes 1 s.mgmt.alert))) ∧
    (∀ v, ∃ t : State, exec (.smbAlertClear v) s = .next t ∧ t.out = s.out ∧
      ∀ i, i < 8 → t.mgmt.alert.testBit i = (s.mgmt.alert.testBit i && !v.testBit i)) ∧
    (∀ v, ∃ t : State, exec (.smbAlertMask (some v)) s = .next t ∧ t.mgmt.mask = v % 256 ∧ t.mgmt.alert = s.mgmt.alert) ∧
    exec (.smbAlertMask none) s = .next (s.emit (.smbus (leBytes 1 s.mgmt.mask))) ∧
    exec .smbSerial s = .next (s.emit (.smbus (leBytes 8 Config.serial))) ∧
    (s.alertN = true → exec .smbAlertResponse s = .next (s.emit (.smbus (leBytes 1 ((0x58 + s.fld oSlot 1 0) * 2)))))

/-- A well-formed management request is answered (R563, R564): STATUS without authentication; the others only when accepted, which stores
the sequence number: FS_EXIT granted or refused with its causes, IMAGE_CHUNK writing into the slot that is not RUN and marking it not
valid, IMAGE_CHECK marking a slot that passes valid, READ_REG with the register's word. Echo and address requests are answered (R561). -/
def Obligations.ManagementCommandsComplete : Prop :=
  ∀ (s : State), s.mgmtUp = true →
    (∀ q, reqFormed q = true → reqOp q = 1 → reqBody q = [] → exec (.status q) s = .next (s.reply q 0 s.statusBody)) ∧
    (∀ q, reqFormed q = true → s.reqAccepted q = true →
      let s1 := { s with mgmt := { s.mgmt with lastSeq := some (reqSeq q) } }
      (reqOp q = 2 → reqBody q = [] →
        ((s1.requestExit).1 = true → exec (.fsExit q) s = .next ((s1.requestExit).2.2.reply q 0 [])) ∧
        ((s1.requestExit).1 = false → exec (.fsExit q) s =
          .next ((s1.requestExit).2.2.reply q 2 (leBytes 4 (s1.requestExit).2.1)))) ∧
      (reqOp q = 4 → ∀ t off data, reqBody q = leBytes 1 t ++ leBytes 4 off ++ data → t < 256 → off < 2 ^ 32 → data ≠ [] →
        data.length ≤ 1000 → s.bit oFwStat 31 = false → 1 ≤ t → t ≤ 8 → off + data.length ≤ slotSize t →
        off = (s.slotBytes t (!s.runSlot t)).length →
        exec (.imageChunk q) s =
          .next ((s1.putSlot t (!s1.runSlot t) (s1.slotBytes t (!s1.runSlot t) ++ data) false).reply q 0 [])) ∧
      (reqOp q = 5 → (reqBody q).length = 1 → s.bit oFwStat 31 = false → 1 ≤ leAt (reqBody q) 0 1 → leAt (reqBody q) 0 1 ≤ 8 →
        let t := leAt (reqBody q) 0 1
        (s1.checkSlot t (!s1.runSlot t) = 0 → exec (.imageCheck q) s =
          .next ((s1.putSlot t (!s1.runSlot t) (s1.slotBytes t (!s1.runSlot t)) true).reply q 0 [])) ∧
        (s1.checkSlot t (!s1.runSlot t) ≠ 0 → exec (.imageCheck q) s = .next (s1.reply q 2 []))) ∧
      (reqOp q = 6 → (reqBody q).length = 4 → s.pgood = true → exec (.readReg q) s =
        .next ((s1.readEffect (leAt (reqBody q) 0 4)).reply q 0 (leBytes 4 (s1.regWordFor mspMaster (leAt (reqBody q) 0 4)).toNat)))) ∧
    (∀ data, exec (.icmpEcho data) s = .next (s.emit (.net 0 data))) ∧
    exec (.arpRequest true false) s = .next (s.emit (.net 1 (beBytes 6 Config.macAddr))) ∧
    exec (.arpRequest true true) s = .next (s.emit (.net 2 (beBytes 6 Config.macAddr)))

/-- An address of the striped pool lies in stack (a >> 12) & 7 at offset ((a >> 15) << 12) | (a & 0xFFF), the next 4 KiB lying in the next
stack; an address of a stack-local window lies in that stack at Z GiB plus its distance from the base of the window (R341). A stack offset
o lies in logical channel ⌊o / 256⌋ mod 30 at channel offset ⌊o / 7,680⌋ × 256 + o mod 256, and a run of 7,680 bytes visits the 30
channels in 256-byte pieces (R342). -/
def Obligations.PoolAndWindowAddressesLieAsStated : Prop :=
  ∀ z a : Nat, z ≤ 120 →
    (a < 2 ^ 30 * (8 * z) →
      placeOf z a = .stack ((a >>> 12) &&& 7) (((a >>> 15) <<< 12) ||| (a &&& 0xFFF)) ∧
      (a + 4096 < 2 ^ 30 * (8 * z) → (placeOf z (a + 4096)).stackOf = some ((((a >>> 12) &&& 7) + 1) % 8))) ∧
    (∀ k, k < 8 → windowBase z k ≤ a → a < windowBase z k + 2 ^ 30 * (120 - z) →
      placeOf z a = .stack k (2 ^ 30 * z + (a - windowBase z k))) ∧
    channelOf a = (a / 256 % 30, a / 7680 * 256 + a % 256) ∧
    (∀ c, c < 30 → a % 256 = 0 → ∃ j, j < 30 ∧ ∀ b, b < 256 → (channelOf (a + 256 * j + b)).1 = c)

/-- No two addresses of the module's memory share a byte (R340 to R342). Bytes written where no line is lost read as what was written,
their lines stay good, and every other byte reads as before (R350). -/
def Obligations.MemoryReadsWhatWasWrittenAndSharesNoByte : Prop :=
  (∀ z a b : Nat, z ≤ 120 → (placeOf z a).key.isSome = true → (placeOf z a).key = (placeOf z b).key → a = b) ∧
  (∀ (s : State) (master a : Nat) (bs : List Byte),
    (∀ i, i < bs.length → (placeOf s.stripe (a + i)).key.isSome = true ∧ s.mark (a + i) = .good) →
    let t := s.writeMem master a bs
    t.peek a bs.length = bs ∧ (∀ i, i < bs.length → t.mark (a + i) = .good) ∧
    ∀ x, x < a ∨ a + bs.length ≤ x → t.peek x 1 = s.peek x 1)

/-- A row of a whole-column write takes dM = clamp(⌊(W + 4) / 8⌋, −15, +15) and dm = W − 8·dM, within −4 to +3 wherever the major range
allows (R103): the cells then read as code W with levels of 0 to 15, a pair whose difference was already that is left alone, another takes
its canonical levels, and no other cells change. -/
def Obligations.WholeColumnWritesPlaceTheCode : Prop :=
  ∀ (s : State) (p pt pcol row copy n : Nat) (w : Int), -135 ≤ w → w ≤ 135 →
    let f := s.cells p pt row pcol
    let t := (s.writeRow p pt pcol row copy w [] n).2
    let c := t.cells p pt row pcol
    let q := (w + 4) / 8
    let dM := if q < -15 then -15 else if 15 < q then 15 else q
    let dm := w - 8 * dM
    (c.mp : Int) - c.mm = dM ∧ (c.np : Int) - c.nm = dm ∧ c.code = w ∧ (-15 ≤ q → q ≤ 15 → -4 ≤ dm ∧ dm ≤ 3) ∧
    (if (f.mp : Int) - f.mm = dM then c.mp = f.mp ∧ c.mm = f.mm else (c.mp : Int) = max dM 0 ∧ (c.mm : Int) = max (-dM) 0 ∧ c.mp ≤ 15 ∧ c.mm ≤ 15) ∧
    (if (f.np : Int) - f.nm = dm then c.np = f.np ∧ c.nm = f.nm else (c.np : Int) = max dm 0 ∧ (c.nm : Int) = max (-dm) 0 ∧ c.np ≤ 15 ∧ c.nm ≤ 15) ∧
    ∀ p' pt' row' pcol', p' ≠ p ∨ cellKey pt' row' pcol' ≠ cellKey pt row pcol → t.cells p' pt' row' pcol' = s.cells p' pt' row' pcol'

/-- A counter counts modulo 2^48; passing 2^48 − 1 sets its overflow bit, and with OVF_IRQ set and the bit newly set, GLB_IRQ_STAT.CNT_OVF
(R543); no other counter changes. Writing CNT_VAL_LO loads the counter with this word and the held high word; reading it answers the low
word and latches the high one (R542), and a refused read answers 0 (R372); CNT_CTL.FREEZE is written (R539). -/
def Obligations.CountersCountWrapAndRead : Prop :=
  (∀ (s : State) (d i n : Nat), d < 10 → i < 64 →
    let v := mapGet 0 s.cnt.val (64 * d + i) + n
    let off := 0x1C00000 + d * 0x1000 + 4 * (i / 32)
    let t := s.cntAdd d i n
    mapGet 0 t.cnt.val (64 * d + i) = v % 2 ^ 48 ∧
    (∀ k, k ≠ 64 * d + i → mapGet 0 t.cnt.val k = mapGet 0 s.cnt.val k) ∧
    (v < 2 ^ 48 → t.regs = s.regs ∧ t.out = s.out) ∧
    (2 ^ 48 ≤ v → t.bit off (i % 32) = true ∧
      (s.bit (cntCfg d i) 28 = true → s.bit off (i % 32) = false → t.bit 0x20 4 = true) ∧
      ((s.bit (cntCfg d i) 28 = false ∨ s.bit off (i % 32) = true) → t.reg 0x20 = s.reg 0x20))) ∧
  (∀ (s : State) (master : Nat),
    (∀ d i, d < 10 → i < cntCount d →
      (∀ w : Word, s.lets master (cntCfg d i + 0xC) = true → ∃ t : State, exec (.counterLoad master d i w) s = .next t ∧
        mapGet 0 t.cnt.val (64 * d + i) = 2 ^ 32 * mapGet 0 s.cnt.wrHold (64 * d + i) + w.toNat ∧
        ∀ k, k ≠ 64 * d + i → mapGet 0 t.cnt.val k = mapGet 0 s.cnt.val k) ∧
      (s.letsRead master (cntCfg d i + 0xC) = true → ∃ t : State, exec (.counterReadLatch master d i) s = .next t ∧
        t.out = .readData (BitVec.ofNat 32 (mapGet 0 s.cnt.val (64 * d + i))) :: s.out ∧
        mapGet 0 t.cnt.rdLatch (64 * d + i) = mapGet 0 s.cnt.val (64 * d + i) / 2 ^ 32 ∧ t.cnt.val = s.cnt.val) ∧
      (s.letsRead master (cntCfg d i + 0xC) = false → ∃ t : State, exec (.counterReadLatch master d i) s = .next t ∧
        t.out.head? = some (.readData 0) ∧ t.cnt.rdLatch = s.cnt.rdLatch)) ∧
    (∀ freeze, s.lets master 0x1C0A000 = true →
      exec (.counterFreeze master freeze) s = .next (s.setFld 0x1C0A000 0 0 (b2n freeze)) ∧
      (s.setFld 0x1C0A000 0 0 (b2n freeze)).bit 0x1C0A000 0 = freeze))

/-- In the fail-safe state doorbells are dropped and a write by a host changes nothing, but to GLB_CTL and GLB_IRQ_STAT (R405); before
READY, doorbells are dropped, and so are host writes to blocks other than the global, clock and power, mailbox and monitor blocks (R404).
-/
def Obligations.HostWritesAreIgnoredOutsideTheirStates : Prop :=
  ∀ (s : State) (master : Nat), firmwareMaster master = false →
    (s.failSafe = true ∨ s.ready = false → ∀ link func page v, link < 2 → func < 64 →
      exec (.doorbellTail link func page v) s = .next s ∧ exec (.doorbellHead link func page v) s = .next s) ∧
    (∀ off w, (s.failSafe = true ∧ off ≠ 0x14 ∧ off ≠ 0x20) ∨
        (s.failSafe = false ∧ s.bootState ≠ 5 ∧ (regBlock off).1 ≠ 0 ∧ (regBlock off).1 ≠ 1 ∧ (regBlock off).1 ≠ 3 ∧ (regBlock off).1 ≠ 11) →
      mbxWordAt off = none → ctxCtlAt off = none →
      exec (.registerWrite master off w) s = .next s ∧ exec (.stagedRegisterWrite master off w) s = .next s) ∧
    (s.failSafe = true → ∀ w, exec (.powerCapWrite master w) s = .next s ∧ exec (.watchdogKick master w) s = .next s ∧
      exec (.aclSync master) s = .next s)
end

