-- ==== Sys2Proof/Laws/Bits.lean ====
section
/-! SUPPORT. Bit fields: what a field reads as after a field, a bit or a whole word is written. -/

namespace Sys2Proof.Machine

theorem testBit_fld (w hi lo i : Nat) : (fld w hi lo).testBit i = (decide (i < hi + 1 - lo) && w.testBit (lo + i)) := by
  simp [fld, Nat.testBit_mod_two_pow, Nat.testBit_shiftRight]

theorem testBit_setFld (w hi lo v i : Nat) (h : lo ≤ hi) :
    (setFld w hi lo v).testBit i = if lo ≤ i ∧ i ≤ hi then v.testBit (i - lo) else w.testBit i := by
  have e : setFld w hi lo v =
      (w >>> (hi + 1)) <<< (hi + 1) ||| ((v % 2 ^ (hi + 1 - lo)) <<< lo ||| w % 2 ^ lo) := by
    have h1 : (v % 2 ^ (hi + 1 - lo)) <<< lo ||| w % 2 ^ lo = (v % 2 ^ (hi + 1 - lo)) <<< lo + w % 2 ^ lo :=
      (Nat.shiftLeft_add_eq_or_of_lt (Nat.mod_lt _ (by positivity)) _).symm
    have hb : (v % 2 ^ (hi + 1 - lo)) <<< lo + w % 2 ^ lo < 2 ^ (hi + 1) := by
      have a := Nat.mod_lt v (show 0 < 2 ^ (hi + 1 - lo) by positivity)
      have b := Nat.mod_lt w (show 0 < 2 ^ lo by positivity)
      have c : 2 ^ (hi + 1) = 2 ^ (hi + 1 - lo) * 2 ^ lo := by rw [← Nat.pow_add]; congr 1; omega
      have m := Nat.mul_le_mul_right (2 ^ lo) (Nat.succ_le_of_lt a)
      rw [Nat.succ_mul] at m
      rw [Nat.shiftLeft_eq, c]
      omega
    rw [h1, ← Nat.shiftLeft_add_eq_or_of_lt hb]
    simp only [setFld]
    omega
  rw [e]
  simp only [Nat.testBit_or, Nat.testBit_shiftLeft, Nat.testBit_shiftRight, Nat.testBit_mod_two_pow]
  by_cases h1 : lo ≤ i
  · by_cases h2 : i ≤ hi
    · rw [if_pos ⟨h1, h2⟩]
      simp [h1, show ¬ hi + 1 ≤ i by omega, show i - lo < hi + 1 - lo by omega, show ¬ i < lo by omega]
    · rw [if_neg (by omega)]
      simp [show hi + 1 ≤ i by omega, show ¬ i - lo < hi + 1 - lo by omega, show ¬ i < lo by omega,
        show hi + 1 + (i - (hi + 1)) = i by omega]
  · rw [if_neg (by omega)]
    simp [h1, show ¬ hi + 1 ≤ i by omega, show i < lo by omega]

theorem setFld_lt (w hi lo v n : Nat) (h : lo ≤ hi) (hn : hi < n) (hw : w < 2 ^ n) : setFld w hi lo v < 2 ^ n := by
  apply Nat.lt_pow_two_of_testBit
  intro i hi'
  rw [testBit_setFld _ _ _ _ _ h, if_neg (by omega)]
  exact Nat.testBit_lt_two_pow (Nat.lt_of_lt_of_le hw (Nat.pow_le_pow_right (by omega) hi'))

/-- A field written reads as what was written, cut to its width. -/
theorem wfld_wset_self (w : Word) (hi lo v : Nat) (h : lo ≤ hi) (h32 : hi < 32) :
    wfld (wset w hi lo v) hi lo = v % 2 ^ (hi + 1 - lo) := by
  have e : (wset w hi lo v).toNat = setFld w.toNat hi lo v := by
    rw [wset, BitVec.toNat_ofNat, Nat.mod_eq_of_lt (setFld_lt _ _ _ _ _ h h32 w.isLt)]
  apply Nat.eq_of_testBit_eq
  intro i
  simp only [wfld, testBit_fld, e, testBit_setFld _ _ _ _ _ h, Nat.testBit_mod_two_pow]
  by_cases hi' : i < hi + 1 - lo
  · rw [if_pos (by omega)]; simp [hi']
  · simp [hi']

/-- A field apart from the one written reads as before. -/
theorem wfld_wset_ne (w : Word) (hi lo v a b : Nat) (h : lo ≤ hi) (h32 : hi < 32) (hd : a < lo ∨ hi < b) :
    wfld (wset w hi lo v) a b = wfld w a b := by
  have e : (wset w hi lo v).toNat = setFld w.toNat hi lo v := by
    rw [wset, BitVec.toNat_ofNat, Nat.mod_eq_of_lt (setFld_lt _ _ _ _ _ h h32 w.isLt)]
  apply Nat.eq_of_testBit_eq
  intro i
  simp only [wfld, testBit_fld, e, testBit_setFld _ _ _ _ _ h]
  by_cases hi' : i < a + 1 - b
  · rw [if_neg (by omega)]
  · simp [hi']

theorem getLsbD_wset (w : Word) (hi lo v i : Nat) (h : lo ≤ hi) (h32 : hi < 32) :
    (wset w hi lo v).getLsbD i = if lo ≤ i ∧ i ≤ hi then v.testBit (i - lo) else w.getLsbD i := by
  rw [BitVec.getLsbD, wset, BitVec.toNat_ofNat, Nat.mod_eq_of_lt (setFld_lt _ _ _ _ _ h h32 w.isLt),
    testBit_setFld _ _ _ _ _ h]
  rfl

@[simp] theorem getLsbD_wsetBit (w : Word) (i j : Nat) :
    (wsetBit w i).getLsbD j = (w.getLsbD j || (decide (j = i) && decide (i < 32))) := by
  simp only [wsetBit, BitVec.getLsbD_or, BitVec.getLsbD_shiftLeft, BitVec.getLsbD_one]
  congr 1
  by_cases h : j = i
  · subst h; simp
  · simp only [h, decide_false, Bool.false_and]
    by_cases h2 : j < i
    · simp [h2]
    · have : ¬ j - i = 0 := by omega
      simp [this]

@[simp] theorem getLsbD_wclrBit (w : Word) (i j : Nat) :
    (wclrBit w i).getLsbD j = (w.getLsbD j && !(decide (j = i))) := by
  by_cases hj : j < 32
  · simp only [wclrBit, BitVec.getLsbD_and, BitVec.getLsbD_not, BitVec.getLsbD_shiftLeft, BitVec.getLsbD_one, hj, decide_true,
      Bool.true_and]
    by_cases h : j = i
    · subst h; simp
    · simp only [h, decide_false, Bool.not_false, Bool.and_true]
      by_cases h2 : j < i
      · simp [h2]
      · have : ¬ j - i = 0 := by omega
        simp [this]
  · rw [BitVec.getLsbD_of_ge _ _ (by omega), BitVec.getLsbD_of_ge w _ (by omega)]; simp

/-- A field without the bit that is set or cleared reads as before. -/
theorem wfld_wsetBit_ne (w : Word) (i a b : Nat) (hd : a < i ∨ i < b) : wfld (wsetBit w i) a b = wfld w a b := by
  apply Nat.eq_of_testBit_eq
  intro j
  simp only [wfld, testBit_fld]
  by_cases hj : j < a + 1 - b
  · have := getLsbD_wsetBit w i (b + j)
    simp only [BitVec.getLsbD] at this
    rw [this]
    have : ¬ b + j = i := by omega
    simp [this]
  · simp [hj]

theorem wfld_wclrBit_ne (w : Word) (i a b : Nat) (hd : a < i ∨ i < b) : wfld (wclrBit w i) a b = wfld w a b := by
  apply Nat.eq_of_testBit_eq
  intro j
  simp only [wfld, testBit_fld]
  by_cases hj : j < a + 1 - b
  · have := getLsbD_wclrBit w i (b + j)
    simp only [BitVec.getLsbD] at this
    rw [this]
    have : ¬ b + j = i := by omega
    simp [this]
  · simp [hj]

end Sys2Proof.Machine
end

