-- ==== Sys2Proof/Laws/Maps.lean ====
section
/-! SUPPORT. The sparse tables: a read after a write, and the canonical form every operation keeps. -/

namespace Sys2Proof.Machine

@[simp] theorem mapGet_nil {α : Type} (d : α) (i : Nat) : mapGet d [] i = d := rfl
@[simp] theorem mapFind_nil {α : Type} (i : Nat) : mapFind ([] : Map α) i = none := rfl

/-- A key written reads as what was written. -/
@[simp] theorem mapGet_mapIns_self {α : Type} (d : α) (m : Map α) (i : Nat) (a : α) : mapGet d (mapIns m i a) i = a := by
  induction m with
  | nil => simp [mapIns, mapGet]
  | cons kv m ih =>
    obtain ⟨k, v⟩ := kv
    simp only [mapIns]
    split
    · simp [mapGet]
    · split
      · simp [mapGet]
      · rename_i h; simp [mapGet, h, ih]

/-- Every other key reads as before. -/
theorem mapGet_mapIns_ne {α : Type} (d : α) (m : Map α) {i j : Nat} (a : α) (h : j ≠ i) :
    mapGet d (mapIns m i a) j = mapGet d m j := by
  induction m with
  | nil => simp [mapIns, mapGet, h]
  | cons kv m ih =>
    obtain ⟨k, v⟩ := kv
    simp only [mapIns]
    split
    · simp [mapGet, h]
    · split
      · rename_i h'; subst h'; simp [mapGet, h]
      · simp [mapGet, ih]

@[simp] theorem mapGet_mapErase_self {α : Type} (d : α) (m : Map α) (i : Nat) : mapGet d (mapErase m i) i = d := by
  induction m with
  | nil => rfl
  | cons kv m ih =>
    obtain ⟨k, v⟩ := kv
    simp only [mapErase]
    split
    · exact ih
    · rename_i h; simp [mapGet, h, ih]

theorem mapGet_mapErase_ne {α : Type} (d : α) (m : Map α) {i j : Nat} (h : j ≠ i) :
    mapGet d (mapErase m i) j = mapGet d m j := by
  induction m with
  | nil => rfl
  | cons kv m ih =>
    obtain ⟨k, v⟩ := kv
    simp only [mapErase]
    split
    · rename_i h'; subst h'; simp [mapGet, h, ih]
    · simp [mapGet, ih]

/-- A key written, with its default or another value, reads as what was written. -/
@[simp] theorem mapGet_mapSet_self {α : Type} [DecidableEq α] (d : α) (m : Map α) (i : Nat) (a : α) :
    mapGet d (mapSet d m i a) i = a := by
  simp only [mapSet]
  split <;> simp_all

theorem mapGet_mapSet_ne {α : Type} [DecidableEq α] (d : α) (m : Map α) {i j : Nat} (a : α) (h : j ≠ i) (e : α) :
    mapGet e (mapSet d m i a) j = mapGet e m j := by
  simp only [mapSet]
  split
  · exact mapGet_mapErase_ne e m h
  · exact mapGet_mapIns_ne e m a h

/-- A read after a write. -/
theorem mapGet_mapSet {α : Type} [DecidableEq α] (d : α) (m : Map α) (i j : Nat) (a : α) :
    mapGet d (mapSet d m i a) j = if j = i then a else mapGet d m j := by
  by_cases h : j = i
  · subst h; simp
  · rw [if_neg h, mapGet_mapSet_ne d m a h]

theorem keysAbove_mono {α : Type} {m : Map α} {a b : Nat} (h : b ≤ a) (k : keysAbove a m = true) : keysAbove b m = true := by
  cases m with
  | nil => rfl
  | cons kv m =>
    simp only [keysAbove, Bool.and_eq_true, decide_eq_true_eq] at k ⊢
    exact ⟨by omega, k.2⟩

theorem keysAbove_mapErase {α : Type} {m : Map α} {b : Nat} (i : Nat) (k : keysAbove b m = true) :
    keysAbove b (mapErase m i) = true := by
  induction m generalizing b with
  | nil => exact k
  | cons kv m ih =>
    simp only [keysAbove, Bool.and_eq_true, decide_eq_true_eq] at k
    simp only [mapErase]
    split
    · exact ih (keysAbove_mono (by omega) k.2)
    · simp only [keysAbove, Bool.and_eq_true, decide_eq_true_eq]
      exact ⟨k.1, ih k.2⟩

theorem keysAbove_mapIns {α : Type} {m : Map α} {b i : Nat} (a : α) (h : b < i) (k : keysAbove b m = true) :
    keysAbove b (mapIns m i a) = true := by
  induction m generalizing b with
  | nil => simp [mapIns, keysAbove, h]
  | cons kv m ih =>
    simp only [keysAbove, Bool.and_eq_true, decide_eq_true_eq] at k
    simp only [mapIns]
    split
    · rename_i h'
      simp only [keysAbove, Bool.and_eq_true, decide_eq_true_eq]
      exact ⟨h, h', k.2⟩
    · split
      · rename_i h'
        simp only [keysAbove, Bool.and_eq_true, decide_eq_true_eq]
        exact ⟨h, by rw [h']; exact k.2⟩
      · simp only [keysAbove, Bool.and_eq_true, decide_eq_true_eq]
        exact ⟨k.1, ih (by omega) k.2⟩

/-- The canonical form, key order and values apart. -/
theorem mapWf_cons {α : Type} [DecidableEq α] (d : α) (k : Nat) (v : α) (m : Map α) :
    mapWf d ((k, v) :: m) = true ↔ keysAbove k m = true ∧ v ≠ d ∧ m.all (fun kv => decide (kv.2 ≠ d)) = true := by
  simp [mapWf]

theorem mapWf_tail {α : Type} [DecidableEq α] {d : α} {kv : Nat × α} {m : Map α} (h : mapWf d (kv :: m) = true) :
    mapWf d m = true := by
  obtain ⟨k, v⟩ := kv
  rw [mapWf_cons] at h
  cases m with
  | nil => rfl
  | cons kv m =>
    obtain ⟨k', v'⟩ := kv
    simp only [keysAbove, List.all_cons, Bool.and_eq_true, decide_eq_true_eq] at h
    rw [mapWf_cons]
    exact ⟨h.1.2, h.2.2.1, h.2.2.2⟩

theorem mapWf_intro {α : Type} [DecidableEq α] {d : α} {k : Nat} {v : α} {m : Map α} (hk : keysAbove k m = true) (hv : v ≠ d)
    (hm : mapWf d m = true) : mapWf d ((k, v) :: m) = true := by
  rw [mapWf_cons]
  refine ⟨hk, hv, ?_⟩
  simp only [mapWf, Bool.and_eq_true] at hm
  exact hm.2

/-- Removing a key keeps the canonical form. -/
theorem mapWf_mapErase {α : Type} [DecidableEq α] {d : α} {m : Map α} (i : Nat) (h : mapWf d m = true) :
    mapWf d (mapErase m i) = true := by
  induction m with
  | nil => exact h
  | cons kv m ih =>
    obtain ⟨k, v⟩ := kv
    have ht := ih (mapWf_tail h)
    rw [mapWf_cons] at h
    simp only [mapErase]
    split
    · exact ht
    · exact mapWf_intro (keysAbove_mapErase i h.1) h.2.1 ht

/-- Inserting a value other than the default keeps the canonical form. -/
theorem mapWf_mapIns {α : Type} [DecidableEq α] {d : α} {m : Map α} (i : Nat) {a : α} (ha : a ≠ d) (h : mapWf d m = true) :
    mapWf d (mapIns m i a) = true := by
  induction m with
  | nil => simp [mapIns, mapWf, keysAbove, ha]
  | cons kv m ih =>
    obtain ⟨k, v⟩ := kv
    have ht := ih (mapWf_tail h)
    have hm := mapWf_tail h
    have h' := h
    rw [mapWf_cons] at h
    simp only [mapIns]
    split
    · rename_i hi
      exact mapWf_intro (by simp [keysAbove, hi, h.1]) ha h'
    · split
      · rename_i hi
        exact mapWf_intro (by rw [hi]; exact h.1) ha hm
      · exact mapWf_intro (keysAbove_mapIns a (by omega) h.1) h.2.1 ht

/-- A write keeps the canonical form. -/
theorem mapWf_mapSet {α : Type} [DecidableEq α] {d : α} {m : Map α} (i : Nat) (a : α) (h : mapWf d m = true) :
    mapWf d (mapSet d m i a) = true := by
  simp only [mapSet]
  split
  · exact mapWf_mapErase i h
  · exact mapWf_mapIns i (by assumption) h

theorem keysAbove_filter {α : Type} {m : Map α} {b : Nat} (f : Nat × α → Bool) (k : keysAbove b m = true) :
    keysAbove b (m.filter f) = true := by
  induction m generalizing b with
  | nil => rfl
  | cons kv m ih =>
    simp only [keysAbove, Bool.and_eq_true, decide_eq_true_eq] at k
    simp only [List.filter_cons]
    split
    · simp only [keysAbove, Bool.and_eq_true, decide_eq_true_eq]
      exact ⟨k.1, ih k.2⟩
    · exact ih (keysAbove_mono (by omega) k.2)

/-- Leaving keys out keeps the canonical form. -/
theorem mapWf_filter {α : Type} [DecidableEq α] {d : α} {m : Map α} (f : Nat × α → Bool) (h : mapWf d m = true) :
    mapWf d (m.filter f) = true := by
  cases m with
  | nil => rfl
  | cons kv m =>
    simp only [mapWf, Bool.and_eq_true] at h
    have a : (List.filter f (kv :: m)).all (fun kv => decide (kv.2 ≠ d)) = true := by
      simp only [List.all_eq_true] at h ⊢
      exact fun x hx => h.2 x (List.mem_of_mem_filter hx)
    have b := keysAbove_filter f h.1
    simp only [List.filter_cons] at a ⊢
    split
    · rename_i c
      rw [if_pos c] at a
      simp only [mapWf, Bool.and_eq_true]
      exact ⟨b, a⟩
    · rename_i c
      rw [if_neg c] at a
      cases e : List.filter f m with
      | nil => rfl
      | cons x l =>
        rw [e] at a b
        simp only [keysAbove, Bool.and_eq_true] at b
        simp only [mapWf, Bool.and_eq_true]
        exact ⟨b.2, a⟩

end Sys2Proof.Machine
end

