-- ==== Sys2Proof/Laws/State.lean ====
section
/-! SUPPORT. What the basic updates of the state leave unchanged, field by field, and what a register reads as after one. -/

namespace Sys2Proof.Machine

variable (s : State) (o h l v i j o' h' l' : Nat) (w w' : Word) (y : Out) (bs : List Byte) (cx : Ctx) (fTrn : Trn → Trn)
  (fDrv : Drv → Drv) (fMu : Mu → Mu) (msp : Msp) (tst : Test) (die : Die) (fCh : AChain → AChain) (fMon : Mon → Mon)
  (fFab : Fab → Fab) (shr : Shr) (fFlt : Flt → Flt) (fPwr : Pwr → Pwr)
  (fDie : Die → Die) (fPort : Port → Port) (fTile : Tile → Tile) (fMus : Mus → Mus) (fPd : PdCopy → PdCopy)

@[simp] theorem State.setReg_pending : (s.setReg o w).pending = s.pending := rfl
@[simp] theorem State.setReg_free : (s.setReg o w).free = s.free := rfl
@[simp] theorem State.setReg_out : (s.setReg o w).out = s.out := rfl
@[simp] theorem State.setReg_ts : (s.setReg o w).ts = s.ts := rfl
@[simp] theorem State.setReg_shadow : (s.setReg o w).shadow = s.shadow := rfl
@[simp] theorem State.setReg_host : (s.setReg o w).host = s.host := rfl
@[simp] theorem State.setReg_mem : (s.setReg o w).mem = s.mem := rfl
@[simp] theorem State.setReg_flt : (s.setReg o w).flt = s.flt := rfl
@[simp] theorem State.setReg_cnt : (s.setReg o w).cnt = s.cnt := rfl
@[simp] theorem State.setReg_pwr : (s.setReg o w).pwr = s.pwr := rfl
@[simp] theorem State.setReg_boot : (s.setReg o w).boot = s.boot := rfl
@[simp] theorem State.setReg_mgmt : (s.setReg o w).mgmt = s.mgmt := rfl
@[simp] theorem State.setReg_trn : (s.setReg o w).trn = s.trn := rfl
@[simp] theorem State.setReg_dies : (s.setReg o w).dies = s.dies := rfl
@[simp] theorem State.setReg_mons : (s.setReg o w).mons = s.mons := rfl
@[simp] theorem State.setReg_tests : (s.setReg o w).tests = s.tests := rfl
@[simp] theorem State.setReg_shrs : (s.setReg o w).shrs = s.shrs := rfl
@[simp] theorem State.setReg_units : (s.setReg o w).units = s.units := rfl
@[simp] theorem State.setReg_drvs : (s.setReg o w).drvs = s.drvs := rfl
@[simp] theorem State.setReg_chains : (s.setReg o w).chains = s.chains := rfl
@[simp] theorem State.setReg_pstore : (s.setReg o w).pstore = s.pstore := rfl
@[simp] theorem State.setReg_fab : (s.setReg o w).fab = s.fab := rfl
@[simp] theorem State.setReg_save : (s.setReg o w).save = s.save := rfl

@[simp] theorem State.setFld_pending : (s.setFld o h l v).pending = s.pending := rfl
@[simp] theorem State.setFld_free : (s.setFld o h l v).free = s.free := rfl
@[simp] theorem State.setFld_out : (s.setFld o h l v).out = s.out := rfl
@[simp] theorem State.setFld_ts : (s.setFld o h l v).ts = s.ts := rfl
@[simp] theorem State.setFld_shadow : (s.setFld o h l v).shadow = s.shadow := rfl
@[simp] theorem State.setFld_host : (s.setFld o h l v).host = s.host := rfl
@[simp] theorem State.setFld_mem : (s.setFld o h l v).mem = s.mem := rfl
@[simp] theorem State.setFld_flt : (s.setFld o h l v).flt = s.flt := rfl
@[simp] theorem State.setFld_cnt : (s.setFld o h l v).cnt = s.cnt := rfl
@[simp] theorem State.setFld_pwr : (s.setFld o h l v).pwr = s.pwr := rfl
@[simp] theorem State.setFld_boot : (s.setFld o h l v).boot = s.boot := rfl
@[simp] theorem State.setFld_mgmt : (s.setFld o h l v).mgmt = s.mgmt := rfl
@[simp] theorem State.setFld_trn : (s.setFld o h l v).trn = s.trn := rfl
@[simp] theorem State.setFld_dies : (s.setFld o h l v).dies = s.dies := rfl
@[simp] theorem State.setFld_mons : (s.setFld o h l v).mons = s.mons := rfl
@[simp] theorem State.setFld_tests : (s.setFld o h l v).tests = s.tests := rfl
@[simp] theorem State.setFld_shrs : (s.setFld o h l v).shrs = s.shrs := rfl
@[simp] theorem State.setFld_units : (s.setFld o h l v).units = s.units := rfl
@[simp] theorem State.setFld_drvs : (s.setFld o h l v).drvs = s.drvs := rfl
@[simp] theorem State.setFld_chains : (s.setFld o h l v).chains = s.chains := rfl
@[simp] theorem State.setFld_pstore : (s.setFld o h l v).pstore = s.pstore := rfl
@[simp] theorem State.setFld_fab : (s.setFld o h l v).fab = s.fab := rfl
@[simp] theorem State.setFld_save : (s.setFld o h l v).save = s.save := rfl

@[simp] theorem State.setBit_pending : (s.setBit o i).pending = s.pending := rfl
@[simp] theorem State.setBit_free : (s.setBit o i).free = s.free := rfl
@[simp] theorem State.setBit_out : (s.setBit o i).out = s.out := rfl
@[simp] theorem State.setBit_ts : (s.setBit o i).ts = s.ts := rfl
@[simp] theorem State.setBit_shadow : (s.setBit o i).shadow = s.shadow := rfl
@[simp] theorem State.setBit_host : (s.setBit o i).host = s.host := rfl
@[simp] theorem State.setBit_mem : (s.setBit o i).mem = s.mem := rfl
@[simp] theorem State.setBit_flt : (s.setBit o i).flt = s.flt := rfl
@[simp] theorem State.setBit_cnt : (s.setBit o i).cnt = s.cnt := rfl
@[simp] theorem State.setBit_pwr : (s.setBit o i).pwr = s.pwr := rfl
@[simp] theorem State.setBit_boot : (s.setBit o i).boot = s.boot := rfl
@[simp] theorem State.setBit_mgmt : (s.setBit o i).mgmt = s.mgmt := rfl
@[simp] theorem State.setBit_trn : (s.setBit o i).trn = s.trn := rfl
@[simp] theorem State.setBit_dies : (s.setBit o i).dies = s.dies := rfl
@[simp] theorem State.setBit_mons : (s.setBit o i).mons = s.mons := rfl
@[simp] theorem State.setBit_tests : (s.setBit o i).tests = s.tests := rfl
@[simp] theorem State.setBit_shrs : (s.setBit o i).shrs = s.shrs := rfl
@[simp] theorem State.setBit_units : (s.setBit o i).units = s.units := rfl
@[simp] theorem State.setBit_drvs : (s.setBit o i).drvs = s.drvs := rfl
@[simp] theorem State.setBit_chains : (s.setBit o i).chains = s.chains := rfl
@[simp] theorem State.setBit_pstore : (s.setBit o i).pstore = s.pstore := rfl
@[simp] theorem State.setBit_fab : (s.setBit o i).fab = s.fab := rfl
@[simp] theorem State.setBit_save : (s.setBit o i).save = s.save := rfl

@[simp] theorem State.clrBit_pending : (s.clrBit o i).pending = s.pending := rfl
@[simp] theorem State.clrBit_free : (s.clrBit o i).free = s.free := rfl
@[simp] theorem State.clrBit_out : (s.clrBit o i).out = s.out := rfl
@[simp] theorem State.clrBit_ts : (s.clrBit o i).ts = s.ts := rfl
@[simp] theorem State.clrBit_shadow : (s.clrBit o i).shadow = s.shadow := rfl
@[simp] theorem State.clrBit_host : (s.clrBit o i).host = s.host := rfl
@[simp] theorem State.clrBit_mem : (s.clrBit o i).mem = s.mem := rfl
@[simp] theorem State.clrBit_flt : (s.clrBit o i).flt = s.flt := rfl
@[simp] theorem State.clrBit_cnt : (s.clrBit o i).cnt = s.cnt := rfl
@[simp] theorem State.clrBit_pwr : (s.clrBit o i).pwr = s.pwr := rfl
@[simp] theorem State.clrBit_boot : (s.clrBit o i).boot = s.boot := rfl
@[simp] theorem State.clrBit_mgmt : (s.clrBit o i).mgmt = s.mgmt := rfl
@[simp] theorem State.clrBit_trn : (s.clrBit o i).trn = s.trn := rfl
@[simp] theorem State.clrBit_dies : (s.clrBit o i).dies = s.dies := rfl
@[simp] theorem State.clrBit_mons : (s.clrBit o i).mons = s.mons := rfl
@[simp] theorem State.clrBit_tests : (s.clrBit o i).tests = s.tests := rfl
@[simp] theorem State.clrBit_shrs : (s.clrBit o i).shrs = s.shrs := rfl
@[simp] theorem State.clrBit_units : (s.clrBit o i).units = s.units := rfl
@[simp] theorem State.clrBit_drvs : (s.clrBit o i).drvs = s.drvs := rfl
@[simp] theorem State.clrBit_chains : (s.clrBit o i).chains = s.chains := rfl
@[simp] theorem State.clrBit_pstore : (s.clrBit o i).pstore = s.pstore := rfl
@[simp] theorem State.clrBit_fab : (s.clrBit o i).fab = s.fab := rfl
@[simp] theorem State.clrBit_save : (s.clrBit o i).save = s.save := rfl

@[simp] theorem State.stage_pending : (s.stage o w w').pending = s.pending := rfl
@[simp] theorem State.stage_free : (s.stage o w w').free = s.free := rfl
@[simp] theorem State.stage_out : (s.stage o w w').out = s.out := rfl
@[simp] theorem State.stage_ts : (s.stage o w w').ts = s.ts := rfl
@[simp] theorem State.stage_regs : (s.stage o w w').regs = s.regs := rfl
@[simp] theorem State.stage_host : (s.stage o w w').host = s.host := rfl
@[simp] theorem State.stage_mem : (s.stage o w w').mem = s.mem := rfl
@[simp] theorem State.stage_flt : (s.stage o w w').flt = s.flt := rfl
@[simp] theorem State.stage_cnt : (s.stage o w w').cnt = s.cnt := rfl
@[simp] theorem State.stage_pwr : (s.stage o w w').pwr = s.pwr := rfl
@[simp] theorem State.stage_boot : (s.stage o w w').boot = s.boot := rfl
@[simp] theorem State.stage_mgmt : (s.stage o w w').mgmt = s.mgmt := rfl
@[simp] theorem State.stage_trn : (s.stage o w w').trn = s.trn := rfl
@[simp] theorem State.stage_dies : (s.stage o w w').dies = s.dies := rfl
@[simp] theorem State.stage_mons : (s.stage o w w').mons = s.mons := rfl
@[simp] theorem State.stage_tests : (s.stage o w w').tests = s.tests := rfl
@[simp] theorem State.stage_shrs : (s.stage o w w').shrs = s.shrs := rfl
@[simp] theorem State.stage_units : (s.stage o w w').units = s.units := rfl
@[simp] theorem State.stage_drvs : (s.stage o w w').drvs = s.drvs := rfl
@[simp] theorem State.stage_chains : (s.stage o w w').chains = s.chains := rfl
@[simp] theorem State.stage_pstore : (s.stage o w w').pstore = s.pstore := rfl
@[simp] theorem State.stage_fab : (s.stage o w w').fab = s.fab := rfl
@[simp] theorem State.stage_save : (s.stage o w w').save = s.save := rfl

@[simp] theorem State.emit_pending : (s.emit y).pending = s.pending := rfl
@[simp] theorem State.emit_free : (s.emit y).free = s.free := rfl
@[simp] theorem State.emit_ts : (s.emit y).ts = s.ts := rfl
@[simp] theorem State.emit_regs : (s.emit y).regs = s.regs := rfl
@[simp] theorem State.emit_shadow : (s.emit y).shadow = s.shadow := rfl
@[simp] theorem State.emit_host : (s.emit y).host = s.host := rfl
@[simp] theorem State.emit_mem : (s.emit y).mem = s.mem := rfl
@[simp] theorem State.emit_flt : (s.emit y).flt = s.flt := rfl
@[simp] theorem State.emit_cnt : (s.emit y).cnt = s.cnt := rfl
@[simp] theorem State.emit_pwr : (s.emit y).pwr = s.pwr := rfl
@[simp] theorem State.emit_boot : (s.emit y).boot = s.boot := rfl
@[simp] theorem State.emit_mgmt : (s.emit y).mgmt = s.mgmt := rfl
@[simp] theorem State.emit_trn : (s.emit y).trn = s.trn := rfl
@[simp] theorem State.emit_dies : (s.emit y).dies = s.dies := rfl
@[simp] theorem State.emit_mons : (s.emit y).mons = s.mons := rfl
@[simp] theorem State.emit_tests : (s.emit y).tests = s.tests := rfl
@[simp] theorem State.emit_shrs : (s.emit y).shrs = s.shrs := rfl
@[simp] theorem State.emit_units : (s.emit y).units = s.units := rfl
@[simp] theorem State.emit_drvs : (s.emit y).drvs = s.drvs := rfl
@[simp] theorem State.emit_chains : (s.emit y).chains = s.chains := rfl
@[simp] theorem State.emit_pstore : (s.emit y).pstore = s.pstore := rfl
@[simp] theorem State.emit_fab : (s.emit y).fab = s.fab := rfl
@[simp] theorem State.emit_save : (s.emit y).save = s.save := rfl

@[simp] theorem State.setThr_pending : (s.setThr o i v).pending = s.pending := rfl
@[simp] theorem State.setThr_free : (s.setThr o i v).free = s.free := rfl
@[simp] theorem State.setThr_out : (s.setThr o i v).out = s.out := rfl
@[simp] theorem State.setThr_ts : (s.setThr o i v).ts = s.ts := rfl
@[simp] theorem State.setThr_regs : (s.setThr o i v).regs = s.regs := rfl
@[simp] theorem State.setThr_shadow : (s.setThr o i v).shadow = s.shadow := rfl
@[simp] theorem State.setThr_host : (s.setThr o i v).host = s.host := rfl
@[simp] theorem State.setThr_mem : (s.setThr o i v).mem = s.mem := rfl
@[simp] theorem State.setThr_cnt : (s.setThr o i v).cnt = s.cnt := rfl
@[simp] theorem State.setThr_pwr : (s.setThr o i v).pwr = s.pwr := rfl
@[simp] theorem State.setThr_boot : (s.setThr o i v).boot = s.boot := rfl
@[simp] theorem State.setThr_mgmt : (s.setThr o i v).mgmt = s.mgmt := rfl
@[simp] theorem State.setThr_trn : (s.setThr o i v).trn = s.trn := rfl
@[simp] theorem State.setThr_dies : (s.setThr o i v).dies = s.dies := rfl
@[simp] theorem State.setThr_mons : (s.setThr o i v).mons = s.mons := rfl
@[simp] theorem State.setThr_tests : (s.setThr o i v).tests = s.tests := rfl
@[simp] theorem State.setThr_shrs : (s.setThr o i v).shrs = s.shrs := rfl
@[simp] theorem State.setThr_units : (s.setThr o i v).units = s.units := rfl
@[simp] theorem State.setThr_drvs : (s.setThr o i v).drvs = s.drvs := rfl
@[simp] theorem State.setThr_chains : (s.setThr o i v).chains = s.chains := rfl
@[simp] theorem State.setThr_pstore : (s.setThr o i v).pstore = s.pstore := rfl
@[simp] theorem State.setThr_fab : (s.setThr o i v).fab = s.fab := rfl
@[simp] theorem State.setThr_save : (s.setThr o i v).save = s.save := rfl

@[simp] theorem State.alert_pending : (s.alert i).pending = s.pending := rfl
@[simp] theorem State.alert_free : (s.alert i).free = s.free := rfl
@[simp] theorem State.alert_out : (s.alert i).out = s.out := rfl
@[simp] theorem State.alert_ts : (s.alert i).ts = s.ts := rfl
@[simp] theorem State.alert_regs : (s.alert i).regs = s.regs := rfl
@[simp] theorem State.alert_shadow : (s.alert i).shadow = s.shadow := rfl
@[simp] theorem State.alert_host : (s.alert i).host = s.host := rfl
@[simp] theorem State.alert_mem : (s.alert i).mem = s.mem := rfl
@[simp] theorem State.alert_flt : (s.alert i).flt = s.flt := rfl
@[simp] theorem State.alert_cnt : (s.alert i).cnt = s.cnt := rfl
@[simp] theorem State.alert_pwr : (s.alert i).pwr = s.pwr := rfl
@[simp] theorem State.alert_boot : (s.alert i).boot = s.boot := rfl
@[simp] theorem State.alert_trn : (s.alert i).trn = s.trn := rfl
@[simp] theorem State.alert_dies : (s.alert i).dies = s.dies := rfl
@[simp] theorem State.alert_mons : (s.alert i).mons = s.mons := rfl
@[simp] theorem State.alert_tests : (s.alert i).tests = s.tests := rfl
@[simp] theorem State.alert_shrs : (s.alert i).shrs = s.shrs := rfl
@[simp] theorem State.alert_units : (s.alert i).units = s.units := rfl
@[simp] theorem State.alert_drvs : (s.alert i).drvs = s.drvs := rfl
@[simp] theorem State.alert_chains : (s.alert i).chains = s.chains := rfl
@[simp] theorem State.alert_pstore : (s.alert i).pstore = s.pstore := rfl
@[simp] theorem State.alert_fab : (s.alert i).fab = s.fab := rfl
@[simp] theorem State.alert_save : (s.alert i).save = s.save := rfl

@[simp] theorem State.poke_pending : (s.poke o bs).pending = s.pending := rfl
@[simp] theorem State.poke_free : (s.poke o bs).free = s.free := rfl
@[simp] theorem State.poke_out : (s.poke o bs).out = s.out := rfl
@[simp] theorem State.poke_ts : (s.poke o bs).ts = s.ts := rfl
@[simp] theorem State.poke_regs : (s.poke o bs).regs = s.regs := rfl
@[simp] theorem State.poke_shadow : (s.poke o bs).shadow = s.shadow := rfl
@[simp] theorem State.poke_host : (s.poke o bs).host = s.host := rfl
@[simp] theorem State.poke_flt : (s.poke o bs).flt = s.flt := rfl
@[simp] theorem State.poke_cnt : (s.poke o bs).cnt = s.cnt := rfl
@[simp] theorem State.poke_pwr : (s.poke o bs).pwr = s.pwr := rfl
@[simp] theorem State.poke_boot : (s.poke o bs).boot = s.boot := rfl
@[simp] theorem State.poke_mgmt : (s.poke o bs).mgmt = s.mgmt := rfl
@[simp] theorem State.poke_trn : (s.poke o bs).trn = s.trn := rfl
@[simp] theorem State.poke_dies : (s.poke o bs).dies = s.dies := rfl
@[simp] theorem State.poke_mons : (s.poke o bs).mons = s.mons := rfl
@[simp] theorem State.poke_tests : (s.poke o bs).tests = s.tests := rfl
@[simp] theorem State.poke_shrs : (s.poke o bs).shrs = s.shrs := rfl
@[simp] theorem State.poke_units : (s.poke o bs).units = s.units := rfl
@[simp] theorem State.poke_drvs : (s.poke o bs).drvs = s.drvs := rfl
@[simp] theorem State.poke_chains : (s.poke o bs).chains = s.chains := rfl
@[simp] theorem State.poke_pstore : (s.poke o bs).pstore = s.pstore := rfl
@[simp] theorem State.poke_fab : (s.poke o bs).fab = s.fab := rfl
@[simp] theorem State.poke_save : (s.poke o bs).save = s.save := rfl

@[simp] theorem State.setCtx_pending : (s.setCtx o cx).pending = s.pending := rfl
@[simp] theorem State.setCtx_free : (s.setCtx o cx).free = s.free := rfl
@[simp] theorem State.setCtx_out : (s.setCtx o cx).out = s.out := rfl
@[simp] theorem State.setCtx_ts : (s.setCtx o cx).ts = s.ts := rfl
@[simp] theorem State.setCtx_regs : (s.setCtx o cx).regs = s.regs := rfl
@[simp] theorem State.setCtx_shadow : (s.setCtx o cx).shadow = s.shadow := rfl
@[simp] theorem State.setCtx_mem : (s.setCtx o cx).mem = s.mem := rfl
@[simp] theorem State.setCtx_flt : (s.setCtx o cx).flt = s.flt := rfl
@[simp] theorem State.setCtx_cnt : (s.setCtx o cx).cnt = s.cnt := rfl
@[simp] theorem State.setCtx_pwr : (s.setCtx o cx).pwr = s.pwr := rfl
@[simp] theorem State.setCtx_boot : (s.setCtx o cx).boot = s.boot := rfl
@[simp] theorem State.setCtx_mgmt : (s.setCtx o cx).mgmt = s.mgmt := rfl
@[simp] theorem State.setCtx_trn : (s.setCtx o cx).trn = s.trn := rfl
@[simp] theorem State.setCtx_dies : (s.setCtx o cx).dies = s.dies := rfl
@[simp] theorem State.setCtx_mons : (s.setCtx o cx).mons = s.mons := rfl
@[simp] theorem State.setCtx_tests : (s.setCtx o cx).tests = s.tests := rfl
@[simp] theorem State.setCtx_shrs : (s.setCtx o cx).shrs = s.shrs := rfl
@[simp] theorem State.setCtx_units : (s.setCtx o cx).units = s.units := rfl
@[simp] theorem State.setCtx_drvs : (s.setCtx o cx).drvs = s.drvs := rfl
@[simp] theorem State.setCtx_chains : (s.setCtx o cx).chains = s.chains := rfl
@[simp] theorem State.setCtx_pstore : (s.setCtx o cx).pstore = s.pstore := rfl
@[simp] theorem State.setCtx_fab : (s.setCtx o cx).fab = s.fab := rfl
@[simp] theorem State.setCtx_save : (s.setCtx o cx).save = s.save := rfl

@[simp] theorem State.updTrn_pending : (s.updTrn fTrn).pending = s.pending := rfl
@[simp] theorem State.updTrn_free : (s.updTrn fTrn).free = s.free := rfl
@[simp] theorem State.updTrn_out : (s.updTrn fTrn).out = s.out := rfl
@[simp] theorem State.updTrn_ts : (s.updTrn fTrn).ts = s.ts := rfl
@[simp] theorem State.updTrn_regs : (s.updTrn fTrn).regs = s.regs := rfl
@[simp] theorem State.updTrn_shadow : (s.updTrn fTrn).shadow = s.shadow := rfl
@[simp] theorem State.updTrn_host : (s.updTrn fTrn).host = s.host := rfl
@[simp] theorem State.updTrn_mem : (s.updTrn fTrn).mem = s.mem := rfl
@[simp] theorem State.updTrn_flt : (s.updTrn fTrn).flt = s.flt := rfl
@[simp] theorem State.updTrn_cnt : (s.updTrn fTrn).cnt = s.cnt := rfl
@[simp] theorem State.updTrn_pwr : (s.updTrn fTrn).pwr = s.pwr := rfl
@[simp] theorem State.updTrn_boot : (s.updTrn fTrn).boot = s.boot := rfl
@[simp] theorem State.updTrn_mgmt : (s.updTrn fTrn).mgmt = s.mgmt := rfl
@[simp] theorem State.updTrn_dies : (s.updTrn fTrn).dies = s.dies := rfl
@[simp] theorem State.updTrn_mons : (s.updTrn fTrn).mons = s.mons := rfl
@[simp] theorem State.updTrn_tests : (s.updTrn fTrn).tests = s.tests := rfl
@[simp] theorem State.updTrn_shrs : (s.updTrn fTrn).shrs = s.shrs := rfl
@[simp] theorem State.updTrn_units : (s.updTrn fTrn).units = s.units := rfl
@[simp] theorem State.updTrn_drvs : (s.updTrn fTrn).drvs = s.drvs := rfl
@[simp] theorem State.updTrn_chains : (s.updTrn fTrn).chains = s.chains := rfl
@[simp] theorem State.updTrn_pstore : (s.updTrn fTrn).pstore = s.pstore := rfl
@[simp] theorem State.updTrn_fab : (s.updTrn fTrn).fab = s.fab := rfl
@[simp] theorem State.updTrn_save : (s.updTrn fTrn).save = s.save := rfl

@[simp] theorem State.updDrv_pending : (s.updDrv o fDrv).pending = s.pending := rfl
@[simp] theorem State.updDrv_free : (s.updDrv o fDrv).free = s.free := rfl
@[simp] theorem State.updDrv_out : (s.updDrv o fDrv).out = s.out := rfl
@[simp] theorem State.updDrv_ts : (s.updDrv o fDrv).ts = s.ts := rfl
@[simp] theorem State.updDrv_regs : (s.updDrv o fDrv).regs = s.regs := rfl
@[simp] theorem State.updDrv_shadow : (s.updDrv o fDrv).shadow = s.shadow := rfl
@[simp] theorem State.updDrv_host : (s.updDrv o fDrv).host = s.host := rfl
@[simp] theorem State.updDrv_mem : (s.updDrv o fDrv).mem = s.mem := rfl
@[simp] theorem State.updDrv_flt : (s.updDrv o fDrv).flt = s.flt := rfl
@[simp] theorem State.updDrv_cnt : (s.updDrv o fDrv).cnt = s.cnt := rfl
@[simp] theorem State.updDrv_pwr : (s.updDrv o fDrv).pwr = s.pwr := rfl
@[simp] theorem State.updDrv_boot : (s.updDrv o fDrv).boot = s.boot := rfl
@[simp] theorem State.updDrv_mgmt : (s.updDrv o fDrv).mgmt = s.mgmt := rfl
@[simp] theorem State.updDrv_trn : (s.updDrv o fDrv).trn = s.trn := rfl
@[simp] theorem State.updDrv_dies : (s.updDrv o fDrv).dies = s.dies := rfl
@[simp] theorem State.updDrv_mons : (s.updDrv o fDrv).mons = s.mons := rfl
@[simp] theorem State.updDrv_tests : (s.updDrv o fDrv).tests = s.tests := rfl
@[simp] theorem State.updDrv_shrs : (s.updDrv o fDrv).shrs = s.shrs := rfl
@[simp] theorem State.updDrv_units : (s.updDrv o fDrv).units = s.units := rfl
@[simp] theorem State.updDrv_chains : (s.updDrv o fDrv).chains = s.chains := rfl
@[simp] theorem State.updDrv_pstore : (s.updDrv o fDrv).pstore = s.pstore := rfl
@[simp] theorem State.updDrv_fab : (s.updDrv o fDrv).fab = s.fab := rfl
@[simp] theorem State.updDrv_save : (s.updDrv o fDrv).save = s.save := rfl

@[simp] theorem State.updMu_pending : (s.updMu o fMu).pending = s.pending := rfl
@[simp] theorem State.updMu_free : (s.updMu o fMu).free = s.free := rfl
@[simp] theorem State.updMu_out : (s.updMu o fMu).out = s.out := rfl
@[simp] theorem State.updMu_ts : (s.updMu o fMu).ts = s.ts := rfl
@[simp] theorem State.updMu_regs : (s.updMu o fMu).regs = s.regs := rfl
@[simp] theorem State.updMu_shadow : (s.updMu o fMu).shadow = s.shadow := rfl
@[simp] theorem State.updMu_host : (s.updMu o fMu).host = s.host := rfl
@[simp] theorem State.updMu_mem : (s.updMu o fMu).mem = s.mem := rfl
@[simp] theorem State.updMu_flt : (s.updMu o fMu).flt = s.flt := rfl
@[simp] theorem State.updMu_cnt : (s.updMu o fMu).cnt = s.cnt := rfl
@[simp] theorem State.updMu_pwr : (s.updMu o fMu).pwr = s.pwr := rfl
@[simp] theorem State.updMu_boot : (s.updMu o fMu).boot = s.boot := rfl
@[simp] theorem State.updMu_mgmt : (s.updMu o fMu).mgmt = s.mgmt := rfl
@[simp] theorem State.updMu_trn : (s.updMu o fMu).trn = s.trn := rfl
@[simp] theorem State.updMu_dies : (s.updMu o fMu).dies = s.dies := rfl
@[simp] theorem State.updMu_mons : (s.updMu o fMu).mons = s.mons := rfl
@[simp] theorem State.updMu_tests : (s.updMu o fMu).tests = s.tests := rfl
@[simp] theorem State.updMu_shrs : (s.updMu o fMu).shrs = s.shrs := rfl
@[simp] theorem State.updMu_drvs : (s.updMu o fMu).drvs = s.drvs := rfl
@[simp] theorem State.updMu_chains : (s.updMu o fMu).chains = s.chains := rfl
@[simp] theorem State.updMu_pstore : (s.updMu o fMu).pstore = s.pstore := rfl
@[simp] theorem State.updMu_fab : (s.updMu o fMu).fab = s.fab := rfl
@[simp] theorem State.updMu_save : (s.updMu o fMu).save = s.save := rfl

@[simp] theorem State.setMsp_pending : (s.setMsp msp).pending = s.pending := rfl
@[simp] theorem State.setMsp_free : (s.setMsp msp).free = s.free := rfl
@[simp] theorem State.setMsp_out : (s.setMsp msp).out = s.out := rfl
@[simp] theorem State.setMsp_ts : (s.setMsp msp).ts = s.ts := rfl
@[simp] theorem State.setMsp_regs : (s.setMsp msp).regs = s.regs := rfl
@[simp] theorem State.setMsp_shadow : (s.setMsp msp).shadow = s.shadow := rfl
@[simp] theorem State.setMsp_host : (s.setMsp msp).host = s.host := rfl
@[simp] theorem State.setMsp_mem : (s.setMsp msp).mem = s.mem := rfl
@[simp] theorem State.setMsp_flt : (s.setMsp msp).flt = s.flt := rfl
@[simp] theorem State.setMsp_cnt : (s.setMsp msp).cnt = s.cnt := rfl
@[simp] theorem State.setMsp_pwr : (s.setMsp msp).pwr = s.pwr := rfl
@[simp] theorem State.setMsp_mgmt : (s.setMsp msp).mgmt = s.mgmt := rfl
@[simp] theorem State.setMsp_trn : (s.setMsp msp).trn = s.trn := rfl
@[simp] theorem State.setMsp_dies : (s.setMsp msp).dies = s.dies := rfl
@[simp] theorem State.setMsp_mons : (s.setMsp msp).mons = s.mons := rfl
@[simp] theorem State.setMsp_tests : (s.setMsp msp).tests = s.tests := rfl
@[simp] theorem State.setMsp_shrs : (s.setMsp msp).shrs = s.shrs := rfl
@[simp] theorem State.setMsp_units : (s.setMsp msp).units = s.units := rfl
@[simp] theorem State.setMsp_drvs : (s.setMsp msp).drvs = s.drvs := rfl
@[simp] theorem State.setMsp_chains : (s.setMsp msp).chains = s.chains := rfl
@[simp] theorem State.setMsp_pstore : (s.setMsp msp).pstore = s.pstore := rfl
@[simp] theorem State.setMsp_fab : (s.setMsp msp).fab = s.fab := rfl
@[simp] theorem State.setMsp_save : (s.setMsp msp).save = s.save := rfl

@[simp] theorem State.setTest_pending : (s.setTest o tst).pending = s.pending := rfl
@[simp] theorem State.setTest_free : (s.setTest o tst).free = s.free := rfl
@[simp] theorem State.setTest_out : (s.setTest o tst).out = s.out := rfl
@[simp] theorem State.setTest_ts : (s.setTest o tst).ts = s.ts := rfl
@[simp] theorem State.setTest_regs : (s.setTest o tst).regs = s.regs := rfl
@[simp] theorem State.setTest_shadow : (s.setTest o tst).shadow = s.shadow := rfl
@[simp] theorem State.setTest_host : (s.setTest o tst).host = s.host := rfl
@[simp] theorem State.setTest_mem : (s.setTest o tst).mem = s.mem := rfl
@[simp] theorem State.setTest_flt : (s.setTest o tst).flt = s.flt := rfl
@[simp] theorem State.setTest_cnt : (s.setTest o tst).cnt = s.cnt := rfl
@[simp] theorem State.setTest_pwr : (s.setTest o tst).pwr = s.pwr := rfl
@[simp] theorem State.setTest_boot : (s.setTest o tst).boot = s.boot := rfl
@[simp] theorem State.setTest_mgmt : (s.setTest o tst).mgmt = s.mgmt := rfl
@[simp] theorem State.setTest_trn : (s.setTest o tst).trn = s.trn := rfl
@[simp] theorem State.setTest_dies : (s.setTest o tst).dies = s.dies := rfl
@[simp] theorem State.setTest_mons : (s.setTest o tst).mons = s.mons := rfl
@[simp] theorem State.setTest_shrs : (s.setTest o tst).shrs = s.shrs := rfl
@[simp] theorem State.setTest_units : (s.setTest o tst).units = s.units := rfl
@[simp] theorem State.setTest_drvs : (s.setTest o tst).drvs = s.drvs := rfl
@[simp] theorem State.setTest_chains : (s.setTest o tst).chains = s.chains := rfl
@[simp] theorem State.setTest_pstore : (s.setTest o tst).pstore = s.pstore := rfl
@[simp] theorem State.setTest_fab : (s.setTest o tst).fab = s.fab := rfl
@[simp] theorem State.setTest_save : (s.setTest o tst).save = s.save := rfl

@[simp] theorem State.setDie_pending : (s.setDie o die).pending = s.pending := rfl
@[simp] theorem State.setDie_free : (s.setDie o die).free = s.free := rfl
@[simp] theorem State.setDie_out : (s.setDie o die).out = s.out := rfl
@[simp] theorem State.setDie_ts : (s.setDie o die).ts = s.ts := rfl
@[simp] theorem State.setDie_regs : (s.setDie o die).regs = s.regs := rfl
@[simp] theorem State.setDie_shadow : (s.setDie o die).shadow = s.shadow := rfl
@[simp] theorem State.setDie_host : (s.setDie o die).host = s.host := rfl
@[simp] theorem State.setDie_mem : (s.setDie o die).mem = s.mem := rfl
@[simp] theorem State.setDie_flt : (s.setDie o die).flt = s.flt := rfl
@[simp] theorem State.setDie_cnt : (s.setDie o die).cnt = s.cnt := rfl
@[simp] theorem State.setDie_pwr : (s.setDie o die).pwr = s.pwr := rfl
@[simp] theorem State.setDie_boot : (s.setDie o die).boot = s.boot := rfl
@[simp] theorem State.setDie_mgmt : (s.setDie o die).mgmt = s.mgmt := rfl
@[simp] theorem State.setDie_trn : (s.setDie o die).trn = s.trn := rfl
@[simp] theorem State.setDie_mons : (s.setDie o die).mons = s.mons := rfl
@[simp] theorem State.setDie_tests : (s.setDie o die).tests = s.tests := rfl
@[simp] theorem State.setDie_shrs : (s.setDie o die).shrs = s.shrs := rfl
@[simp] theorem State.setDie_units : (s.setDie o die).units = s.units := rfl
@[simp] theorem State.setDie_drvs : (s.setDie o die).drvs = s.drvs := rfl
@[simp] theorem State.setDie_chains : (s.setDie o die).chains = s.chains := rfl
@[simp] theorem State.setDie_pstore : (s.setDie o die).pstore = s.pstore := rfl
@[simp] theorem State.setDie_fab : (s.setDie o die).fab = s.fab := rfl
@[simp] theorem State.setDie_save : (s.setDie o die).save = s.save := rfl

@[simp] theorem State.updChain_pending : (s.updChain o fCh).pending = s.pending := rfl
@[simp] theorem State.updChain_free : (s.updChain o fCh).free = s.free := rfl
@[simp] theorem State.updChain_out : (s.updChain o fCh).out = s.out := rfl
@[simp] theorem State.updChain_ts : (s.updChain o fCh).ts = s.ts := rfl
@[simp] theorem State.updChain_regs : (s.updChain o fCh).regs = s.regs := rfl
@[simp] theorem State.updChain_shadow : (s.updChain o fCh).shadow = s.shadow := rfl
@[simp] theorem State.updChain_host : (s.updChain o fCh).host = s.host := rfl
@[simp] theorem State.updChain_mem : (s.updChain o fCh).mem = s.mem := rfl
@[simp] theorem State.updChain_flt : (s.updChain o fCh).flt = s.flt := rfl
@[simp] theorem State.updChain_cnt : (s.updChain o fCh).cnt = s.cnt := rfl
@[simp] theorem State.updChain_pwr : (s.updChain o fCh).pwr = s.pwr := rfl
@[simp] theorem State.updChain_boot : (s.updChain o fCh).boot = s.boot := rfl
@[simp] theorem State.updChain_mgmt : (s.updChain o fCh).mgmt = s.mgmt := rfl
@[simp] theorem State.updChain_trn : (s.updChain o fCh).trn = s.trn := rfl
@[simp] theorem State.updChain_dies : (s.updChain o fCh).dies = s.dies := rfl
@[simp] theorem State.updChain_mons : (s.updChain o fCh).mons = s.mons := rfl
@[simp] theorem State.updChain_tests : (s.updChain o fCh).tests = s.tests := rfl
@[simp] theorem State.updChain_shrs : (s.updChain o fCh).shrs = s.shrs := rfl
@[simp] theorem State.updChain_units : (s.updChain o fCh).units = s.units := rfl
@[simp] theorem State.updChain_drvs : (s.updChain o fCh).drvs = s.drvs := rfl
@[simp] theorem State.updChain_pstore : (s.updChain o fCh).pstore = s.pstore := rfl
@[simp] theorem State.updChain_fab : (s.updChain o fCh).fab = s.fab := rfl
@[simp] theorem State.updChain_save : (s.updChain o fCh).save = s.save := rfl

@[simp] theorem State.updMon_pending : (s.updMon o fMon).pending = s.pending := rfl
@[simp] theorem State.updMon_free : (s.updMon o fMon).free = s.free := rfl
@[simp] theorem State.updMon_out : (s.updMon o fMon).out = s.out := rfl
@[simp] theorem State.updMon_ts : (s.updMon o fMon).ts = s.ts := rfl
@[simp] theorem State.updMon_regs : (s.updMon o fMon).regs = s.regs := rfl
@[simp] theorem State.updMon_shadow : (s.updMon o fMon).shadow = s.shadow := rfl
@[simp] theorem State.updMon_host : (s.updMon o fMon).host = s.host := rfl
@[simp] theorem State.updMon_mem : (s.updMon o fMon).mem = s.mem := rfl
@[simp] theorem State.updMon_flt : (s.updMon o fMon).flt = s.flt := rfl
@[simp] theorem State.updMon_cnt : (s.updMon o fMon).cnt = s.cnt := rfl
@[simp] theorem State.updMon_pwr : (s.updMon o fMon).pwr = s.pwr := rfl
@[simp] theorem State.updMon_boot : (s.updMon o fMon).boot = s.boot := rfl
@[simp] theorem State.updMon_mgmt : (s.updMon o fMon).mgmt = s.mgmt := rfl
@[simp] theorem State.updMon_trn : (s.updMon o fMon).trn = s.trn := rfl
@[simp] theorem State.updMon_dies : (s.updMon o fMon).dies = s.dies := rfl
@[simp] theorem State.updMon_tests : (s.updMon o fMon).tests = s.tests := rfl
@[simp] theorem State.updMon_shrs : (s.updMon o fMon).shrs = s.shrs := rfl
@[simp] theorem State.updMon_units : (s.updMon o fMon).units = s.units := rfl
@[simp] theorem State.updMon_drvs : (s.updMon o fMon).drvs = s.drvs := rfl
@[simp] theorem State.updMon_chains : (s.updMon o fMon).chains = s.chains := rfl
@[simp] theorem State.updMon_pstore : (s.updMon o fMon).pstore = s.pstore := rfl
@[simp] theorem State.updMon_fab : (s.updMon o fMon).fab = s.fab := rfl
@[simp] theorem State.updMon_save : (s.updMon o fMon).save = s.save := rfl

@[simp] theorem State.putAcl_pending : (s.putAcl o w).pending = s.pending := rfl
@[simp] theorem State.putAcl_free : (s.putAcl o w).free = s.free := rfl
@[simp] theorem State.putAcl_out : (s.putAcl o w).out = s.out := rfl
@[simp] theorem State.putAcl_ts : (s.putAcl o w).ts = s.ts := rfl
@[simp] theorem State.putAcl_regs : (s.putAcl o w).regs = s.regs := rfl
@[simp] theorem State.putAcl_shadow : (s.putAcl o w).shadow = s.shadow := rfl
@[simp] theorem State.putAcl_mem : (s.putAcl o w).mem = s.mem := rfl
@[simp] theorem State.putAcl_flt : (s.putAcl o w).flt = s.flt := rfl
@[simp] theorem State.putAcl_cnt : (s.putAcl o w).cnt = s.cnt := rfl
@[simp] theorem State.putAcl_pwr : (s.putAcl o w).pwr = s.pwr := rfl
@[simp] theorem State.putAcl_boot : (s.putAcl o w).boot = s.boot := rfl
@[simp] theorem State.putAcl_mgmt : (s.putAcl o w).mgmt = s.mgmt := rfl
@[simp] theorem State.putAcl_trn : (s.putAcl o w).trn = s.trn := rfl
@[simp] theorem State.putAcl_dies : (s.putAcl o w).dies = s.dies := rfl
@[simp] theorem State.putAcl_mons : (s.putAcl o w).mons = s.mons := rfl
@[simp] theorem State.putAcl_tests : (s.putAcl o w).tests = s.tests := rfl
@[simp] theorem State.putAcl_shrs : (s.putAcl o w).shrs = s.shrs := rfl
@[simp] theorem State.putAcl_units : (s.putAcl o w).units = s.units := rfl
@[simp] theorem State.putAcl_drvs : (s.putAcl o w).drvs = s.drvs := rfl
@[simp] theorem State.putAcl_chains : (s.putAcl o w).chains = s.chains := rfl
@[simp] theorem State.putAcl_pstore : (s.putAcl o w).pstore = s.pstore := rfl
@[simp] theorem State.putAcl_fab : (s.putAcl o w).fab = s.fab := rfl
@[simp] theorem State.putAcl_save : (s.putAcl o w).save = s.save := rfl

@[simp] theorem State.updFab_pending : (s.updFab fFab).pending = s.pending := rfl
@[simp] theorem State.updFab_free : (s.updFab fFab).free = s.free := rfl
@[simp] theorem State.updFab_out : (s.updFab fFab).out = s.out := rfl
@[simp] theorem State.updFab_ts : (s.updFab fFab).ts = s.ts := rfl
@[simp] theorem State.updFab_regs : (s.updFab fFab).regs = s.regs := rfl
@[simp] theorem State.updFab_shadow : (s.updFab fFab).shadow = s.shadow := rfl
@[simp] theorem State.updFab_host : (s.updFab fFab).host = s.host := rfl
@[simp] theorem State.updFab_mem : (s.updFab fFab).mem = s.mem := rfl
@[simp] theorem State.updFab_flt : (s.updFab fFab).flt = s.flt := rfl
@[simp] theorem State.updFab_cnt : (s.updFab fFab).cnt = s.cnt := rfl
@[simp] theorem State.updFab_pwr : (s.updFab fFab).pwr = s.pwr := rfl
@[simp] theorem State.updFab_boot : (s.updFab fFab).boot = s.boot := rfl
@[simp] theorem State.updFab_mgmt : (s.updFab fFab).mgmt = s.mgmt := rfl
@[simp] theorem State.updFab_trn : (s.updFab fFab).trn = s.trn := rfl
@[simp] theorem State.updFab_dies : (s.updFab fFab).dies = s.dies := rfl
@[simp] theorem State.updFab_mons : (s.updFab fFab).mons = s.mons := rfl
@[simp] theorem State.updFab_tests : (s.updFab fFab).tests = s.tests := rfl
@[simp] theorem State.updFab_shrs : (s.updFab fFab).shrs = s.shrs := rfl
@[simp] theorem State.updFab_units : (s.updFab fFab).units = s.units := rfl
@[simp] theorem State.updFab_drvs : (s.updFab fFab).drvs = s.drvs := rfl
@[simp] theorem State.updFab_chains : (s.updFab fFab).chains = s.chains := rfl
@[simp] theorem State.updFab_pstore : (s.updFab fFab).pstore = s.pstore := rfl
@[simp] theorem State.updFab_save : (s.updFab fFab).save = s.save := rfl

@[simp] theorem State.setShr_pending : (s.setShr o shr).pending = s.pending := rfl
@[simp] theorem State.setShr_free : (s.setShr o shr).free = s.free := rfl
@[simp] theorem State.setShr_out : (s.setShr o shr).out = s.out := rfl
@[simp] theorem State.setShr_ts : (s.setShr o shr).ts = s.ts := rfl
@[simp] theorem State.setShr_regs : (s.setShr o shr).regs = s.regs := rfl
@[simp] theorem State.setShr_shadow : (s.setShr o shr).shadow = s.shadow := rfl
@[simp] theorem State.setShr_host : (s.setShr o shr).host = s.host := rfl
@[simp] theorem State.setShr_mem : (s.setShr o shr).mem = s.mem := rfl
@[simp] theorem State.setShr_flt : (s.setShr o shr).flt = s.flt := rfl
@[simp] theorem State.setShr_cnt : (s.setShr o shr).cnt = s.cnt := rfl
@[simp] theorem State.setShr_pwr : (s.setShr o shr).pwr = s.pwr := rfl
@[simp] theorem State.setShr_boot : (s.setShr o shr).boot = s.boot := rfl
@[simp] theorem State.setShr_mgmt : (s.setShr o shr).mgmt = s.mgmt := rfl
@[simp] theorem State.setShr_trn : (s.setShr o shr).trn = s.trn := rfl
@[simp] theorem State.setShr_dies : (s.setShr o shr).dies = s.dies := rfl
@[simp] theorem State.setShr_mons : (s.setShr o shr).mons = s.mons := rfl
@[simp] theorem State.setShr_tests : (s.setShr o shr).tests = s.tests := rfl
@[simp] theorem State.setShr_units : (s.setShr o shr).units = s.units := rfl
@[simp] theorem State.setShr_drvs : (s.setShr o shr).drvs = s.drvs := rfl
@[simp] theorem State.setShr_chains : (s.setShr o shr).chains = s.chains := rfl
@[simp] theorem State.setShr_pstore : (s.setShr o shr).pstore = s.pstore := rfl
@[simp] theorem State.setShr_fab : (s.setShr o shr).fab = s.fab := rfl
@[simp] theorem State.setShr_save : (s.setShr o shr).save = s.save := rfl

@[simp] theorem State.setFlt_pending : (s.setFlt fFlt).pending = s.pending := rfl
@[simp] theorem State.setFlt_free : (s.setFlt fFlt).free = s.free := rfl
@[simp] theorem State.setFlt_out : (s.setFlt fFlt).out = s.out := rfl
@[simp] theorem State.setFlt_ts : (s.setFlt fFlt).ts = s.ts := rfl
@[simp] theorem State.setFlt_regs : (s.setFlt fFlt).regs = s.regs := rfl
@[simp] theorem State.setFlt_shadow : (s.setFlt fFlt).shadow = s.shadow := rfl
@[simp] theorem State.setFlt_host : (s.setFlt fFlt).host = s.host := rfl
@[simp] theorem State.setFlt_mem : (s.setFlt fFlt).mem = s.mem := rfl
@[simp] theorem State.setFlt_cnt : (s.setFlt fFlt).cnt = s.cnt := rfl
@[simp] theorem State.setFlt_pwr : (s.setFlt fFlt).pwr = s.pwr := rfl
@[simp] theorem State.setFlt_boot : (s.setFlt fFlt).boot = s.boot := rfl
@[simp] theorem State.setFlt_mgmt : (s.setFlt fFlt).mgmt = s.mgmt := rfl
@[simp] theorem State.setFlt_trn : (s.setFlt fFlt).trn = s.trn := rfl
@[simp] theorem State.setFlt_dies : (s.setFlt fFlt).dies = s.dies := rfl
@[simp] theorem State.setFlt_mons : (s.setFlt fFlt).mons = s.mons := rfl
@[simp] theorem State.setFlt_tests : (s.setFlt fFlt).tests = s.tests := rfl
@[simp] theorem State.setFlt_shrs : (s.setFlt fFlt).shrs = s.shrs := rfl
@[simp] theorem State.setFlt_units : (s.setFlt fFlt).units = s.units := rfl
@[simp] theorem State.setFlt_drvs : (s.setFlt fFlt).drvs = s.drvs := rfl
@[simp] theorem State.setFlt_chains : (s.setFlt fFlt).chains = s.chains := rfl
@[simp] theorem State.setFlt_pstore : (s.setFlt fFlt).pstore = s.pstore := rfl
@[simp] theorem State.setFlt_fab : (s.setFlt fFlt).fab = s.fab := rfl
@[simp] theorem State.setFlt_save : (s.setFlt fFlt).save = s.save := rfl

@[simp] theorem State.updPwr_pending : (s.updPwr fPwr).pending = s.pending := rfl
@[simp] theorem State.updPwr_free : (s.updPwr fPwr).free = s.free := rfl
@[simp] theorem State.updPwr_out : (s.updPwr fPwr).out = s.out := rfl
@[simp] theorem State.updPwr_ts : (s.updPwr fPwr).ts = s.ts := rfl
@[simp] theorem State.updPwr_regs : (s.updPwr fPwr).regs = s.regs := rfl
@[simp] theorem State.updPwr_shadow : (s.updPwr fPwr).shadow = s.shadow := rfl
@[simp] theorem State.updPwr_host : (s.updPwr fPwr).host = s.host := rfl
@[simp] theorem State.updPwr_mem : (s.updPwr fPwr).mem = s.mem := rfl
@[simp] theorem State.updPwr_flt : (s.updPwr fPwr).flt = s.flt := rfl
@[simp] theorem State.updPwr_cnt : (s.updPwr fPwr).cnt = s.cnt := rfl
@[simp] theorem State.updPwr_boot : (s.updPwr fPwr).boot = s.boot := rfl
@[simp] theorem State.updPwr_mgmt : (s.updPwr fPwr).mgmt = s.mgmt := rfl
@[simp] theorem State.updPwr_trn : (s.updPwr fPwr).trn = s.trn := rfl
@[simp] theorem State.updPwr_dies : (s.updPwr fPwr).dies = s.dies := rfl
@[simp] theorem State.updPwr_mons : (s.updPwr fPwr).mons = s.mons := rfl
@[simp] theorem State.updPwr_tests : (s.updPwr fPwr).tests = s.tests := rfl
@[simp] theorem State.updPwr_shrs : (s.updPwr fPwr).shrs = s.shrs := rfl
@[simp] theorem State.updPwr_units : (s.updPwr fPwr).units = s.units := rfl
@[simp] theorem State.updPwr_drvs : (s.updPwr fPwr).drvs = s.drvs := rfl
@[simp] theorem State.updPwr_chains : (s.updPwr fPwr).chains = s.chains := rfl
@[simp] theorem State.updPwr_pstore : (s.updPwr fPwr).pstore = s.pstore := rfl
@[simp] theorem State.updPwr_fab : (s.updPwr fPwr).fab = s.fab := rfl
@[simp] theorem State.updPwr_save : (s.updPwr fPwr).save = s.save := rfl

@[simp] theorem State.updDie_pending : (s.updDie o fDie).pending = s.pending := rfl
@[simp] theorem State.updDie_free : (s.updDie o fDie).free = s.free := rfl
@[simp] theorem State.updDie_out : (s.updDie o fDie).out = s.out := rfl
@[simp] theorem State.updDie_ts : (s.updDie o fDie).ts = s.ts := rfl
@[simp] theorem State.updDie_regs : (s.updDie o fDie).regs = s.regs := rfl
@[simp] theorem State.updDie_shadow : (s.updDie o fDie).shadow = s.shadow := rfl
@[simp] theorem State.updDie_host : (s.updDie o fDie).host = s.host := rfl
@[simp] theorem State.updDie_mem : (s.updDie o fDie).mem = s.mem := rfl
@[simp] theorem State.updDie_flt : (s.updDie o fDie).flt = s.flt := rfl
@[simp] theorem State.updDie_cnt : (s.updDie o fDie).cnt = s.cnt := rfl
@[simp] theorem State.updDie_pwr : (s.updDie o fDie).pwr = s.pwr := rfl
@[simp] theorem State.updDie_boot : (s.updDie o fDie).boot = s.boot := rfl
@[simp] theorem State.updDie_mgmt : (s.updDie o fDie).mgmt = s.mgmt := rfl
@[simp] theorem State.updDie_trn : (s.updDie o fDie).trn = s.trn := rfl
@[simp] theorem State.updDie_mons : (s.updDie o fDie).mons = s.mons := rfl
@[simp] theorem State.updDie_tests : (s.updDie o fDie).tests = s.tests := rfl
@[simp] theorem State.updDie_shrs : (s.updDie o fDie).shrs = s.shrs := rfl
@[simp] theorem State.updDie_units : (s.updDie o fDie).units = s.units := rfl
@[simp] theorem State.updDie_drvs : (s.updDie o fDie).drvs = s.drvs := rfl
@[simp] theorem State.updDie_chains : (s.updDie o fDie).chains = s.chains := rfl
@[simp] theorem State.updDie_pstore : (s.updDie o fDie).pstore = s.pstore := rfl
@[simp] theorem State.updDie_fab : (s.updDie o fDie).fab = s.fab := rfl
@[simp] theorem State.updDie_save : (s.updDie o fDie).save = s.save := rfl

@[simp] theorem State.updPort_pending : (s.updPort o fPort).pending = s.pending := rfl
@[simp] theorem State.updPort_free : (s.updPort o fPort).free = s.free := rfl
@[simp] theorem State.updPort_out : (s.updPort o fPort).out = s.out := rfl
@[simp] theorem State.updPort_ts : (s.updPort o fPort).ts = s.ts := rfl
@[simp] theorem State.updPort_regs : (s.updPort o fPort).regs = s.regs := rfl
@[simp] theorem State.updPort_shadow : (s.updPort o fPort).shadow = s.shadow := rfl
@[simp] theorem State.updPort_host : (s.updPort o fPort).host = s.host := rfl
@[simp] theorem State.updPort_mem : (s.updPort o fPort).mem = s.mem := rfl
@[simp] theorem State.updPort_flt : (s.updPort o fPort).flt = s.flt := rfl
@[simp] theorem State.updPort_cnt : (s.updPort o fPort).cnt = s.cnt := rfl
@[simp] theorem State.updPort_pwr : (s.updPort o fPort).pwr = s.pwr := rfl
@[simp] theorem State.updPort_boot : (s.updPort o fPort).boot = s.boot := rfl
@[simp] theorem State.updPort_mgmt : (s.updPort o fPort).mgmt = s.mgmt := rfl
@[simp] theorem State.updPort_trn : (s.updPort o fPort).trn = s.trn := rfl
@[simp] theorem State.updPort_mons : (s.updPort o fPort).mons = s.mons := rfl
@[simp] theorem State.updPort_tests : (s.updPort o fPort).tests = s.tests := rfl
@[simp] theorem State.updPort_shrs : (s.updPort o fPort).shrs = s.shrs := rfl
@[simp] theorem State.updPort_units : (s.updPort o fPort).units = s.units := rfl
@[simp] theorem State.updPort_drvs : (s.updPort o fPort).drvs = s.drvs := rfl
@[simp] theorem State.updPort_chains : (s.updPort o fPort).chains = s.chains := rfl
@[simp] theorem State.updPort_pstore : (s.updPort o fPort).pstore = s.pstore := rfl
@[simp] theorem State.updPort_fab : (s.updPort o fPort).fab = s.fab := rfl
@[simp] theorem State.updPort_save : (s.updPort o fPort).save = s.save := rfl

@[simp] theorem State.updTile_pending : (s.updTile o i fTile).pending = s.pending := rfl
@[simp] theorem State.updTile_free : (s.updTile o i fTile).free = s.free := rfl
@[simp] theorem State.updTile_out : (s.updTile o i fTile).out = s.out := rfl
@[simp] theorem State.updTile_ts : (s.updTile o i fTile).ts = s.ts := rfl
@[simp] theorem State.updTile_regs : (s.updTile o i fTile).regs = s.regs := rfl
@[simp] theorem State.updTile_shadow : (s.updTile o i fTile).shadow = s.shadow := rfl
@[simp] theorem State.updTile_host : (s.updTile o i fTile).host = s.host := rfl
@[simp] theorem State.updTile_mem : (s.updTile o i fTile).mem = s.mem := rfl
@[simp] theorem State.updTile_flt : (s.updTile o i fTile).flt = s.flt := rfl
@[simp] theorem State.updTile_cnt : (s.updTile o i fTile).cnt = s.cnt := rfl
@[simp] theorem State.updTile_pwr : (s.updTile o i fTile).pwr = s.pwr := rfl
@[simp] theorem State.updTile_boot : (s.updTile o i fTile).boot = s.boot := rfl
@[simp] theorem State.updTile_mgmt : (s.updTile o i fTile).mgmt = s.mgmt := rfl
@[simp] theorem State.updTile_trn : (s.updTile o i fTile).trn = s.trn := rfl
@[simp] theorem State.updTile_mons : (s.updTile o i fTile).mons = s.mons := rfl
@[simp] theorem State.updTile_tests : (s.updTile o i fTile).tests = s.tests := rfl
@[simp] theorem State.updTile_shrs : (s.updTile o i fTile).shrs = s.shrs := rfl
@[simp] theorem State.updTile_units : (s.updTile o i fTile).units = s.units := rfl
@[simp] theorem State.updTile_drvs : (s.updTile o i fTile).drvs = s.drvs := rfl
@[simp] theorem State.updTile_chains : (s.updTile o i fTile).chains = s.chains := rfl
@[simp] theorem State.updTile_pstore : (s.updTile o i fTile).pstore = s.pstore := rfl
@[simp] theorem State.updTile_fab : (s.updTile o i fTile).fab = s.fab := rfl
@[simp] theorem State.updTile_save : (s.updTile o i fTile).save = s.save := rfl

@[simp] theorem State.updMus_pending : (s.updMus o fMus).pending = s.pending := rfl
@[simp] theorem State.updMus_free : (s.updMus o fMus).free = s.free := rfl
@[simp] theorem State.updMus_out : (s.updMus o fMus).out = s.out := rfl
@[simp] theorem State.updMus_ts : (s.updMus o fMus).ts = s.ts := rfl
@[simp] theorem State.updMus_regs : (s.updMus o fMus).regs = s.regs := rfl
@[simp] theorem State.updMus_shadow : (s.updMus o fMus).shadow = s.shadow := rfl
@[simp] theorem State.updMus_host : (s.updMus o fMus).host = s.host := rfl
@[simp] theorem State.updMus_mem : (s.updMus o fMus).mem = s.mem := rfl
@[simp] theorem State.updMus_flt : (s.updMus o fMus).flt = s.flt := rfl
@[simp] theorem State.updMus_cnt : (s.updMus o fMus).cnt = s.cnt := rfl
@[simp] theorem State.updMus_pwr : (s.updMus o fMus).pwr = s.pwr := rfl
@[simp] theorem State.updMus_boot : (s.updMus o fMus).boot = s.boot := rfl
@[simp] theorem State.updMus_mgmt : (s.updMus o fMus).mgmt = s.mgmt := rfl
@[simp] theorem State.updMus_trn : (s.updMus o fMus).trn = s.trn := rfl
@[simp] theorem State.updMus_mons : (s.updMus o fMus).mons = s.mons := rfl
@[simp] theorem State.updMus_tests : (s.updMus o fMus).tests = s.tests := rfl
@[simp] theorem State.updMus_shrs : (s.updMus o fMus).shrs = s.shrs := rfl
@[simp] theorem State.updMus_units : (s.updMus o fMus).units = s.units := rfl
@[simp] theorem State.updMus_drvs : (s.updMus o fMus).drvs = s.drvs := rfl
@[simp] theorem State.updMus_chains : (s.updMus o fMus).chains = s.chains := rfl
@[simp] theorem State.updMus_pstore : (s.updMus o fMus).pstore = s.pstore := rfl
@[simp] theorem State.updMus_fab : (s.updMus o fMus).fab = s.fab := rfl
@[simp] theorem State.updMus_save : (s.updMus o fMus).save = s.save := rfl

@[simp] theorem State.pdUpd_pending : (s.pdUpd o i fPd).pending = s.pending := rfl
@[simp] theorem State.pdUpd_free : (s.pdUpd o i fPd).free = s.free := rfl
@[simp] theorem State.pdUpd_out : (s.pdUpd o i fPd).out = s.out := rfl
@[simp] theorem State.pdUpd_ts : (s.pdUpd o i fPd).ts = s.ts := rfl
@[simp] theorem State.pdUpd_regs : (s.pdUpd o i fPd).regs = s.regs := rfl
@[simp] theorem State.pdUpd_shadow : (s.pdUpd o i fPd).shadow = s.shadow := rfl
@[simp] theorem State.pdUpd_host : (s.pdUpd o i fPd).host = s.host := rfl
@[simp] theorem State.pdUpd_mem : (s.pdUpd o i fPd).mem = s.mem := rfl
@[simp] theorem State.pdUpd_flt : (s.pdUpd o i fPd).flt = s.flt := rfl
@[simp] theorem State.pdUpd_cnt : (s.pdUpd o i fPd).cnt = s.cnt := rfl
@[simp] theorem State.pdUpd_pwr : (s.pdUpd o i fPd).pwr = s.pwr := rfl
@[simp] theorem State.pdUpd_boot : (s.pdUpd o i fPd).boot = s.boot := rfl
@[simp] theorem State.pdUpd_mgmt : (s.pdUpd o i fPd).mgmt = s.mgmt := rfl
@[simp] theorem State.pdUpd_trn : (s.pdUpd o i fPd).trn = s.trn := rfl
@[simp] theorem State.pdUpd_dies : (s.pdUpd o i fPd).dies = s.dies := rfl
@[simp] theorem State.pdUpd_mons : (s.pdUpd o i fPd).mons = s.mons := rfl
@[simp] theorem State.pdUpd_tests : (s.pdUpd o i fPd).tests = s.tests := rfl
@[simp] theorem State.pdUpd_shrs : (s.pdUpd o i fPd).shrs = s.shrs := rfl
@[simp] theorem State.pdUpd_units : (s.pdUpd o i fPd).units = s.units := rfl
@[simp] theorem State.pdUpd_drvs : (s.pdUpd o i fPd).drvs = s.drvs := rfl
@[simp] theorem State.pdUpd_chains : (s.pdUpd o i fPd).chains = s.chains := rfl
@[simp] theorem State.pdUpd_pstore : (s.pdUpd o i fPd).pstore = s.pstore := rfl
@[simp] theorem State.pdUpd_fab : (s.pdUpd o i fPd).fab = s.fab := rfl

@[simp] theorem State.reg_stage : (s.stage o w w').reg o' = s.reg o' := rfl
@[simp] theorem State.fld_stage : (s.stage o w w').fld o' h' l' = s.fld o' h' l' := rfl
@[simp] theorem State.bit_stage : (s.stage o w w').bit o' j = s.bit o' j := rfl
@[simp] theorem State.reg_emit : (s.emit y).reg o' = s.reg o' := rfl
@[simp] theorem State.fld_emit : (s.emit y).fld o' h' l' = s.fld o' h' l' := rfl
@[simp] theorem State.bit_emit : (s.emit y).bit o' j = s.bit o' j := rfl
@[simp] theorem State.reg_setThr : (s.setThr o i v).reg o' = s.reg o' := rfl
@[simp] theorem State.fld_setThr : (s.setThr o i v).fld o' h' l' = s.fld o' h' l' := rfl
@[simp] theorem State.bit_setThr : (s.setThr o i v).bit o' j = s.bit o' j := rfl
@[simp] theorem State.reg_alert : (s.alert i).reg o' = s.reg o' := rfl
@[simp] theorem State.fld_alert : (s.alert i).fld o' h' l' = s.fld o' h' l' := rfl
@[simp] theorem State.bit_alert : (s.alert i).bit o' j = s.bit o' j := rfl
@[simp] theorem State.reg_poke : (s.poke o bs).reg o' = s.reg o' := rfl
@[simp] theorem State.fld_poke : (s.poke o bs).fld o' h' l' = s.fld o' h' l' := rfl
@[simp] theorem State.bit_poke : (s.poke o bs).bit o' j = s.bit o' j := rfl
@[simp] theorem State.reg_setCtx : (s.setCtx o cx).reg o' = s.reg o' := rfl
@[simp] theorem State.fld_setCtx : (s.setCtx o cx).fld o' h' l' = s.fld o' h' l' := rfl
@[simp] theorem State.bit_setCtx : (s.setCtx o cx).bit o' j = s.bit o' j := rfl
@[simp] theorem State.reg_updTrn : (s.updTrn fTrn).reg o' = s.reg o' := rfl
@[simp] theorem State.fld_updTrn : (s.updTrn fTrn).fld o' h' l' = s.fld o' h' l' := rfl
@[simp] theorem State.bit_updTrn : (s.updTrn fTrn).bit o' j = s.bit o' j := rfl
@[simp] theorem State.reg_updDrv : (s.updDrv o fDrv).reg o' = s.reg o' := rfl
@[simp] theorem State.fld_updDrv : (s.updDrv o fDrv).fld o' h' l' = s.fld o' h' l' := rfl
@[simp] theorem State.bit_updDrv : (s.updDrv o fDrv).bit o' j = s.bit o' j := rfl
@[simp] theorem State.reg_updMu : (s.updMu o fMu).reg o' = s.reg o' := rfl
@[simp] theorem State.fld_updMu : (s.updMu o fMu).fld o' h' l' = s.fld o' h' l' := rfl
@[simp] theorem State.bit_updMu : (s.updMu o fMu).bit o' j = s.bit o' j := rfl
@[simp] theorem State.reg_setMsp : (s.setMsp msp).reg o' = s.reg o' := rfl
@[simp] theorem State.fld_setMsp : (s.setMsp msp).fld o' h' l' = s.fld o' h' l' := rfl
@[simp] theorem State.bit_setMsp : (s.setMsp msp).bit o' j = s.bit o' j := rfl
@[simp] theorem State.reg_setTest : (s.setTest o tst).reg o' = s.reg o' := rfl
@[simp] theorem State.fld_setTest : (s.setTest o tst).fld o' h' l' = s.fld o' h' l' := rfl
@[simp] theorem State.bit_setTest : (s.setTest o tst).bit o' j = s.bit o' j := rfl
@[simp] theorem State.reg_setDie : (s.setDie o die).reg o' = s.reg o' := rfl
@[simp] theorem State.fld_setDie : (s.setDie o die).fld o' h' l' = s.fld o' h' l' := rfl
@[simp] theorem State.bit_setDie : (s.setDie o die).bit o' j = s.bit o' j := rfl
@[simp] theorem State.reg_updChain : (s.updChain o fCh).reg o' = s.reg o' := rfl
@[simp] theorem State.fld_updChain : (s.updChain o fCh).fld o' h' l' = s.fld o' h' l' := rfl
@[simp] theorem State.bit_updChain : (s.updChain o fCh).bit o' j = s.bit o' j := rfl
@[simp] theorem State.reg_updMon : (s.updMon o fMon).reg o' = s.reg o' := rfl
@[simp] theorem State.fld_updMon : (s.updMon o fMon).fld o' h' l' = s.fld o' h' l' := rfl
@[simp] theorem State.bit_updMon : (s.updMon o fMon).bit o' j = s.bit o' j := rfl
@[simp] theorem State.reg_putAcl : (s.putAcl o w).reg o' = s.reg o' := rfl
@[simp] theorem State.fld_putAcl : (s.putAcl o w).fld o' h' l' = s.fld o' h' l' := rfl
@[simp] theorem State.bit_putAcl : (s.putAcl o w).bit o' j = s.bit o' j := rfl
@[simp] theorem State.reg_updFab : (s.updFab fFab).reg o' = s.reg o' := rfl
@[simp] theorem State.fld_updFab : (s.updFab fFab).fld o' h' l' = s.fld o' h' l' := rfl
@[simp] theorem State.bit_updFab : (s.updFab fFab).bit o' j = s.bit o' j := rfl
@[simp] theorem State.reg_setShr : (s.setShr o shr).reg o' = s.reg o' := rfl
@[simp] theorem State.fld_setShr : (s.setShr o shr).fld o' h' l' = s.fld o' h' l' := rfl
@[simp] theorem State.bit_setShr : (s.setShr o shr).bit o' j = s.bit o' j := rfl
@[simp] theorem State.reg_setFlt : (s.setFlt fFlt).reg o' = s.reg o' := rfl
@[simp] theorem State.fld_setFlt : (s.setFlt fFlt).fld o' h' l' = s.fld o' h' l' := rfl
@[simp] theorem State.bit_setFlt : (s.setFlt fFlt).bit o' j = s.bit o' j := rfl
@[simp] theorem State.reg_updPwr : (s.updPwr fPwr).reg o' = s.reg o' := rfl
@[simp] theorem State.fld_updPwr : (s.updPwr fPwr).fld o' h' l' = s.fld o' h' l' := rfl
@[simp] theorem State.bit_updPwr : (s.updPwr fPwr).bit o' j = s.bit o' j := rfl
@[simp] theorem State.reg_updDie : (s.updDie o fDie).reg o' = s.reg o' := rfl
@[simp] theorem State.fld_updDie : (s.updDie o fDie).fld o' h' l' = s.fld o' h' l' := rfl
@[simp] theorem State.bit_updDie : (s.updDie o fDie).bit o' j = s.bit o' j := rfl
@[simp] theorem State.reg_updPort : (s.updPort o fPort).reg o' = s.reg o' := rfl
@[simp] theorem State.fld_updPort : (s.updPort o fPort).fld o' h' l' = s.fld o' h' l' := rfl
@[simp] theorem State.bit_updPort : (s.updPort o fPort).bit o' j = s.bit o' j := rfl
@[simp] theorem State.reg_updTile : (s.updTile o i fTile).reg o' = s.reg o' := rfl
@[simp] theorem State.fld_updTile : (s.updTile o i fTile).fld o' h' l' = s.fld o' h' l' := rfl
@[simp] theorem State.bit_updTile : (s.updTile o i fTile).bit o' j = s.bit o' j := rfl
@[simp] theorem State.reg_updMus : (s.updMus o fMus).reg o' = s.reg o' := rfl
@[simp] theorem State.fld_updMus : (s.updMus o fMus).fld o' h' l' = s.fld o' h' l' := rfl
@[simp] theorem State.bit_updMus : (s.updMus o fMus).bit o' j = s.bit o' j := rfl
@[simp] theorem State.reg_pdUpd : (s.pdUpd o i fPd).reg o' = s.reg o' := rfl
@[simp] theorem State.fld_pdUpd : (s.pdUpd o i fPd).fld o' h' l' = s.fld o' h' l' := rfl
@[simp] theorem State.bit_pdUpd : (s.pdUpd o i fPd).bit o' j = s.bit o' j := rfl

/-- A unit reads as it was put, and every other as before. -/
@[simp] theorem State.die_setDie : (s.setDie o die).die o = die := by simp [State.die, State.setDie]
@[simp] theorem State.die_setDie_ne (e : o' ≠ o) : (s.setDie o die).die o' = s.die o' := by simp [State.die, State.setDie, mapGet_mapSet_ne _ _ _ e]
@[simp] theorem State.die_updDie : (s.updDie o fDie).die o = fDie (s.die o) := by simp [State.updDie]
@[simp] theorem State.die_updDie_ne (e : o' ≠ o) : (s.updDie o fDie).die o' = s.die o' := by simp [State.updDie, e]
@[simp] theorem State.port_updPort : (s.updPort o fPort).port o = fPort (s.port o) := by simp [State.updPort, State.port]
@[simp] theorem State.port_updPort_ne (e : o' ≠ o) : (s.updPort o fPort).port o' = s.port o' := by simp [State.updPort, State.port, e]
@[simp] theorem State.port_updTile : (s.updTile o i fTile).port o' = s.port o' := by
  by_cases e : o' = o
  · subst e; simp [State.updTile, State.port]
  · simp [State.updTile, State.port, e]
@[simp] theorem State.tile_updPort : (s.updPort o fPort).tile o' j = s.tile o' j := by
  by_cases e : o' = o
  · subst e; simp [State.updPort, State.tile]
  · simp [State.updPort, State.tile, e]
@[simp] theorem State.tile_updTile : (s.updTile o i fTile).tile o i = fTile (s.tile o i) := by simp [State.updTile, State.tile, mapUpd]
@[simp] theorem State.tile_updTile_ne (e : j ≠ i) : (s.updTile o i fTile).tile o j = s.tile o j := by
  simp [State.updTile, State.tile, mapUpd, mapGet_mapSet_ne _ _ _ e]
@[simp] theorem State.shr_setShr : (s.setShr o shr).shr o = shr := by simp [State.shr, State.setShr]
@[simp] theorem State.shr_setShr_ne (e : o' ≠ o) : (s.setShr o shr).shr o' = s.shr o' := by simp [State.shr, State.setShr, mapGet_mapSet_ne _ _ _ e]
@[simp] theorem State.ctx_setCtx : (s.setCtx o cx).ctx o = cx := by simp [State.ctx, State.setCtx]
@[simp] theorem State.ctx_setCtx_ne (e : o' ≠ o) : (s.setCtx o cx).ctx o' = s.ctx o' := by simp [State.ctx, State.setCtx, mapGet_mapSet_ne _ _ _ e]
@[simp] theorem State.drv_updDrv : (s.updDrv o fDrv).drv o = fDrv (s.drv o) := by simp [State.drv, State.updDrv, mapUpd]
@[simp] theorem State.drv_updDrv_ne (e : o' ≠ o) : (s.updDrv o fDrv).drv o' = s.drv o' := by simp [State.drv, State.updDrv, mapUpd, mapGet_mapSet_ne _ _ _ e]
@[simp] theorem State.mu_updMu : (s.updMu o fMu).mu o = fMu (s.mu o) := by simp [State.mu, State.updMu, mapUpd]
@[simp] theorem State.mu_updMu_ne (e : o' ≠ o) : (s.updMu o fMu).mu o' = s.mu o' := by simp [State.mu, State.updMu, mapUpd, mapGet_mapSet_ne _ _ _ e]

/-- A register read after a write. -/
theorem State.reg_setReg : (s.setReg o w).reg o' = if o' = o then w else s.reg o' := by
  simp only [State.reg, State.setReg]
  by_cases e : o' = o
  · subst e; simp
  · rw [if_neg e, mapGet_mapSet_ne _ _ _ e]

@[simp] theorem State.reg_setReg_self : (s.setReg o w).reg o = w := by simp [State.reg_setReg]

/-- A write to one register leaves every other as it was. -/
@[simp] theorem State.reg_setReg_ne (e : o' ≠ o) : (s.setReg o w).reg o' = s.reg o' := by simp [State.reg_setReg, e]
@[simp] theorem State.reg_setFld_ne (e : o' ≠ o) : (s.setFld o h l v).reg o' = s.reg o' := by simp [State.setFld, e]
@[simp] theorem State.reg_setBit_ne (e : o' ≠ o) : (s.setBit o i).reg o' = s.reg o' := by simp [State.setBit, e]
@[simp] theorem State.reg_clrBit_ne (e : o' ≠ o) : (s.clrBit o i).reg o' = s.reg o' := by simp [State.clrBit, e]
@[simp] theorem State.reg_setFld_self : (s.setFld o h l v).reg o = wset (s.reg o) h l v := by simp [State.setFld]
@[simp] theorem State.reg_setBit_self : (s.setBit o i).reg o = wsetBit (s.reg o) i := by simp [State.setBit]
@[simp] theorem State.reg_clrBit_self : (s.clrBit o i).reg o = wclrBit (s.reg o) i := by simp [State.clrBit]
@[simp] theorem State.fld_setReg_self : (s.setReg o w).fld o h l = wfld w h l := by simp [State.fld]
@[simp] theorem State.bit_setReg_self : (s.setReg o w).bit o i = w.getLsbD i := by simp [State.bit]
@[simp] theorem State.fld_setReg_ne (e : o' ≠ o) : (s.setReg o w).fld o' h' l' = s.fld o' h' l' := by simp [State.fld, e]
@[simp] theorem State.bit_setReg_ne (e : o' ≠ o) : (s.setReg o w).bit o' j = s.bit o' j := by simp [State.bit, e]
@[simp] theorem State.fld_setFld_ne (e : o' ≠ o) : (s.setFld o h l v).fld o' h' l' = s.fld o' h' l' := by simp [State.fld, e]
@[simp] theorem State.bit_setFld_ne (e : o' ≠ o) : (s.setFld o h l v).bit o' j = s.bit o' j := by simp [State.bit, e]
@[simp] theorem State.fld_setBit_ne (e : o' ≠ o) : (s.setBit o i).fld o' h' l' = s.fld o' h' l' := by simp [State.fld, e]
@[simp] theorem State.bit_setBit_ne (e : o' ≠ o) : (s.setBit o i).bit o' j = s.bit o' j := by simp [State.bit, e]
@[simp] theorem State.fld_clrBit_ne (e : o' ≠ o) : (s.clrBit o i).fld o' h' l' = s.fld o' h' l' := by simp [State.fld, e]
@[simp] theorem State.bit_clrBit_ne (e : o' ≠ o) : (s.clrBit o i).bit o' j = s.bit o' j := by simp [State.bit, e]

/-- A field written reads as what was written, cut to its width. -/
@[simp] theorem State.fld_setFld_self (a : l ≤ h) (b : h < 32) : (s.setFld o h l v).fld o h l = v % 2 ^ (h + 1 - l) := by
  simp [State.fld, wfld_wset_self _ _ _ _ a b]

/-- The other fields of the register read as before. -/
theorem State.fld_setFld_apart (a : l ≤ h) (b : h < 32) (d : h' < l ∨ h < l') :
    (s.setFld o h l v).fld o h' l' = s.fld o h' l' := by simp [State.fld, wfld_wset_ne _ _ _ _ _ _ a b d]

theorem State.bit_setFld_self (a : l ≤ h) (b : h < 32) :
    (s.setFld o h l v).bit o j = if l ≤ j ∧ j ≤ h then v.testBit (j - l) else s.bit o j := by
  simp [State.bit, getLsbD_wset _ _ _ _ _ a b]

@[simp] theorem State.bit_setBit_self : (s.setBit o i).bit o j = (s.bit o j || (decide (j = i) && decide (i < 32))) := by
  simp [State.bit]

@[simp] theorem State.bit_clrBit_self : (s.clrBit o i).bit o j = (s.bit o j && !(decide (j = i))) := by simp [State.bit]

theorem State.fld_setBit_apart (d : h' < i ∨ i < l') : (s.setBit o i).fld o h' l' = s.fld o h' l' := by
  simp [State.fld, wfld_wsetBit_ne _ _ _ _ d]

theorem State.fld_clrBit_apart (d : h' < i ∨ i < l') : (s.clrBit o i).fld o h' l' = s.fld o h' l' := by
  simp [State.fld, wfld_wclrBit_ne _ _ _ _ d]

end Sys2Proof.Machine
end

