-- ==== Sys2Proof/Laws/Boundary.lean ====
section
/-! SUPPORT. The boundary work of a step where nothing is due. -/

namespace Sys2Proof.Machine

/-- A fold whose step changes nothing changes nothing. -/
theorem foldl_fix {α β : Type} {f : α → β → α} {a : α} {l : List β} (h : ∀ b, f a b = a) : l.foldl f a = a := by
  induction l with
  | nil => rfl
  | cons b l ih => simp [h, ih]

/-- With no unit gone and no test overdue, nothing is taken over. -/
theorem takeovers_idle {s : State} (h1 : s.flt.gone = []) (h2 : s.tests = []) : s.takeovers = s := by
  have hg : ∀ p, mapGet false s.flt.gone p = false := by intro p; rw [h1]; rfl
  have ho : ∀ k p, s.overdueOn k p = false := by intro k p; simp [State.overdueOn, h2]
  unfold State.takeovers
  rw [foldl_fix (a := s), foldl_fix (a := s)]
  · intro e; split <;> simp [State.drvDue, hg, ho]
  · intro e; split <;> simp [State.muDue, hg, ho]

end Sys2Proof.Machine
end

