-- ==== Sys2Proof/Laws/Kept.lean ====
section
/-! SUPPORT. What every operation on the state keeps: the queue of waiting commands, and the canonical form of both memories. One
lemma for each operation, in the files that follow; a state inside a pair, an option or an outcome is spoken of in place. -/

namespace Sys2Proof.Machine

/-- The queue is q and the memories are in canonical form. -/
@[irreducible] def Kept (q : List Instr) (s : State) : Prop := s.pending = q ∧ s.memOk = true

/-- The state an option holds, if any, is kept. -/
@[irreducible] def KeptO (q : List Instr) : Option State → Prop
  | some t => Kept q t
  | none => True

/-- The next state of an outcome, if any, is kept. -/
@[irreducible] def KeptR (q : List Instr) : Res → Prop
  | .next t => Kept q t
  | .fault _ => True
  | .refused _ => True

section
variable {q : List Instr} {s t : State} {α β γ : Type}

/-- An update that leaves the queue and the memories alone. -/
theorem Kept.upd_iff {a1 a2 a3 a4 a5 a6 b1 b2 b3 b4 b5 b6 b7 b8 b9 b10 b11 b12 b13 b14 b15 b16} :
    Kept q (State.mk s.pending a1 a2 a3 a4 a5 a6 s.mem b1 b2 b3 b4 b5 b6 b7 b8 b9 b10 b11 b12 b13 b14 b15 b16) ↔ Kept q s := by
  unfold Kept; exact Iff.rfl

/-- An update of the memory's bookkeeping. -/
theorem Kept.updMem_iff {a1 a2 a3 a4 a5 a6 b1 b2 b3 b4 b5 b6 b7 b8 b9 b10 b11 b12 b13 b14 b15 b16 m1 m2 m3 m4 m5 m6 m7 m8 m9 m10 m11 m12 m13 m14} :
    Kept q (State.mk s.pending a1 a2 a3 a4 a5 a6 (Mem.mk s.mem.cells m1 m2 s.mem.host m3 m4 m5 m6 m7 m8 m9 m10 m11 m12 m13 m14)
      b1 b2 b3 b4 b5 b6 b7 b8 b9 b10 b11 b12 b13 b14 b15 b16) ↔ Kept q s := by
  unfold Kept; exact Iff.rfl

/-- An update that writes a memory. -/
theorem Kept.updCells (h : Kept q s) {a1 a2 a3 a4 a5 a6 b1 b2 b3 b4 b5 b6 b7 b8 b9 b10 b11 b12 b13 b14 b15 b16 m1 m2 m3 m4 m5 m6 m7 m8 m9 m10 m11 m12 m13 m14 c o}
    (hc : Memory.wf c = true) (ho : Memory.wf o = true) :
    Kept q (State.mk s.pending a1 a2 a3 a4 a5 a6 (Mem.mk c m1 m2 o m3 m4 m5 m6 m7 m8 m9 m10 m11 m12 m13 m14)
      b1 b2 b3 b4 b5 b6 b7 b8 b9 b10 b11 b12 b13 b14 b15 b16) := by
  unfold Kept at *; exact ⟨h.1, by simp [State.memOk, hc, ho]⟩

theorem Kept.cells (h : Kept q s) : Memory.wf s.mem.cells = true := by
  unfold Kept at h; have := h.2; simp [State.memOk] at this; exact this.1

theorem Kept.hostCells (h : Kept q s) : Memory.wf s.mem.host = true := by
  unfold Kept at h; have := h.2; simp [State.memOk] at this; exact this.2

theorem Kept.ite {c : Prop} [Decidable c] (h : Kept q s) (h' : Kept q t) : Kept q (if c then s else t) := by split <;> assumption

theorem Kept.ite1 {c : Prop} [Decidable c] {a b : State × α} (h : Kept q a.1) (h' : Kept q b.1) :
    Kept q (if c then a else b).1 := by split <;> assumption

theorem Kept.ite2 {c : Prop} [Decidable c] {a b : α × State} (h : Kept q a.2) (h' : Kept q b.2) :
    Kept q (if c then a else b).2 := by split <;> assumption

theorem Kept.ite22 {c : Prop} [Decidable c] {a b : α × β × State} (h : Kept q a.2.2) (h' : Kept q b.2.2) :
    Kept q (if c then a else b).2.2 := by split <;> assumption

theorem KeptO.ite {c : Prop} [Decidable c] {a b : Option State} (h : KeptO q a) (h' : KeptO q b) :
    KeptO q (if c then a else b) := by split <;> assumption

theorem KeptR.ite {c : Prop} [Decidable c] {a b : Res} (h : KeptR q a) (h' : KeptR q b) :
    KeptR q (if c then a else b) := by split <;> assumption

theorem Kept.snd {p : α × State} {a : α} (e : p = (a, t)) (h : Kept q p.2) : Kept q t := by subst e; exact h

theorem Kept.snd2 {p : α × β × State} {a : α} {b : β} (e : p = (a, b, t)) (h : Kept q p.2.2) : Kept q t := by subst e; exact h

theorem Kept.pairOf {r : β × State} {f : β → γ} (h : Kept q r.2) : Kept q (f r.1, r.2).2 := h

theorem Kept.some {o : Option State} (e : o = some t) (h : KeptO q o) : Kept q t := by subst e; unfold KeptO at h; exact h

/-- What each step of a fold keeps, the fold keeps. -/
theorem Kept.foldl {f : State → α → State} {l : List α} (h : Kept q s) (hf : ∀ t a, Kept q t → Kept q (f t a)) :
    Kept q (l.foldl f s) := by
  induction l generalizing s with
  | nil => exact h
  | cons a l ih => exact ih (hf s a h)

theorem Kept.foldl2 {f : β × State → α → β × State} {l : List α} {p : β × State} (h : Kept q p.2)
    (hf : ∀ p a, Kept q p.2 → Kept q (f p a).2) : Kept q (l.foldl f p).2 := by
  induction l generalizing p with
  | nil => exact h
  | cons a l ih => exact ih (hf p a h)

theorem Kept.foldl22 {f : γ × β × State → α → γ × β × State} {l : List α} {p : γ × β × State} (h : Kept q p.2.2)
    (hf : ∀ p a, Kept q p.2.2 → Kept q (f p a).2.2) : Kept q (l.foldl f p).2.2 := by
  induction l generalizing p with
  | nil => exact h
  | cons a l ih => exact ih (hf p a h)

theorem KeptO.none : KeptO q Option.none := by unfold KeptO; trivial
theorem KeptO.of (h : Kept q s) : KeptO q (Option.some s) := by unfold KeptO; exact h
theorem KeptR.of (h : Kept q s) : KeptR q (.next s) := by unfold KeptR; exact h
theorem KeptR.fault {f : Fault} : KeptR q (.fault f) := by unfold KeptR; trivial
theorem KeptR.refused {r : Refusal} : KeptR q (.refused r) := by unfold KeptR; trivial

/-- A fold over any data that holds a state. -/
theorem Kept.foldlBy (g : β → State) {f : β → α → β} {l : List α} {b : β} (h : Kept q (g b))
    (hf : ∀ b a, Kept q (g b) → Kept q (g (f b a))) : Kept q (g (l.foldl f b)) := by
  induction l generalizing b with
  | nil => exact h
  | cons a l ih => exact ih (hf b a h)

/-- The outcome of a command on an instance. -/
theorem KeptR.onUnit {b : Bool} (h : Kept q s) : KeptR q (onUnit b s) := by
  unfold Machine.onUnit; split
  · exact KeptR.of h
  · exact KeptR.fault

end

/-- Writing a byte keeps the canonical form (R367). -/
theorem Memory.wf_set {m : List Host.Cell} {a : Nat} {b : Byte} (h : Memory.wf m = true) : Memory.wf (memSetByte m a b) = true :=
  mapWf_mapSet a b h

theorem Memory.wf_writeAt {m : List Host.Cell} {a : Nat} {bs : List Byte} (h : Memory.wf m = true) :
    Memory.wf (memWriteAt m a bs) = true := by
  induction bs generalizing m a with
  | nil => exact h
  | cons b bs ih => exact ih (Memory.wf_set h)

theorem Memory.wf_filter {m : List Host.Cell} (f : Host.Cell → Bool) (h : Memory.wf m = true) : Memory.wf (m.filter f) = true :=
  mapWf_filter f h

theorem Memory.wf_poke {z : Nat} {m : List Host.Cell} {a : Nat} {bs : List Byte} (h : Memory.wf m = true) :
    Memory.wf (pokeCells z m a bs) = true := by
  induction bs generalizing m a with
  | nil => exact h
  | cons b bs ih =>
    refine ih ?_
    generalize (placeOf z a).key = k
    cases k with
    | none => exact h
    | some k => exact Memory.wf_set h

end Sys2Proof.Machine
end

