-- ==== Sys2Proof/Laws/KeptState.lean ====
section
/-! SUPPORT. The queue and the memories' canonical form through the operations of Machine/State.lean. -/

namespace Sys2Proof.Machine

theorem onUnit_kept {q : List Instr} {ok : Bool} {s : State} (h0 : Kept q s) :
    KeptR q (onUnit ok s) := by
  unfold onUnit
  with_reducible repeat' first | assumption | apply KeptR.fault | apply KeptR.of | apply KeptR.ite

end Sys2Proof.Machine
end

