-- ==== Sys2Proof/Laws/KeptOps.lean ====
section
/-! SUPPORT. The queue and the memories' canonical form through the operations of Machine/Ops.lean. -/

namespace Sys2Proof.Machine

theorem State.setReg_kept {q : List Instr} {s : State} {off : Nat} {w : Sys2Proof.Word} (h0 : Kept q s) :
    Kept q (State.setReg s off w) := by
  unfold State.setReg
  repeat' first
    | (with_reducible first | assumption)
    | simp only [↓Kept.upd_iff]

theorem State.setFld_kept {q : List Instr} {s : State} {off : Nat} {hi : Nat} {lo : Nat} {v : Nat} (h0 : Kept q s) :
    Kept q (State.setFld s off hi lo v) := by
  unfold State.setFld
  with_reducible repeat' first | assumption | apply State.setReg_kept

theorem State.setBit_kept {q : List Instr} {s : State} {off : Nat} {i : Nat} (h0 : Kept q s) :
    Kept q (State.setBit s off i) := by
  unfold State.setBit
  with_reducible repeat' first | assumption | apply State.setReg_kept

theorem State.clrBit_kept {q : List Instr} {s : State} {off : Nat} {i : Nat} (h0 : Kept q s) :
    Kept q (State.clrBit s off i) := by
  unfold State.clrBit
  with_reducible repeat' first | assumption | apply State.setReg_kept

theorem State.satAdd_kept {q : List Instr} {s : State} {off : Nat} {hi : Nat} {lo : Nat} {n : Nat} (h0 : Kept q s) :
    Kept q (State.satAdd s off hi lo n) := by
  unfold State.satAdd
  with_reducible repeat' first | assumption | apply State.setFld_kept

theorem State.stage_kept {q : List Instr} {s : State} {off : Nat} {mask : Sys2Proof.Word} {v : Sys2Proof.Word} (h0 : Kept q s) :
    Kept q (State.stage s off mask v) := by
  unfold State.stage
  repeat' first
    | (with_reducible first | assumption)
    | simp only [↓Kept.upd_iff]

theorem State.takeFree_kept {q : List Instr} {s : State} (h0 : Kept q s) :
    Kept q (State.takeFree s).2 := by
  unfold State.takeFree
  repeat' first
    | (with_reducible first | assumption)
    | simp only [↓Kept.upd_iff]

theorem State.emit_kept {q : List Instr} {s : State} {o : Out} (h0 : Kept q s) :
    Kept q (State.emit s o) := by
  unfold State.emit
  repeat' first
    | (with_reducible first | assumption)
    | simp only [↓Kept.upd_iff]

theorem State.updRail_kept {q : List Instr} {s : State} {f : Sys2Proof.Word → Sys2Proof.Word} (h0 : Kept q s) :
    Kept q (State.updRail s f) := by
  unfold State.updRail
  repeat' first
    | (with_reducible first | assumption | apply State.setReg_kept)
    | simp only [↓Kept.upd_iff]

theorem State.sendMsi_kept {q : List Instr} {s : State} {link : Nat} {func : Nat} {vec : Nat} (h0 : Kept q s) :
    Kept q (State.sendMsi s link func vec) := by
  unfold State.sendMsi
  repeat' first
    | (with_reducible first | assumption | apply State.emit_kept | apply Kept.ite)
    | simp only [↓Kept.upd_iff]

theorem State.raiseIrq_kept {q : List Instr} {s : State} {src : Nat} (h0 : Kept q s) :
    Kept q (State.raiseIrq s src) := by
  unfold State.raiseIrq
  repeat' first
    | (with_reducible first | assumption | apply State.setBit_kept | apply State.sendMsi_kept | apply Kept.ite)
    | simp only [↓Kept.upd_iff]

theorem State.cntAdd_kept {q : List Instr} {s : State} {d : Nat} {i : Nat} {n : Nat} (h0 : Kept q s) :
    Kept q (State.cntAdd s d i n) := by
  unfold State.cntAdd
  repeat' first
    | (with_reducible first | assumption | apply State.setBit_kept | apply State.raiseIrq_kept | apply Kept.ite)
    | simp only [↓Kept.upd_iff]

theorem State.event_kept {q : List Instr} {s : State} {d : Nat} {src : Nat} {inst : Nat} {n : Nat} (h0 : Kept q s) :
    Kept q (State.event s d src inst n) := by
  unfold State.event
  with_reducible repeat' first | intro _ | assumption | apply State.cntAdd_kept | apply Kept.ite | apply Kept.foldl

theorem State.eventF_kept {q : List Instr} {s : State} {f : Nat} {src : Nat} {inst : Nat} {n : Nat} (h0 : Kept q s) :
    Kept q (State.eventF s f src inst n) := by
  unfold State.eventF
  with_reducible repeat' first | assumption | apply State.event_kept

theorem State.raiseFault_kept {q : List Instr} {s : State} {sev : Nat} {code : Nat} {subj : Nat} {detail : List Nat} (h0 : Kept q s) :
    Kept q (State.raiseFault s sev code subj detail) := by
  unfold State.raiseFault
  repeat' first
    | (with_reducible first | assumption | apply State.eventF_kept | apply Kept.ite)
    | simp only [↓Kept.upd_iff]

theorem State.setThr_kept {q : List Instr} {s : State} {row : Nat} {subj : Nat} {v : Nat} (h0 : Kept q s) :
    Kept q (State.setThr s row subj v) := by
  unfold State.setThr
  repeat' first
    | (with_reducible first | assumption)
    | simp only [↓Kept.upd_iff]

theorem State.drain_kept {q : List Instr} {s : State} {replace : Bool} (h0 : Kept q s) :
    Kept q (State.drain s replace) := by
  unfold State.drain
  repeat' first
    | (with_reducible first | assumption | apply State.setBit_kept | apply State.raiseFault_kept | apply Kept.ite)
    | simp only [↓Kept.upd_iff]

theorem State.moduleStrike_kept {q : List Instr} {s : State} {n : Nat} (h0 : Kept q s) :
    Kept q (State.moduleStrike s n) := by
  unfold State.moduleStrike
  repeat' first
    | (with_reducible first | assumption | apply State.setFld_kept | apply State.drain_kept | apply State.setThr_kept | apply Kept.ite)
    | simp only [↓Kept.upd_iff]

theorem State.threshold_kept {q : List Instr} {s : State} {row : Nat} {subj : Nat} {n : Nat} (h0 : Kept q s) :
    Kept q (State.threshold s row subj n).2 := by
  unfold State.threshold
  repeat' first
    | (with_reducible first | assumption | apply State.moduleStrike_kept | apply State.setThr_kept | apply Kept.ite2)
    | simp only [↓Kept.upd_iff]

theorem State.alert_kept {q : List Instr} {s : State} {i : Nat} (h0 : Kept q s) :
    Kept q (State.alert s i) := by
  unfold State.alert
  repeat' first
    | (with_reducible first | assumption)
    | simp only [↓Kept.upd_iff]

end Sys2Proof.Machine
end

