-- ==== Sys2Proof/Laws/KeptAccess.lean ====
section
/-! SUPPORT. The queue and the memories' canonical form through the operations of Machine/Access.lean. -/

namespace Sys2Proof.Machine

theorem State.deny_kept {q : List Instr} {s : State} {t : Nat} {need : Nat} {master : Nat} {unit_ : Nat} (h0 : Kept q s) :
    Kept q (State.deny s t need master unit_) := by
  unfold State.deny
  repeat' first
    | (with_reducible first
        | assumption | apply State.eventF_kept | apply State.raiseIrq_kept | apply State.setReg_kept | apply Kept.ite)
    | simp only [↓Kept.upd_iff]

theorem State.aclCheck_kept {q : List Instr} {s : State} {t : Nat} {right : Nat} {master : Nat} {lo : Nat} {hi : Nat} (h0 : Kept q s) :
    Kept q (State.aclCheck s t right master lo hi).2 := by
  unfold State.aclCheck
  with_reducible repeat' first | assumption | apply State.deny_kept | apply Kept.ite2

theorem State.regCheck_kept {q : List Instr} {s : State} {right : Nat} {master : Nat} {off : Nat} (h0 : Kept q s) :
    Kept q (State.regCheck s right master off).2 := by
  unfold State.regCheck
  with_reducible repeat' first | assumption | apply State.aclCheck_kept

theorem State.regWriteCheck_kept {q : List Instr} {s : State} {master : Nat} {off : Nat} (h0 : Kept q s) :
    Kept q (State.regWriteCheck s master off).2 := by
  unfold State.regWriteCheck
  repeat' first
    | (with_reducible first | assumption | apply State.deny_kept | apply State.regCheck_kept | apply Kept.ite2)
    | simp only [↓Kept.upd_iff]

theorem State.refuse_kept {q : List Instr} {s : State} {c : Chk} {right : Nat} {master : Nat} {a : Nat} (h0 : Kept q s) :
    Kept q (State.refuse s c right master a) := by
  unfold State.refuse
  repeat' first
    | (with_reducible first | assumption | apply State.deny_kept | apply State.eventF_kept)
    | split

theorem State.setSpare_kept {q : List Instr} {s : State} {k : Nat} {p : Nat} {line : Nat} {es : Errs} (h0 : Kept q s) :
    Kept q (State.setSpare s k p line es) := by
  unfold State.setSpare
  repeat' first
    | (with_reducible first | assumption)
    | simp only [↓Kept.upd_iff]
    | simp only [↓Kept.updMem_iff]

theorem State.setErrsIn_kept {q : List Instr} {s : State} {es : Errs} {p : Place} (h0 : Kept q s) :
    Kept q (State.setErrsIn s es p) := by
  unfold State.setErrsIn
  repeat' first
    | (with_reducible first | assumption | apply State.setSpare_kept)
    | simp only [↓Kept.upd_iff]
    | simp only [↓Kept.updMem_iff]
    | split

theorem State.setErrs_kept {q : List Instr} {s : State} {a : Nat} {es : Errs} (h0 : Kept q s) :
    Kept q (State.setErrs s a es) := by
  unfold State.setErrs
  with_reducible repeat' first | assumption | apply State.setErrsIn_kept

theorem State.setGood_kept {q : List Instr} {s : State} {a : Nat} (h0 : Kept q s) :
    Kept q (State.setGood s a) := by
  unfold State.setGood
  with_reducible repeat' first | assumption | apply State.setErrs_kept

theorem State.logUe_kept {q : List Instr} {s : State} {kind : Nat} {master : Nat} {a : Nat} (h0 : Kept q s) :
    Kept q (State.logUe s kind master a) := by
  unfold State.logUe
  repeat' first
    | (with_reducible first | assumption | apply State.raiseIrq_kept | apply State.setReg_kept | apply Kept.ite)
    | simp only [↓Kept.upd_iff]

theorem State.refreshStack_kept {q : List Instr} {s : State} {k : Nat} {st : Nat} (h0 : Kept q s) :
    Kept q (State.refreshStack s k st) := by
  unfold State.refreshStack
  with_reducible repeat' first | assumption | apply State.setReg_kept

theorem State.retireChannel_kept {q : List Instr} {s : State} {k : Nat} {c : Nat} (h0 : Kept q s) :
    Kept q (State.retireChannel s k c) := by
  unfold State.retireChannel
  repeat' first
    | (with_reducible first
        | assumption | apply State.setBit_kept | apply State.setFld_kept | apply State.refreshStack_kept | apply State.clrBit_kept
        | apply State.drain_kept | apply State.raiseFault_kept | apply Kept.ite)
    | simp only [↓Kept.upd_iff]
    | simp only [↓Kept.updMem_iff]
    | split

theorem State.markRetired_kept {q : List Instr} {s : State} {k : Nat} {p : Nat} (h0 : Kept q s) :
    Kept q (State.markRetired s k p) := by
  unfold State.markRetired
  repeat' first
    | (with_reducible first | assumption | apply State.setBit_kept)
    | simp only [↓Kept.upd_iff]
    | simp only [↓Kept.updMem_iff]

theorem State.orderRetire_kept {q : List Instr} {s : State} {k : Nat} {p : Nat} (h0 : Kept q s) :
    Kept q (State.orderRetire s k p) := by
  unfold State.orderRetire
  repeat' first
    | (with_reducible first
        | assumption | apply State.retireChannel_kept | apply State.markRetired_kept | apply State.refreshStack_kept | apply Kept.ite)
    | simp only [↓Kept.upd_iff]
    | simp only [↓Kept.updMem_iff]
    | split

theorem State.correctedRead_kept {q : List Instr} {s : State} {k : Nat} {p : Nat} {sym : Nat} (h0 : Kept q s) :
    Kept q (State.correctedRead s k p sym) := by
  unfold State.correctedRead
  repeat' first
    | (with_reducible first
        | assumption | apply State.eventF_kept | apply State.setFld_kept | apply State.satAdd_kept | apply State.threshold_kept
        | apply State.orderRetire_kept | apply Kept.ite)
    | simp only [↓Kept.upd_iff]

theorem State.correctedSram_kept {q : List Instr} {s : State} {f : Nat} {n : Nat} (h0 : Kept q s) :
    Kept q (State.correctedSram s f n) := by
  unfold State.correctedSram
  repeat' first
    | (with_reducible first
        | assumption | apply State.threshold_kept | apply State.eventF_kept | apply State.drain_kept | apply Kept.ite)
    | simp only [↓Kept.upd_iff]

theorem State.noteRead_kept {q : List Instr} {s : State} {kind : Nat} {master : Nat} {a : Nat} {m : Mark} {a5 : Place} (h0 : Kept q s) :
    Kept q (State.noteRead s kind master a m a5) := by
  unfold State.noteRead
  repeat' first
    | (with_reducible first
        | assumption | apply State.correctedRead_kept | apply State.eventF_kept | apply State.logUe_kept
        | apply State.correctedSram_kept)
    | split

theorem State.stackEvent_kept {q : List Instr} {s : State} {src : Nat} {a2 : Place} (h0 : Kept q s) :
    Kept q (State.stackEvent s src a2) := by
  unfold State.stackEvent
  repeat' first
    | (with_reducible first | assumption | apply State.eventF_kept)
    | split

theorem State.readLineIn_kept {q : List Instr} {s : State} {kind : Nat} {master : Nat} {a : Nat} {p : Place} (h0 : Kept q s) :
    Kept q (State.readLineIn s kind master a p) := by
  unfold State.readLineIn
  with_reducible repeat' first | assumption | apply State.noteRead_kept | apply State.stackEvent_kept

theorem State.readLine_kept {q : List Instr} {s : State} {kind : Nat} {master : Nat} {a : Nat} (h0 : Kept q s) :
    Kept q (State.readLine s kind master a) := by
  unfold State.readLine
  with_reducible repeat' first | assumption | apply State.readLineIn_kept

theorem State.noteTag_kept {q : List Instr} {s : State} {f : Nat} (h0 : Kept q s) :
    Kept q (State.noteTag s f) := by
  unfold State.noteTag
  with_reducible repeat' first | assumption | apply State.setFld_kept

theorem State.readMem_kept {q : List Instr} {s : State} {kind : Nat} {master : Nat} {a : Nat} {n : Nat} (h0 : Kept q s) :
    Kept q (State.readMem s kind master a n).2.2 := by
  unfold State.readMem
  repeat' first
    | (with_reducible first | intro _ | assumption | apply State.readLine_kept | apply State.noteTag_kept | apply Kept.foldl)
    | simp only [↓Kept.upd_iff]

theorem State.poke_kept {q : List Instr} {s : State} {a : Nat} {bs : List Sys2Proof.Byte} (h0 : Kept q s) :
    Kept q (State.poke s a bs) := by
  unfold State.poke
  exact Kept.updCells h0 (Memory.wf_poke h0.cells) h0.hostCells

theorem State.poisonLine_kept {q : List Instr} {s : State} {l : Nat} (h0 : Kept q s) :
    Kept q (State.poisonLine s l) := by
  unfold State.poisonLine
  with_reducible repeat' first | assumption | apply State.setErrs_kept | apply State.poke_kept | apply Kept.ite

theorem State.writeLine_kept {q : List Instr} {s : State} {master : Nat} {a : Nat} {bs : List Sys2Proof.Byte} (h0 : Kept q s) :
    Kept q (State.writeLine s master a bs) := by
  unfold State.writeLine
  repeat' first
    | (with_reducible first
        | assumption | apply State.stackEvent_kept | apply State.setGood_kept | apply State.poke_kept | apply State.noteRead_kept
        | apply State.poisonLine_kept | apply Kept.ite)
    | simp only [↓Kept.upd_iff]
    | split

theorem State.writeLines_kept {q : List Instr} {s : State} {master : Nat} {a2 : Nat} {a3 : Nat} {a4 : List Sys2Proof.Byte} (h0 : Kept q s) :
    Kept q (State.writeLines s master a2 a3 a4) := by
  induction a2 generalizing s a3 a4 with
  | zero => unfold State.writeLines; exact h0
  | succ n ih =>
    unfold State.writeLines
    split
    · exact h0
    · exact ih (State.writeLine_kept h0)

theorem State.writeMem_kept {q : List Instr} {s : State} {master : Nat} {a : Nat} {bs : List Sys2Proof.Byte} (h0 : Kept q s) :
    Kept q (State.writeMem s master a bs) := by
  unfold State.writeMem
  with_reducible repeat' first | assumption | apply State.writeLines_kept | apply State.noteTag_kept

theorem State.poisonLines_kept {q : List Instr} {s : State} {a : Nat} {n : Nat} (h0 : Kept q s) :
    Kept q (State.poisonLines s a n) := by
  unfold State.poisonLines
  with_reducible repeat' first | intro _ | assumption | apply State.poisonLine_kept | apply Kept.foldl

theorem State.request_kept {q : List Instr} {s : State} {w : Who} {kind : Nat} {d : DAddr} {n : Nat} (h0 : Kept q s) :
    Kept q (State.request s w kind d n).2 := by
  unfold State.request
  repeat' first
    | (with_reducible first
        | assumption | apply State.readMem_kept | apply State.refuse_kept | apply State.aclCheck_kept | apply Kept.ite2)
    | simp only [↓Kept.upd_iff]
    | split

theorem State.store_kept {q : List Instr} {s : State} {w : Who} {d : DAddr} {bs : List Sys2Proof.Byte} (h0 : Kept q s) :
    Kept q (State.store s w d bs).2 := by
  unfold State.store
  repeat' first
    | (with_reducible first
        | assumption | apply State.writeMem_kept | apply State.refuse_kept | apply State.aclCheck_kept | apply Kept.ite2)
    | exact Kept.updCells (State.aclCheck_kept h0) (State.aclCheck_kept h0).cells (Memory.wf_writeAt (State.aclCheck_kept h0).hostCells)
    | simp only [↓Kept.upd_iff]
    | split

end Sys2Proof.Machine
end

