-- ==== Sys2Proof/Laws/KeptTelemetry.lean ====
section
/-! SUPPORT. The queue and the memories' canonical form through the operations of Machine/Telemetry.lean. -/

namespace Sys2Proof.Machine

theorem State.setShr_kept {q : List Instr} {s : State} {k : Nat} {x : Shr} (h0 : Kept q s) :
    Kept q (State.setShr s k x) := by
  unfold State.setShr
  repeat' first
    | (with_reducible first | assumption)
    | simp only [↓Kept.upd_iff]

theorem State.cntClear_kept {q : List Instr} {s : State} {mask : Nat} {f : Nat → Nat → Bool} (h0 : Kept q s) :
    Kept q (State.cntClear s mask f) := by
  unfold State.cntClear
  repeat' first
    | (with_reducible first | assumption)
    | simp only [↓Kept.upd_iff]

theorem State.ringWrite_kept {q : List Instr} {s : State} {kind : Nat} {decision : Nat} (h0 : Kept q s) :
    Kept q (State.ringWrite s kind decision) := by
  unfold State.ringWrite
  repeat' first
    | (with_reducible first
        | assumption | apply State.cntClear_kept | apply State.store_kept | apply State.setReg_kept | apply State.setBit_kept
        | apply State.clrBit_kept)
    | simp only [↓Kept.upd_iff]
    | split

theorem State.ringRecord_kept {q : List Instr} {s : State} {kind : Nat} {decision : Nat} (h0 : Kept q s) :
    Kept q (State.ringRecord s kind decision) := by
  unfold State.ringRecord
  repeat' first
    | (with_reducible first
        | assumption | apply State.ringWrite_kept | apply State.takeFree_kept | apply State.satAdd_kept | apply Kept.ite)
    | simp only [↓Kept.upd_iff]

theorem State.pdUpd_kept {q : List Instr} {s : State} {i : Nat} {b : Nat} {f : PdCopy → PdCopy} (h0 : Kept q s) :
    Kept q (State.pdUpd s i b f) := by
  unfold State.pdUpd
  repeat' first
    | (with_reducible first | assumption)
    | simp only [↓Kept.upd_iff]

theorem State.noteCommit_kept {q : List Instr} {s : State} (h0 : Kept q s) :
    Kept q (State.noteCommit s) := by
  unfold State.noteCommit
  with_reducible repeat' first | intro _ | assumption | apply State.pdUpd_kept | apply Kept.ite | apply Kept.foldl

theorem State.noteWindow_kept {q : List Instr} {s : State} {p : Nat} (h0 : Kept q s) :
    Kept q (State.noteWindow s p) := by
  unfold State.noteWindow
  with_reducible repeat' first | intro _ | assumption | apply State.pdUpd_kept | apply Kept.ite | apply Kept.foldl

theorem State.newWindows_kept {q : List Instr} {s : State} (h0 : Kept q s) :
    Kept q (State.newWindows s) := by
  unfold State.newWindows
  repeat' first
    | (with_reducible first | intro _ | assumption | apply State.noteWindow_kept | apply Kept.ite | apply Kept.foldl)
    | simp only [↓Kept.upd_iff]

theorem State.closeStep_kept {q : List Instr} {s : State} (h0 : Kept q s) :
    Kept q (State.closeStep s) := by
  unfold State.closeStep
  repeat' first
    | (with_reducible first | assumption | apply State.newWindows_kept | apply State.ringRecord_kept | apply State.setReg_kept)
    | simp only [↓Kept.upd_iff]

end Sys2Proof.Machine
end

