-- ==== Sys2Proof/Laws/KeptRings.lean ====
section
/-! SUPPORT. The queue and the memories' canonical form through the operations of Machine/Rings.lean. -/

namespace Sys2Proof.Machine

theorem State.setCtx_kept {q : List Instr} {s : State} {c : Nat} {x : Ctx} (h0 : Kept q s) :
    Kept q (State.setCtx s c x) := by
  unfold State.setCtx
  repeat' first
    | (with_reducible first | assumption)
    | simp only [↓Kept.upd_iff]

theorem State.ctxError_kept {q : List Instr} {s : State} {c : Nat} {code : Nat} (h0 : Kept q s) :
    Kept q (State.ctxError s c code) := by
  unfold State.ctxError
  repeat' first
    | (with_reducible first | assumption | apply State.raiseIrq_kept | apply State.setCtx_kept | apply Kept.ite)
    | simp only [↓Kept.upd_iff]

theorem State.abandon_kept {q : List Instr} {s : State} {c : Nat} (h0 : Kept q s) :
    Kept q (State.abandon s c) := by
  unfold State.abandon
  repeat' first
    | (with_reducible first
        | intro _ | assumption | apply State.raiseFault_kept | apply State.setFld_kept | apply State.setBit_kept
        | apply State.closeStep_kept | apply State.eventF_kept | apply Kept.ite | apply Kept.foldl)
    | simp only [↓Kept.upd_iff]
    | split

theorem State.settle_kept {q : List Instr} {s : State} {c : Nat} (h0 : Kept q s) :
    Kept q (State.settle s c) := by
  unfold State.settle
  repeat' first
    | (with_reducible first | assumption | apply State.abandon_kept | apply State.setCtx_kept | apply Kept.ite)
    | simp only [↓Kept.upd_iff]

theorem State.ctxIrq_kept {q : List Instr} {s : State} {c : Nat} (h0 : Kept q s) :
    Kept q (State.ctxIrq s c) := by
  unfold State.ctxIrq
  repeat' first
    | (with_reducible first | assumption | apply State.setCtx_kept | apply State.sendMsi_kept | apply Kept.ite)
    | simp only [↓Kept.upd_iff]

theorem State.retire_kept {q : List Instr} {s : State} {c : Nat} {d : Desc} {status : Nat} (h0 : Kept q s) :
    Kept q (State.retire s c d status) := by
  unfold State.retire
  repeat' first
    | (with_reducible first
        | assumption | apply State.eventF_kept | apply State.setCtx_kept | apply State.settle_kept | apply State.closeStep_kept
        | apply Kept.ite)
    | simp only [↓Kept.upd_iff]

theorem State.writeCompletion_kept {q : List Instr} {s : State} {c : Nat} {d : Desc} {status : Nat} (h0 : Kept q s) :
    Kept q (State.writeCompletion s c d status) := by
  unfold State.writeCompletion
  repeat' first
    | (with_reducible first
        | assumption | apply State.retire_kept | apply State.store_kept | apply State.setCtx_kept | apply State.ctxIrq_kept
        | apply State.ctxError_kept | apply Kept.ite)
    | simp only [↓Kept.upd_iff]
    | split

theorem State.complete_kept {q : List Instr} {s : State} {c : Nat} {ptr : Nat} {status : Nat} (h0 : Kept q s) :
    Kept q (State.complete s c ptr status) := by
  unfold State.complete
  repeat' first
    | (with_reducible first | assumption | apply State.setCtx_kept | apply State.writeCompletion_kept | apply Kept.ite)
    | simp only [↓Kept.upd_iff]
    | split

theorem State.releaseHeld_kept {q : List Instr} {s : State} {c : Nat} {a2 : Nat} (h0 : Kept q s) :
    Kept q (State.releaseHeld s c a2) := by
  induction a2 generalizing s c with
  | zero =>
    unfold State.releaseHeld
    repeat' first
      | (with_reducible first | assumption | apply State.writeCompletion_kept | apply Kept.ite)
      | split
  | succ n ih =>
    unfold State.releaseHeld
    repeat' first
      | (with_reducible first | apply ih | assumption | apply State.writeCompletion_kept | apply Kept.ite)
      | split

theorem State.updDesc_kept {q : List Instr} {s : State} {c : Nat} {ptr : Nat} {f : Desc → Desc} (h0 : Kept q s) :
    Kept q (State.updDesc s c ptr f) := by
  unfold State.updDesc
  with_reducible repeat' first | assumption | apply State.setCtx_kept

theorem State.working_kept {q : List Instr} {s : State} {c : Nat} {ptr : Nat} (h0 : Kept q s) :
    Kept q (State.working s c ptr) := by
  unfold State.working
  with_reducible repeat' first | assumption | apply State.updDesc_kept

theorem State.runDesc_kept {q : List Instr} {s : State} {c : Nat} {ptr : Nat} {op : Nat} {f : Desc → State → State} (h0 : Kept q s) (hf : ∀ b0 b1, Kept q b1 → Kept q (f b0 b1)) :
    Kept q (State.runDesc s c ptr op f) := by
  unfold State.runDesc
  repeat' first
    | (with_reducible first | assumption | apply hf | apply Kept.ite)
    | split

theorem State.readRecord_kept {q : List Instr} {s : State} {w : Who} {addr : Nat} {n : Nat} (h0 : Kept q s) :
    Kept q (State.readRecord s w addr n).2 := by
  unfold State.readRecord
  repeat' first
    | (with_reducible first | assumption | apply State.request_kept | apply Kept.ite2)
    | simp only [↓Kept.upd_iff]
    | split

end Sys2Proof.Machine
end

