-- ==== Sys2Proof/Laws/KeptHost.lean ====
section
/-! SUPPORT. The queue and the memories' canonical form through the operations of Machine/Host.lean. -/

namespace Sys2Proof.Machine

theorem State.tailDoor_kept {q : List Instr} {s : State} {c : Nat} {v : Nat} (h0 : Kept q s) :
    Kept q (State.tailDoor s c v) := by
  unfold State.tailDoor
  repeat' first
    | (with_reducible first
        | assumption | apply State.ctxError_kept | apply State.eventF_kept | apply State.setCtx_kept | apply Kept.ite)
    | simp only [↓Kept.upd_iff]
    | split

theorem State.headDoor_kept {q : List Instr} {s : State} {c : Nat} {v : Nat} (h0 : Kept q s) :
    Kept q (State.headDoor s c v) := by
  unfold State.headDoor
  repeat' first
    | (with_reducible first
        | assumption | apply State.ctxError_kept | apply State.releaseHeld_kept | apply State.setCtx_kept | apply State.eventF_kept
        | apply Kept.ite)
    | simp only [↓Kept.upd_iff]
    | split

theorem State.doorbell_kept {q : List Instr} {s : State} {link : Nat} {func : Nat} {page : Nat} {f : State → Nat → State} (h0 : Kept q s) (hf : ∀ b0 b1, Kept q b0 → Kept q (f b0 b1)) :
    Kept q (State.doorbell s link func page f) := by
  unfold State.doorbell
  repeat' first
    | (with_reducible first | assumption | apply State.eventF_kept | apply hf | apply Kept.ite)
    | split

theorem execDoorbellTail_kept {q : List Instr} {link : Nat} {func : Nat} {page : Nat} {v : Nat} {s : State} (h0 : Kept q s) :
    KeptR q (execDoorbellTail link func page v s) := by
  unfold execDoorbellTail
  with_reducible repeat' first | intro _ | assumption | apply onUnit_kept | apply State.doorbell_kept | apply State.tailDoor_kept

theorem execDoorbellHead_kept {q : List Instr} {link : Nat} {func : Nat} {page : Nat} {v : Nat} {s : State} (h0 : Kept q s) :
    KeptR q (execDoorbellHead link func page v s) := by
  unfold execDoorbellHead
  with_reducible repeat' first | intro _ | assumption | apply onUnit_kept | apply State.doorbell_kept | apply State.headDoor_kept

theorem State.takeDesc_kept {q : List Instr} {s : State} {c : Nat} {bs : List Sys2Proof.Byte} (h0 : Kept q s) :
    Kept q (State.takeDesc s c bs) := by
  unfold State.takeDesc
  with_reducible repeat' first | assumption | apply State.setCtx_kept

theorem State.fetchOne_kept {q : List Instr} {s : State} {c : Nat} (h0 : Kept q s) :
    Kept q (State.fetchOne s c).2 := by
  unfold State.fetchOne
  repeat' first
    | (with_reducible first
        | assumption | apply State.request_kept | apply State.takeDesc_kept | apply State.ctxError_kept | apply Kept.ite2)
    | simp only [↓Kept.upd_iff]
    | split

theorem State.fetchRing_kept {q : List Instr} {s : State} {c : Nat} {a2 : Nat} (h0 : Kept q s) :
    Kept q (State.fetchRing s c a2) := by
  induction a2 generalizing s c with
  | zero =>
    unfold State.fetchRing
    with_reducible repeat' first | assumption | apply State.fetchOne_kept | apply Kept.ite
  | succ n ih =>
    unfold State.fetchRing
    with_reducible repeat' first | apply ih | assumption | apply State.fetchOne_kept | apply Kept.ite

theorem execDescriptorFetch_kept {q : List Instr} {c : Nat} {s : State} (h0 : Kept q s) :
    KeptR q (execDescriptorFetch c s) := by
  unfold execDescriptorFetch
  with_reducible repeat' first | assumption | apply onUnit_kept | apply State.fetchRing_kept | apply Kept.ite

theorem execIrqGapExpiry_kept {q : List Instr} {c : Nat} {s : State} (h0 : Kept q s) :
    KeptR q (execIrqGapExpiry c s) := by
  unfold execIrqGapExpiry
  with_reducible repeat' first | assumption | apply onUnit_kept | apply State.sendMsi_kept | apply State.setCtx_kept | apply Kept.ite

theorem State.msixOpen_kept {q : List Instr} {s : State} {link : Nat} {func : Nat} {vec : Nat} (h0 : Kept q s) :
    Kept q (State.msixOpen s link func vec) := by
  unfold State.msixOpen
  repeat' first
    | (with_reducible first | assumption | apply State.emit_kept | apply Kept.ite)
    | simp only [↓Kept.upd_iff]

theorem execMsixUnmask_kept {q : List Instr} {link : Nat} {func : Nat} {vec : Nat} {s : State} (h0 : Kept q s) :
    KeptR q (execMsixUnmask link func vec s) := by
  unfold execMsixUnmask
  with_reducible repeat' first | assumption | apply onUnit_kept | apply State.msixOpen_kept

theorem State.guardedWrite_kept {q : List Instr} {s : State} {master : Nat} {off : Nat} {f : State → State} (h0 : Kept q s) (hf : ∀ b0, Kept q b0 → Kept q (f b0)) :
    Kept q (State.guardedWrite s master off f) := by
  unfold State.guardedWrite
  repeat' first
    | (with_reducible first | assumption | apply State.regWriteCheck_kept | apply hf | apply Kept.ite)
    | simp only [↓Kept.upd_iff]

theorem State.putCtl_kept {q : List Instr} {s : State} {c : Nat} {w : Sys2Proof.Word} (h0 : Kept q s) :
    Kept q (State.putCtl s c w) := by
  unfold State.putCtl
  with_reducible repeat' first | assumption | apply State.setReg_kept

theorem State.enableCtx_kept {q : List Instr} {s : State} {master : Nat} {c : Nat} {w : Sys2Proof.Word} (h0 : Kept q s) :
    Kept q (State.enableCtx s master c w) := by
  unfold State.enableCtx
  repeat' first
    | (with_reducible first | assumption | apply State.putCtl_kept | apply State.setCtx_kept | apply State.setBit_kept | apply Kept.ite)
    | simp only [↓Kept.upd_iff]

theorem State.writeEnable_kept {q : List Instr} {s : State} {master : Nat} {c : Nat} {w : Sys2Proof.Word} (h0 : Kept q s) :
    Kept q (State.writeEnable s master c w) := by
  unfold State.writeEnable
  repeat' first
    | (with_reducible first
        | intro _ | assumption | apply State.guardedWrite_kept | apply State.enableCtx_kept | apply State.setCtx_kept | apply Kept.ite)
    | simp only [↓Kept.upd_iff]

theorem execContextEnable_kept {q : List Instr} {master : Nat} {c : Nat} {w : Sys2Proof.Word} {s : State} (h0 : Kept q s) :
    KeptR q (execContextEnable master c w s) := by
  unfold execContextEnable
  with_reducible repeat' first | assumption | apply onUnit_kept | apply State.writeEnable_kept

theorem State.abortWaiting_kept {q : List Instr} {s : State} {c : Nat} (h0 : Kept q s) :
    Kept q (State.abortWaiting s c) := by
  unfold State.abortWaiting
  with_reducible repeat' first | intro _ | assumption | apply State.complete_kept | apply Kept.ite | apply Kept.foldl

theorem State.drainCtx_kept {q : List Instr} {s : State} {c : Nat} {discard : Bool} (h0 : Kept q s) :
    Kept q (State.drainCtx s c discard) := by
  unfold State.drainCtx
  repeat' first
    | (with_reducible first
        | assumption | apply State.setCtx_kept | apply State.clrBit_kept | apply State.settle_kept | apply State.abortWaiting_kept
        | apply State.releaseHeld_kept | apply Kept.ite)
    | simp only [↓Kept.upd_iff]

theorem State.disableCtx_kept {q : List Instr} {s : State} {master : Nat} {c : Nat} {w : Sys2Proof.Word} (h0 : Kept q s) :
    Kept q (State.disableCtx s master c w) := by
  unfold State.disableCtx
  repeat' first
    | (with_reducible first | assumption | apply State.putCtl_kept | apply State.drainCtx_kept | apply Kept.ite)
    | simp only [↓Kept.upd_iff]

theorem execContextDisable_kept {q : List Instr} {master : Nat} {c : Nat} {w : Sys2Proof.Word} {s : State} (h0 : Kept q s) :
    KeptR q (execContextDisable master c w s) := by
  unfold execContextDisable
  with_reducible repeat' first | intro _ | assumption | apply onUnit_kept | apply State.guardedWrite_kept | apply State.disableCtx_kept

theorem State.rebind_kept {q : List Instr} {s : State} {link : Nat} {c : Nat} (h0 : Kept q s) :
    Kept q (State.rebind s link c) := by
  unfold State.rebind
  repeat' first
    | (with_reducible first
        | assumption | apply State.releaseHeld_kept | apply State.setCtx_kept | apply State.setFld_kept | apply Kept.ite)
    | simp only [↓Kept.upd_iff]

theorem execContextRebind_kept {q : List Instr} {link : Nat} {c : Nat} {s : State} (h0 : Kept q s) :
    KeptR q (execContextRebind link c s) := by
  unfold execContextRebind
  with_reducible repeat' first | intro _ | assumption | apply onUnit_kept | apply State.guardedWrite_kept | apply State.rebind_kept

theorem State.setMbx_kept {q : List Instr} {s : State} {dir : Nat} {f : Nat} {n : Nat} {m : Mbx} (h0 : Kept q s) :
    Kept q (State.setMbx s dir f n m) := by
  unfold State.setMbx
  repeat' first
    | (with_reducible first | assumption | apply Kept.ite)
    | simp only [↓Kept.upd_iff]

theorem State.postMbx_kept {q : List Instr} {s : State} {dir : Nat} {f : Nat} {n : Nat} {w : Sys2Proof.Word} (h0 : Kept q s) :
    Kept q (State.postMbx s dir f n w) := by
  unfold State.postMbx
  repeat' first
    | (with_reducible first
        | assumption | apply State.satAdd_kept | apply State.setMbx_kept | apply State.raiseIrq_kept | apply Kept.ite)
    | simp only [↓Kept.upd_iff]

theorem State.serveMbx_kept {q : List Instr} {s : State} {f : Nat} {n : Nat} (h0 : Kept q s) :
    Kept q (State.serveMbx s f n) := by
  unfold State.serveMbx
  repeat' first
    | (with_reducible first | assumption | apply State.setMbx_kept | apply State.postMbx_kept | apply Kept.ite)
    | simp only [↓Kept.upd_iff]

theorem State.serveAllMbx_kept {q : List Instr} {s : State} (h0 : Kept q s) :
    Kept q (State.serveAllMbx s) := by
  unfold State.serveAllMbx
  with_reducible repeat' first | intro _ | assumption | apply State.serveMbx_kept | apply Kept.foldl

theorem State.writeMbx_kept {q : List Instr} {s : State} {master : Nat} {dir : Nat} {f : Nat} {n : Nat} {w : Sys2Proof.Word} (h0 : Kept q s) :
    Kept q (State.writeMbx s master dir f n w) := by
  unfold State.writeMbx
  repeat' first
    | (with_reducible first
        | assumption | apply State.aclCheck_kept | apply State.serveMbx_kept | apply State.postMbx_kept | apply Kept.ite)
    | simp only [↓Kept.upd_iff]

theorem execMailboxWrite_kept {q : List Instr} {master : Nat} {dir : Nat} {f : Nat} {n : Nat} {w : Sys2Proof.Word} {s : State} (h0 : Kept q s) :
    KeptR q (execMailboxWrite master dir f n w s) := by
  unfold execMailboxWrite
  with_reducible repeat' first | assumption | apply onUnit_kept | apply State.writeMbx_kept

theorem State.postFault_kept {q : List Instr} {s : State} (h0 : Kept q s) :
    Kept q (State.postFault s) := by
  unfold State.postFault
  repeat' first
    | (with_reducible first | assumption | apply State.postMbx_kept | apply Kept.ite)
    | simp only [↓Kept.upd_iff]

theorem State.readMbx_kept {q : List Instr} {s : State} {dir : Nat} {f : Nat} {n : Nat} (h0 : Kept q s) :
    Kept q (State.readMbx s dir f n) := by
  unfold State.readMbx
  with_reducible repeat' first | assumption | apply State.postFault_kept | apply State.emit_kept | apply State.setMbx_kept

theorem State.hostReadMbx_kept {q : List Instr} {s : State} {master : Nat} {dir : Nat} {f : Nat} {n : Nat} (h0 : Kept q s) :
    Kept q (State.hostReadMbx s master dir f n) := by
  unfold State.hostReadMbx
  repeat' first
    | (with_reducible first | assumption | apply State.regCheck_kept | apply State.readMbx_kept | apply State.emit_kept | apply Kept.ite)
    | simp only [↓Kept.upd_iff]

theorem execMailboxRead_kept {q : List Instr} {master : Nat} {dir : Nat} {f : Nat} {n : Nat} {s : State} (h0 : Kept q s) :
    KeptR q (execMailboxRead master dir f n s) := by
  unfold execMailboxRead
  with_reducible repeat' first | assumption | apply onUnit_kept | apply State.hostReadMbx_kept

theorem State.putAcl_kept {q : List Instr} {s : State} {k : Nat} {w : Sys2Proof.Word} (h0 : Kept q s) :
    Kept q (State.putAcl s k w) := by
  unfold State.putAcl
  repeat' first
    | (with_reducible first | assumption)
    | simp only [↓Kept.upd_iff]

theorem execAclShadowWrite_kept {q : List Instr} {master : Nat} {t : Nat} {e : Nat} {word : Nat} {w : Sys2Proof.Word} {s : State} (h0 : Kept q s) :
    KeptR q (execAclShadowWrite master t e word w s) := by
  unfold execAclShadowWrite
  repeat' first
    | (with_reducible first | intro _ | assumption | apply onUnit_kept | apply State.guardedWrite_kept | apply Kept.ite)
    | simp only [↓Kept.upd_iff]

theorem execAclEntryWrite_kept {q : List Instr} {master : Nat} {t : Nat} {e : Nat} {w : Sys2Proof.Word} {s : State} (h0 : Kept q s) :
    KeptR q (execAclEntryWrite master t e w s) := by
  unfold execAclEntryWrite
  with_reducible repeat' first
    | intro _ | assumption | apply onUnit_kept | apply State.guardedWrite_kept | apply State.putAcl_kept | apply Kept.ite

theorem execAclSync_kept {q : List Instr} {master : Nat} {s : State} (h0 : Kept q s) :
    KeptR q (execAclSync master s) := by
  unfold execAclSync
  with_reducible repeat' first | intro _ | assumption | apply KeptR.of | apply State.guardedWrite_kept | apply State.setBit_kept

theorem execAclDrainDone_kept {q : List Instr} {s : State} (h0 : Kept q s) :
    KeptR q (execAclDrainDone s) := by
  unfold execAclDrainDone
  with_reducible repeat' first | assumption | apply KeptR.of | apply State.clrBit_kept

theorem State.setLink_kept {q : List Instr} {s : State} {link : Nat} {up : Bool} (h0 : Kept q s) :
    Kept q (State.setLink s link up) := by
  unfold State.setLink
  repeat' first
    | (with_reducible first | assumption | apply Kept.ite)
    | simp only [↓Kept.upd_iff]

theorem State.linkFalls_kept {q : List Instr} {s : State} {link : Nat} (h0 : Kept q s) :
    Kept q (State.linkFalls s link) := by
  unfold State.linkFalls
  repeat' first
    | (with_reducible first
        | intro _ | assumption | apply State.setLink_kept | apply State.setCtx_kept | apply State.setFld_kept
        | apply State.raiseIrq_kept | apply Kept.ite | apply Kept.foldl)
    | simp only [↓Kept.upd_iff]

theorem execLinkDown_kept {q : List Instr} {link : Nat} {s : State} (h0 : Kept q s) :
    KeptR q (execLinkDown link s) := by
  unfold execLinkDown
  with_reducible repeat' first | assumption | apply onUnit_kept | apply State.linkFalls_kept

theorem State.linkRises_kept {q : List Instr} {s : State} {link : Nat} (h0 : Kept q s) :
    Kept q (State.linkRises s link) := by
  unfold State.linkRises
  repeat' first
    | (with_reducible first
        | intro _ | assumption | apply State.setLink_kept | apply State.releaseHeld_kept | apply State.setCtx_kept
        | apply State.raiseIrq_kept | apply Kept.ite | apply Kept.foldl)
    | simp only [↓Kept.upd_iff]

theorem execLinkUp_kept {q : List Instr} {link : Nat} {s : State} (h0 : Kept q s) :
    KeptR q (execLinkUp link s) := by
  unfold execLinkUp
  with_reducible repeat' first | assumption | apply onUnit_kept | apply State.linkRises_kept

theorem State.resetFunctions_kept {q : List Instr} {s : State} {link : Nat} {f : Nat → Bool} (h0 : Kept q s) :
    Kept q (State.resetFunctions s link f) := by
  unfold State.resetFunctions
  repeat' first
    | (with_reducible first | intro _ | assumption | apply State.drainCtx_kept | apply Kept.ite | apply Kept.foldl)
    | simp only [↓Kept.upd_iff]

theorem State.holdPerst_kept {q : List Instr} {s : State} {link : Nat} {perst : Bool} (h0 : Kept q s) :
    Kept q (State.holdPerst s link perst) := by
  unfold State.holdPerst
  repeat' first
    | (with_reducible first | assumption | apply Kept.ite)
    | simp only [↓Kept.upd_iff]

theorem execHostLinkReset_kept {q : List Instr} {link : Nat} {perst : Bool} {s : State} (h0 : Kept q s) :
    KeptR q (execHostLinkReset link perst s) := by
  unfold execHostLinkReset
  with_reducible repeat' first
    | assumption | apply onUnit_kept | apply State.holdPerst_kept | apply State.setLink_kept | apply State.resetFunctions_kept

theorem execPfFlr_kept {q : List Instr} {link : Nat} {s : State} (h0 : Kept q s) :
    KeptR q (execPfFlr link s) := by
  unfold execPfFlr
  with_reducible repeat' first | assumption | apply onUnit_kept | apply State.resetFunctions_kept

theorem execVfFlr_kept {q : List Instr} {link : Nat} {vf : Nat} {s : State} (h0 : Kept q s) :
    KeptR q (execVfFlr link vf s) := by
  unfold execVfFlr
  with_reducible repeat' first | assumption | apply onUnit_kept | apply State.resetFunctions_kept

theorem State.linkAnswers_kept {q : List Instr} {s : State} {link : Nat} (h0 : Kept q s) :
    Kept q (State.linkAnswers s link) := by
  unfold State.linkAnswers
  repeat' first
    | (with_reducible first | assumption | apply State.setLink_kept | apply Kept.ite)
    | simp only [↓Kept.upd_iff]

theorem execHostLinkResetExit_kept {q : List Instr} {link : Nat} {s : State} (h0 : Kept q s) :
    KeptR q (execHostLinkResetExit link s) := by
  unfold execHostLinkResetExit
  with_reducible repeat' first | assumption | apply onUnit_kept | apply State.linkAnswers_kept

end Sys2Proof.Machine
end

