-- ==== Sys2Proof/Laws/KeptCounters.lean ====
section
/-! SUPPORT. The queue and the memories' canonical form through the operations of Machine/Counters.lean. -/

namespace Sys2Proof.Machine

theorem execCounterLoad_kept {q : List Instr} {master : Nat} {d : Nat} {i : Nat} {w : Sys2Proof.Word} {s : State} (h0 : Kept q s) :
    KeptR q (execCounterLoad master d i w s) := by
  unfold execCounterLoad
  repeat' first
    | (with_reducible first | intro _ | assumption | apply onUnit_kept | apply State.guardedWrite_kept)
    | simp only [↓Kept.upd_iff]

theorem State.guardedRead_kept {q : List Instr} {s : State} {master : Nat} {off : Nat} {w : State → Sys2Proof.Word} {f : State → State} (h0 : Kept q s) (hf : ∀ b0, Kept q b0 → Kept q (f b0)) :
    Kept q (State.guardedRead s master off w f) := by
  unfold State.guardedRead
  repeat' first
    | (with_reducible first | assumption | apply State.emit_kept | apply State.regCheck_kept | apply hf | apply Kept.ite)
    | simp only [↓Kept.upd_iff]

theorem execCounterReadLatch_kept {q : List Instr} {master : Nat} {d : Nat} {i : Nat} {s : State} (h0 : Kept q s) :
    KeptR q (execCounterReadLatch master d i s) := by
  unfold execCounterReadLatch
  repeat' first
    | (with_reducible first | intro _ | assumption | apply onUnit_kept | apply State.guardedRead_kept)
    | simp only [↓Kept.upd_iff]

theorem execCounterFreeze_kept {q : List Instr} {master : Nat} {freeze : Bool} {s : State} (h0 : Kept q s) :
    KeptR q (execCounterFreeze master freeze s) := by
  unfold execCounterFreeze
  with_reducible repeat' first | intro _ | assumption | apply KeptR.of | apply State.guardedWrite_kept | apply State.setFld_kept

theorem State.snapshot_kept {q : List Instr} {s : State} {c : Nat} {d : Desc} (h0 : Kept q s) :
    Kept q (State.snapshot s c d) := by
  unfold State.snapshot
  repeat' first
    | (with_reducible first
        | assumption | apply State.complete_kept | apply State.aclCheck_kept | apply State.cntClear_kept | apply State.store_kept
        | apply Kept.ite | apply Kept.ite2)
    | simp only [↓Kept.upd_iff]

theorem execCounterSnapshot_kept {q : List Instr} {c : Nat} {n : Nat} {s : State} (h0 : Kept q s) :
    KeptR q (execCounterSnapshot c n s) := by
  unfold execCounterSnapshot
  with_reducible repeat' first | intro _ | assumption | apply onUnit_kept | apply State.runDesc_kept | apply State.snapshot_kept

end Sys2Proof.Machine
end

