-- ==== Sys2Proof/Laws/KeptCommon.lean ====
section
/-! SUPPORT. The queue and the memories' canonical form through the operations of Machine/Common.lean. -/

namespace Sys2Proof.Machine

theorem execNop_kept {q : List Instr} {c : Nat} {n : Nat} {s : State} (h0 : Kept q s) :
    KeptR q (execNop c n s) := by
  unfold execNop
  with_reducible repeat' first | intro _ | assumption | apply onUnit_kept | apply State.runDesc_kept | apply State.complete_kept

theorem freeOver_kept {q : List Instr} {s : State} {hit : Nat → Bool} {a2 : Nat} {a3 : List Sys2Proof.Byte} (h0 : Kept q s) :
    Kept q (freeOver s hit a2 a3).2 := by
  induction a3 generalizing s hit a2 with
  | nil =>
    unfold freeOver
    repeat' first
      | (with_reducible first | assumption | apply State.takeFree_kept | apply Kept.ite2)
      | simp only [↓Kept.upd_iff]
  | cons b bs ih =>
    unfold freeOver
    repeat' first
      | (with_reducible first | apply ih | assumption | apply State.takeFree_kept | apply Kept.ite2)
      | simp only [↓Kept.upd_iff]

theorem State.carryPoison_kept {q : List Instr} {s : State} {s0 : State} {src : DAddr} {dst : DAddr} {n : Nat} (h0 : Kept q s) (h1 : Kept q s0) :
    Kept q (State.carryPoison s s0 src dst n) := by
  unfold State.carryPoison
  repeat' first
    | (with_reducible first
        | intro _ | assumption | apply State.poisonLines_kept | apply State.emit_kept | apply Kept.ite | apply Kept.foldl)
    | simp only [↓Kept.upd_iff]
    | split

theorem moveChunk_kept {q : List Instr} {w : Who} {s0 : State} {src : DAddr} {dst : DAddr} {hit : Nat → Bool} {n : Nat} {m : Move} (h0 : Kept q s0) (h1 : Kept q m.s) :
    Kept q (moveChunk w s0 src dst hit n m).s := by
  unfold moveChunk
  repeat' first
    | (with_reducible first
        | assumption | apply State.request_kept | apply freeOver_kept | apply State.store_kept | apply State.carryPoison_kept)
    | simp only [↓Kept.upd_iff]
    | split

theorem moveRow_kept {q : List Instr} {w : Who} {s0 : State} {src : DAddr} {dst : DAddr} {len : Nat} {hit : Nat → Bool} {m : Move} (h0 : Kept q s0) (h1 : Kept q m.s) :
    Kept q (moveRow w s0 src dst len hit m).s := by
  unfold moveRow
  with_reducible repeat' first | intro _ | assumption | apply moveChunk_kept | refine Kept.foldlBy (fun p : Move => p.s) ?_ ?_

theorem moveRows_kept {q : List Instr} {w : Who} {src : DAddr} {dst : DAddr} {len : Nat} {rows : Nat} {sp : Nat} {dp : Nat} {s : State} (h0 : Kept q s) :
    Kept q (moveRows w src dst len rows sp dp s).s := by
  unfold moveRows
  repeat' first
    | (with_reducible first | intro _ | assumption | apply moveRow_kept | refine Kept.foldlBy (fun p : Move => p.s) ?_ ?_)
    | simp only [↓Kept.upd_iff]

theorem State.copy_kept {q : List Instr} {s : State} {c : Nat} {d : Desc} (h0 : Kept q s) :
    Kept q (State.copy s c d) := by
  unfold State.copy
  with_reducible repeat' first | assumption | apply moveRows_kept | apply State.complete_kept

theorem execCopy_kept {q : List Instr} {c : Nat} {n : Nat} {s : State} (h0 : Kept q s) :
    KeptR q (execCopy c n s) := by
  unfold execCopy
  with_reducible repeat' first | intro _ | assumption | apply onUnit_kept | apply State.runDesc_kept | apply State.copy_kept

theorem fillChunk_kept {q : List Instr} {w : Who} {pat : List Sys2Proof.Byte} {dst : DAddr} {off : Nat} {n : Nat} {m : Move} (h0 : Kept q m.s) :
    Kept q (fillChunk w pat dst off n m).s := by
  unfold fillChunk
  repeat' first
    | (with_reducible first | assumption | apply State.store_kept)
    | simp only [↓Kept.upd_iff]
    | split

theorem State.fill_kept {q : List Instr} {s : State} {c : Nat} {d : Desc} (h0 : Kept q s) :
    Kept q (State.fill s c d) := by
  unfold State.fill
  repeat' first
    | (with_reducible first
        | intro _ | assumption | apply fillChunk_kept | apply State.complete_kept | refine Kept.foldlBy (fun p : Move => p.s) ?_ ?_)
    | simp only [↓Kept.upd_iff]

theorem execFill_kept {q : List Instr} {c : Nat} {n : Nat} {s : State} (h0 : Kept q s) :
    KeptR q (execFill c n s) := by
  unfold execFill
  with_reducible repeat' first | intro _ | assumption | apply onUnit_kept | apply State.runDesc_kept | apply State.fill_kept

theorem State.fence_kept {q : List Instr} {s : State} {c : Nat} {d : Desc} (h0 : Kept q s) :
    Kept q (State.fence s c d) := by
  unfold State.fence
  with_reducible repeat' first | assumption | apply State.complete_kept

theorem execFence_kept {q : List Instr} {c : Nat} {n : Nat} {s : State} (h0 : Kept q s) :
    KeptR q (execFence c n s) := by
  unfold execFence
  with_reducible repeat' first | intro _ | assumption | apply onUnit_kept | apply State.runDesc_kept | apply State.fence_kept

theorem State.mailboxPost_kept {q : List Instr} {s : State} {c : Nat} {d : Desc} (h0 : Kept q s) :
    Kept q (State.mailboxPost s c d) := by
  unfold State.mailboxPost
  repeat' first
    | (with_reducible first
        | assumption | apply State.aclCheck_kept | apply State.complete_kept | apply State.serveMbx_kept | apply State.postMbx_kept
        | apply Kept.ite)
    | simp only [↓Kept.upd_iff]

theorem execMailboxPost_kept {q : List Instr} {c : Nat} {n : Nat} {s : State} (h0 : Kept q s) :
    KeptR q (execMailboxPost c n s) := by
  unfold execMailboxPost
  with_reducible repeat' first | intro _ | assumption | apply onUnit_kept | apply State.runDesc_kept | apply State.mailboxPost_kept

theorem execReservedOpcode_kept {q : List Instr} {c : Nat} {n : Nat} {s : State} (h0 : Kept q s) :
    KeptR q (execReservedOpcode c n s) := by
  unfold execReservedOpcode
  repeat' first
    | (with_reducible first
        | assumption | apply KeptR.refused | apply onUnit_kept | apply State.complete_kept | apply Kept.ite | apply KeptR.ite)
    | split

end Sys2Proof.Machine
end

