-- ==== Sys2Proof/Laws/KeptTiles.lean ====
section
/-! SUPPORT. The queue and the memories' canonical form through the operations of Machine/Tiles.lean. -/

namespace Sys2Proof.Machine

theorem State.setDie_kept {q : List Instr} {s : State} {p : Nat} {d : Die} (h0 : Kept q s) :
    Kept q (State.setDie s p d) := by
  unfold State.setDie
  repeat' first
    | (with_reducible first | assumption)
    | simp only [↓Kept.upd_iff]

theorem State.updDie_kept {q : List Instr} {s : State} {p : Nat} {f : Die → Die} (h0 : Kept q s) :
    Kept q (State.updDie s p f) := by
  unfold State.updDie
  with_reducible repeat' first | assumption | apply State.setDie_kept

theorem State.updTrn_kept {q : List Instr} {s : State} {f : Trn → Trn} (h0 : Kept q s) :
    Kept q (State.updTrn s f) := by
  unfold State.updTrn
  repeat' first
    | (with_reducible first | assumption)
    | simp only [↓Kept.upd_iff]

theorem State.updPort_kept {q : List Instr} {s : State} {p : Nat} {f : Port → Port} (h0 : Kept q s) :
    Kept q (State.updPort s p f) := by
  unfold State.updPort
  with_reducible repeat' first | assumption | apply State.updDie_kept

theorem State.updTile_kept {q : List Instr} {s : State} {p : Nat} {n : Nat} {f : Tile → Tile} (h0 : Kept q s) :
    Kept q (State.updTile s p n f) := by
  unfold State.updTile
  with_reducible repeat' first | assumption | apply State.updDie_kept

theorem State.setPtile_kept {q : List Instr} {s : State} {p : Nat} {n : Nat} {pt : Nat} (h0 : Kept q s) :
    Kept q (State.setPtile s p n pt) := by
  unfold State.setPtile
  with_reducible repeat' first | assumption | apply State.setReg_kept

theorem State.setCells_kept {q : List Instr} {s : State} {p : Nat} {pt : Nat} {row : Nat} {pcol : Nat} {c : Cells} (h0 : Kept q s) :
    Kept q (State.setCells s p pt row pcol c) := by
  unfold State.setCells
  with_reducible repeat' first | assumption | apply State.updDie_kept

theorem State.setColRec_kept {q : List Instr} {s : State} {p : Nat} {n : Nat} {col : Nat} {v : Nat} (h0 : Kept q s) :
    Kept q (State.setColRec s p n col v) := by
  unfold State.setColRec
  with_reducible repeat' first | assumption | apply State.setGood_kept | apply State.poke_kept

theorem State.setScol_kept {q : List Instr} {s : State} {p : Nat} {n : Nat} {col : Nat} {v : Nat} (h0 : Kept q s) :
    Kept q (State.setScol s p n col v) := by
  unfold State.setScol
  with_reducible repeat' first | assumption | apply State.setColRec_kept

theorem State.consume_kept {q : List Instr} {s : State} {c : Consumed} (h0 : Kept q s) :
    Kept q (State.consume s c) := by
  unfold State.consume
  repeat' first
    | (with_reducible first | assumption)
    | simp only [↓Kept.upd_iff]
    | simp only [↓Kept.updMem_iff]
    | split

theorem State.fetch_kept {q : List Instr} {s : State} {master : Nat} {a : Nat} {n : Nat} (h0 : Kept q s) :
    Kept q (State.fetch s master a n).2 := by
  unfold State.fetch
  repeat' first
    | (with_reducible first | assumption | apply State.readMem_kept | apply State.consume_kept | apply State.refuse_kept)
    | simp only [↓Kept.upd_iff]
    | split

theorem State.put_kept {q : List Instr} {s : State} {master : Nat} {a : Nat} {bs : List Sys2Proof.Byte} (h0 : Kept q s) :
    Kept q (State.put s master a bs) := by
  unfold State.put
  repeat' first
    | (with_reducible first | assumption | apply State.writeMem_kept | apply State.refuse_kept)
    | split

theorem State.masters_kept {q : List Instr} {s : State} {p : Nat} {n : Nat} {col : Nat} (h0 : Kept q s) :
    Kept q (State.masters s p n col).2.2 := by
  unfold State.masters
  repeat' first
    | (with_reducible first | intro _ | assumption | apply State.fetch_kept | apply Kept.foldl22)
    | simp only [↓Kept.upd_iff]
    | split

theorem State.writeTally_kept {q : List Instr} {s : State} {p : Nat} {n : Nat} {row : Nat} {col : Nat} {sc : FVal} {code : Int} (h0 : Kept q s) :
    Kept q (State.writeTally s p n row col sc code) := by
  unfold State.writeTally
  repeat' first
    | (with_reducible first | assumption | apply State.fetch_kept | apply State.put_kept)
    | simp only [↓Kept.upd_iff]
    | split

theorem State.setSatCount_kept {q : List Instr} {s : State} {p : Nat} {n : Nat} {col : Nat} {v : Nat} (h0 : Kept q s) :
    Kept q (State.setSatCount s p n col v) := by
  unfold State.setSatCount
  repeat' first
    | (with_reducible first | assumption | apply State.put_kept)
    | split

theorem State.satRead_kept {q : List Instr} {s : State} {p : Nat} {n : Nat} {col : Nat} (h0 : Kept q s) :
    Kept q (State.satRead s p n col).2 := by
  unfold State.satRead
  repeat' first
    | (with_reducible first | assumption | apply State.fetch_kept)
    | simp only [↓Kept.upd_iff]
    | split

theorem State.saturate_kept {q : List Instr} {s : State} {p : Nat} {n : Nat} {col : Nat} {k : Nat} (h0 : Kept q s) :
    Kept q (State.saturate s p n col k) := by
  unfold State.saturate
  repeat' first
    | (with_reducible first
        | assumption | apply State.satRead_kept | apply State.updPort_kept | apply State.setSatCount_kept | apply Kept.ite)
    | simp only [↓Kept.upd_iff]

theorem State.takePlaceOf_kept {q : List Instr} {s : State} {p : Nat} {n : Nat} (h0 : Kept q s) :
    Kept q (State.takePlaceOf s p n) := by
  unfold State.takePlaceOf
  with_reducible repeat' first | assumption | apply State.updDie_kept

theorem State.waitPlace_kept {q : List Instr} {s : State} {p : Nat} {n : Nat} (h0 : Kept q s) :
    Kept q (State.waitPlace s p n) := by
  unfold State.waitPlace
  with_reducible repeat' first | assumption | apply State.setBit_kept | apply State.event_kept | apply State.updDie_kept

theorem State.updMus_kept {q : List Instr} {s : State} {p : Nat} {f : Mus → Mus} (h0 : Kept q s) :
    Kept q (State.updMus s p f) := by
  unfold State.updMus
  with_reducible repeat' first | assumption | apply State.updDie_kept

theorem State.takeTile_kept {q : List Instr} {s : State} {p : Nat} {r : MRun} {n : Nat} (h0 : Kept q s) :
    Kept q (State.takeTile s p r n).1 := by
  unfold State.takeTile
  repeat' first
    | (with_reducible first
        | assumption | apply State.updTile_kept | apply State.takePlaceOf_kept | apply State.waitPlace_kept | apply Kept.ite
        | apply Kept.ite1)
    | simp only [↓Kept.upd_iff]

theorem State.takeRuns_kept {q : List Instr} {s : State} {p : Nat} {pick : Nat → Bool} (h0 : Kept q s) :
    Kept q (State.takeRuns s p pick) := by
  unfold State.takeRuns
  repeat' first
    | (with_reducible first
        | intro _ | assumption | apply State.takeTile_kept | apply State.updMus_kept
        | refine Kept.foldlBy (fun p : State × _ => p.1) ?_ ?_)
    | simp only [↓Kept.upd_iff]

theorem State.musterTake_kept {q : List Instr} {s : State} {p : Nat} (h0 : Kept q s) :
    Kept q (State.musterTake s p) := by
  unfold State.musterTake
  with_reducible repeat' first | assumption | apply State.takeRuns_kept

theorem State.setTileState_kept {q : List Instr} {s : State} {p : Nat} {n : Nat} {st : TileState} (h0 : Kept q s) :
    Kept q (State.setTileState s p n st) := by
  unfold State.setTileState
  repeat' first
    | (with_reducible first | assumption | apply State.updTile_kept | apply State.takeRuns_kept | apply Kept.ite)
    | simp only [↓Kept.upd_iff]

theorem State.fenceTile_kept {q : List Instr} {s : State} {p : Nat} {n : Nat} (h0 : Kept q s) :
    Kept q (State.fenceTile s p n) := by
  unfold State.fenceTile
  repeat' first
    | (with_reducible first | assumption | apply State.setTileState_kept | apply State.updTile_kept)
    | split

end Sys2Proof.Machine
end

