-- ==== Sys2Proof/Laws/KeptPort.lean ====
section
/-! SUPPORT. The queue and the memories' canonical form through the operations of Machine/Port.lean. -/

namespace Sys2Proof.Machine

theorem State.arbitrate_kept {q : List Instr} {s : State} {p : Nat} (h0 : Kept q s) :
    Kept q (State.arbitrate s p) := by
  unfold State.arbitrate
  repeat' first
    | (with_reducible first | assumption | apply State.updPort_kept)
    | split

theorem execPortArbitrate_kept {q : List Instr} {p : Nat} {s : State} (h0 : Kept q s) :
    KeptR q (execPortArbitrate p s) := by
  unfold execPortArbitrate
  with_reducible repeat' first
    | intro _ | assumption | apply State.arbitrate_kept | apply onUnit_kept | apply State.event_kept | apply Kept.ite | apply Kept.foldl

theorem State.passGrant_kept {q : List Instr} {s : State} {p : Nat} (h0 : Kept q s) :
    Kept q (State.passGrant s p) := by
  unfold State.passGrant
  with_reducible repeat' first | intro _ | assumption | apply State.updPort_kept | apply State.setTileState_kept | apply Kept.foldl

theorem State.preempt_kept {q : List Instr} {s : State} {p : Nat} (h0 : Kept q s) :
    Kept q (State.preempt s p) := by
  unfold State.preempt
  repeat' first
    | (with_reducible first
        | assumption | apply State.arbitrate_kept | apply State.passGrant_kept | apply State.updPort_kept | apply Kept.ite)
    | simp only [↓Kept.upd_iff]

theorem execPortPreempt_kept {q : List Instr} {p : Nat} {s : State} (h0 : Kept q s) :
    KeptR q (execPortPreempt p s) := by
  unfold execPortPreempt
  with_reducible repeat' first | assumption | apply onUnit_kept | apply State.preempt_kept

theorem State.dropRequest_kept {q : List Instr} {s : State} {p : Nat} (h0 : Kept q s) :
    Kept q (State.dropRequest s p) := by
  unfold State.dropRequest
  repeat' first
    | (with_reducible first | assumption | apply State.updPort_kept | apply Kept.ite)
    | simp only [↓Kept.upd_iff]

theorem execRequestDrop_kept {q : List Instr} {p : Nat} {s : State} (h0 : Kept q s) :
    KeptR q (execRequestDrop p s) := by
  unfold execRequestDrop
  with_reducible repeat' first | assumption | apply onUnit_kept | apply State.dropRequest_kept

theorem State.lockSet_kept {q : List Instr} {s : State} {p : Nat} {n : Nat} {col : Nat} {kind : Sys2Proof.ScopeKind} (h0 : Kept q s) :
    Kept q (State.lockSet s p n col kind) := by
  unfold State.lockSet
  repeat' first
    | (with_reducible first | assumption | apply State.updPort_kept | apply Kept.ite)
    | simp only [↓Kept.upd_iff]
    | split

theorem execLockSet_kept {q : List Instr} {p : Nat} {n : Nat} {col : Nat} {kind : Sys2Proof.ScopeKind} {s : State} (h0 : Kept q s) :
    KeptR q (execLockSet p n col kind s) := by
  unfold execLockSet
  with_reducible repeat' first | assumption | apply onUnit_kept | apply State.lockSet_kept

theorem State.leaveProgram_kept {q : List Instr} {s : State} {p : Nat} {n : Nat} (h0 : Kept q s) :
    Kept q (State.leaveProgram s p n) := by
  unfold State.leaveProgram
  repeat' first
    | (with_reducible first | assumption | apply State.setTileState_kept | apply Kept.ite)
    | simp only [↓Kept.upd_iff]

theorem State.lockClear_kept {q : List Instr} {s : State} {p : Nat} {n : Nat} (h0 : Kept q s) :
    Kept q (State.lockClear s p n) := by
  unfold State.lockClear
  with_reducible repeat' first | assumption | apply State.leaveProgram_kept | apply State.updPort_kept

theorem execLockClear_kept {q : List Instr} {p : Nat} {n : Nat} {s : State} (h0 : Kept q s) :
    KeptR q (execLockClear p n s) := by
  unfold execLockClear
  with_reducible repeat' first | assumption | apply onUnit_kept | apply State.lockClear_kept

theorem State.launch_kept {q : List Instr} {s : State} {p : Nat} {owner : Nat} {n : Nat} {pt : Nat} {items : List Item} (h0 : Kept q s) :
    Kept q (State.launch s p owner n pt items) := by
  unfold State.launch
  with_reducible repeat' first | assumption | apply State.updPort_kept | apply State.event_kept | apply State.setTileState_kept

theorem State.batchFromList_kept {q : List Instr} {s : State} {p : Nat} (h0 : Kept q s) :
    Kept q (State.batchFromList s p) := by
  unfold State.batchFromList
  repeat' first
    | (with_reducible first
        | assumption | apply State.fetch_kept | apply State.event_kept | apply State.updPort_kept | apply State.launch_kept
        | apply Kept.ite)
    | simp only [↓Kept.upd_iff]
    | split

theorem State.directAim_kept {q : List Instr} {s : State} {p : Nat} {master : Bool} {e : Nat} (h0 : Kept q s) :
    Kept q (State.directAim s p master e).2 := by
  unfold State.directAim
  repeat' first
    | (with_reducible first | assumption | apply State.fetch_kept | apply Kept.ite2)
    | simp only [↓Kept.upd_iff]
    | split

theorem State.batchFromDirect_kept {q : List Instr} {s : State} {p : Nat} {d : Direct} (h0 : Kept q s) :
    Kept q (State.batchFromDirect s p d) := by
  unfold State.batchFromDirect
  repeat' first
    | (with_reducible first
        | intro _ | assumption | apply State.updPort_kept | apply State.directAim_kept | apply State.launch_kept | apply Kept.ite
        | apply Kept.foldl2)
    | simp only [↓Kept.upd_iff]
    | split

theorem State.batchStart_kept {q : List Instr} {s : State} {p : Nat} (h0 : Kept q s) :
    Kept q (State.batchStart s p) := by
  unfold State.batchStart
  repeat' first
    | (with_reducible first | assumption | apply State.batchFromList_kept | apply State.batchFromDirect_kept | apply Kept.ite)
    | simp only [↓Kept.upd_iff]
    | split

theorem State.wearOne_kept {q : List Instr} {s : State} {p : Nat} {pt : Nat} {pcol : Nat} (h0 : Kept q s) :
    Kept q (State.wearOne s p pt pcol) := by
  unfold State.wearOne
  repeat' first
    | (with_reducible first | assumption | apply State.updDie_kept | apply State.updPort_kept | apply Kept.ite)
    | simp only [↓Kept.upd_iff]

theorem State.wearPulse_kept {q : List Instr} {s : State} {p : Nat} {pt : Nat} {pcol : Nat} (h0 : Kept q s) :
    Kept q (State.wearPulse s p pt pcol) := by
  unfold State.wearPulse
  repeat' first
    | (with_reducible first | assumption | apply State.wearOne_kept | apply State.updDie_kept | apply Kept.ite)
    | simp only [↓Kept.upd_iff]

theorem State.endPhase_kept {q : List Instr} {s : State} {p : Nat} (h0 : Kept q s) :
    Kept q (State.endPhase s p) := by
  unfold State.endPhase
  with_reducible repeat' first | assumption | apply State.updDie_kept

theorem State.newWindow_kept {q : List Instr} {s : State} {p : Nat} (h0 : Kept q s) :
    Kept q (State.newWindow s p) := by
  unfold State.newWindow
  with_reducible repeat' first | assumption | apply State.endPhase_kept | apply State.noteWindow_kept

theorem State.afterQuiesce_kept {q : List Instr} {s : State} {p : Nat} {was : Bool} (h0 : Kept q s) :
    Kept q (State.afterQuiesce s p was) := by
  unfold State.afterQuiesce
  with_reducible repeat' first | assumption | apply State.newWindow_kept | apply Kept.ite

theorem State.setDieQuiesce_kept {q : List Instr} {s : State} {p : Nat} {on : Bool} (h0 : Kept q s) :
    Kept q (State.setDieQuiesce s p on) := by
  unfold State.setDieQuiesce
  with_reducible repeat' first | assumption | apply State.afterQuiesce_kept | apply State.setFld_kept

theorem State.nextPulse_kept {q : List Instr} {s : State} {p : Nat} {b : Batch} {first2 : Bool} (h0 : Kept q s) :
    Kept q (State.nextPulse s p b first2) := by
  unfold State.nextPulse
  with_reducible repeat' first
    | intro _ | assumption | apply State.updPort_kept | apply State.event_kept | apply State.wearPulse_kept | apply Kept.foldl

theorem State.levelRead_kept {q : List Instr} {s : State} {p : Nat} {b : Batch} {g : List Nat} (h0 : Kept q s) :
    Kept q (State.levelRead s p b g) := by
  unfold State.levelRead
  repeat' first
    | (with_reducible first
        | assumption | apply State.nextPulse_kept | apply State.event_kept | apply State.lockSet_kept | apply Kept.ite)
    | simp only [↓Kept.upd_iff]
    | split

theorem execLevelReadDone_kept {q : List Instr} {p : Nat} {n : Nat} {g : List Nat} {s : State} (h0 : Kept q s) :
    KeptR q (execLevelReadDone p n g s) := by
  unfold execLevelReadDone
  repeat' first
    | (with_reducible first
        | assumption | apply onUnit_kept | apply State.levelRead_kept | apply State.setTileState_kept | apply Kept.ite)
    | split

theorem State.verifyRead_kept {q : List Instr} {s : State} {p : Nat} {b : Batch} {g : List Nat} (h0 : Kept q s) :
    Kept q (State.verifyRead s p b g) := by
  unfold State.verifyRead
  repeat' first
    | (with_reducible first
        | intro _ | assumption | apply State.nextPulse_kept | apply State.event_kept | apply State.updPort_kept
        | apply State.wearOne_kept | apply Kept.ite | apply Kept.foldl)
    | simp only [↓Kept.upd_iff]

theorem execVerifyReadDone_kept {q : List Instr} {p : Nat} {n : Nat} {g : List Nat} {s : State} (h0 : Kept q s) :
    KeptR q (execVerifyReadDone p n g s) := by
  unfold execVerifyReadDone
  repeat' first
    | (with_reducible first | assumption | apply onUnit_kept | apply State.verifyRead_kept | apply Kept.ite)
    | split

theorem State.storeLevels_kept {q : List Instr} {s : State} {p : Nat} {b : Batch} (h0 : Kept q s) :
    Kept q (State.storeLevels s p b) := by
  unfold State.storeLevels
  repeat' first
    | (with_reducible first | intro _ | assumption | apply State.setCells_kept | apply Kept.foldl)
    | simp only [↓Kept.upd_iff]

theorem State.askRemap_kept {q : List Instr} {s : State} {p : Nat} {pt : Nat} {pcol : Nat} (h0 : Kept q s) :
    Kept q (State.askRemap s p pt pcol) := by
  unfold State.askRemap
  with_reducible repeat' first | assumption | apply State.updPort_kept | apply Kept.ite

theorem State.failItem_kept {q : List Instr} {s : State} {p : Nat} {b : Batch} {i : Nat} (h0 : Kept q s) :
    Kept q (State.failItem s p b i) := by
  unfold State.failItem
  repeat' first
    | (with_reducible first
        | intro _ | assumption | apply State.event_kept | apply State.askRemap_kept | apply State.threshold_kept | apply Kept.ite
        | apply Kept.foldl)
    | simp only [↓Kept.upd_iff]

theorem State.endItem_kept {q : List Instr} {s : State} {p : Nat} {b : Batch} {i : Nat} (h0 : Kept q s) :
    Kept q (State.endItem s p b i) := by
  unfold State.endItem
  with_reducible repeat' first | assumption | apply State.failItem_kept | apply State.updPort_kept | apply Kept.ite

theorem State.resetList_kept {q : List Instr} {s : State} {p : Nat} (h0 : Kept q s) :
    Kept q (State.resetList s p) := by
  unfold State.resetList
  repeat' first
    | (with_reducible first | assumption | apply State.updPort_kept | apply State.setShr_kept | apply Kept.ite)
    | simp only [↓Kept.upd_iff]

theorem State.finishFlush_kept {q : List Instr} {s : State} {c : Nat} {d : Desc} (h0 : Kept q s) :
    Kept q (State.finishFlush s c d) := by
  unfold State.finishFlush
  repeat' first
    | (with_reducible first
        | intro _ | assumption | apply State.endPhase_kept | apply State.updPort_kept | apply State.resetList_kept
        | apply State.complete_kept | apply State.store_kept | apply Kept.ite | apply Kept.foldl)
    | simp only [↓Kept.upd_iff]

theorem State.finishDirect_kept {q : List Instr} {s : State} {p : Nat} (h0 : Kept q s) :
    Kept q (State.finishDirect s p) := by
  unfold State.finishDirect
  repeat' first
    | (with_reducible first
        | assumption | apply State.updPort_kept | apply State.complete_kept | apply State.store_kept | apply Kept.ite)
    | simp only [↓Kept.upd_iff]
    | split

theorem State.portSettle_kept {q : List Instr} {s : State} {p : Nat} (h0 : Kept q s) :
    Kept q (State.portSettle s p) := by
  unfold State.portSettle
  repeat' first
    | (with_reducible first
        | assumption | apply State.finishDirect_kept | apply State.finishFlush_kept | apply State.endPhase_kept
        | apply State.updPort_kept | apply State.resetList_kept | apply Kept.ite)
    | simp only [↓Kept.upd_iff]
    | split

theorem State.batchEnd_kept {q : List Instr} {s : State} {p : Nat} {b : Batch} (h0 : Kept q s) :
    Kept q (State.batchEnd s p b) := by
  unfold State.batchEnd
  with_reducible repeat' first
    | intro _ | assumption | apply State.storeLevels_kept | apply State.endItem_kept | apply State.updPort_kept
    | apply State.leaveProgram_kept | apply State.passGrant_kept | apply State.portSettle_kept | apply Kept.ite | apply Kept.foldl

theorem execBatchStart_kept {q : List Instr} {p : Nat} {s : State} (h0 : Kept q s) :
    KeptR q (execBatchStart p s) := by
  unfold execBatchStart
  with_reducible repeat' first | assumption | apply onUnit_kept | apply State.portSettle_kept | apply State.batchStart_kept

theorem execBatchEnd_kept {q : List Instr} {p : Nat} {n : Nat} {s : State} (h0 : Kept q s) :
    KeptR q (execBatchEnd p n s) := by
  unfold execBatchEnd
  repeat' first
    | (with_reducible first | assumption | apply onUnit_kept | apply State.batchEnd_kept)
    | split

theorem State.revoke_kept {q : List Instr} {s : State} {p : Nat} {o : Nat} (h0 : Kept q s) :
    Kept q (State.revoke s p o) := by
  unfold State.revoke
  repeat' first
    | (with_reducible first
        | intro _ | assumption | apply State.event_kept | apply State.setBit_kept | apply State.batchEnd_kept | apply State.updPort_kept
        | apply State.leaveProgram_kept | apply State.moduleStrike_kept | apply State.setTileState_kept | apply State.threshold_kept
        | apply State.drain_kept | apply Kept.ite | apply Kept.foldl)
    | simp only [↓Kept.upd_iff]

theorem execLivenessRevoke_kept {q : List Instr} {p : Nat} {s : State} (h0 : Kept q s) :
    KeptR q (execLivenessRevoke p s) := by
  unfold execLivenessRevoke
  repeat' first
    | (with_reducible first | assumption | apply onUnit_kept | apply State.revoke_kept | apply Kept.ite)
    | split

theorem State.storeFound_kept {q : List Instr} {s : State} {p : Nat} {n : Nat} {row : Nat} {col : Nat} {k : Nat} {g : List Nat} (h0 : Kept q s) :
    Kept q (State.storeFound s p n row col k g) := by
  unfold State.storeFound
  repeat' first
    | (with_reducible first | intro _ | assumption | apply State.setCells_kept | apply Kept.foldl)
    | simp only [↓Kept.upd_iff]
    | split

theorem State.endRevoke_kept {q : List Instr} {s : State} {p : Nat} (h0 : Kept q s) :
    Kept q (State.endRevoke s p) := by
  unfold State.endRevoke
  repeat' first
    | (with_reducible first | assumption | apply State.raiseFault_kept | apply State.updPort_kept | apply Kept.ite)
    | split

theorem State.reconcileRead_kept {q : List Instr} {s : State} {p : Nat} {g : List Nat} (h0 : Kept q s) :
    Kept q (State.reconcileRead s p g) := by
  unfold State.reconcileRead
  repeat' first
    | (with_reducible first
        | intro _ | assumption | apply State.storeFound_kept | apply State.endRevoke_kept | apply State.updPort_kept | apply Kept.ite
        | apply Kept.foldl)
    | simp only [↓Kept.upd_iff]
    | split

theorem execReconcileRead_kept {q : List Instr} {p : Nat} {g : List Nat} {s : State} (h0 : Kept q s) :
    KeptR q (execReconcileRead p g s) := by
  unfold execReconcileRead
  with_reducible repeat' first | assumption | apply onUnit_kept | apply State.reconcileRead_kept | apply Kept.ite

theorem State.drainRecon_kept {q : List Instr} {s : State} {p : Nat} (h0 : Kept q s) :
    Kept q (State.drainRecon s p) := by
  unfold State.drainRecon
  with_reducible repeat' first | intro _ | assumption | apply State.writeTally_kept | apply State.updPort_kept | apply Kept.foldl

theorem execReconcileDrain_kept {q : List Instr} {p : Nat} {s : State} (h0 : Kept q s) :
    KeptR q (execReconcileDrain p s) := by
  unfold execReconcileDrain
  with_reducible repeat' first
    | assumption | apply onUnit_kept | apply State.portSettle_kept | apply State.drainRecon_kept | apply Kept.ite

theorem execVprogClose_kept {q : List Instr} {p : Nat} {s : State} (h0 : Kept q s) :
    KeptR q (execVprogClose p s) := by
  unfold execVprogClose
  with_reducible repeat' first | assumption | apply onUnit_kept | apply State.updPort_kept | apply Kept.ite

theorem execVprogInWindow_kept {q : List Instr} {p : Nat} {s : State} (h0 : Kept q s) :
    KeptR q (execVprogInWindow p s) := by
  unfold execVprogInWindow
  with_reducible repeat' first | assumption | apply onUnit_kept | apply State.updPort_kept | apply Kept.ite

theorem State.vprogOut_kept {q : List Instr} {s : State} {p : Nat} (h0 : Kept q s) :
    Kept q (State.vprogOut s p) := by
  unfold State.vprogOut
  repeat' first
    | (with_reducible first
        | intro _ | assumption | apply State.updPort_kept | apply State.batchEnd_kept | apply State.event_kept | apply Kept.foldl)
    | simp only [↓Kept.upd_iff]

theorem execVprogOutOfWindow_kept {q : List Instr} {p : Nat} {s : State} (h0 : Kept q s) :
    KeptR q (execVprogOutOfWindow p s) := by
  unfold execVprogOutOfWindow
  with_reducible repeat' first | assumption | apply onUnit_kept | apply State.vprogOut_kept | apply Kept.ite

theorem execVprogIdleOpen_kept {q : List Instr} {p : Nat} {s : State} (h0 : Kept q s) :
    KeptR q (execVprogIdleOpen p s) := by
  unfold execVprogIdleOpen
  with_reducible repeat' first | assumption | apply onUnit_kept | apply State.updPort_kept | apply Kept.ite

end Sys2Proof.Machine
end

