-- ==== Sys2Proof/Laws/KeptColumns.lean ====
section
/-! SUPPORT. The queue and the memories' canonical form through the operations of Machine/Columns.lean. -/

namespace Sys2Proof.Machine

theorem State.failColumn_kept {q : List Instr} {s : State} {p : Nat} {pt : Nat} {pcol : Nat} {fails : Nat} {stuck : Nat} {weights : Nat} (h0 : Kept q s) :
    Kept q (State.failColumn s p pt pcol fails stuck weights) := by
  unfold State.failColumn
  repeat' first
    | (with_reducible first
        | assumption | apply State.event_kept | apply State.askRemap_kept | apply State.threshold_kept | apply Kept.ite)
    | simp only [↓Kept.upd_iff]

theorem State.writeRow_kept {q : List Instr} {s : State} {p : Nat} {pt : Nat} {pcol : Nat} {row : Nat} {copy : Nat} {code : Int} {bad : List Sys2Proof.BadCell} {n : Nat} (h0 : Kept q s) :
    Kept q (State.writeRow s p pt pcol row copy code bad n).2 := by
  unfold State.writeRow
  with_reducible repeat' first | assumption | apply State.setCells_kept

theorem State.writeColumn_kept {q : List Instr} {s : State} {p : Nat} {pt : Nat} {pcols : List Nat} {codes : List (Option Int)} {bad : List Sys2Proof.BadCell} {retries : Nat} (h0 : Kept q s) :
    Kept q (State.writeColumn s p pt pcols codes bad retries) := by
  unfold State.writeColumn
  repeat' first
    | (with_reducible first
        | intro _ | assumption | apply State.event_kept | apply State.writeRow_kept | apply State.wearPulse_kept
        | apply State.wearOne_kept | apply State.failColumn_kept | apply Kept.ite | apply Kept.foldl | apply Kept.foldl2)
    | simp only [↓Kept.upd_iff]
    | split

theorem State.badRows_kept {q : List Instr} {s : State} {p : Nat} {n : Nat} {pt : Nat} {pcol : Nat} {col : Nat} {bad : List Sys2Proof.BadCell} (h0 : Kept q s) :
    Kept q (State.badRows s p n pt pcol col bad) := by
  unfold State.badRows
  with_reducible repeat' first | intro _ | assumption | apply State.updPort_kept | apply Kept.foldl

theorem State.finishRescale_kept {q : List Instr} {s : State} {p : Nat} {c : Nat} {ptr : Nat} (h0 : Kept q s) :
    Kept q (State.finishRescale s p c ptr) := by
  unfold State.finishRescale
  repeat' first
    | (with_reducible first | assumption | apply State.complete_kept | apply State.store_kept | apply Kept.ite)
    | simp only [↓Kept.upd_iff]
    | split

theorem State.endRescale_kept {q : List Instr} {s : State} {p : Nat} {j : RsJob} {word : Nat} (h0 : Kept q s) :
    Kept q (State.endRescale s p j word) := by
  unfold State.endRescale
  repeat' first
    | (with_reducible first
        | assumption | apply State.updPort_kept | apply State.setTileState_kept | apply State.portSettle_kept
        | apply State.finishRescale_kept | apply Kept.ite)
    | simp only [↓Kept.upd_iff]
    | split

theorem State.rewriteColumn_kept {q : List Instr} {s : State} {p : Nat} {pt : Nat} {j : RsJob} {sc' : Nat} {ws : List (Option Nat)} {bad : List Sys2Proof.BadCell} {retries : Nat} (h0 : Kept q s) :
    Kept q (State.rewriteColumn s p pt j sc' ws bad retries) := by
  unfold State.rewriteColumn
  repeat' first
    | (with_reducible first
        | intro _ | assumption | apply State.setTileState_kept | apply State.writeColumn_kept | apply State.writeTally_kept
        | apply State.setSatCount_kept | apply State.setScol_kept | apply State.saturate_kept | apply State.badRows_kept
        | apply State.updPort_kept | apply Kept.ite | apply Kept.foldl)
    | simp only [↓Kept.upd_iff]
    | split

theorem State.rescaleColumn_kept {q : List Instr} {s : State} {p : Nat} {j : RsJob} {bad : List Sys2Proof.BadCell} {retries : Nat} (h0 : Kept q s) :
    Kept q (State.rescaleColumn s p j bad retries) := by
  unfold State.rescaleColumn
  repeat' first
    | (with_reducible first
        | assumption | apply State.endRescale_kept | apply State.masters_kept | apply State.rewriteColumn_kept | apply Kept.ite)
    | simp only [↓Kept.upd_iff]
    | split

theorem execColumnRescaleRun_kept {q : List Instr} {p : Nat} {bad : List Sys2Proof.BadCell} {retries : Nat} {s : State} (h0 : Kept q s) :
    KeptR q (execColumnRescaleRun p bad retries s) := by
  unfold execColumnRescaleRun
  repeat' first
    | (with_reducible first | assumption | apply onUnit_kept | apply State.rescaleColumn_kept | apply Kept.ite)
    | split

theorem State.askRetire_kept {q : List Instr} {s : State} {p : Nat} {n : Nat} (h0 : Kept q s) :
    Kept q (State.askRetire s p n) := by
  unfold State.askRetire
  repeat' first
    | (with_reducible first
        | assumption | apply State.updPort_kept | apply State.drain_kept | apply State.setTileState_kept | apply Kept.ite)
    | split

theorem State.askMuster_kept {q : List Instr} {s : State} {p : Nat} {n : Nat} (h0 : Kept q s) :
    Kept q (State.askMuster s p n) := by
  unfold State.askMuster
  with_reducible repeat' first | assumption | apply State.updDie_kept

theorem State.factoryTrims_kept {q : List Instr} {s : State} {p : Nat} {n : Nat} {col : Nat} {pt : Nat} {pcol : Nat} (h0 : Kept q s) :
    Kept q (State.factoryTrims s p n col pt pcol) := by
  unfold State.factoryTrims
  with_reducible repeat' first | assumption | apply State.setColRec_kept

theorem Kept.codes {q : List Instr} {s : State} {α β γ : Type} {r : α × β × State} {f : α → γ} {g : γ} {b : β} {c : Prop} [Decidable c]
    (h0 : Kept q s) (h : Kept q r.2.2) : Kept q (if c then (f r.1, r.2.1, r.2.2) else (g, b, s)).2.2 := by
  split
  · exact h
  · exact h0

theorem State.columnCodes_kept {q : List Instr} {s : State} {p : Nat} {n : Nat} {pt : Nat} {col : Nat} {pcol : Nat} (h0 : Kept q s) :
    Kept q (State.columnCodes s p n pt col pcol).2.2 := by
  rw [State.columnCodes]
  exact Kept.codes h0 (State.masters_kept h0)

theorem State.columnTallies_kept {q : List Instr} {s : State} {p : Nat} {n : Nat} {col : Nat} {codes : List (Option Int)} (h0 : Kept q s) :
    Kept q (State.columnTallies s p n col codes) := by
  unfold State.columnTallies
  repeat' first
    | (with_reducible first | intro _ | assumption | apply State.writeTally_kept | apply Kept.foldl)
    | split

theorem State.remapTo_kept {q : List Instr} {s : State} {p : Nat} {n : Nat} {pt : Nat} {home : Nat} {pcol : Nat} {sp : Nat} {bad : List Sys2Proof.BadCell} {retries : Nat} (h0 : Kept q s) :
    Kept q (State.remapTo s p n pt home pcol sp bad retries) := by
  unfold State.remapTo
  repeat' first
    | (with_reducible first
        | assumption | apply State.columnCodes_kept | apply State.setTileState_kept | apply State.writeColumn_kept
        | apply State.columnTallies_kept | apply State.askMuster_kept | apply State.factoryTrims_kept | apply State.setReg_kept
        | apply State.badRows_kept | apply State.raiseFault_kept | apply State.updPort_kept | apply Kept.ite)
    | simp only [↓Kept.upd_iff]

theorem State.remapColumn_kept {q : List Instr} {s : State} {p : Nat} {pt : Nat} {pcol : Nat} {bad : List Sys2Proof.BadCell} {retries : Nat} (h0 : Kept q s) :
    Kept q (State.remapColumn s p pt pcol bad retries) := by
  unfold State.remapColumn
  repeat' first
    | (with_reducible first
        | assumption | apply State.updPort_kept | apply State.setReg_kept | apply State.askRetire_kept | apply State.remapTo_kept
        | apply Kept.ite)
    | simp only [↓Kept.upd_iff]
    | split

theorem execColumnRemap_kept {q : List Instr} {p : Nat} {bad : List Sys2Proof.BadCell} {retries : Nat} {s : State} (h0 : Kept q s) :
    KeptR q (execColumnRemap p bad retries s) := by
  unfold execColumnRemap
  repeat' first
    | (with_reducible first
        | assumption | apply onUnit_kept | apply State.portSettle_kept | apply State.remapColumn_kept | apply Kept.ite)
    | split

theorem State.retireColumn_kept {q : List Instr} {s : State} {p : Nat} {n : Nat} {old : Nat} {new : Nat} {c : Nat} {bad : List Sys2Proof.BadCell} (h0 : Kept q s) :
    Kept q (State.retireColumn s p n old new c bad) := by
  unfold State.retireColumn
  repeat' first
    | (with_reducible first
        | assumption | apply State.columnCodes_kept | apply State.takeFree_kept | apply State.badRows_kept
        | apply State.columnTallies_kept | apply State.writeColumn_kept | apply Kept.ite)
    | simp only [↓Kept.upd_iff]

theorem State.switchTile_kept {q : List Instr} {s : State} {p : Nat} {n : Nat} {old : Nat} {new : Nat} (h0 : Kept q s) :
    Kept q (State.switchTile s p n old new) := by
  unfold State.switchTile
  with_reducible repeat' first
    | intro _ | assumption | apply State.setReg_kept | apply State.setPtile_kept | apply State.factoryTrims_kept
    | apply State.updDie_kept | apply State.updPort_kept | apply State.setTileState_kept | apply State.setFld_kept
    | apply State.updTile_kept | apply State.raiseFault_kept | apply State.askMuster_kept | apply Kept.ite | apply Kept.foldl

theorem State.retireTile_kept {q : List Instr} {s : State} {p : Nat} {n : Nat} {cols : Nat} {bad : List Sys2Proof.BadCell} (h0 : Kept q s) :
    Kept q (State.retireTile s p n cols bad) := by
  unfold State.retireTile
  repeat' first
    | (with_reducible first
        | intro _ | assumption | apply State.retireColumn_kept | apply State.switchTile_kept | apply State.updPort_kept | apply Kept.ite
        | apply Kept.foldl)
    | simp only [↓Kept.upd_iff]
    | split

theorem execTileRetire_kept {q : List Instr} {p : Nat} {n : Nat} {cols : Nat} {bad : List Sys2Proof.BadCell} {s : State} (h0 : Kept q s) :
    KeptR q (execTileRetire p n cols bad s) := by
  unfold execTileRetire
  with_reducible repeat' first
    | assumption | apply onUnit_kept | apply State.portSettle_kept | apply State.retireTile_kept | apply Kept.ite

theorem State.restoreRef_kept {q : List Instr} {s : State} {p : Nat} {pt : Nat} {pcol : Nat} {bad : List Sys2Proof.BadCell} {retries : Nat} (h0 : Kept q s) :
    Kept q (State.restoreRef s p pt pcol bad retries) := by
  unfold State.restoreRef
  repeat' first
    | (with_reducible first
        | intro _ | assumption | apply State.setCells_kept | apply State.setTileState_kept | apply State.event_kept
        | apply State.wearPulse_kept | apply State.wearOne_kept | apply State.updPort_kept | apply Kept.ite | apply Kept.foldl
        | apply Kept.foldl2)
    | simp only [↓Kept.upd_iff]

theorem execReferenceRestore_kept {q : List Instr} {p : Nat} {bad : List Sys2Proof.BadCell} {retries : Nat} {s : State} (h0 : Kept q s) :
    KeptR q (execReferenceRestore p bad retries s) := by
  unfold execReferenceRestore
  repeat' first
    | (with_reducible first | assumption | apply onUnit_kept | apply State.restoreRef_kept | apply State.updPort_kept | apply Kept.ite)
    | split

theorem State.askWorn_kept {q : List Instr} {s : State} {p : Nat} (h0 : Kept q s) :
    Kept q (State.askWorn s p) := by
  unfold State.askWorn
  repeat' first
    | (with_reducible first | intro _ | assumption | apply State.askRemap_kept | apply Kept.ite | apply Kept.foldl)
    | simp only [↓Kept.upd_iff]

theorem State.progCheck_kept {q : List Instr} {s : State} {p : Nat} {master : Nat} {lo : Nat} {hi : Nat} (h0 : Kept q s) :
    Kept q (State.progCheck s p master lo hi).2 := by
  unfold State.progCheck
  with_reducible repeat' first | assumption | apply State.aclCheck_kept

theorem State.denyAt_kept {q : List Instr} {s : State} {w : Who} {right : Nat} {a : Nat} {n : Nat} (h0 : Kept q s) :
    Kept q (State.denyAt s w right a n) := by
  unfold State.denyAt
  repeat' first
    | (with_reducible first | assumption | apply State.refuse_kept | apply State.deny_kept)
    | split

theorem State.flushCheck_kept {q : List Instr} {s : State} {c : Nat} {d : Desc} (h0 : Kept q s) :
    Kept q (State.flushCheck s c d).2 := by
  unfold State.flushCheck
  repeat' first
    | (with_reducible first | assumption | apply State.deny_kept | apply State.denyAt_kept | apply Kept.ite2)
    | simp only [↓Kept.upd_iff]
    | split

theorem State.programFlush_kept {q : List Instr} {s : State} {c : Nat} {d : Desc} (h0 : Kept q s) :
    Kept q (State.programFlush s c d) := by
  unfold State.programFlush
  repeat' first
    | (with_reducible first
        | intro _ | assumption | apply State.flushCheck_kept | apply State.complete_kept | apply State.updPort_kept
        | apply State.newWindow_kept | apply State.finishFlush_kept | apply State.working_kept | apply Kept.ite | apply Kept.foldl)
    | simp only [↓Kept.upd_iff]

theorem execProgramFlush_kept {q : List Instr} {c : Nat} {n : Nat} {s : State} (h0 : Kept q s) :
    KeptR q (execProgramFlush c n s) := by
  unfold execProgramFlush
  with_reducible repeat' first | intro _ | assumption | apply onUnit_kept | apply State.runDesc_kept | apply State.programFlush_kept

theorem State.programDirect_kept {q : List Instr} {s : State} {c : Nat} {d : Desc} (h0 : Kept q s) :
    Kept q (State.programDirect s c d) := by
  unfold State.programDirect
  repeat' first
    | (with_reducible first
        | assumption | apply State.readRecord_kept | apply State.complete_kept | apply State.deny_kept | apply State.denyAt_kept
        | apply State.working_kept | apply State.updPort_kept | apply Kept.ite)
    | simp only [↓Kept.upd_iff]
    | split

theorem execProgramDirectLevels_kept {q : List Instr} {c : Nat} {n : Nat} {s : State} (h0 : Kept q s) :
    KeptR q (execProgramDirectLevels c n s) := by
  unfold execProgramDirectLevels
  with_reducible repeat' first
    | intro _ | assumption | apply onUnit_kept | apply State.runDesc_kept | apply State.programDirect_kept | apply Kept.ite

theorem execProgramDirectMaster_kept {q : List Instr} {c : Nat} {n : Nat} {s : State} (h0 : Kept q s) :
    KeptR q (execProgramDirectMaster c n s) := by
  unfold execProgramDirectMaster
  with_reducible repeat' first
    | intro _ | assumption | apply onUnit_kept | apply State.runDesc_kept | apply State.programDirect_kept | apply Kept.ite

theorem State.columnRescale_kept {q : List Instr} {s : State} {c : Nat} {d : Desc} (h0 : Kept q s) :
    Kept q (State.columnRescale s c d) := by
  unfold State.columnRescale
  repeat' first
    | (with_reducible first
        | assumption | apply State.readRecord_kept | apply State.complete_kept | apply State.deny_kept | apply State.denyAt_kept
        | apply State.working_kept | apply State.updPort_kept | apply Kept.ite)
    | simp only [↓Kept.upd_iff]
    | split

theorem runRescale_kept {q : List Instr} {c : Nat} {n : Nat} {mode : Nat} {s : State} (h0 : Kept q s) :
    KeptR q (runRescale c n mode s) := by
  unfold runRescale
  with_reducible repeat' first
    | intro _ | assumption | apply onUnit_kept | apply State.runDesc_kept | apply State.columnRescale_kept | apply Kept.ite

theorem execColumnRescaleAuto_kept {q : List Instr} {c : Nat} {n : Nat} {s : State} (h0 : Kept q s) :
    KeptR q (execColumnRescaleAuto c n s) := by
  unfold execColumnRescaleAuto
  with_reducible repeat' first | assumption | apply runRescale_kept

theorem execColumnRescaleExplicit_kept {q : List Instr} {c : Nat} {n : Nat} {s : State} (h0 : Kept q s) :
    KeptR q (execColumnRescaleExplicit c n s) := by
  unfold execColumnRescaleExplicit
  with_reducible repeat' first | assumption | apply runRescale_kept

theorem execColumnRescaleRestore_kept {q : List Instr} {c : Nat} {n : Nat} {s : State} (h0 : Kept q s) :
    KeptR q (execColumnRescaleRestore c n s) := by
  unfold execColumnRescaleRestore
  with_reducible repeat' first | assumption | apply runRescale_kept

end Sys2Proof.Machine
end

