-- ==== Sys2Proof/Laws/KeptMuster.lean ====
section
/-! SUPPORT. The queue and the memories' canonical form through the operations of Machine/Muster.lean. -/

namespace Sys2Proof.Machine

theorem State.fieldDue_kept {q : List Instr} {s : State} {p : Nat} {f : Nat} (h0 : Kept q s) :
    Kept q (State.fieldDue s p f) := by
  unfold State.fieldDue
  with_reducible repeat' first | assumption | apply State.updMus_kept

theorem State.beginRun_kept {q : List Instr} {s : State} {p : Nat} {r : MRun} (h0 : Kept q s) :
    Kept q (State.beginRun s p r) := by
  unfold State.beginRun
  repeat' first
    | (with_reducible first
        | intro _ | assumption | apply State.setFld_kept | apply State.updMus_kept | apply State.musterTake_kept | apply Kept.foldl)
    | simp only [↓Kept.upd_iff]

theorem execMusterStart_kept {q : List Instr} {p : Nat} {f : Nat} {s : State} (h0 : Kept q s) :
    KeptR q (execMusterStart p f s) := by
  unfold execMusterStart
  with_reducible repeat' first | assumption | apply onUnit_kept | apply State.beginRun_kept | apply Kept.ite

theorem execMusterForce_kept {q : List Instr} {p : Nat} {f : Nat} {s : State} (h0 : Kept q s) :
    KeptR q (execMusterForce p f s) := by
  unfold execMusterForce
  with_reducible repeat' first | assumption | apply onUnit_kept | apply State.beginRun_kept | apply Kept.ite

theorem execMusterDueTimer_kept {q : List Instr} {p : Nat} {f : Nat} {s : State} (h0 : Kept q s) :
    KeptR q (execMusterDueTimer p f s) := by
  unfold execMusterDueTimer
  with_reducible repeat' first | assumption | apply onUnit_kept | apply State.fieldDue_kept | apply Kept.ite

theorem execMusterRetry_kept {q : List Instr} {p : Nat} {n : Nat} {s : State} (h0 : Kept q s) :
    KeptR q (execMusterRetry p n s) := by
  unfold execMusterRetry
  with_reducible repeat' first | assumption | apply onUnit_kept | apply State.beginRun_kept | apply State.updMus_kept | apply Kept.ite

theorem State.enterRestore_kept {q : List Instr} {s : State} {p : Nat} {pt : Nat} {unusable : Nat} (h0 : Kept q s) :
    Kept q (State.enterRestore s p pt unusable) := by
  unfold State.enterRestore
  with_reducible repeat' first | intro _ | assumption | apply State.updPort_kept | apply Kept.ite | apply Kept.foldl

theorem State.suspect_kept {q : List Instr} {s : State} {p : Nat} {n : Nat} {pt : Nat} (h0 : Kept q s) :
    Kept q (State.suspect s p n pt) := by
  unfold State.suspect
  repeat' first
    | (with_reducible first
        | assumption | apply State.raiseFault_kept | apply State.updTile_kept | apply State.threshold_kept | apply State.askRetire_kept
        | apply Kept.ite)
    | simp only [↓Kept.upd_iff]

theorem State.pendTile_kept {q : List Instr} {s : State} {p : Nat} {n : Nat} {pt : Nat} {abar : Nat × Nat} {m : Sys2Proof.Measure} (h0 : Kept q s) :
    Kept q (State.pendTile s p n pt abar m) := by
  unfold State.pendTile
  repeat' first
    | (with_reducible first | intro _ | assumption | apply State.updMus_kept | apply Kept.foldl)
    | simp only [↓Kept.upd_iff]

theorem State.pendSlots_kept {q : List Instr} {s : State} {p : Nat} {n : Nat} (h0 : Kept q s) :
    Kept q (State.pendSlots s p n) := by
  unfold State.pendSlots
  repeat' first
    | (with_reducible first | assumption | apply State.updMus_kept)
    | simp only [↓Kept.upd_iff]
    | split

theorem State.refit_kept {q : List Instr} {s : State} {p : Nat} {n : Nat} (h0 : Kept q s) :
    Kept q (State.refit s p n) := by
  unfold State.refit
  repeat' first
    | (with_reducible first | assumption | apply State.updMus_kept)
    | simp only [↓Kept.upd_iff]
    | split

theorem State.followDrift_kept {q : List Instr} {s : State} {p : Nat} {f : Nat} (h0 : Kept q s) :
    Kept q (State.followDrift s p f) := by
  unfold State.followDrift
  with_reducible repeat' first | intro _ | assumption | apply State.pendSlots_kept | apply Kept.foldl

theorem State.propose_kept {q : List Instr} {s : State} {p : Nat} {r : MRun} (h0 : Kept q s) :
    Kept q (State.propose s p r) := by
  unfold State.propose
  repeat' first
    | (with_reducible first
        | intro _ | assumption | apply State.pendTile_kept | apply State.updMus_kept | apply State.pendSlots_kept
        | apply State.followDrift_kept | apply Kept.ite | apply Kept.foldl)
    | simp only [↓Kept.upd_iff]

theorem State.acceptRun_kept {q : List Instr} {s : State} {p : Nat} {r : MRun} {a3 : Nat} (h0 : Kept q s) :
    Kept q (State.acceptRun s p r a3).1 := by
  induction a3 generalizing s p r with
  | zero =>
    unfold State.acceptRun
    repeat' first
      | (with_reducible first | assumption | apply State.propose_kept | apply Kept.ite1)
      | simp only [↓Kept.upd_iff]
  | succ n ih =>
    unfold State.acceptRun
    repeat' first
      | (with_reducible first | apply ih | assumption | apply State.propose_kept | apply Kept.ite1)
      | simp only [↓Kept.upd_iff]

theorem State.applyOfs_kept {q : List Instr} {s : State} {p : Nat} {k : Nat} {v : Int} (h0 : Kept q s) :
    Kept q (State.applyOfs s p k v) := by
  unfold State.applyOfs
  with_reducible repeat' first | assumption | apply State.setColRec_kept

theorem State.applyGt_kept {q : List Instr} {s : State} {p : Nat} {k : Nat} {v : Nat} (h0 : Kept q s) :
    Kept q (State.applyGt s p k v) := by
  unfold State.applyGt
  with_reducible repeat' first | assumption | apply State.setColRec_kept

theorem State.applyDrift_kept {q : List Instr} {s : State} {p : Nat} {f : Nat} {v : Nat} (h0 : Kept q s) :
    Kept q (State.applyDrift s p f v) := by
  unfold State.applyDrift
  with_reducible repeat' first | assumption | apply State.setFld_kept

theorem State.applyPending_kept {q : List Instr} {s : State} {p : Nat} (h0 : Kept q s) :
    Kept q (State.applyPending s p) := by
  unfold State.applyPending
  repeat' first
    | (with_reducible first
        | intro _ | assumption | apply State.applyOfs_kept | apply State.applyGt_kept | apply State.applyDrift_kept
        | apply State.setFld_kept | apply State.updMus_kept | apply State.refit_kept | apply Kept.foldl)
    | simp only [↓Kept.upd_iff]

theorem State.finishMuster_kept {q : List Instr} {s : State} {c : Nat} {ptr : Nat} (h0 : Kept q s) :
    Kept q (State.finishMuster s c ptr) := by
  unfold State.finishMuster
  repeat' first
    | (with_reducible first
        | intro _ | assumption | apply State.updMus_kept | apply State.applyPending_kept | apply State.complete_kept
        | apply State.store_kept | apply Kept.ite | apply Kept.foldl)
    | simp only [↓Kept.upd_iff]
    | split

theorem State.rejectTile_kept {q : List Instr} {s : State} {p : Nat} {r : MRun} {n : Nat} {pt : Nat} (h0 : Kept q s) :
    Kept q (State.rejectTile s p r n pt).1 := by
  unfold State.rejectTile
  repeat' first
    | (with_reducible first | assumption | apply State.event_kept | apply State.setFld_kept | apply State.suspect_kept | apply Kept.ite1)
    | simp only [↓Kept.upd_iff]

theorem State.closeRun_kept {q : List Instr} {s : State} {p : Nat} {r : MRun} (h0 : Kept q s) :
    Kept q (State.closeRun s p r).1 := by
  unfold State.closeRun
  repeat' first
    | (with_reducible first
        | intro _ | assumption | apply State.acceptRun_kept | apply State.setFld_kept | apply State.rejectTile_kept
        | apply State.applyPending_kept | apply Kept.ite | apply Kept.foldl | refine Kept.foldlBy (fun p : State × _ => p.1) ?_ ?_)
    | simp only [↓Kept.upd_iff]
    | split

theorem State.endRun_kept {q : List Instr} {s : State} {p : Nat} {i : Nat} (h0 : Kept q s) :
    Kept q (State.endRun s p i) := by
  unfold State.endRun
  repeat' first
    | (with_reducible first
        | assumption | apply State.updMus_kept | apply State.musterTake_kept | apply State.closeRun_kept | apply State.finishMuster_kept
        | apply Kept.ite)
    | simp only [↓Kept.upd_iff]
    | split

theorem State.musterTile_kept {q : List Instr} {s : State} {p : Nat} {n : Nat} {r : MRun} {m : Sys2Proof.Measure} (h0 : Kept q s) :
    Kept q (State.musterTile s p n r m).1 := by
  unfold State.musterTile
  repeat' first
    | (with_reducible first
        | assumption | apply State.setTileState_kept | apply State.enterRestore_kept | apply State.event_kept
        | apply State.rejectTile_kept | apply Kept.ite1)
    | simp only [↓Kept.upd_iff]
    | split

theorem State.musterDone_kept {q : List Instr} {s : State} {p : Nat} {n : Nat} {m : Sys2Proof.Measure} (h0 : Kept q s) :
    Kept q (State.musterDone s p n m) := by
  unfold State.musterDone
  repeat' first
    | (with_reducible first
        | assumption | apply State.musterTile_kept | apply State.musterTake_kept | apply State.endRun_kept | apply State.updMus_kept)
    | simp only [↓Kept.upd_iff]
    | split

theorem execMusterComplete_kept {q : List Instr} {p : Nat} {n : Nat} {m : Sys2Proof.Measure} {s : State} (h0 : Kept q s) :
    KeptR q (execMusterComplete p n m s) := by
  unfold execMusterComplete
  with_reducible repeat' first | assumption | apply onUnit_kept | apply State.musterDone_kept

theorem execGradualApplyStart_kept {q : List Instr} {p : Nat} {s : State} (h0 : Kept q s) :
    KeptR q (execGradualApplyStart p s) := by
  unfold execGradualApplyStart
  with_reducible repeat' first | assumption | apply onUnit_kept | apply State.updMus_kept | apply Kept.ite

theorem State.stepOfs_kept {q : List Instr} {s : State} {p : Nat} {k : Nat} {t : Int} (h0 : Kept q s) :
    Kept q (State.stepOfs s p k t) := by
  unfold State.stepOfs
  repeat' first
    | (with_reducible first | assumption | apply State.applyOfs_kept | apply State.updMus_kept | apply Kept.ite)
    | simp only [↓Kept.upd_iff]

theorem State.stepGt_kept {q : List Instr} {s : State} {p : Nat} {k : Nat} {t : Nat} (h0 : Kept q s) :
    Kept q (State.stepGt s p k t) := by
  unfold State.stepGt
  repeat' first
    | (with_reducible first | assumption | apply State.applyGt_kept | apply State.updMus_kept | apply Kept.ite)
    | simp only [↓Kept.upd_iff]

theorem State.stepSlot_kept {q : List Instr} {s : State} {p : Nat} {k : Nat} {t : Int} (h0 : Kept q s) :
    Kept q (State.stepSlot s p k t) := by
  unfold State.stepSlot
  with_reducible repeat' first | assumption | apply State.updMus_kept

theorem State.stepDelay_kept {q : List Instr} {s : State} {p : Nat} {k : Nat} {t : Int} (h0 : Kept q s) :
    Kept q (State.stepDelay s p k t) := by
  unfold State.stepDelay
  with_reducible repeat' first | assumption | apply State.updMus_kept

theorem State.gradTile_kept {q : List Instr} {s : State} {p : Nat} {n : Nat} (h0 : Kept q s) :
    Kept q (State.gradTile s p n) := by
  unfold State.gradTile
  repeat' first
    | (with_reducible first
        | intro _ | assumption | apply State.stepOfs_kept | apply State.stepGt_kept | apply State.stepSlot_kept
        | apply State.stepDelay_kept | apply State.updMus_kept | apply State.setFld_kept | apply State.refit_kept | apply Kept.ite
        | apply Kept.foldl)
    | simp only [↓Kept.upd_iff]
    | split

theorem State.gradField_kept {q : List Instr} {s : State} {p : Nat} {f : Nat} (h0 : Kept q s) :
    Kept q (State.gradField s p f) := by
  unfold State.gradField
  repeat' first
    | (with_reducible first
        | intro _ | assumption | apply State.applyDrift_kept | apply State.updMus_kept | apply State.refit_kept | apply Kept.ite
        | apply Kept.foldl)
    | simp only [↓Kept.upd_iff]
    | split

theorem execGradualApplyStep_kept {q : List Instr} {p : Nat} {n : Nat} {field : Bool} {s : State} (h0 : Kept q s) :
    KeptR q (execGradualApplyStep p n field s) := by
  unfold execGradualApplyStep
  with_reducible repeat' first
    | assumption | apply onUnit_kept | apply State.gradField_kept | apply State.gradTile_kept | apply Kept.ite

theorem State.trackDrift_kept {q : List Instr} {s : State} {p : Nat} {f : Nat} (h0 : Kept q s) :
    Kept q (State.trackDrift s p f) := by
  unfold State.trackDrift
  repeat' first
    | (with_reducible first
        | assumption | apply State.updMus_kept | apply State.fieldDue_kept | apply State.followDrift_kept | apply Kept.ite)
    | simp only [↓Kept.upd_iff]

theorem execDriftTrackerUpdate_kept {q : List Instr} {p : Nat} {f : Nat} {s : State} (h0 : Kept q s) :
    KeptR q (execDriftTrackerUpdate p f s) := by
  unfold execDriftTrackerUpdate
  with_reducible repeat' first | assumption | apply onUnit_kept | apply State.trackDrift_kept

theorem State.dieCfg_kept {q : List Instr} {s : State} {p : Nat} {master : Nat} (h0 : Kept q s) :
    Kept q (State.dieCfg s p master).2 := by
  unfold State.dieCfg
  with_reducible repeat' first | assumption | apply State.aclCheck_kept

theorem State.musterDesc_kept {q : List Instr} {s : State} {c : Nat} {d : Desc} (h0 : Kept q s) :
    Kept q (State.musterDesc s c d) := by
  unfold State.musterDesc
  repeat' first
    | (with_reducible first
        | intro _ | assumption | apply State.complete_kept | apply State.deny_kept | apply State.denyAt_kept
        | apply State.readRecord_kept | apply State.working_kept | apply State.beginRun_kept | apply State.endRun_kept | apply Kept.ite
        | apply Kept.ite2 | apply Kept.foldl)
    | simp only [↓Kept.upd_iff]
    | split

theorem execMuster_kept {q : List Instr} {c : Nat} {n : Nat} {s : State} (h0 : Kept q s) :
    KeptR q (execMuster c n s) := by
  unfold execMuster
  with_reducible repeat' first | intro _ | assumption | apply onUnit_kept | apply State.runDesc_kept | apply State.musterDesc_kept

end Sys2Proof.Machine
end

