-- ==== Sys2Proof/Laws/KeptShearer.lean ====
section
/-! SUPPORT. The queue and the memories' canonical form through the operations of Machine/Shearer.lean. -/

namespace Sys2Proof.Machine

theorem State.noteSpans_kept {q : List Instr} {s : State} {k : Nat} (h0 : Kept q s) :
    Kept q (State.noteSpans s k) := by
  unfold State.noteSpans
  with_reducible repeat' first | intro _ | assumption | apply State.readMem_kept | apply Kept.ite | apply Kept.foldl

theorem State.takeSpans_kept {q : List Instr} {s : State} {k : Nat} {ok : Bool} {vs : List (Span × Nat)} (h0 : Kept q s) :
    Kept q (State.takeSpans s k ok vs) := by
  unfold State.takeSpans
  repeat' first
    | (with_reducible first
        | assumption | apply State.setReg_kept | apply State.setBit_kept | apply State.setShr_kept | apply State.clrBit_kept
        | apply Kept.ite)
    | simp only [↓Kept.upd_iff]
    | split

theorem State.commitSpans_kept {q : List Instr} {s : State} (h0 : Kept q s) :
    Kept q (State.commitSpans s) := by
  unfold State.commitSpans
  repeat' first
    | (with_reducible first
        | intro _ | assumption | apply State.takeSpans_kept | apply State.noteSpans_kept | apply Kept.ite | apply Kept.foldl)
    | simp only [↓Kept.upd_iff]

theorem Pass.readAs_kept {q : List Instr} {x : Pass} {master : Nat} {a : Nat} {n : Nat} (h0 : Kept q x.s) :
    Kept q (Pass.readAs x master a n).2.s := by
  unfold Pass.readAs
  repeat' first
    | (with_reducible first | assumption | apply State.fetch_kept)
    | simp only [↓Kept.upd_iff]
    | split

theorem Pass.writeAs_kept {q : List Instr} {x : Pass} {master : Nat} {a : Nat} {bs : List Sys2Proof.Byte} (h0 : Kept q x.s) :
    Kept q (Pass.writeAs x master a bs).s := by
  unfold Pass.writeAs
  repeat' first
    | (with_reducible first | assumption | apply State.writeMem_kept | apply State.put_kept)
    | split

theorem Pass.read_kept {q : List Instr} {x : Pass} {k : Nat} {a : Nat} {n : Nat} (h0 : Kept q x.s) :
    Kept q (Pass.read x k a n).2.s := by
  unfold Pass.read
  with_reducible repeat' first | assumption | apply Pass.readAs_kept

theorem Pass.write_kept {q : List Instr} {x : Pass} {k : Nat} {a : Nat} {bs : List Sys2Proof.Byte} (h0 : Kept q x.s) :
    Kept q (Pass.write x k a bs).s := by
  unfold Pass.write
  with_reducible repeat' first | assumption | apply Pass.writeAs_kept

theorem Pass.gradRow_kept {q : List Instr} {x : Pass} {k : Nat} {sp : Span} {folded : Bool} {r : Nat} {c : Nat} {n : Nat} (h0 : Kept q x.s) :
    Kept q (Pass.gradRow x k sp folded r c n).2.s := by
  unfold Pass.gradRow
  repeat' first
    | (with_reducible first | intro _ | assumption | apply Pass.read_kept | refine Kept.foldlBy (fun p : _ × Pass => p.2.s) ?_ ?_)
    | simp only [↓Kept.upd_iff]
    | split

theorem Pass.maskRow_kept {q : List Instr} {x : Pass} {k : Nat} {sp : Span} {r : Nat} {c : Nat} {n : Nat} (h0 : Kept q x.s) :
    Kept q (Pass.maskRow x k sp r c n).2.s := by
  unfold Pass.maskRow
  repeat' first
    | (with_reducible first | assumption | apply Pass.read_kept)
    | simp only [↓Kept.upd_iff]
    | split

theorem normSegment_kept {q : List Instr} {k : Nat} {sp : Span} {folds : Bool} {acc : List Nat × Pass} {seg : Nat × Nat × Nat} (h0 : Kept q acc.2.s) :
    Kept q (normSegment k sp folds acc seg).2.s := by
  unfold normSegment
  repeat' first
    | (with_reducible first
        | intro _ | assumption | apply Pass.gradRow_kept | apply Pass.maskRow_kept | apply Pass.write_kept
        | refine Kept.foldlBy (fun p : _ × Pass => p.2.s) ?_ ?_)
    | simp only [↓Kept.upd_iff]
    | split

theorem State.shrCond_kept {q : List Instr} {s : State} {k : Nat} {c : Cond} (h0 : Kept q s) :
    Kept q (State.shrCond s k c) := by
  unfold State.shrCond
  repeat' first
    | (with_reducible first | assumption | apply State.setBit_kept | apply Kept.ite)
    | simp only [↓Kept.upd_iff]

theorem State.normSpan_kept {q : List Instr} {s : State} {k : Nat} {i : Nat} {folds : Bool} (h0 : Kept q s) :
    Kept q (State.normSpan s k i folds).2.s := by
  unfold State.normSpan
  with_reducible repeat' first
    | intro _ | assumption | apply normSegment_kept | apply State.shrCond_kept | refine Kept.foldlBy (fun p : _ × Pass => p.2.s) ?_ ?_

theorem State.setNorm_kept {q : List Instr} {s : State} {sum : Nat} (h0 : Kept q s) :
    Kept q (State.setNorm s sum) := by
  unfold State.setNorm
  with_reducible repeat' first | assumption | apply State.setReg_kept

theorem normOne_kept {q : List Instr} {inStep : Bool} {k : Nat} {acc : List Nat × Pass} {i : Nat} (h0 : Kept q acc.2.s) :
    Kept q (normOne inStep k acc i).2.s := by
  unfold normOne
  repeat' first
    | (with_reducible first | assumption | apply State.normSpan_kept | apply State.setShr_kept)
    | simp only [↓Kept.upd_iff]
    | split

theorem State.normCheck_kept {q : List Instr} {s : State} {c : Nat} {d : Desc} (h0 : Kept q s) :
    Kept q (State.normCheck s c d).2 := by
  unfold State.normCheck
  repeat' first
    | (with_reducible first | assumption | apply State.denyAt_kept | apply Kept.ite2)
    | simp only [↓Kept.upd_iff]
    | split

theorem Pass.request_kept {q : List Instr} {x : Pass} {k : Nat} {e : Nat} (h0 : Kept q x.s) :
    Kept q (Pass.request x k e).2.s := by
  unfold Pass.request
  repeat' first
    | (with_reducible first | assumption | apply Pass.write_kept | apply State.setShr_kept | apply State.setBit_kept)
    | simp only [↓Kept.upd_iff]
    | split

theorem Pass.tally_kept {q : List Instr} {x : Pass} {k : Nat} {sp : Span} {r : Nat} {c : Nat} {w : Nat} {w1 : Nat} {t : Int} {cnt : UpdCnt} (h0 : Kept q x.s) :
    Kept q (Pass.tally x k sp r c w w1 t cnt).2.2.s := by
  unfold Pass.tally
  repeat' first
    | (with_reducible first | assumption | apply Pass.request_kept | apply State.saturate_kept)
    | simp only [↓Kept.upd_iff]
    | split

theorem updElem_kept {q : List Instr} {k : Nat} {sp : Span} {rule : Rule} {clip : FVal} {r : Nat} {c : Nat} {inp : RowIn} {a : RowOut} {i : Nat} (h0 : Kept q a.x.s) :
    Kept q (updElem k sp rule clip r c inp a i).x.s := by
  unfold updElem
  repeat' first
    | (with_reducible first | assumption | apply State.setBit_kept | apply Pass.tally_kept)
    | simp only [↓Kept.upd_iff]
    | split

theorem Pass.dirs_kept {q : List Instr} {x : Pass} {k : Nat} {sp : Span} {js : List Nat} (h0 : Kept q x.s) :
    Kept q (Pass.dirs x k sp js).2.s := by
  unfold Pass.dirs
  repeat' first
    | (with_reducible first | intro _ | assumption | apply Pass.read_kept | refine Kept.foldlBy (fun p : _ × Pass => p.2.s) ?_ ?_)
    | simp only [↓Kept.upd_iff]

theorem Pass.stateIn_kept {q : List Instr} {x : Pass} {k : Nat} {sp : Span} {alg : Nat} {o : Nat} {n : Nat} (h0 : Kept q x.s) :
    Kept q (Pass.stateIn x k sp alg o n).2.s := by
  unfold Pass.stateIn
  repeat' first
    | (with_reducible first | assumption | apply Pass.read_kept)
    | simp only [↓Kept.upd_iff]
    | split

theorem Pass.gradIn_kept {q : List Instr} {x : Pass} {k : Nat} {sp : Span} {folded : Bool} {r : Nat} {c : Nat} {n : Nat} (h0 : Kept q x.s) :
    Kept q (Pass.gradIn x k sp folded r c n).2.s := by
  unfold Pass.gradIn
  repeat' first
    | (with_reducible first | assumption | apply Pass.gradRow_kept | apply Pass.dirs_kept | apply Pass.read_kept)
    | simp only [↓Kept.upd_iff]
    | split

theorem Pass.rowIn_kept {q : List Instr} {x : Pass} {k : Nat} {i : Nat} {sp : Span} {alg : Nat} {r : Nat} {c : Nat} {n : Nat} (h0 : Kept q x.s) :
    Kept q (Pass.rowIn x k i sp alg r c n).2.s := by
  unfold Pass.rowIn
  repeat' first
    | (with_reducible first
        | assumption | apply Pass.stateIn_kept | apply Pass.gradIn_kept | apply Pass.maskRow_kept | apply Pass.read_kept)
    | simp only [↓Kept.upd_iff]
    | split

theorem RowOut.write_kept {q : List Instr} {out : RowOut} {k : Nat} {sp : Span} {alg : Nat} {r : Nat} {c : Nat} (h0 : Kept q out.x.s) :
    Kept q (RowOut.write out k sp alg r c).s := by
  unfold RowOut.write
  repeat' first
    | (with_reducible first | assumption | apply Pass.write_kept)
    | simp only [↓Kept.upd_iff]
    | split

theorem updSegment_kept {q : List Instr} {k : Nat} {i : Nat} {rule : Rule} {clip : FVal} {acc : UpdCnt × Pass} {seg : Nat × Nat × Nat} (h0 : Kept q acc.2.s) :
    Kept q (updSegment k i rule clip acc seg).2.s := by
  unfold updSegment
  repeat' first
    | (with_reducible first
        | intro _ | assumption | apply Pass.rowIn_kept | apply updElem_kept | apply RowOut.write_kept
        | refine Kept.foldlBy (fun p : RowOut => p.x.s) ?_ ?_ | apply updElem_kept)
    | simp only [↓Kept.upd_iff]
    | split

theorem Pass.wcPanel_kept {q : List Instr} {x : Pass} {k : Nat} {sp : Span} {panel : Nat} (h0 : Kept q x.s) :
    Kept q (Pass.wcPanel x k sp panel).s := by
  unfold Pass.wcPanel
  repeat' first
    | (with_reducible first | intro _ | assumption | apply Pass.write_kept | refine Kept.foldlBy (fun p : Pass => p.s) ?_ ?_)
    | simp only [↓Kept.upd_iff]
    | split

theorem updPanel_kept {q : List Instr} {k : Nat} {i : Nat} {rule : Rule} {clip : FVal} {acc : UpdCnt × Pass} {panel : Nat} (h0 : Kept q acc.2.s) :
    Kept q (updPanel k i rule clip acc panel).2.s := by
  unfold updPanel
  repeat' first
    | (with_reducible first
        | intro _ | assumption | apply updSegment_kept | apply Pass.wcPanel_kept | apply State.setShr_kept
        | refine Kept.foldlBy (fun p : _ × Pass => p.2.s) ?_ ?_)
    | simp only [↓Kept.upd_iff]
    | split

theorem updPanels_kept {q : List Instr} {k : Nat} {table : List Sys2Proof.Byte} {clip : FVal} {acc : UpdCnt × Pass} {i : Nat} {num : Nat} (h0 : Kept q acc.2.s) :
    Kept q (updPanels k table clip acc i num).2.s := by
  unfold updPanels
  repeat' first
    | (with_reducible first
        | intro _ | assumption | apply Pass.dirs_kept | apply State.setBit_kept | apply updPanel_kept | apply State.setFld_kept
        | apply State.shrCond_kept | apply Kept.ite | refine Kept.foldlBy (fun p : _ × Pass => p.2.s) ?_ ?_)
    | simp only [↓Kept.upd_iff]
    | split

theorem updSpan_kept {q : List Instr} {k : Nat} {table : List Sys2Proof.Byte} {clip : FVal} {acc : UpdCnt × Pass} {i : Nat} (h0 : Kept q acc.2.s) :
    Kept q (updSpan k table clip acc i).2.s := by
  unfold updSpan
  repeat' first
    | (with_reducible first | assumption | apply updPanels_kept)
    | simp only [↓Kept.upd_iff]
    | split

theorem State.tear_kept {q : List Instr} {s : State} {k : Nat} {i : Nat} (h0 : Kept q s) :
    Kept q (State.tear s k i) := by
  unfold State.tear
  with_reducible repeat' first | assumption | apply State.raiseFault_kept | apply State.setFld_kept

theorem State.updEvents_kept {q : List Instr} {s : State} {k : Nat} {c : UpdCnt} (h0 : Kept q s) :
    Kept q (State.updEvents s k c) := by
  unfold State.updEvents
  with_reducible repeat' first | assumption | apply State.eventF_kept | apply State.updDie_kept

theorem updRun_kept {q : List Instr} {table : List Sys2Proof.Byte} {clip : Nat} {k : Nat} {i : Nat} {cnt : List Nat} {share : List Nat} {x : Pass} (h0 : Kept q x.s) :
    Kept q (updRun table clip k i cnt share x).x.s := by
  unfold updRun
  repeat' first
    | (with_reducible first | assumption | apply State.drainRecon_kept | apply updSpan_kept | apply State.updEvents_kept)
    | simp only [↓Kept.upd_iff]
    | split

theorem tearing_kept {q : List Instr} {f : Nat → Nat → List Nat → List Nat → Pass → SpanOut} {k : Nat} {i : Nat} {cnt : List Nat} {share : List Nat} {x : Pass} (hf : ∀ b0 b1 b2 b3 b4, Kept q b4.s → Kept q (f b0 b1 b2 b3 b4).x.s) (h0 : Kept q x.s) :
    Kept q (tearing f k i cnt share x).x.s := by
  unfold tearing
  repeat' first
    | (with_reducible first | assumption | apply State.tear_kept | apply hf)
    | simp only [↓Kept.upd_iff]
    | split

theorem updStep_kept {q : List Instr} {table : List Sys2Proof.Byte} {clip : Nat} {a2 : Nat} {a3 : Nat} {a4 : List Nat} {a5 : List Nat} {a6 : Pass} (h0 : Kept q a6.s) :
    Kept q (updStep table clip a2 a3 a4 a5 a6).x.s := by
  unfold updStep
  with_reducible repeat' first | intro _ | assumption | apply tearing_kept | apply updRun_kept

theorem normStep_kept {q : List Instr} {inStep : Bool} {k : Nat} {i : Nat} {cnt : List Nat} {share : List Nat} {x : Pass} (h0 : Kept q x.s) :
    Kept q (normStep inStep k i cnt share x).x.s := by
  unfold normStep
  with_reducible repeat' first | assumption | apply normOne_kept

theorem spanRound_kept {q : List Instr} {f : Nat → Nat → List Nat → List Nat → Pass → SpanOut} {us : List PassUnit} {share : List Nat} {s : State} (hf : ∀ b0 b1 b2 b3 b4, Kept q b4.s → Kept q (f b0 b1 b2 b3 b4).x.s) (h0 : Kept q s) :
    Kept q (spanRound f us share s).2.2.s := by
  unfold spanRound
  repeat' first
    | (with_reducible first | intro _ | assumption | apply hf | refine Kept.foldlBy (fun p : _ × _ × Pass => p.2.2.s) ?_ ?_)
    | simp only [↓Kept.upd_iff]
    | split

theorem State.dropPass_kept {q : List Instr} {s : State} {c : Nat} {ptr : Nat} (h0 : Kept q s) :
    Kept q (State.dropPass s c ptr) := by
  unfold State.dropPass
  with_reducible repeat' first | assumption | apply State.updTrn_kept

theorem State.putPass_kept {q : List Instr} {s : State} {r : ShrPass} (h0 : Kept q s) :
    Kept q (State.putPass s r) := by
  unfold State.putPass
  with_reducible repeat' first | assumption | apply State.updTrn_kept | apply State.dropPass_kept

theorem State.goOn_kept {q : List Instr} {s : State} {r : ShrPass} {f : Nat → Nat → List Nat → List Nat → Pass → SpanOut} {fin : ShrPass → State → State} (h0 : Kept q s) (hf : ∀ b0 b1 b2 b3 b4, Kept q b4.s → Kept q (f b0 b1 b2 b3 b4).x.s) (hfin : ∀ b0 b1, Kept q b1 → Kept q (fin b0 b1)) :
    Kept q (State.goOn s r f fin) := by
  unfold State.goOn
  repeat' first
    | (with_reducible first
        | intro _ | assumption | apply State.putPass_kept | apply spanRound_kept | apply State.complete_kept | apply State.dropPass_kept
        | apply hf | apply hfin | apply Kept.ite)
    | simp only [↓Kept.upd_iff]

theorem State.endRecord_kept {q : List Instr} {s : State} {c : Nat} {ptr : Nat} {addr : Nat} {bs : List Sys2Proof.Byte} (h0 : Kept q s) :
    Kept q (State.endRecord s c ptr addr bs) := by
  unfold State.endRecord
  repeat' first
    | (with_reducible first | assumption | apply State.complete_kept | apply State.store_kept | apply Kept.ite)
    | simp only [↓Kept.upd_iff]

theorem State.normEnd_kept {q : List Instr} {d : Desc} {r : ShrPass} {s : State} (h0 : Kept q s) :
    Kept q (State.normEnd d r s) := by
  unfold State.normEnd
  with_reducible repeat' first | assumption | apply State.endRecord_kept | apply State.setNorm_kept | apply Kept.ite

theorem State.goNorm_kept {q : List Instr} {s : State} {d : Desc} {r : ShrPass} (h0 : Kept q s) :
    Kept q (State.goNorm s d r) := by
  unfold State.goNorm
  with_reducible repeat' first | intro _ | assumption | apply State.goOn_kept | apply normStep_kept | apply State.normEnd_kept

theorem State.updateNorm_kept {q : List Instr} {s : State} {c : Nat} {d : Desc} (h0 : Kept q s) :
    Kept q (State.updateNorm s c d) := by
  unfold State.updateNorm
  repeat' first
    | (with_reducible first
        | assumption | apply State.goNorm_kept | apply State.normCheck_kept | apply State.complete_kept | apply Kept.ite)
    | simp only [↓Kept.upd_iff]
    | split

theorem execUpdateNorm_kept {q : List Instr} {c : Nat} {n : Nat} {s : State} (h0 : Kept q s) :
    KeptR q (execUpdateNorm c n s) := by
  unfold execUpdateNorm
  with_reducible repeat' first | intro _ | assumption | apply onUnit_kept | apply State.runDesc_kept | apply State.updateNorm_kept

theorem State.applyEnd_kept {q : List Instr} {d : Desc} {r : ShrPass} {s : State} (h0 : Kept q s) :
    Kept q (State.applyEnd d r s) := by
  unfold State.applyEnd
  with_reducible repeat' first | intro _ | assumption | apply State.portSettle_kept | apply State.endRecord_kept | apply Kept.foldl

theorem State.goApply_kept {q : List Instr} {s : State} {d : Desc} {r : ShrPass} (h0 : Kept q s) :
    Kept q (State.goApply s d r) := by
  unfold State.goApply
  with_reducible repeat' first | intro _ | assumption | apply State.goOn_kept | apply updStep_kept | apply State.applyEnd_kept

theorem State.updateApply_kept {q : List Instr} {s : State} {c : Nat} {d : Desc} (h0 : Kept q s) :
    Kept q (State.updateApply s c d) := by
  unfold State.updateApply
  repeat' first
    | (with_reducible first
        | assumption | apply State.goApply_kept | apply State.complete_kept | apply State.denyAt_kept | apply State.readRecord_kept
        | apply State.setReg_kept | apply Kept.ite)
    | simp only [↓Kept.upd_iff]
    | split

theorem execUpdateApply_kept {q : List Instr} {c : Nat} {n : Nat} {s : State} (h0 : Kept q s) :
    KeptR q (execUpdateApply c n s) := by
  unfold execUpdateApply
  with_reducible repeat' first | intro _ | assumption | apply onUnit_kept | apply State.runDesc_kept | apply State.updateApply_kept

theorem execShrQuiesce_kept {q : List Instr} {master : Nat} {on : Bool} {s : State} (h0 : Kept q s) :
    KeptR q (execShrQuiesce master on s) := by
  unfold execShrQuiesce
  with_reducible repeat' first | intro _ | assumption | apply KeptR.of | apply State.guardedWrite_kept | apply State.setFld_kept

end Sys2Proof.Machine
end

