-- ==== Sys2Proof/Laws/KeptWriter.lean ====
section
/-! SUPPORT. The queue and the memories' canonical form through the operations of Machine/Writer.lean. -/

namespace Sys2Proof.Machine

theorem WOut.put_kept {q : List Instr} {x : WOut} {master : Nat} {a : Nat} {bs : List Sys2Proof.Byte} (h0 : Kept q x.s) :
    Kept q (WOut.put x master a bs).s := by
  unfold WOut.put
  repeat' first
    | (with_reducible first | assumption | apply State.writeMem_kept | apply State.refuse_kept)
    | split

theorem WOut.get_kept {q : List Instr} {x : WOut} {master : Nat} {a : Nat} {n : Nat} (h0 : Kept q x.s) :
    Kept q (WOut.get x master a n).2.s := by
  unfold WOut.get
  repeat' first
    | (with_reducible first | assumption | apply State.fetch_kept | apply State.refuse_kept)
    | simp only [↓Kept.upd_iff]
    | split

theorem WSlot.putBlock_kept {q : List Instr} {w : WSlot} {master : Nat} {hupd : Bool} {r : Nat} {c : Nat} {vs : List HeldVal} {x : WOut} (h0 : Kept q x.s) :
    Kept q (WSlot.putBlock w master hupd r c vs x).2.2.s := by
  unfold WSlot.putBlock
  repeat' first
    | (with_reducible first | assumption | apply WOut.get_kept | apply WOut.put_kept)
    | simp only [↓Kept.upd_iff]
    | split

theorem WSlot.putLine_kept {q : List Instr} {w : WSlot} {master : Nat} {hupd : Bool} {r : Nat} {line : Nat} {vs : List HeldVal} {x : WOut} (h0 : Kept q x.s) :
    Kept q (WSlot.putLine w master hupd r line vs x).s := by
  unfold WSlot.putLine
  repeat' first
    | (with_reducible first
        | intro _ | assumption | apply WSlot.putBlock_kept | apply WOut.put_kept
        | refine Kept.foldlBy (fun p : _ × _ × WOut => p.2.2.s) ?_ ?_)
    | simp only [↓Kept.upd_iff]

theorem WSlot.putFloats_kept {q : List Instr} {w : WSlot} {master : Nat} {r : Nat} {c : Nat} {vs : List HeldVal} {x : WOut} (h0 : Kept q x.s) :
    Kept q (WSlot.putFloats w master r c vs x).s := by
  unfold WSlot.putFloats
  with_reducible repeat' first | assumption | apply WOut.put_kept

theorem WSlot.pullOutliers_kept {q : List Instr} {w : WSlot} {master : Nat} {r : Nat} {a3 : Nat} {a4 : List HeldVal} {a5 : WOut} (h0 : Kept q a5.s) :
    Kept q (WSlot.pullOutliers w master r a3 a4 a5).2.s := by
  induction a4 generalizing w master r a3 a5 with
  | nil =>
    unfold WSlot.pullOutliers
    repeat' first
      | (with_reducible first | assumption | apply WOut.put_kept | apply WOut.get_kept)
      | simp only [↓Kept.upd_iff]
      | split
  | cons b bs ih =>
    unfold WSlot.pullOutliers
    repeat' first
      | (with_reducible first | apply ih | assumption | apply WOut.put_kept | apply WOut.get_kept)
      | simp only [↓Kept.upd_iff]
      | split

theorem WSlot.flushLines_kept {q : List Instr} {w : WSlot} {master : Nat} {hupd : Bool} {r : Nat} {a4 : Nat} {a5 : Nat} {a6 : List HeldVal} {a7 : WOut} (h0 : Kept q a7.s) :
    Kept q (WSlot.flushLines w master hupd r a4 a5 a6 a7).2.s := by
  induction a4 generalizing w master hupd r a5 a6 a7 with
  | zero =>
    unfold WSlot.flushLines
    repeat' first
      | (with_reducible first | assumption | apply WSlot.putLine_kept)
      | simp only [↓Kept.upd_iff]
      | split
  | succ n ih =>
    unfold WSlot.flushLines
    repeat' first
      | (with_reducible first | apply ih | assumption | apply WSlot.putLine_kept)
      | simp only [↓Kept.upd_iff]
      | split

theorem WSlot.endRow_kept {q : List Instr} {w : WSlot} {master : Nat} {hupd : Bool} {x : WOut} (h0 : Kept q x.s) :
    Kept q (WSlot.endRow w master hupd x).2.s := by
  unfold WSlot.endRow
  repeat' first
    | (with_reducible first | assumption | apply WSlot.putLine_kept)
    | simp only [↓Kept.upd_iff]
    | split

theorem WSlot.putValues_kept {q : List Instr} {w : WSlot} {master : Nat} {hupd : Bool} {r : Nat} {c : Nat} {vs : List HeldVal} {x : WOut} (h0 : Kept q x.s) :
    Kept q (WSlot.putValues w master hupd r c vs x).2.s := by
  unfold WSlot.putValues
  repeat' first
    | (with_reducible first | assumption | apply WSlot.putFloats_kept | apply WSlot.pullOutliers_kept | apply WSlot.flushLines_kept)
    | simp only [↓Kept.upd_iff]
    | split

theorem WSlot.putRow_kept {q : List Instr} {w : WSlot} {master : Nat} {hupd : Bool} {seed : List Sys2Proof.Word} {step : Nat} {r : Nat} {ws : List Nat} {x : WOut} (h0 : Kept q x.s) :
    Kept q (WSlot.putRow w master hupd seed step r ws x).s := by
  unfold WSlot.putRow
  with_reducible repeat' first | assumption | apply WSlot.putValues_kept | apply WSlot.endRow_kept

end Sys2Proof.Machine
end

