-- ==== Sys2Proof/Laws/KeptWorks.lean ====
section
/-! SUPPORT. The queue and the memories' canonical form through the operations of Machine/Works.lean. -/

namespace Sys2Proof.Machine

theorem State.updMu_kept {q : List Instr} {s : State} {u : Nat} {f : Mu → Mu} (h0 : Kept q s) :
    Kept q (State.updMu s u f) := by
  unfold State.updMu
  repeat' first
    | (with_reducible first | assumption)
    | simp only [↓Kept.upd_iff]

theorem State.updDrv_kept {q : List Instr} {s : State} {e : Nat} {f : Drv → Drv} (h0 : Kept q s) :
    Kept q (State.updDrv s e f) := by
  unfold State.updDrv
  repeat' first
    | (with_reducible first | assumption)
    | simp only [↓Kept.upd_iff]

theorem State.setFlt_kept {q : List Instr} {s : State} {f : Flt → Flt} (h0 : Kept q s) :
    Kept q (State.setFlt s f) := by
  unfold State.setFlt
  repeat' first
    | (with_reducible first | assumption)
    | simp only [↓Kept.upd_iff]

theorem State.eventMu_kept {q : List Instr} {s : State} {u : Nat} {src : Nat} {n : Nat} (h0 : Kept q s) :
    Kept q (State.eventMu s u src n) := by
  unfold State.eventMu
  with_reducible repeat' first | assumption | apply State.eventF_kept

theorem State.eventDrv_kept {q : List Instr} {s : State} {e : Nat} {src : Nat} {n : Nat} (h0 : Kept q s) :
    Kept q (State.eventDrv s e src n) := by
  unfold State.eventDrv
  with_reducible repeat' first | assumption | apply State.eventF_kept

theorem State.raiseCond_kept {q : List Instr} {s : State} {ctl : Nat} {off : Nat} {bits : Nat} (h0 : Kept q s) :
    Kept q (State.raiseCond s ctl off bits) := by
  unfold State.raiseCond
  repeat' first
    | (with_reducible first | assumption | apply State.setReg_kept | apply State.raiseIrq_kept | apply Kept.ite)
    | simp only [↓Kept.upd_iff]

theorem State.trimProds_kept {q : List Instr} {s : State} (h0 : Kept q s) :
    Kept q (State.trimProds s) := by
  unfold State.trimProds
  with_reducible repeat' first | assumption | apply State.updTrn_kept

theorem State.updWork_kept {q : List Instr} {s : State} {o : Owner} {f : Work → Work} (h0 : Kept q s) :
    Kept q (State.updWork s o f) := by
  unfold State.updWork
  with_reducible repeat' first | assumption | apply State.updTrn_kept

theorem State.addWork_kept {q : List Instr} {s : State} {w : Work} (h0 : Kept q s) :
    Kept q (State.addWork s w) := by
  unfold State.addWork
  with_reducible repeat' first | assumption | apply State.working_kept | apply State.updTrn_kept

theorem State.failWork_kept {q : List Instr} {s : State} {o : Owner} {st : Nat} (h0 : Kept q s) :
    Kept q (State.failWork s o st) := by
  unfold State.failWork
  with_reducible repeat' first | assumption | apply State.updWork_kept

theorem State.setPhase_kept {q : List Instr} {s : State} {ph : Nat} (h0 : Kept q s) :
    Kept q (State.setPhase s ph) := by
  unfold State.setPhase
  with_reducible repeat' first | assumption | apply State.setFld_kept

theorem State.setStepState_kept {q : List Instr} {s : State} {st : Nat} (h0 : Kept q s) :
    Kept q (State.setStepState s st) := by
  unfold State.setStepState
  with_reducible repeat' first | assumption | apply State.setFld_kept

theorem State.finishWork_kept {q : List Instr} {s : State} {o : Owner} (h0 : Kept q s) :
    Kept q (State.finishWork s o) := by
  unfold State.finishWork
  repeat' first
    | (with_reducible first
        | assumption | apply State.trimProds_kept | apply State.updTrn_kept | apply State.setPhase_kept | apply State.complete_kept
        | apply Kept.ite)
    | simp only [↓Kept.upd_iff]
    | split

theorem State.addLife_kept {q : List Instr} {s : State} {k : Nat} (h0 : Kept q s) :
    Kept q (State.addLife s k) := by
  unfold State.addLife
  repeat' first
    | (with_reducible first | assumption)
    | simp only [↓Kept.upd_iff]

theorem State.cause_kept {q : List Instr} {s : State} {b : Nat} (h0 : Kept q s) :
    Kept q (State.cause s b) := by
  unfold State.cause
  with_reducible repeat' first | assumption | apply State.updTrn_kept | apply Kept.ite

end Sys2Proof.Machine
end

