-- ==== Sys2Proof/Laws/KeptChains.lean ====
section
/-! SUPPORT. The queue and the memories' canonical form through the operations of Machine/Chains.lean. -/

namespace Sys2Proof.Machine

theorem State.updChain_kept {q : List Instr} {s : State} {k : Nat} {f : AChain → AChain} (h0 : Kept q s) :
    Kept q (State.updChain s k f) := by
  unfold State.updChain
  repeat' first
    | (with_reducible first | assumption)
    | simp only [↓Kept.upd_iff]

theorem State.fetchOk_kept {q : List Instr} {s : State} {master : Nat} {a : Nat} {n : Nat} (h0 : Kept q s) :
    Kept q (State.fetchOk s master a n).2 := by
  unfold State.fetchOk
  with_reducible repeat' first | assumption | apply State.fetch_kept

theorem State.readRecords_kept {q : List Instr} {s : State} {c : AChain} (h0 : Kept q s) :
    Kept q (State.readRecords s c).2 := by
  unfold State.readRecords
  with_reducible repeat' first | assumption | apply State.fetchOk_kept

theorem State.baConds_kept {q : List Instr} {s : State} {p : Nat} {c : Cond} (h0 : Kept q s) :
    Kept q (State.baConds s p c) := by
  unfold State.baConds
  dsimp only
  split <;> split <;> repeat' first | exact h0 | apply State.setBit_kept

theorem State.resultOf_kept {q : List Instr} {s : State} {c : AChain} (h0 : Kept q s) :
    Kept q (State.resultOf s c).2.2 := by
  unfold State.resultOf
  with_reducible repeat' first | assumption | apply State.baConds_kept | apply State.eventF_kept

theorem State.dropChains_kept {q : List Instr} {s : State} {f : AChain → Bool} (h0 : Kept q s) :
    Kept q (State.dropChains s f) := by
  unfold State.dropChains
  repeat' first
    | (with_reducible first | assumption)
    | simp only [↓Kept.upd_iff]

theorem State.writeRowOut_kept {q : List Instr} {s : State} {c : AChain} {ds : List AChain} (h0 : Kept q s) :
    Kept q (State.writeRowOut s c ds) := by
  unfold State.writeRowOut
  repeat' first
    | (with_reducible first
        | intro _ | assumption | apply State.readRecords_kept | apply State.resultOf_kept | apply WSlot.putRow_kept
        | apply State.dropChains_kept | apply State.baConds_kept | apply State.finishWork_kept | apply State.failWork_kept
        | apply Kept.ite | apply Kept.foldl22)
    | simp only [↓Kept.upd_iff]

theorem State.chainSettle_kept {q : List Instr} {s : State} {a1 : Nat} (h0 : Kept q s) :
    Kept q (State.chainSettle s a1) := by
  induction a1 generalizing s with
  | zero =>
    unfold State.chainSettle
    repeat' first
      | (with_reducible first | assumption | apply State.writeRowOut_kept | apply Kept.ite)
      | simp only [↓Kept.upd_iff]
      | split
  | succ n ih =>
    unfold State.chainSettle
    repeat' first
      | (with_reducible first | apply ih | assumption | apply State.writeRowOut_kept | apply Kept.ite)
      | simp only [↓Kept.upd_iff]
      | split

theorem State.deliver_kept {q : List Instr} {s : State} {p : Nat} (h0 : Kept q s) :
    Kept q (State.deliver s p) := by
  unfold State.deliver
  repeat' first
    | (with_reducible first
        | assumption | apply State.readRecords_kept | apply State.resultOf_kept | apply State.updDrv_kept | apply State.dropChains_kept
        | apply Kept.ite)
    | simp only [↓Kept.upd_iff]
    | split

theorem execArrayResultDeliver_kept {q : List Instr} {p : Nat} {s : State} (h0 : Kept q s) :
    KeptR q (execArrayResultDeliver p s) := by
  unfold execArrayResultDeliver
  with_reducible repeat' first | assumption | apply onUnit_kept | apply State.deliver_kept

end Sys2Proof.Machine
end

