-- ==== Sys2Proof/Laws/KeptMatrix.lean ====
section
/-! SUPPORT. The queue and the memories' canonical form through the operations of Machine/Matrix.lean. -/

namespace Sys2Proof.Machine

theorem State.operandsReadable_kept {q : List Instr} {s : State} {master : Nat} {r : Prec} (h0 : Kept q s) :
    Kept q (State.operandsReadable s master r).2 := by
  unfold State.operandsReadable
  repeat' first
    | (with_reducible first | assumption | apply State.refuse_kept)
    | simp only [↓Kept.upd_iff]
    | split

theorem State.fetchOperand_kept {q : List Instr} {s : State} {master : Nat} {addr : Nat} {pitch : Nat} {f : Fmt} {r0 : Nat} {n : Nat} {i0 : Nat} {len : Nat} (h0 : Kept q s) :
    Kept q (State.fetchOperand s master addr pitch f r0 n i0 len).2 := by
  unfold State.fetchOperand
  repeat' first
    | (with_reducible first | intro _ | assumption | apply State.fetch_kept | apply Kept.foldl2)
    | simp only [↓Kept.upd_iff]

theorem State.fetchChain_kept {q : List Instr} {s : State} {p : Product} {idx : Nat} (h0 : Kept q s) :
    Kept q (State.fetchChain s p idx).2 := by
  unfold State.fetchChain
  repeat' first
    | (with_reducible first | assumption | apply State.fetchOperand_kept | apply Kept.ite2)
    | simp only [↓Kept.upd_iff]
    | split

theorem State.tileOf_kept {q : List Instr} {s : State} {p : Product} {idx : Nat} {err : List (Nat × Nat)} {a4 : Fetched} (h0 : Kept q s) :
    Kept q (State.tileOf s p idx err a4).2 := by
  unfold State.tileOf
  repeat' first
    | (with_reducible first | assumption | apply State.failWork_kept)
    | simp only [↓Kept.upd_iff]
    | split

theorem State.lendTo_kept {q : List Instr} {s : State} {f : Nat} {part : Nat} (h0 : Kept q s) :
    Kept q (State.lendTo s f part) := by
  unfold State.lendTo
  repeat' first
    | (with_reducible first | assumption | apply State.updTrn_kept | apply Kept.ite)
    | simp only [↓Kept.upd_iff]
    | split

theorem State.lend_kept {q : List Instr} {s : State} (h0 : Kept q s) :
    Kept q (State.lend s) := by
  unfold State.lend
  with_reducible repeat' first | intro _ | assumption | apply State.lendTo_kept | apply Kept.foldl

theorem State.muNext_kept {q : List Instr} {s : State} {u : Nat} (h0 : Kept q s) :
    Kept q (State.muNext s u) := by
  unfold State.muNext
  repeat' first
    | (with_reducible first | assumption | apply State.updMu_kept | apply Kept.ite)
    | split

theorem State.placeAhead_kept {q : List Instr} {s : State} {v : Nat} {j : Job} (h0 : Kept q s) :
    Kept q (State.placeAhead s v j) := by
  unfold State.placeAhead
  with_reducible repeat' first | assumption | apply State.muNext_kept | apply State.updMu_kept

theorem State.updPstore_kept {q : List Instr} {s : State} {f : Nat} {g : List PSlot → List PSlot} (h0 : Kept q s) :
    Kept q (State.updPstore s f g) := by
  unfold State.updPstore
  repeat' first
    | (with_reducible first | assumption)
    | simp only [↓Kept.upd_iff]

theorem State.assign_kept {q : List Instr} {s : State} {i : Nat} {u : Nat} {dr : Nat} (h0 : Kept q s) :
    Kept q (State.assign s i u dr) := by
  unfold State.assign
  repeat' first
    | (with_reducible first
        | assumption | apply State.eventMu_kept | apply State.updMu_kept | apply State.updTrn_kept | apply State.updPstore_kept
        | apply State.placeAhead_kept | apply Kept.ite)
    | simp only [↓Kept.upd_iff]
    | split

theorem execChainAssign_kept {q : List Instr} {i : Nat} {u : Nat} {dr : Nat} {s : State} (h0 : Kept q s) :
    KeptR q (execChainAssign i u dr s) := by
  unfold execChainAssign
  with_reducible repeat' first | assumption | apply onUnit_kept | apply State.assign_kept

theorem State.tileCounts_kept {q : List Instr} {s : State} {u : Nat} {steps : Nat} {c : Cond} {split : Bool} (h0 : Kept q s) :
    Kept q (State.tileCounts s u steps c split) := by
  unfold State.tileCounts
  with_reducible repeat' first | assumption | apply State.setReg_kept | apply State.eventMu_kept | apply State.raiseCond_kept

theorem State.chainCounts_kept {q : List Instr} {s : State} {u : Nat} {p : Product} {idx : Nat} {c : Cond} (h0 : Kept q s) :
    Kept q (State.chainCounts s u p idx c) := by
  unfold State.chainCounts
  with_reducible repeat' first | assumption | apply State.tileCounts_kept

theorem State.mapEntries_kept {q : List Instr} {s : State} {g : TileEnt → TileEnt} (h0 : Kept q s) :
    Kept q (State.mapEntries s g) := by
  unfold State.mapEntries
  repeat' first
    | (with_reducible first | assumption)
    | simp only [↓Kept.upd_iff]

theorem State.dropEntries_kept {q : List Instr} {s : State} {g : Nat → Nat → Bool} (h0 : Kept q s) :
    Kept q (State.dropEntries s g) := by
  unfold State.dropEntries
  repeat' first
    | (with_reducible first | assumption)
    | simp only [↓Kept.upd_iff]

theorem State.fenceMu_kept {q : List Instr} {s : State} {u : Nat} (h0 : Kept q s) :
    Kept q (State.fenceMu s u) := by
  unfold State.fenceMu
  repeat' first
    | (with_reducible first
        | intro _ | assumption | apply State.updMu_kept | apply State.setFld_kept | apply State.placeAhead_kept | apply State.lend_kept
        | apply Kept.foldl)
    | simp only [↓Kept.upd_iff]
    | split

theorem State.retireMu_kept {q : List Instr} {s : State} {p : Nat} (h0 : Kept q s) :
    Kept q (State.retireMu s p) := by
  unfold State.retireMu
  repeat' first
    | (with_reducible first
        | assumption | apply State.setFld_kept | apply State.fenceMu_kept | apply State.raiseFault_kept | apply State.drain_kept
        | apply Kept.ite)
    | simp only [↓Kept.upd_iff]
    | split

theorem State.strike_kept {q : List Instr} {s : State} {p : Nat} (h0 : Kept q s) :
    Kept q (State.strike s p) := by
  unfold State.strike
  repeat' first
    | (with_reducible first
        | assumption | apply State.moduleStrike_kept | apply State.raiseFault_kept | apply State.addLife_kept
        | apply State.threshold_kept | apply State.retireMu_kept | apply Kept.ite)
    | simp only [↓Kept.upd_iff]

theorem State.dropRecount_kept {q : List Instr} {s : State} {r : Recount} (h0 : Kept q s) :
    Kept q (State.dropRecount s r) := by
  unfold State.dropRecount
  repeat' first
    | (with_reducible first | assumption)
    | simp only [↓Kept.upd_iff]

theorem State.releaseEntry_kept {q : List Instr} {s : State} {r : Recount} (h0 : Kept q s) :
    Kept q (State.releaseEntry s r) := by
  unfold State.releaseEntry
  with_reducible repeat' first | assumption | apply State.mapEntries_kept | apply State.dropRecount_kept

theorem State.noMajority_kept {q : List Instr} {s : State} {r : Recount} {p : Product} (h0 : Kept q s) :
    Kept q (State.noMajority s r p) := by
  unfold State.noMajority
  repeat' first
    | (with_reducible first
        | assumption | apply State.dropEntries_kept | apply State.dropRecount_kept | apply State.updTrn_kept
        | apply State.raiseFault_kept | apply State.chainSettle_kept | apply State.updChain_kept | apply State.finishWork_kept
        | apply State.cause_kept | apply Kept.ite)
    | split

theorem State.judge_kept {q : List Instr} {s : State} {r : Recount} (h0 : Kept q s) :
    Kept q (State.judge s r) := by
  unfold State.judge
  repeat' first
    | (with_reducible first
        | assumption | apply State.finishWork_kept | apply State.releaseEntry_kept | apply State.noMajority_kept
        | apply State.placeAhead_kept | apply Kept.ite)
    | simp only [↓Kept.upd_iff]
    | split

theorem State.judgeThird_kept {q : List Instr} {s : State} {r : Recount} {p : Product} {v : Nat} {crc : Nat} (h0 : Kept q s) :
    Kept q (State.judgeThird s r p v crc) := by
  unfold State.judgeThird
  repeat' first
    | (with_reducible first
        | assumption | apply State.finishWork_kept | apply State.releaseEntry_kept | apply State.strike_kept
        | apply State.dropEntries_kept | apply State.dropRecount_kept | apply State.updPstore_kept | apply State.placeAhead_kept
        | apply State.noMajority_kept | apply Kept.ite)
    | simp only [↓Kept.upd_iff]

theorem State.outStall_kept {q : List Instr} {s : State} {u : Nat} (h0 : Kept q s) :
    Kept q (State.outStall s u) := by
  unfold State.outStall
  with_reducible repeat' first | assumption | apply State.eventMu_kept | apply State.raiseCond_kept

theorem State.operandStall_kept {q : List Instr} {s : State} {u : Nat} (h0 : Kept q s) :
    Kept q (State.operandStall s u) := by
  unfold State.operandStall
  repeat' first
    | (with_reducible first
        | assumption | apply State.takeFree_kept | apply State.eventMu_kept | apply State.raiseCond_kept | apply Kept.ite)
    | simp only [↓Kept.upd_iff]

theorem State.chainDone_kept {q : List Instr} {s : State} {u : Nat} {err : List (Nat × Nat)} (h0 : Kept q s) :
    Kept q (State.chainDone s u err) := by
  unfold State.chainDone
  repeat' first
    | (with_reducible first
        | assumption | apply State.outStall_kept | apply State.fetchChain_kept | apply State.tileOf_kept | apply State.eventMu_kept
        | apply State.chainCounts_kept | apply State.operandStall_kept | apply State.updMu_kept | apply State.judge_kept
        | apply State.finishWork_kept | apply State.muNext_kept | apply Kept.ite)
    | simp only [↓Kept.upd_iff]
    | split

theorem execChainComplete_kept {q : List Instr} {u : Nat} {err : List (Nat × Nat)} {s : State} (h0 : Kept q s) :
    KeptR q (execChainComplete u err s) := by
  unfold execChainComplete
  with_reducible repeat' first | assumption | apply onUnit_kept | apply State.chainDone_kept

theorem State.recountDone_kept {q : List Instr} {s : State} {u : Nat} {err : List (Nat × Nat)} (h0 : Kept q s) :
    Kept q (State.recountDone s u err) := by
  unfold State.recountDone
  repeat' first
    | (with_reducible first
        | assumption | apply State.fetchChain_kept | apply State.tileOf_kept | apply State.eventMu_kept | apply State.chainCounts_kept
        | apply State.operandStall_kept | apply State.setFlt_kept | apply State.updMu_kept | apply State.judge_kept
        | apply State.judgeThird_kept | apply State.finishWork_kept | apply State.muNext_kept | apply Kept.ite)
    | simp only [↓Kept.upd_iff]
    | split

theorem execRecountDone_kept {q : List Instr} {u : Nat} {err : List (Nat × Nat)} {s : State} (h0 : Kept q s) :
    KeptR q (execRecountDone u err s) := by
  unfold execRecountDone
  with_reducible repeat' first | assumption | apply onUnit_kept | apply State.recountDone_kept

theorem State.drainTile_kept {q : List Instr} {s : State} {u : Nat} (h0 : Kept q s) :
    Kept q (State.drainTile s u) := by
  unfold State.drainTile
  repeat' first
    | (with_reducible first
        | assumption | apply State.updMu_kept | apply State.updChain_kept | apply State.finishWork_kept | apply State.chainSettle_kept
        | apply State.muNext_kept | apply State.updPstore_kept | apply State.updDrv_kept | apply State.outStall_kept | apply Kept.ite)
    | simp only [↓Kept.upd_iff]
    | split

theorem execTileDrain_kept {q : List Instr} {u : Nat} {s : State} (h0 : Kept q s) :
    KeptR q (execTileDrain u s) := by
  unfold execTileDrain
  with_reducible repeat' first | assumption | apply onUnit_kept | apply State.drainTile_kept | apply Kept.ite

theorem State.setQuiesce_kept {q : List Instr} {s : State} {on : Bool} (h0 : Kept q s) :
    Kept q (State.setQuiesce s on) := by
  unfold State.setQuiesce
  repeat' first
    | (with_reducible first
        | intro _ | assumption | apply State.setFld_kept | apply State.muNext_kept | apply Kept.ite | apply Kept.foldl)
    | simp only [↓Kept.upd_iff]

theorem execMuQuiesce_kept {q : List Instr} {master : Nat} {on : Bool} {s : State} (h0 : Kept q s) :
    KeptR q (execMuQuiesce master on s) := by
  unfold execMuQuiesce
  with_reducible repeat' first | intro _ | assumption | apply KeptR.of | apply State.guardedWrite_kept | apply State.setQuiesce_kept

end Sys2Proof.Machine
end

