-- ==== Sys2Proof/Laws/KeptDroverOps.lean ====
section
/-! SUPPORT. The queue and the memories' canonical form through the operations of Machine/DroverOps.lean. -/

namespace Sys2Proof.Machine

theorem Kx.fail_kept {q : List Instr} {x : Kx} {code : Nat} (h0 : Kept q x.s) :
    Kept q (Kx.fail x code).s := by
  unfold Kx.fail
  repeat' first
    | (with_reducible first | assumption)
    | split

theorem Kx.raise_kept {q : List Instr} {x : Kx} {c : Cond} (h0 : Kept q x.s) :
    Kept q (Kx.raise x c).s := by
  unfold Kx.raise
  assumption

theorem Kx.setS_kept {q : List Instr} {x : Kx} {k : Nat} {v : Nat} (h0 : Kept q x.s) :
    Kept q (Kx.setS x k v).s := by
  unfold Kx.setS
  assumption

theorem Kx.mapV_kept {q : List Instr} {x : Kx} {ty : Nat} {vd : Nat} {pg : Nat} {f : Nat → Nat × Nat} (h0 : Kept q x.s) :
    Kept q (Kx.mapV x ty vd pg f).s := by
  unfold Kx.mapV
  assumption

theorem State.trimImages_kept {q : List Instr} {s : State} (h0 : Kept q s) :
    Kept q (State.trimImages s) := by
  unfold State.trimImages
  repeat' first
    | (with_reducible first | assumption)
    | simp only [↓Kept.upd_iff]
    | simp only [↓Kept.updMem_iff]

theorem State.applyLoads_kept {q : List Instr} {s : State} {e : Nat} (h0 : Kept q s) :
    Kept q (State.applyLoads s e) := by
  unfold State.applyLoads
  with_reducible repeat' first
    | intro _ | assumption | apply State.finishWork_kept | apply State.trimImages_kept | apply State.updDrv_kept | apply Kept.foldl

theorem State.endInv_kept {q : List Instr} {s : State} {e : Nat} {i : Inv} (h0 : Kept q s) :
    Kept q (State.endInv s e i) := by
  unfold State.endInv
  repeat' first
    | (with_reducible first
        | intro _ | assumption | apply State.updDrv_kept | apply State.applyLoads_kept | apply State.setReg_kept
        | apply State.eventDrv_kept | apply Kept.foldl)
    | simp only [↓Kept.upd_iff]

theorem State.retireDrv_kept {q : List Instr} {s : State} {p : Nat} (h0 : Kept q s) :
    Kept q (State.retireDrv s p) := by
  unfold State.retireDrv
  repeat' first
    | (with_reducible first
        | assumption | apply State.updDrv_kept | apply State.raiseFault_kept | apply State.setFld_kept | apply State.drain_kept
        | apply Kept.ite)
    | simp only [↓Kept.upd_iff]
    | split

theorem State.drvFault_kept {q : List Instr} {s : State} {row : Nat} {e : Nat} {n : Nat} (h0 : Kept q s) :
    Kept q (State.drvFault s row e n) := by
  unfold State.drvFault
  repeat' first
    | (with_reducible first | assumption | apply State.threshold_kept | apply State.retireDrv_kept | apply Kept.ite)
    | simp only [↓Kept.upd_iff]

theorem State.kfault_kept {q : List Instr} {s : State} {e : Nat} {i : Inv} {code : Nat} (h0 : Kept q s) :
    Kept q (State.kfault s e i code) := by
  unfold State.kfault
  with_reducible repeat' first
    | assumption | apply State.updDrv_kept | apply State.raiseFault_kept | apply State.eventDrv_kept | apply State.raiseCond_kept
    | apply State.cause_kept | apply State.drvFault_kept | apply State.finishWork_kept | apply State.trimImages_kept
    | apply State.endInv_kept | apply State.failWork_kept | apply Kept.ite

theorem Kx.push_kept {q : List Instr} {x : Kx} {val : Nat} {key : Nat} (h0 : Kept q x.s) :
    Kept q (Kx.push x val key).s := by
  unfold Kx.push
  repeat' first
    | (with_reducible first | assumption | apply State.updDrv_kept)
    | simp only [↓Kept.upd_iff]
    | split

theorem Kx.note_kept {q : List Instr} {x : Kx} (h0 : Kept q x.s) :
    Kept q (Kx.note x).s := by
  unfold Kx.note
  repeat' first
    | (with_reducible first | assumption | apply State.eventDrv_kept | apply State.raiseCond_kept | apply Kept.ite)
    | simp only [↓Kept.upd_iff]

theorem Kx.close_kept {q : List Instr} {x : Kx} (h0 : Kept q x.s) :
    Kept q (Kx.close x) := by
  unfold Kx.close
  repeat' first
    | (with_reducible first
        | assumption | apply State.kfault_kept | apply State.finishWork_kept | apply State.endInv_kept | apply State.updDrv_kept
        | apply Kept.ite)
    | simp only [↓Kept.upd_iff]

theorem State.kstep_kept {q : List Instr} {s : State} {e : Nat} {sel : Nat → Bool} {f : Nat → Kx → Kx} (h0 : Kept q s) (hf : ∀ b0 b1, Kept q b1.s → Kept q (f b0 b1).s) :
    Kept q (State.kstep s e sel f) := by
  unfold State.kstep
  repeat' first
    | (with_reducible first
        | assumption | apply State.kfault_kept | apply Kx.close_kept | apply Kx.note_kept | apply hf | apply Kept.ite)
    | simp only [↓Kept.upd_iff]
    | split

theorem execKernelOp_kept {q : List Instr} {op : Nat} {e : Nat} {f : Nat → Kx → Kx} {s : State} (hf : ∀ b0 b1, Kept q b1.s → Kept q (f b0 b1).s) (h0 : Kept q s) :
    KeptR q (execKernelOp op e f s) := by
  unfold execKernelOp
  with_reducible repeat' first | intro _ | assumption | apply onUnit_kept | apply State.kstep_kept | apply hf

theorem execKernelFn_kept {q : List Instr} {op : Nat} {fn : Nat} {e : Nat} {f : Nat → Kx → Kx} {s : State} (hf : ∀ b0 b1, Kept q b1.s → Kept q (f b0 b1).s) (h0 : Kept q s) :
    KeptR q (execKernelFn op fn e f s) := by
  unfold execKernelFn
  with_reducible repeat' first | intro _ | assumption | apply onUnit_kept | apply State.kstep_kept | apply hf

theorem State.moveLine_kept {q : List Instr} {s : State} {e : Nat} {k : Nat} {line : Nat} (h0 : Kept q s) :
    Kept q (State.moveLine s e k line) := by
  unfold State.moveLine
  repeat' first
    | (with_reducible first
        | assumption | apply State.updDrv_kept | apply State.failWork_kept | apply State.poisonLines_kept | apply State.writeMem_kept
        | apply State.readMem_kept | apply Kept.ite)
    | simp only [↓Kept.upd_iff]
    | split

theorem State.touchLine_kept {q : List Instr} {s : State} {e : Nat} {line : Nat} {write : Bool} (h0 : Kept q s) :
    Kept q (State.touchLine s e line write) := by
  unfold State.touchLine
  repeat' first
    | (with_reducible first
        | intro _ | assumption | apply State.takeFree_kept | apply State.moveLine_kept | apply Kept.ite | apply Kept.foldl)
    | simp only [↓Kept.upd_iff]
    | split

theorem Kx.readLocal_kept {q : List Instr} {x : Kx} {a : Nat} {act : List Nat} (h0 : Kept q x.s) :
    Kept q (Kx.readLocal x a act).2.s := by
  unfold Kx.readLocal
  repeat' first
    | (with_reducible first | intro _ | assumption | apply State.touchLine_kept | apply State.consume_kept | apply Kept.foldl)
    | simp only [↓Kept.upd_iff]
    | split

theorem Kx.writeLocal_kept {q : List Instr} {x : Kx} {a : Nat} {act : List Nat} {val : Nat → Nat} (h0 : Kept q x.s) :
    Kept q (Kx.writeLocal x a act val).s := by
  unfold Kx.writeLocal
  with_reducible repeat' first | intro _ | assumption | apply State.touchLine_kept | apply State.updDrv_kept | apply Kept.foldl

theorem Kx.tileRow_kept {q : List Instr} {x : Kx} {t : Nat} {r : Nat} {act : List Nat} (h0 : Kept q x.s) :
    Kept q (Kx.tileRow x t r act).2.s := by
  unfold Kx.tileRow
  repeat' first
    | (with_reducible first | assumption | apply Kx.readLocal_kept)
    | simp only [↓Kept.upd_iff]
    | split

theorem Kx.setTileRow_kept {q : List Instr} {x : Kx} {t : Nat} {r : Nat} {act : List Nat} {val : Nat → Nat} (h0 : Kept q x.s) :
    Kept q (Kx.setTileRow x t r act val).s := by
  unfold Kx.setTileRow
  repeat' first
    | (with_reducible first | assumption | apply State.updDrv_kept | apply Kx.writeLocal_kept)
    | simp only [↓Kept.upd_iff]
    | split

end Sys2Proof.Machine
end

