-- ==== Sys2Proof/Laws/KeptDroverAlu.lean ====
section
/-! SUPPORT. The queue and the memories' canonical form through the operations of Machine/DroverAlu.lean. -/

namespace Sys2Proof.Machine

theorem kVarith_kept {q : List Instr} {w : Nat} {x : Kx} (h0 : Kept q x.s) :
    Kept q (kVarith w x).s := by
  unfold kVarith
  with_reducible repeat' first | assumption | apply Kx.mapV_kept

theorem execVarith_kept {q : List Instr} {e : Nat} {s : State} (h0 : Kept q s) :
    KeptR q (execVarith e s) := by
  unfold execVarith
  with_reducible repeat' first | intro _ | assumption | apply execKernelOp_kept | apply kVarith_kept

theorem kVfma_kept {q : List Instr} {w : Nat} {x : Kx} (h0 : Kept q x.s) :
    Kept q (kVfma w x).s := by
  unfold kVfma
  with_reducible repeat' first | assumption | apply Kx.mapV_kept

theorem execVfma_kept {q : List Instr} {e : Nat} {s : State} (h0 : Kept q s) :
    KeptR q (execVfma e s) := by
  unfold execVfma
  with_reducible repeat' first | intro _ | assumption | apply execKernelOp_kept | apply kVfma_kept

theorem kVun1_kept {q : List Instr} {w : Nat} {x : Kx} (h0 : Kept q x.s) :
    Kept q (kVun1 w x).s := by
  unfold kVun1
  with_reducible repeat' first | assumption | apply Kx.mapV_kept

theorem execVun1_kept {q : List Instr} {e : Nat} {s : State} (h0 : Kept q s) :
    KeptR q (execVun1 e s) := by
  unfold execVun1
  with_reducible repeat' first | intro _ | assumption | apply execKernelOp_kept | apply kVun1_kept

theorem kVun2_kept {q : List Instr} {w : Nat} {x : Kx} (h0 : Kept q x.s) :
    Kept q (kVun2 w x).s := by
  unfold kVun2
  with_reducible repeat' first | assumption | apply Kx.mapV_kept

theorem execVun2_kept {q : List Instr} {e : Nat} {s : State} (h0 : Kept q s) :
    KeptR q (execVun2 e s) := by
  unfold execVun2
  with_reducible repeat' first | intro _ | assumption | apply execKernelOp_kept | apply kVun2_kept

theorem kVcmp_kept {q : List Instr} {w : Nat} {x : Kx} (h0 : Kept q x.s) :
    Kept q (kVcmp w x).s := by
  unfold kVcmp
  assumption

theorem execVcmp_kept {q : List Instr} {e : Nat} {s : State} (h0 : Kept q s) :
    KeptR q (execVcmp e s) := by
  unfold execVcmp
  with_reducible repeat' first | intro _ | assumption | apply execKernelOp_kept | apply kVcmp_kept

theorem kVsel_kept {q : List Instr} {w : Nat} {x : Kx} (h0 : Kept q x.s) :
    Kept q (kVsel w x).s := by
  unfold kVsel
  with_reducible repeat' first | assumption | apply Kx.mapV_kept

theorem execVsel_kept {q : List Instr} {e : Nat} {s : State} (h0 : Kept q s) :
    KeptR q (execVsel e s) := by
  unfold execVsel
  with_reducible repeat' first | intro _ | assumption | apply execKernelOp_kept | apply kVsel_kept

theorem kVsmx_kept {q : List Instr} {w : Nat} {x : Kx} (h0 : Kept q x.s) :
    Kept q (kVsmx w x).s := by
  unfold kVsmx
  with_reducible repeat' first | assumption | apply Kx.mapV_kept

theorem execVsmxSexp_kept {q : List Instr} {e : Nat} {s : State} (h0 : Kept q s) :
    KeptR q (execVsmxSexp e s) := by
  unfold execVsmxSexp
  with_reducible repeat' first | intro _ | assumption | apply execKernelFn_kept | apply kVsmx_kept

theorem execVsmxSnorm_kept {q : List Instr} {e : Nat} {s : State} (h0 : Kept q s) :
    KeptR q (execVsmxSnorm e s) := by
  unfold execVsmxSnorm
  with_reducible repeat' first | intro _ | assumption | apply execKernelFn_kept | apply kVsmx_kept

theorem kVcvt_kept {q : List Instr} {w : Nat} {x : Kx} (h0 : Kept q x.s) :
    Kept q (kVcvt w x).s := by
  unfold kVcvt
  assumption

theorem execVcvt_kept {q : List Instr} {e : Nat} {s : State} (h0 : Kept q s) :
    KeptR q (execVcvt e s) := by
  unfold execVcvt
  with_reducible repeat' first | intro _ | assumption | apply execKernelOp_kept | apply kVcvt_kept

theorem kBcastBs_kept {q : List Instr} {w : Nat} {x : Kx} (h0 : Kept q x.s) :
    Kept q (kBcastBs w x).s := by
  unfold kBcastBs
  with_reducible repeat' first | assumption | apply Kx.mapV_kept

theorem execVbcastBs_kept {q : List Instr} {e : Nat} {s : State} (h0 : Kept q s) :
    KeptR q (execVbcastBs e s) := by
  unfold execVbcastBs
  with_reducible repeat' first | intro _ | assumption | apply execKernelFn_kept | apply kBcastBs_kept

theorem kBcastBl_kept {q : List Instr} {w : Nat} {x : Kx} (h0 : Kept q x.s) :
    Kept q (kBcastBl w x).s := by
  unfold kBcastBl
  repeat' first
    | (with_reducible first | assumption | apply Kx.mapV_kept)
    | simp only [↓Kept.upd_iff]
    | split

theorem execVbcastBl_kept {q : List Instr} {e : Nat} {s : State} (h0 : Kept q s) :
    KeptR q (execVbcastBl e s) := by
  unfold execVbcastBl
  with_reducible repeat' first | intro _ | assumption | apply execKernelFn_kept | apply kBcastBl_kept

theorem kBcastIota_kept {q : List Instr} {w : Nat} {x : Kx} (h0 : Kept q x.s) :
    Kept q (kBcastIota w x).s := by
  unfold kBcastIota
  with_reducible repeat' first | assumption | apply Kx.mapV_kept

theorem execVbcastIota_kept {q : List Instr} {e : Nat} {s : State} (h0 : Kept q s) :
    KeptR q (execVbcastIota e s) := by
  unfold execVbcastIota
  with_reducible repeat' first | intro _ | assumption | apply execKernelFn_kept | apply kBcastIota_kept

theorem kPermIdx_kept {q : List Instr} {w : Nat} {x : Kx} (h0 : Kept q x.s) :
    Kept q (kPermIdx w x).s := by
  unfold kPermIdx
  with_reducible repeat' first | assumption | apply Kx.mapV_kept

theorem execVpermIdx_kept {q : List Instr} {e : Nat} {s : State} (h0 : Kept q s) :
    KeptR q (execVpermIdx e s) := by
  unfold execVpermIdx
  with_reducible repeat' first | intro _ | assumption | apply execKernelFn_kept | apply kPermIdx_kept

theorem kPermRot_kept {q : List Instr} {w : Nat} {x : Kx} (h0 : Kept q x.s) :
    Kept q (kPermRot w x).s := by
  unfold kPermRot
  with_reducible repeat' first | assumption | apply Kx.mapV_kept

theorem execVpermRot_kept {q : List Instr} {e : Nat} {s : State} (h0 : Kept q s) :
    KeptR q (execVpermRot e s) := by
  unfold execVpermRot
  with_reducible repeat' first | intro _ | assumption | apply execKernelFn_kept | apply kPermRot_kept

theorem kVred_kept {q : List Instr} {w : Nat} {x : Kx} (h0 : Kept q x.s) :
    Kept q (kVred w x).s := by
  unfold kVred
  repeat' first
    | (with_reducible first | assumption | apply Kx.setS_kept | apply Kx.raise_kept)
    | simp only [↓Kept.upd_iff]
    | split

theorem execVred_kept {q : List Instr} {e : Nat} {s : State} (h0 : Kept q s) :
    KeptR q (execVred e s) := by
  unfold execVred
  with_reducible repeat' first | intro _ | assumption | apply execKernelOp_kept | apply kVred_kept

theorem kPred_kept {q : List Instr} {w : Nat} {x : Kx} (h0 : Kept q x.s) :
    Kept q (kPred w x).s := by
  unfold kPred
  repeat' first
    | (with_reducible first | assumption | apply Kx.setS_kept)
    | simp only [↓Kept.upd_iff]
    | split

theorem execPred_kept {q : List Instr} {e : Nat} {s : State} (h0 : Kept q s) :
    KeptR q (execPred e s) := by
  unfold execPred
  with_reducible repeat' first | intro _ | assumption | apply execKernelOp_kept | apply kPred_kept

theorem kSetvl_kept {q : List Instr} {w : Nat} {x : Kx} (h0 : Kept q x.s) :
    Kept q (kSetvl w x).s := by
  unfold kSetvl
  with_reducible repeat' first | assumption | apply Kx.setS_kept

theorem execSetvl_kept {q : List Instr} {e : Nat} {s : State} (h0 : Kept q s) :
    KeptR q (execSetvl e s) := by
  unfold execSetvl
  with_reducible repeat' first | intro _ | assumption | apply execKernelOp_kept | apply kSetvl_kept

theorem kSalu_kept {q : List Instr} {w : Nat} {x : Kx} (h0 : Kept q x.s) :
    Kept q (kSalu w x).s := by
  unfold kSalu
  with_reducible repeat' first | assumption | apply Kx.setS_kept | apply Kx.raise_kept

theorem execSalu_kept {q : List Instr} {e : Nat} {s : State} (h0 : Kept q s) :
    KeptR q (execSalu e s) := by
  unfold execSalu
  with_reducible repeat' first | intro _ | assumption | apply execKernelOp_kept | apply kSalu_kept

theorem kSaddi_kept {q : List Instr} {w : Nat} {x : Kx} (h0 : Kept q x.s) :
    Kept q (kSaddi w x).s := by
  unfold kSaddi
  with_reducible repeat' first | assumption | apply Kx.setS_kept

theorem execSaddi_kept {q : List Instr} {e : Nat} {s : State} (h0 : Kept q s) :
    KeptR q (execSaddi e s) := by
  unfold execSaddi
  with_reducible repeat' first | intro _ | assumption | apply execKernelOp_kept | apply kSaddi_kept

theorem kSli_kept {q : List Instr} {w : Nat} {x : Kx} (h0 : Kept q x.s) :
    Kept q (kSli w x).s := by
  unfold kSli
  with_reducible repeat' first | assumption | apply Kx.setS_kept

theorem execSli_kept {q : List Instr} {e : Nat} {s : State} (h0 : Kept q s) :
    KeptR q (execSli e s) := by
  unfold execSli
  with_reducible repeat' first | intro _ | assumption | apply execKernelOp_kept | apply kSli_kept

theorem kSlane_kept {q : List Instr} {w : Nat} {x : Kx} (h0 : Kept q x.s) :
    Kept q (kSlane w x).s := by
  unfold kSlane
  with_reducible repeat' first | assumption | apply Kx.setS_kept

theorem execSlane_kept {q : List Instr} {e : Nat} {s : State} (h0 : Kept q s) :
    KeptR q (execSlane e s) := by
  unfold execSlane
  with_reducible repeat' first | intro _ | assumption | apply execKernelOp_kept | apply kSlane_kept

theorem kScond_kept {q : List Instr} {w : Nat} {x : Kx} (h0 : Kept q x.s) :
    Kept q (kScond w x).s := by
  unfold kScond
  repeat' first
    | (with_reducible first | assumption | apply Kx.setS_kept)
    | simp only [↓Kept.upd_iff]
    | split

theorem execScond_kept {q : List Instr} {e : Nat} {s : State} (h0 : Kept q s) :
    KeptR q (execScond e s) := by
  unfold execScond
  with_reducible repeat' first | intro _ | assumption | apply execKernelOp_kept | apply kScond_kept

theorem kBr_kept {q : List Instr} {w : Nat} {x : Kx} (h0 : Kept q x.s) :
    Kept q (kBr w x).s := by
  unfold kBr
  repeat' first
    | (with_reducible first | assumption)
    | split

theorem execBr_kept {q : List Instr} {e : Nat} {s : State} (h0 : Kept q s) :
    KeptR q (execBr e s) := by
  unfold execBr
  with_reducible repeat' first | intro _ | assumption | apply execKernelOp_kept | apply kBr_kept

theorem execCtlNop_kept {q : List Instr} {e : Nat} {s : State} (h0 : Kept q s) :
    KeptR q (execCtlNop e s) := by
  unfold execCtlNop
  with_reducible repeat' first | intro _ | assumption | apply execKernelFn_kept

theorem kEnd_kept {q : List Instr} {a0 : Nat} {x : Kx} (h0 : Kept q x.s) :
    Kept q (kEnd a0 x).s := by
  unfold kEnd
  repeat' first
    | (with_reducible first | assumption | apply Kx.push_kept)
    | simp only [↓Kept.upd_iff]
    | split

theorem execCtlEnd_kept {q : List Instr} {e : Nat} {s : State} (h0 : Kept q s) :
    KeptR q (execCtlEnd e s) := by
  unfold execCtlEnd
  with_reducible repeat' first | intro _ | assumption | apply execKernelFn_kept | apply kEnd_kept

theorem execCtlFault_kept {q : List Instr} {e : Nat} {s : State} (h0 : Kept q s) :
    KeptR q (execCtlFault e s) := by
  unfold execCtlFault
  with_reducible repeat' first | intro _ | assumption | apply execKernelFn_kept | apply Kx.fail_kept

theorem execIllegalInstruction_kept {q : List Instr} {e : Nat} {s : State} (h0 : Kept q s) :
    KeptR q (execIllegalInstruction e s) := by
  unfold execIllegalInstruction
  with_reducible repeat' first | intro _ | assumption | apply onUnit_kept | apply State.kstep_kept

end Sys2Proof.Machine
end

