-- ==== Sys2Proof/Laws/KeptDroverMem.lean ====
section
/-! SUPPORT. The queue and the memories' canonical form through the operations of Machine/DroverMem.lean. -/

namespace Sys2Proof.Machine

theorem kVld_kept {q : List Instr} {w : Nat} {x : Kx} (h0 : Kept q x.s) :
    Kept q (kVld w x).s := by
  unfold kVld
  repeat' first
    | (with_reducible first | assumption | apply Kx.fail_kept | apply Kx.readLocal_kept | apply Kx.mapV_kept)
    | simp only [↓Kept.upd_iff]
    | split

theorem execVld_kept {q : List Instr} {e : Nat} {s : State} (h0 : Kept q s) :
    KeptR q (execVld e s) := by
  unfold execVld
  with_reducible repeat' first | intro _ | assumption | apply execKernelOp_kept | apply kVld_kept

theorem kVst_kept {q : List Instr} {w : Nat} {x : Kx} (h0 : Kept q x.s) :
    Kept q (kVst w x).s := by
  unfold kVst
  repeat' first
    | (with_reducible first | assumption | apply Kx.fail_kept | apply Kx.writeLocal_kept)
    | simp only [↓Kept.upd_iff]
    | split

theorem execVst_kept {q : List Instr} {e : Nat} {s : State} (h0 : Kept q s) :
    KeptR q (execVst e s) := by
  unfold execVst
  with_reducible repeat' first | intro _ | assumption | apply execKernelOp_kept | apply kVst_kept

theorem kVldt_kept {q : List Instr} {w : Nat} {x : Kx} (h0 : Kept q x.s) :
    Kept q (kVldt w x).s := by
  unfold kVldt
  repeat' first
    | (with_reducible first | assumption | apply Kx.fail_kept | apply Kx.tileRow_kept | apply Kx.mapV_kept)
    | simp only [↓Kept.upd_iff]
    | split

theorem execVldt_kept {q : List Instr} {e : Nat} {s : State} (h0 : Kept q s) :
    KeptR q (execVldt e s) := by
  unfold execVldt
  with_reducible repeat' first | intro _ | assumption | apply execKernelOp_kept | apply kVldt_kept

theorem kVstt_kept {q : List Instr} {w : Nat} {x : Kx} (h0 : Kept q x.s) :
    Kept q (kVstt w x).s := by
  unfold kVstt
  repeat' first
    | (with_reducible first | assumption | apply Kx.fail_kept | apply Kx.setTileRow_kept)
    | simp only [↓Kept.upd_iff]
    | split

theorem execVstt_kept {q : List Instr} {e : Nat} {s : State} (h0 : Kept q s) :
    KeptR q (execVstt e s) := by
  unfold execVstt
  with_reducible repeat' first | intro _ | assumption | apply execKernelOp_kept | apply kVstt_kept

theorem topRow_kept {q : List Instr} {w : Nat} {va : List Nat} {act : List Nat} {lim : Int} {x : Kx} {r : Nat} (h0 : Kept q x.s) :
    Kept q (topRow w va act lim x r).s := by
  unfold topRow
  with_reducible repeat' first | assumption | apply Kx.tileRow_kept | apply Kx.setTileRow_kept

theorem kTop_kept {q : List Instr} {w : Nat} {x : Kx} (h0 : Kept q x.s) :
    Kept q (kTop w x).s := by
  unfold kTop
  repeat' first
    | (with_reducible first
        | intro _ | assumption | apply Kx.fail_kept | apply topRow_kept | refine Kept.foldlBy (fun p : Kx => p.s) ?_ ?_)
    | simp only [↓Kept.upd_iff]
    | split

theorem execTop_kept {q : List Instr} {e : Nat} {s : State} (h0 : Kept q s) :
    KeptR q (execTop e s) := by
  unfold execTop
  with_reducible repeat' first | intro _ | assumption | apply execKernelOp_kept | apply kTop_kept

theorem kTred_kept {q : List Instr} {w : Nat} {x : Kx} (h0 : Kept q x.s) :
    Kept q (kTred w x).s := by
  unfold kTred
  repeat' first
    | (with_reducible first
        | intro _ | assumption | apply Kx.fail_kept | apply Kx.tileRow_kept | apply Kx.raise_kept | apply Kx.mapV_kept
        | refine Kept.foldlBy (fun p : Kx => p.s) ?_ ?_ | refine Kept.foldlBy (fun p : _ × Kx => p.2.s) ?_ ?_)
    | simp only [↓Kept.upd_iff]
    | split

theorem execTred_kept {q : List Instr} {e : Nat} {s : State} (h0 : Kept q s) :
    KeptR q (execTred e s) := by
  unfold execTred
  with_reducible repeat' first | intro _ | assumption | apply execKernelOp_kept | apply kTred_kept

theorem kXcopy_kept {q : List Instr} {w : Nat} {x : Kx} (h0 : Kept q x.s) :
    Kept q (kXcopy w x).s := by
  unfold kXcopy
  repeat' first
    | (with_reducible first | assumption | apply Kx.fail_kept | apply State.updDrv_kept | apply State.refuse_kept)
    | simp only [↓Kept.upd_iff]
    | split

theorem execXcopy_kept {q : List Instr} {e : Nat} {s : State} (h0 : Kept q s) :
    KeptR q (execXcopy e s) := by
  unfold execXcopy
  with_reducible repeat' first | intro _ | assumption | apply execKernelOp_kept | apply kXcopy_kept

theorem kXwait_kept {q : List Instr} {w : Nat} {x : Kx} (h0 : Kept q x.s) :
    Kept q (kXwait w x).s := by
  unfold kXwait
  repeat' first
    | (with_reducible first | assumption)
    | split

theorem execXwait_kept {q : List Instr} {e : Nat} {s : State} (h0 : Kept q s) :
    KeptR q (execXwait e s) := by
  unfold execXwait
  with_reducible repeat' first | intro _ | assumption | apply execKernelOp_kept | apply kXwait_kept

theorem State.copyDone_kept {q : List Instr} {s : State} {e : Nat} {i : Nat} (h0 : Kept q s) :
    Kept q (State.copyDone s e i) := by
  unfold State.copyDone
  repeat' first
    | (with_reducible first
        | intro _ | assumption | apply State.moveLine_kept | apply State.updDrv_kept | apply Kept.ite | apply Kept.foldl)
    | simp only [↓Kept.upd_iff]
    | split

theorem execCopyEngineDone_kept {q : List Instr} {e : Nat} {i : Nat} {s : State} (h0 : Kept q s) :
    KeptR q (execCopyEngineDone e i s) := by
  unfold execCopyEngineDone
  with_reducible repeat' first | assumption | apply onUnit_kept | apply State.copyDone_kept

theorem Kx.setSlot_kept {q : List Instr} {x : Kx} {k : Nat} {w : Option WSlot} (h0 : Kept q x.s) :
    Kept q (Kx.setSlot x k w).s := by
  unfold Kx.setSlot
  with_reducible repeat' first | assumption | apply State.updDrv_kept

theorem Kx.wrote_kept {q : List Instr} {x : Kx} {k : Nat} {qq : WSlot × WOut} (h0 : Kept q x.s) (h1 : Kept q qq.2.s) :
    Kept q (Kx.wrote x k qq).s := by
  unfold Kx.wrote
  repeat' first
    | (with_reducible first
        | assumption | apply Kx.raise_kept | apply Kx.fail_kept | apply Kx.setSlot_kept | refine Kept.updCells ?_ h0.cells h0.hostCells
        | apply Kept.ite)
    | simp only [↓Kept.upd_iff]
    | split

theorem Kx.closeSlot_kept {q : List Instr} {x : Kx} {k : Nat} (h0 : Kept q x.s) :
    Kept q (Kx.closeSlot x k).s := by
  unfold Kx.closeSlot
  repeat' first
    | (with_reducible first | assumption | apply Kx.wrote_kept | apply WSlot.endRow_kept | apply Kx.push_kept | apply Kx.setSlot_kept)
    | simp only [↓Kept.upd_iff]
    | split

theorem Kx.readBytes_kept {q : List Instr} {x : Kx} {a : Nat} {n : Nat} (h0 : Kept q x.s) :
    Kept q (Kx.readBytes x a n).2.s := by
  unfold Kx.readBytes
  repeat' first
    | (with_reducible first | intro _ | assumption | apply State.touchLine_kept | apply State.consume_kept | apply Kept.foldl)
    | simp only [↓Kept.upd_iff]
    | split

theorem kWrOpen_kept {q : List Instr} {w : Nat} {x : Kx} (h0 : Kept q x.s) :
    Kept q (kWrOpen w x).s := by
  unfold kWrOpen
  repeat' first
    | (with_reducible first
        | assumption | apply Kx.closeSlot_kept | apply Kx.fail_kept | apply Kx.readBytes_kept | apply Kx.setSlot_kept)
    | simp only [↓Kept.upd_iff]
    | split

theorem execWrOpen_kept {q : List Instr} {e : Nat} {s : State} (h0 : Kept q s) :
    KeptR q (execWrOpen e s) := by
  unfold execWrOpen
  with_reducible repeat' first | intro _ | assumption | apply execKernelFn_kept | apply kWrOpen_kept

theorem kWrRow_kept {q : List Instr} {w : Nat} {x : Kx} (h0 : Kept q x.s) :
    Kept q (kWrRow w x).s := by
  unfold kWrRow
  repeat' first
    | (with_reducible first
        | assumption | apply Kx.fail_kept | apply WSlot.endRow_kept | apply Kx.wrote_kept | apply WSlot.putValues_kept)
    | simp only [↓Kept.upd_iff]
    | split

theorem execWrRow_kept {q : List Instr} {e : Nat} {s : State} (h0 : Kept q s) :
    KeptR q (execWrRow e s) := by
  unfold execWrRow
  with_reducible repeat' first | intro _ | assumption | apply execKernelFn_kept | apply kWrRow_kept

theorem kWrClose_kept {q : List Instr} {w : Nat} {x : Kx} (h0 : Kept q x.s) :
    Kept q (kWrClose w x).s := by
  unfold kWrClose
  with_reducible repeat' first | assumption | apply Kx.closeSlot_kept

theorem execWrClose_kept {q : List Instr} {e : Nat} {s : State} (h0 : Kept q s) :
    KeptR q (execWrClose e s) := by
  unfold execWrClose
  with_reducible repeat' first | intro _ | assumption | apply execKernelFn_kept | apply kWrClose_kept

theorem kWrCount_kept {q : List Instr} {sel : WSlot → Nat} {w : Nat} {x : Kx} (h0 : Kept q x.s) :
    Kept q (kWrCount sel w x).s := by
  unfold kWrCount
  repeat' first
    | (with_reducible first | assumption | apply Kx.setS_kept | apply State.takeFree_kept)
    | simp only [↓Kept.upd_iff]
    | split

theorem execWrSatcnt_kept {q : List Instr} {e : Nat} {s : State} (h0 : Kept q s) :
    KeptR q (execWrSatcnt e s) := by
  unfold execWrSatcnt
  with_reducible repeat' first | intro _ | assumption | apply execKernelFn_kept | apply kWrCount_kept

theorem execWrUnfcnt_kept {q : List Instr} {e : Nat} {s : State} (h0 : Kept q s) :
    KeptR q (execWrUnfcnt e s) := by
  unfold execWrUnfcnt
  with_reducible repeat' first | intro _ | assumption | apply execKernelFn_kept | apply kWrCount_kept

theorem voutlSlot_kept {q : List Instr} {sa : Nat} {sb : Nat} {p : List Nat × Kx} {ge : Nat} (h0 : Kept q p.2.s) :
    Kept q (voutlSlot sa sb p ge).2.s := by
  unfold voutlSlot
  repeat' first
    | (with_reducible first
        | intro _ | assumption | apply Kx.fail_kept | apply Kx.readBytes_kept | apply Kx.raise_kept
        | refine Kept.foldlBy (fun p : Kx => p.s) ?_ ?_)
    | simp only [↓Kept.upd_iff]
    | split

theorem kVoutl_kept {q : List Instr} {w : Nat} {x : Kx} (h0 : Kept q x.s) :
    Kept q (kVoutl w x).s := by
  unfold kVoutl
  repeat' first
    | (with_reducible first
        | intro _ | assumption | apply voutlSlot_kept | refine Kept.foldlBy (fun p : Kx => p.s) ?_ ?_
        | refine Kept.foldlBy (fun p : _ × Kx => p.2.s) ?_ ?_)
    | simp only [↓Kept.upd_iff]

theorem execVoutl_kept {q : List Instr} {e : Nat} {s : State} (h0 : Kept q s) :
    KeptR q (execVoutl e s) := by
  unfold execVoutl
  with_reducible repeat' first | intro _ | assumption | apply execKernelOp_kept | apply kVoutl_kept

theorem kSld_kept {q : List Instr} {w : Nat} {x : Kx} (h0 : Kept q x.s) :
    Kept q (kSld w x).s := by
  unfold kSld
  repeat' first
    | (with_reducible first | assumption | apply Kx.fail_kept | apply Kx.readBytes_kept | apply Kx.setS_kept)
    | simp only [↓Kept.upd_iff]
    | split

theorem execSld_kept {q : List Instr} {e : Nat} {s : State} (h0 : Kept q s) :
    KeptR q (execSld e s) := by
  unfold execSld
  with_reducible repeat' first | intro _ | assumption | apply execKernelOp_kept | apply kSld_kept

theorem kSst_kept {q : List Instr} {w : Nat} {x : Kx} (h0 : Kept q x.s) :
    Kept q (kSst w x).s := by
  unfold kSst
  repeat' first
    | (with_reducible first | assumption | apply Kx.fail_kept | apply Kx.writeLocal_kept)
    | simp only [↓Kept.upd_iff]
    | split

theorem execSst_kept {q : List Instr} {e : Nat} {s : State} (h0 : Kept q s) :
    KeptR q (execSst e s) := by
  unfold execSst
  with_reducible repeat' first | intro _ | assumption | apply execKernelOp_kept | apply kSst_kept

theorem kTqHdr_kept {q : List Instr} {w : Nat} {x : Kx} (h0 : Kept q x.s) :
    Kept q (kTqHdr w x).s := by
  unfold kTqHdr
  repeat' first
    | (with_reducible first | assumption | apply Kx.setS_kept | apply State.takeFree_kept)
    | simp only [↓Kept.upd_iff]
    | split

theorem execTqHdr_kept {q : List Instr} {e : Nat} {s : State} (h0 : Kept q s) :
    KeptR q (execTqHdr e s) := by
  unfold execTqHdr
  with_reducible repeat' first | intro _ | assumption | apply execKernelFn_kept | apply kTqHdr_kept

theorem kTqHbind_kept {q : List Instr} {w : Nat} {x : Kx} (h0 : Kept q x.s) :
    Kept q (kTqHbind w x).s := by
  unfold kTqHbind
  repeat' first
    | (with_reducible first | assumption | apply State.updDrv_kept)
    | simp only [↓Kept.upd_iff]
    | split

theorem execTqHbind_kept {q : List Instr} {e : Nat} {s : State} (h0 : Kept q s) :
    KeptR q (execTqHbind e s) := by
  unfold execTqHbind
  with_reducible repeat' first | intro _ | assumption | apply execKernelFn_kept | apply kTqHbind_kept

theorem kTqHdone_kept {q : List Instr} {a0 : Nat} {x : Kx} (h0 : Kept q x.s) :
    Kept q (kTqHdone a0 x).s := by
  unfold kTqHdone
  repeat' first
    | (with_reducible first | assumption | apply State.updDrv_kept)
    | simp only [↓Kept.upd_iff]
    | split

theorem execTqHdone_kept {q : List Instr} {e : Nat} {s : State} (h0 : Kept q s) :
    KeptR q (execTqHdone e s) := by
  unfold execTqHdone
  with_reducible repeat' first | intro _ | assumption | apply execKernelFn_kept | apply kTqHdone_kept

theorem kTqHtake_kept {q : List Instr} {w : Nat} {x : Kx} (h0 : Kept q x.s) :
    Kept q (kTqHtake w x).s := by
  unfold kTqHtake
  repeat' first
    | (with_reducible first | assumption)
    | simp only [↓Kept.upd_iff]
    | split

theorem execTqHtake_kept {q : List Instr} {e : Nat} {s : State} (h0 : Kept q s) :
    KeptR q (execTqHtake e s) := by
  unfold execTqHtake
  with_reducible repeat' first | intro _ | assumption | apply execKernelFn_kept | apply kTqHtake_kept

theorem kTqHrel_kept {q : List Instr} {a0 : Nat} {x : Kx} (h0 : Kept q x.s) :
    Kept q (kTqHrel a0 x).s := by
  unfold kTqHrel
  repeat' first
    | (with_reducible first | assumption | apply State.updDrv_kept)
    | simp only [↓Kept.upd_iff]
    | split

theorem execTqHrel_kept {q : List Instr} {e : Nat} {s : State} (h0 : Kept q s) :
    KeptR q (execTqHrel e s) := by
  unfold execTqHrel
  with_reducible repeat' first | intro _ | assumption | apply execKernelFn_kept | apply kTqHrel_kept

theorem kSpush_kept {q : List Instr} {w : Nat} {x : Kx} (h0 : Kept q x.s) :
    Kept q (kSpush w x).s := by
  unfold kSpush
  repeat' first
    | (with_reducible first | assumption | apply Kx.push_kept)
    | split

theorem execSpush_kept {q : List Instr} {e : Nat} {s : State} (h0 : Kept q s) :
    KeptR q (execSpush e s) := by
  unfold execSpush
  with_reducible repeat' first | intro _ | assumption | apply execKernelOp_kept | apply kSpush_kept

end Sys2Proof.Machine
end

