-- ==== Sys2Proof/Laws/KeptDrover.lean ====
section
/-! SUPPORT. The queue and the memories' canonical form through the operations of Machine/Drover.lean. -/

namespace Sys2Proof.Machine

theorem State.refuseInv_kept {q : List Instr} {s : State} {e : Nat} {src : Nat} {o : Owner} (h0 : Kept q s) :
    Kept q (State.refuseInv s e src o) := by
  unfold State.refuseInv
  with_reducible repeat' first | assumption | apply State.finishWork_kept | apply State.failWork_kept | apply State.updDrv_kept

theorem State.startInv_kept {q : List Instr} {s : State} {e : Nat} {src : Nat} {u : Unit_} {kernel : Nat} {karg : Nat} {args : List Nat} {tile : List Nat} (h0 : Kept q s) :
    Kept q (State.startInv s e src u kernel karg args tile) := by
  unfold State.startInv
  repeat' first
    | (with_reducible first | assumption | apply State.refuseInv_kept | apply State.updDrv_kept)
    | simp only [↓Kept.upd_iff]
    | split

theorem State.startTile_kept {q : List Instr} {s : State} {e : Nat} {src : Nat} {t : TileEnt} (h0 : Kept q s) :
    Kept q (State.startTile s e src t) := by
  unfold State.startTile
  with_reducible repeat' first | assumption | apply State.startInv_kept

theorem State.startArr_kept {q : List Instr} {s : State} {e : Nat} {a : ArrEnt} (h0 : Kept q s) :
    Kept q (State.startArr s e a) := by
  unfold State.startArr
  with_reducible repeat' first | assumption | apply State.startInv_kept

theorem State.startRun_kept {q : List Instr} {s : State} {e : Nat} {r : RunReq} (h0 : Kept q s) :
    Kept q (State.startRun s e r) := by
  unfold State.startRun
  with_reducible repeat' first | assumption | apply State.startInv_kept

theorem State.combine_kept {q : List Instr} {s : State} {e : Nat} {t : TileEnt} (h0 : Kept q s) :
    Kept q (State.combine s e t).2 := by
  unfold State.combine
  repeat' first
    | (with_reducible first | assumption | apply State.raiseCond_kept | apply Kept.ite)
    | simp only [↓Kept.upd_iff]

theorem State.beginWork_kept {q : List Instr} {s : State} {e : Nat} {split : Bool} (h0 : Kept q s) :
    Kept q (State.beginWork s e split) := by
  unfold State.beginWork
  repeat' first
    | (with_reducible first
        | assumption | apply State.combine_kept | apply State.startTile_kept | apply State.startArr_kept | apply State.startRun_kept
        | apply Kept.ite)
    | simp only [↓Kept.upd_iff]
    | split

theorem execInvocationStart_kept {q : List Instr} {e : Nat} {s : State} (h0 : Kept q s) :
    KeptR q (execInvocationStart e s) := by
  unfold execInvocationStart
  with_reducible repeat' first | assumption | apply onUnit_kept | apply State.beginWork_kept

theorem execPartialCombine_kept {q : List Instr} {e : Nat} {s : State} (h0 : Kept q s) :
    KeptR q (execPartialCombine e s) := by
  unfold execPartialCombine
  with_reducible repeat' first | assumption | apply onUnit_kept | apply State.beginWork_kept

theorem execKernelWatchdog_kept {q : List Instr} {e : Nat} {s : State} (h0 : Kept q s) :
    KeptR q (execKernelWatchdog e s) := by
  unfold execKernelWatchdog
  repeat' first
    | (with_reducible first | assumption | apply onUnit_kept | apply State.kfault_kept)
    | split

theorem execHoldWaitExpiry_kept {q : List Instr} {e : Nat} {s : State} (h0 : Kept q s) :
    KeptR q (execHoldWaitExpiry e s) := by
  unfold execHoldWaitExpiry
  repeat' first
    | (with_reducible first | assumption | apply onUnit_kept | apply State.kfault_kept | apply Kept.ite)
    | split

theorem State.drainSummary_kept {q : List Instr} {s : State} {e : Nat} (h0 : Kept q s) :
    Kept q (State.drainSummary s e) := by
  unfold State.drainSummary
  repeat' first
    | (with_reducible first | assumption | apply State.updDrv_kept | apply State.updTrn_kept | apply State.eventF_kept | apply Kept.ite)
    | simp only [↓Kept.upd_iff]
    | split

theorem execSummaryDrain_kept {q : List Instr} {e : Nat} {s : State} (h0 : Kept q s) :
    KeptR q (execSummaryDrain e s) := by
  unfold execSummaryDrain
  with_reducible repeat' first | assumption | apply onUnit_kept | apply State.drainSummary_kept | apply Kept.ite

theorem State.drainAll_kept {q : List Instr} {s : State} (h0 : Kept q s) :
    Kept q (State.drainAll s) := by
  unfold State.drainAll
  with_reducible repeat' first | intro _ | assumption | apply State.drainSummary_kept | apply Kept.foldl

theorem execDrvQuiesce_kept {q : List Instr} {master : Nat} {on : Bool} {s : State} (h0 : Kept q s) :
    KeptR q (execDrvQuiesce master on s) := by
  unfold execDrvQuiesce
  with_reducible repeat' first | intro _ | assumption | apply KeptR.of | apply State.guardedWrite_kept | apply State.setFld_kept

end Sys2Proof.Machine
end

