-- ==== Sys2Proof/Laws/KeptKernels.lean ====
section
/-! SUPPORT. The queue and the memories' canonical form through the operations of Machine/Kernels.lean. -/

namespace Sys2Proof.Machine

theorem State.keepImage_kept {q : List Instr} {s : State} {f : Nat} {id : Nat} {code : List Nat} (h0 : Kept q s) :
    Kept q (State.keepImage s f id code) := by
  unfold State.keepImage
  repeat' first
    | (with_reducible first | assumption | apply State.writeMem_kept)
    | simp only [↓Kept.upd_iff]
    | simp only [↓Kept.updMem_iff]
    | split

theorem State.readImage_kept {q : List Instr} {s : State} {c : Nat} {d : Desc} (h0 : Kept q s) :
    Kept q (State.readImage s c d).2 := by
  unfold State.readImage
  repeat' first
    | (with_reducible first | assumption | apply State.readRecord_kept | apply Kept.ite2)
    | simp only [↓Kept.upd_iff]
    | split

theorem State.loadEngine_kept {q : List Instr} {s : State} {e : Nat} {l : PLoad} (h0 : Kept q s) :
    Kept q (State.loadEngine s e l) := by
  unfold State.loadEngine
  with_reducible repeat' first | assumption | apply State.updDrv_kept

theorem State.keepImages_kept {q : List Instr} {s : State} {es : List Nat} {k : KImage} (h0 : Kept q s) :
    Kept q (State.keepImages s es k) := by
  unfold State.keepImages
  with_reducible repeat' first | intro _ | assumption | apply State.keepImage_kept | apply State.trimImages_kept | apply Kept.foldl

theorem State.runKernel_kept {q : List Instr} {s : State} {c : Nat} {d : Desc} {es : List Nat} (h0 : Kept q s) :
    Kept q (State.runKernel s c d es) := by
  unfold State.runKernel
  repeat' first
    | (with_reducible first
        | intro _ | assumption | apply State.complete_kept | apply State.updDrv_kept | apply State.addWork_kept | apply Kept.ite
        | apply Kept.foldl)
    | simp only [↓Kept.upd_iff]

theorem State.loadKernel_kept {q : List Instr} {s : State} {run : Bool} {c : Nat} {d : Desc} (h0 : Kept q s) :
    Kept q (State.loadKernel s run c d) := by
  unfold State.loadKernel
  repeat' first
    | (with_reducible first
        | intro _ | assumption | apply State.complete_kept | apply State.readImage_kept | apply State.loadEngine_kept
        | apply State.addWork_kept | apply State.finishWork_kept | apply State.keepImages_kept | apply Kept.ite | apply Kept.foldl)
    | simp only [↓Kept.upd_iff]
    | split

theorem State.unloadKernel_kept {q : List Instr} {s : State} {c : Nat} {d : Desc} (h0 : Kept q s) :
    Kept q (State.unloadKernel s c d) := by
  unfold State.unloadKernel
  with_reducible repeat' first
    | intro _ | assumption | apply State.complete_kept | apply State.trimImages_kept | apply State.updDrv_kept | apply Kept.foldl

theorem State.runKop_kept {q : List Instr} {s : State} {c : Nat} {n : Nat} {op : Nat} {f : Desc → State → State} (h0 : Kept q s) (hf : ∀ b0 b1, Kept q b1 → Kept q (f b0 b1)) :
    Kept q (State.runKop s c n op f) := by
  unfold State.runKop
  with_reducible repeat' first | intro _ | assumption | apply State.runDesc_kept | apply hf | apply Kept.ite

theorem execVecKernelLoad_kept {q : List Instr} {c : Nat} {n : Nat} {s : State} (h0 : Kept q s) :
    KeptR q (execVecKernelLoad c n s) := by
  unfold execVecKernelLoad
  with_reducible repeat' first | intro _ | assumption | apply onUnit_kept | apply State.runKop_kept | apply State.loadKernel_kept

theorem execVecKernelRun_kept {q : List Instr} {c : Nat} {n : Nat} {s : State} (h0 : Kept q s) :
    KeptR q (execVecKernelRun c n s) := by
  unfold execVecKernelRun
  with_reducible repeat' first
    | intro _ | assumption | apply onUnit_kept | apply State.runKop_kept | apply State.complete_kept | apply State.runKernel_kept
    | apply Kept.ite

theorem execVecKernelUnload_kept {q : List Instr} {c : Nat} {n : Nat} {s : State} (h0 : Kept q s) :
    KeptR q (execVecKernelUnload c n s) := by
  unfold execVecKernelUnload
  with_reducible repeat' first | intro _ | assumption | apply onUnit_kept | apply State.runKop_kept | apply State.unloadKernel_kept

theorem execVecKernelLoadRun_kept {q : List Instr} {c : Nat} {n : Nat} {s : State} (h0 : Kept q s) :
    KeptR q (execVecKernelLoadRun c n s) := by
  unfold execVecKernelLoadRun
  with_reducible repeat' first | intro _ | assumption | apply onUnit_kept | apply State.runKop_kept | apply State.loadKernel_kept

end Sys2Proof.Machine
end

