-- ==== Sys2Proof/Laws/KeptLinks.lean ====
section
/-! SUPPORT. The queue and the memories' canonical form through the operations of Machine/Links.lean. -/

namespace Sys2Proof.Machine

theorem State.updFab_kept {q : List Instr} {s : State} {f : Fab → Fab} (h0 : Kept q s) :
    Kept q (State.updFab s f) := by
  unfold State.updFab
  repeat' first
    | (with_reducible first | assumption)
    | simp only [↓Kept.upd_iff]

theorem State.updPort__kept {q : List Instr} {s : State} {p : Nat} {f : Lport → Lport} (h0 : Kept q s) :
    Kept q (State.updPort_ s p f) := by
  unfold State.updPort_
  with_reducible repeat' first | assumption | apply State.updFab_kept

theorem State.setPstate_kept {q : List Instr} {s : State} {p : Nat} {st : Nat} (h0 : Kept q s) :
    Kept q (State.setPstate s p st) := by
  unfold State.setPstate
  with_reducible repeat' first | assumption | apply State.setFld_kept

theorem State.eventPort_kept {q : List Instr} {s : State} {p : Nat} {src : Nat} {n : Nat} (h0 : Kept q s) :
    Kept q (State.eventPort s p src n) := by
  unfold State.eventPort
  with_reducible repeat' first | assumption | apply State.eventF_kept

theorem State.stopStream_kept {q : List Instr} {s : State} {o : Owner} (h0 : Kept q s) :
    Kept q (State.stopStream s o) := by
  unfold State.stopStream
  with_reducible repeat' first
    | assumption | apply State.updFab_kept | apply State.updTrn_kept | apply State.finishWork_kept | apply State.failWork_kept

theorem State.leavePort_kept {q : List Instr} {s : State} {p : Nat} (h0 : Kept q s) :
    Kept q (State.leavePort s p) := by
  unfold State.leavePort
  with_reducible repeat' first | intro _ | assumption | apply State.stopStream_kept | apply Kept.foldl

theorem State.discardFrames_kept {q : List Instr} {s : State} {p : Nat} (h0 : Kept q s) :
    Kept q (State.discardFrames s p) := by
  unfold State.discardFrames
  with_reducible repeat' first | assumption | apply State.eventPort_kept | apply State.updPort__kept | apply State.leavePort_kept

theorem State.owe_kept {q : List Instr} {s : State} {p : Nat} {v : Nat} (h0 : Kept q s) :
    Kept q (State.owe s p v) := by
  unfold State.owe
  with_reducible repeat' first | assumption | apply State.updPort__kept

theorem State.startDetect_kept {q : List Instr} {s : State} {p : Nat} (h0 : Kept q s) :
    Kept q (State.startDetect s p) := by
  unfold State.startDetect
  repeat' first
    | (with_reducible first
        | assumption | apply State.owe_kept | apply State.discardFrames_kept | apply State.updPort__kept | apply State.clrBit_kept
        | apply State.setReg_kept | apply Kept.ite)
    | simp only [↓Kept.upd_iff]

theorem State.portDown_kept {q : List Instr} {s : State} {p : Nat} (h0 : Kept q s) :
    Kept q (State.portDown s p) := by
  unfold State.portDown
  with_reducible repeat' first | assumption | apply State.setReg_kept | apply State.discardFrames_kept | apply State.raiseFault_kept

theorem State.settlePort_kept {q : List Instr} {s : State} {p : Nat} (h0 : Kept q s) :
    Kept q (State.settlePort s p) := by
  unfold State.settlePort
  repeat' first
    | (with_reducible first
        | assumption | apply State.startDetect_kept | apply State.setPstate_kept | apply State.setReg_kept
        | apply State.discardFrames_kept | apply Kept.ite)
    | simp only [↓Kept.upd_iff]

theorem State.signalDetect_kept {q : List Instr} {s : State} {p : Nat} {lanes : Nat} (h0 : Kept q s) :
    Kept q (State.signalDetect s p lanes) := by
  unfold State.signalDetect
  repeat' first
    | (with_reducible first
        | assumption | apply State.updPort__kept | apply State.startDetect_kept | apply State.setPstate_kept | apply Kept.ite)
    | simp only [↓Kept.upd_iff]

theorem execSignalDetect_kept {q : List Instr} {p : Nat} {lanes : Nat} {s : State} (h0 : Kept q s) :
    KeptR q (execSignalDetect p lanes s) := by
  unfold execSignalDetect
  with_reducible repeat' first | assumption | apply onUnit_kept | apply State.signalDetect_kept

theorem State.recover_kept {q : List Instr} {s : State} {p : Nat} (h0 : Kept q s) :
    Kept q (State.recover s p) := by
  unfold State.recover
  with_reducible repeat' first
    | assumption | apply State.owe_kept | apply State.satAdd_kept | apply State.setPstate_kept | apply State.leavePort_kept
    | apply Kept.ite

theorem State.retireLane_kept {q : List Instr} {s : State} {p : Nat} {i : Nat} (h0 : Kept q s) :
    Kept q (State.retireLane s p i) := by
  unfold State.retireLane
  repeat' first
    | (with_reducible first
        | assumption | apply State.raiseFault_kept | apply State.setBit_kept | apply State.recover_kept | apply Kept.ite)
    | simp only [↓Kept.upd_iff]

theorem State.trainFail_kept {q : List Instr} {s : State} {p : Nat} {i : Nat} (h0 : Kept q s) :
    Kept q (State.trainFail s p i) := by
  unfold State.trainFail
  with_reducible repeat' first | assumption | apply State.retireLane_kept | apply State.setBit_kept | apply Kept.ite

theorem State.failAttempt_kept {q : List Instr} {s : State} {p : Nat} (h0 : Kept q s) :
    Kept q (State.failAttempt s p) := by
  unfold State.failAttempt
  with_reducible repeat' first | assumption | apply State.portDown_kept | apply State.updPort__kept | apply Kept.ite

theorem State.trained_kept {q : List Instr} {s : State} {p : Nat} {ok : Nat} {peer : List Nat} {timeout : Bool} (h0 : Kept q s) :
    Kept q (State.trained s p ok peer timeout) := by
  unfold State.trained
  repeat' first
    | (with_reducible first
        | intro _ | assumption | apply State.clrBit_kept | apply State.setFld_kept | apply State.trainFail_kept
        | apply State.updPort__kept | apply State.setPstate_kept | apply State.failAttempt_kept | apply Kept.ite | apply Kept.foldl)
    | simp only [↓Kept.upd_iff]

theorem execTrainDone_kept {q : List Instr} {p : Nat} {peer : List Nat} {s : State} (h0 : Kept q s) :
    KeptR q (execTrainDone p peer s) := by
  unfold execTrainDone
  with_reducible repeat' first | assumption | apply onUnit_kept | apply State.trained_kept

theorem execTrainTimeout_kept {q : List Instr} {p : Nat} {ok : Nat} {peer : List Nat} {s : State} (h0 : Kept q s) :
    KeptR q (execTrainTimeout p ok peer s) := by
  unfold execTrainTimeout
  with_reducible repeat' first | assumption | apply onUnit_kept | apply State.trained_kept

theorem State.align_kept {q : List Instr} {s : State} {p : Nat} {mask : Nat} (h0 : Kept q s) :
    KeptO q (State.align s p mask) := by
  unfold State.align
  repeat' first
    | (with_reducible first
        | assumption | apply KeptO.none | apply KeptO.of | apply State.setFld_kept | apply State.updPort__kept | apply KeptO.ite)
    | simp only [↓Kept.upd_iff]

theorem State.alignMask_kept {q : List Instr} {s : State} {p : Nat} {mask : Nat} {skew : Nat} (h0 : Kept q s) :
    Kept q (State.alignMask s p mask skew) := by
  unfold State.alignMask
  repeat' first
    | (with_reducible first
        | intro _ | assumption | apply State.updPort__kept | apply State.trainFail_kept | apply State.align_kept
        | apply State.portDown_kept | apply State.setPstate_kept | apply Kept.ite | apply Kept.foldl
        | refine Kept.some (by assumption) ?_)
    | simp only [↓Kept.upd_iff]
    | split

theorem execAlignMask_kept {q : List Instr} {p : Nat} {mask : Nat} {skew : Nat} {s : State} (h0 : Kept q s) :
    KeptR q (execAlignMask p mask skew s) := by
  unfold execAlignMask
  with_reducible repeat' first | assumption | apply onUnit_kept | apply State.alignMask_kept

theorem State.bringTimeout_kept {q : List Instr} {s : State} {p : Nat} {st : Nat} (h0 : Kept q s) :
    Kept q (State.bringTimeout s p st) := by
  unfold State.bringTimeout
  with_reducible repeat' first | assumption | apply State.failAttempt_kept | apply Kept.ite

theorem execAlignTimeout_kept {q : List Instr} {p : Nat} {s : State} (h0 : Kept q s) :
    KeptR q (execAlignTimeout p s) := by
  unfold execAlignTimeout
  with_reducible repeat' first | assumption | apply onUnit_kept | apply State.bringTimeout_kept

theorem execIdentTimeout_kept {q : List Instr} {p : Nat} {s : State} (h0 : Kept q s) :
    KeptR q (execIdentTimeout p s) := by
  unfold execIdentTimeout
  with_reducible repeat' first | assumption | apply onUnit_kept | apply State.bringTimeout_kept

theorem State.bringRetry_kept {q : List Instr} {s : State} {p : Nat} (h0 : Kept q s) :
    Kept q (State.bringRetry s p) := by
  unfold State.bringRetry
  with_reducible repeat' first | assumption | apply State.startDetect_kept | apply Kept.ite

theorem execBringupRetry_kept {q : List Instr} {p : Nat} {s : State} (h0 : Kept q s) :
    KeptR q (execBringupRetry p s) := by
  unfold execBringupRetry
  with_reducible repeat' first | assumption | apply onUnit_kept | apply State.bringRetry_kept

theorem State.putFrame_kept {q : List Instr} {s : State} {p : Nat} {seq : Nat} {type : Nat} {nak : Bool} {payload : List Sys2Proof.Byte} (h0 : Kept q s) :
    Kept q (State.putFrame s p seq type nak payload) := by
  unfold State.putFrame
  with_reducible repeat' first | assumption | apply State.emit_kept

theorem execIdentitySend_kept {q : List Instr} {p : Nat} {s : State} (h0 : Kept q s) :
    KeptR q (execIdentitySend p s) := by
  unfold execIdentitySend
  with_reducible repeat' first | assumption | apply onUnit_kept | apply State.putFrame_kept | apply Kept.ite

theorem State.identCheck_kept {q : List Instr} {s : State} {p : Nat} {r : List Sys2Proof.Byte} (h0 : Kept q s) :
    Kept q (State.identCheck s p r) := by
  unfold State.identCheck
  repeat' first
    | (with_reducible first
        | assumption | apply State.setFld_kept | apply State.updPort__kept | apply State.updFab_kept | apply State.setPstate_kept
        | apply State.raiseFault_kept | apply State.leavePort_kept | apply Kept.ite)
    | simp only [↓Kept.upd_iff]

theorem State.keepRecord_kept {q : List Instr} {s : State} {p : Nat} {r : List Sys2Proof.Byte} (h0 : Kept q s) :
    Kept q (State.keepRecord s p r) := by
  unfold State.keepRecord
  repeat' first
    | (with_reducible first
        | assumption | apply State.setReg_kept | apply State.updPort__kept | apply State.raiseFault_kept | apply State.setBit_kept
        | apply Kept.ite)
    | simp only [↓Kept.upd_iff]

theorem State.identRecord_kept {q : List Instr} {s : State} {p : Nat} {r : List Sys2Proof.Byte} (h0 : Kept q s) :
    Kept q (State.identRecord s p r) := by
  unfold State.identRecord
  repeat' first
    | (with_reducible first | assumption | apply State.keepRecord_kept | apply State.identCheck_kept | apply Kept.ite)
    | simp only [↓Kept.upd_iff]

theorem execIdentityRecord_kept {q : List Instr} {p : Nat} {r : List Sys2Proof.Byte} {s : State} (h0 : Kept q s) :
    KeptR q (execIdentityRecord p r s) := by
  unfold execIdentityRecord
  with_reducible repeat' first | assumption | apply onUnit_kept | apply State.identRecord_kept

theorem State.portsCommit_kept {q : List Instr} {s : State} (h0 : Kept q s) :
    Kept q (State.portsCommit s) := by
  unfold State.portsCommit
  repeat' first
    | (with_reducible first
        | intro _ | assumption | apply State.settlePort_kept | apply State.identCheck_kept | apply Kept.ite | apply Kept.foldl)
    | simp only [↓Kept.upd_iff]
    | split

theorem State.retrain_kept {q : List Instr} {s : State} {p : Nat} (h0 : Kept q s) :
    Kept q (State.retrain s p) := by
  unfold State.retrain
  with_reducible repeat' first | assumption | apply State.startDetect_kept | apply State.updPort__kept | apply Kept.ite

theorem execPortRetrain_kept {q : List Instr} {master : Nat} {p : Nat} {s : State} (h0 : Kept q s) :
    KeptR q (execPortRetrain master p s) := by
  unfold execPortRetrain
  with_reducible repeat' first | intro _ | assumption | apply onUnit_kept | apply State.guardedWrite_kept | apply State.retrain_kept

theorem execPortLaneClr_kept {q : List Instr} {master : Nat} {p : Nat} {s : State} (h0 : Kept q s) :
    KeptR q (execPortLaneClr master p s) := by
  unfold execPortLaneClr
  with_reducible repeat' first
    | intro _ | assumption | apply onUnit_kept | apply State.guardedWrite_kept | apply State.retrain_kept | apply State.clrBit_kept
    | apply Kept.foldl

theorem State.resendAll_kept {q : List Instr} {s : State} {p : Nat} (h0 : Kept q s) :
    Kept q (State.resendAll s p) := by
  unfold State.resendAll
  with_reducible repeat' first | intro _ | assumption | apply State.putFrame_kept | apply Kept.foldl

theorem State.replay_kept {q : List Instr} {s : State} {p : Nat} (h0 : Kept q s) :
    Kept q (State.replay s p) := by
  unfold State.replay
  repeat' first
    | (with_reducible first
        | assumption | apply State.eventPort_kept | apply State.satAdd_kept | apply State.updPort__kept | apply State.resendAll_kept
        | apply State.recover_kept | apply Kept.ite)
    | simp only [↓Kept.upd_iff]

theorem execAckTimeout_kept {q : List Instr} {p : Nat} {s : State} (h0 : Kept q s) :
    KeptR q (execAckTimeout p s) := by
  unfold execAckTimeout
  with_reducible repeat' first | assumption | apply onUnit_kept | apply State.replay_kept | apply Kept.ite

theorem execNakResendTimeout_kept {q : List Instr} {p : Nat} {s : State} (h0 : Kept q s) :
    KeptR q (execNakResendTimeout p s) := by
  unfold execNakResendTimeout
  with_reducible repeat' first | assumption | apply onUnit_kept | apply State.putFrame_kept | apply Kept.ite

theorem State.acceptFrame_kept {q : List Instr} {s : State} {p : Nat} {payload : List Sys2Proof.Byte} (h0 : Kept q s) :
    Kept q (State.acceptFrame s p payload) := by
  unfold State.acceptFrame
  with_reducible repeat' first | assumption | apply State.eventPort_kept | apply State.updPort__kept

theorem State.takeAck_kept {q : List Instr} {s : State} {p : Nat} {ack : Nat} {nak : Bool} (h0 : Kept q s) :
    Kept q (State.takeAck s p ack nak) := by
  unfold State.takeAck
  repeat' first
    | (with_reducible first | assumption | apply State.updPort__kept | apply State.replay_kept | apply Kept.ite)
    | simp only [↓Kept.upd_iff]

theorem State.countSymbols_kept {q : List Instr} {s : State} {p : Nat} {fixed : List Nat} (h0 : Kept q s) :
    Kept q (State.countSymbols s p fixed) := by
  unfold State.countSymbols
  repeat' first
    | (with_reducible first
        | intro _ | assumption | apply State.updPort__kept | apply State.threshold_kept | apply State.eventPort_kept
        | apply State.satAdd_kept | apply State.retireLane_kept | apply Kept.ite | apply Kept.foldl)
    | simp only [↓Kept.upd_iff]
    | split

theorem State.frameError_kept {q : List Instr} {s : State} {p : Nat} (h0 : Kept q s) :
    Kept q (State.frameError s p) := by
  unfold State.frameError
  repeat' first
    | (with_reducible first
        | assumption | apply State.threshold_kept | apply State.eventPort_kept | apply State.portDown_kept
        | apply State.startDetect_kept | apply Kept.ite)
    | simp only [↓Kept.upd_iff]

theorem State.sendNak_kept {q : List Instr} {s : State} {p : Nat} (h0 : Kept q s) :
    Kept q (State.sendNak s p) := by
  unfold State.sendNak
  with_reducible repeat' first | assumption | apply State.putFrame_kept | apply State.updPort__kept | apply Kept.ite

theorem State.frameIn_kept {q : List Instr} {s : State} {p : Nat} {bs : List Sys2Proof.Byte} (h0 : Kept q s) :
    Kept q (State.frameIn s p bs) := by
  unfold State.frameIn
  repeat' first
    | (with_reducible first
        | assumption | apply State.frameError_kept | apply State.updPort__kept | apply State.sendNak_kept
        | apply State.countSymbols_kept | apply State.takeAck_kept | apply State.putFrame_kept | apply State.acceptFrame_kept
        | apply Kept.ite)
    | simp only [↓Kept.upd_iff]
    | split

theorem State.sendFrames_kept {q : List Instr} {s : State} {p : Nat} {bs : List Sys2Proof.Byte} (h0 : Kept q s) :
    Kept q (State.sendFrames s p bs) := by
  unfold State.sendFrames
  repeat' first
    | (with_reducible first
        | intro _ | assumption | apply State.eventPort_kept | apply State.putFrame_kept | apply State.updPort__kept | apply Kept.foldl)
    | simp only [↓Kept.upd_iff]

theorem State.pumpPort_kept {q : List Instr} {s : State} {p : Nat} {a2 : Nat} (h0 : Kept q s) :
    Kept q (State.pumpPort s p a2) := by
  induction a2 generalizing s p with
  | zero =>
    unfold State.pumpPort
    repeat' first
      | (with_reducible first
          | assumption | apply State.sendFrames_kept | apply State.eventPort_kept | apply State.updPort__kept | apply Kept.ite)
      | simp only [↓Kept.upd_iff]
      | split
  | succ n ih =>
    unfold State.pumpPort
    repeat' first
      | (with_reducible first
          | apply ih | assumption | apply State.sendFrames_kept | apply State.eventPort_kept | apply State.updPort__kept
          | apply Kept.ite)
      | simp only [↓Kept.upd_iff]
      | split

theorem State.queuePacket_kept {q : List Instr} {s : State} {p : Nat} {qq : List Sys2Proof.Byte} (h0 : Kept q s) :
    Kept q (State.queuePacket s p qq) := by
  unfold State.queuePacket
  with_reducible repeat' first | assumption | apply State.pumpPort_kept | apply State.updPort__kept

theorem State.pumpAll_kept {q : List Instr} {s : State} {p : Nat} (h0 : Kept q s) :
    Kept q (State.pumpAll s p) := by
  unfold State.pumpAll
  with_reducible repeat' first | assumption | apply State.pumpPort_kept

theorem execFrameReceive_kept {q : List Instr} {p : Nat} {bs : List Sys2Proof.Byte} {s : State} (h0 : Kept q s) :
    KeptR q (execFrameReceive p bs s) := by
  unfold execFrameReceive
  with_reducible repeat' first | assumption | apply onUnit_kept | apply State.pumpAll_kept | apply State.frameIn_kept

theorem State.recovered_kept {q : List Instr} {s : State} {p : Nat} {mask : Nat} (h0 : Kept q s) :
    Kept q (State.recovered s p mask) := by
  unfold State.recovered
  repeat' first
    | (with_reducible first
        | assumption | apply State.align_kept | apply State.portDown_kept | apply State.setPstate_kept | apply State.pumpAll_kept
        | apply State.resendAll_kept | apply State.updPort__kept | apply Kept.ite | refine Kept.some (by assumption) ?_)
    | simp only [↓Kept.upd_iff]
    | split

theorem execRecoverDone_kept {q : List Instr} {p : Nat} {mask : Nat} {s : State} (h0 : Kept q s) :
    KeptR q (execRecoverDone p mask s) := by
  unfold execRecoverDone
  with_reducible repeat' first | assumption | apply onUnit_kept | apply State.recovered_kept

theorem execRecoverTimeout_kept {q : List Instr} {p : Nat} {s : State} (h0 : Kept q s) :
    KeptR q (execRecoverTimeout p s) := by
  unfold execRecoverTimeout
  with_reducible repeat' first | assumption | apply onUnit_kept | apply State.startDetect_kept | apply Kept.ite

theorem execSkipSend_kept {q : List Instr} {p : Nat} {s : State} (h0 : Kept q s) :
    KeptR q (execSkipSend p s) := by
  unfold execSkipSend
  with_reducible repeat' first | assumption | apply onUnit_kept | apply State.emit_kept | apply Kept.ite

theorem State.lossOfSignal_kept {q : List Instr} {s : State} {p : Nat} {lanes : Nat} (h0 : Kept q s) :
    Kept q (State.lossOfSignal s p lanes) := by
  unfold State.lossOfSignal
  repeat' first
    | (with_reducible first
        | intro _ | assumption | apply State.updPort__kept | apply State.retireLane_kept | apply State.portDown_kept
        | apply State.startDetect_kept | apply State.satAdd_kept | apply Kept.ite | apply Kept.foldl)
    | simp only [↓Kept.upd_iff]

theorem execLossOfSignal_kept {q : List Instr} {p : Nat} {lanes : Nat} {s : State} (h0 : Kept q s) :
    KeptR q (execLossOfSignal p lanes s) := by
  unfold execLossOfSignal
  with_reducible repeat' first | assumption | apply onUnit_kept | apply State.lossOfSignal_kept

theorem State.fenceIn_kept {q : List Instr} {s : State} {p : Nat} (h0 : Kept q s) :
    Kept q (State.fenceIn s p) := by
  unfold State.fenceIn
  repeat' first
    | (with_reducible first
        | assumption | apply State.updPort__kept | apply State.eventPort_kept | apply State.discardFrames_kept | apply State.setReg_kept
        | apply Kept.ite)
    | simp only [↓Kept.upd_iff]

theorem execFenceReceive_kept {q : List Instr} {p : Nat} {s : State} (h0 : Kept q s) :
    KeptR q (execFenceReceive p s) := by
  unfold execFenceReceive
  with_reducible repeat' first | assumption | apply onUnit_kept | apply State.fenceIn_kept

theorem State.fencePorts_kept {q : List Instr} {s : State} (h0 : Kept q s) :
    Kept q (State.fencePorts s) := by
  unfold State.fencePorts
  repeat' first
    | (with_reducible first
        | intro _ | assumption | apply State.emit_kept | apply State.setReg_kept | apply State.updPort__kept | apply Kept.ite
        | apply Kept.foldl)
    | simp only [↓Kept.upd_iff]

theorem State.sendFences_kept {q : List Instr} {s : State} (h0 : Kept q s) :
    Kept q (State.sendFences s) := by
  unfold State.sendFences
  repeat' first
    | (with_reducible first | intro _ | assumption | apply State.emit_kept | apply Kept.ite | apply Kept.foldl)
    | simp only [↓Kept.upd_iff]

theorem State.unfencePorts_kept {q : List Instr} {s : State} (h0 : Kept q s) :
    Kept q (State.unfencePorts s) := by
  unfold State.unfencePorts
  with_reducible repeat' first
    | intro _ | assumption | apply State.startDetect_kept | apply State.updPort__kept | apply State.setPstate_kept | apply Kept.ite
    | apply Kept.foldl

theorem State.linkResume_kept {q : List Instr} {s : State} {f : Nat} (h0 : Kept q s) :
    Kept q (State.linkResume s f) := by
  unfold State.linkResume
  repeat' first
    | (with_reducible first
        | intro _ | assumption | apply State.updPort__kept | apply State.startDetect_kept | apply State.recover_kept
        | apply State.signalDetect_kept | apply State.settlePort_kept | apply Kept.ite | apply Kept.foldl)
    | simp only [↓Kept.upd_iff]

end Sys2Proof.Machine
end

