-- ==== Sys2Proof/Laws/KeptFabBase.lean ====
section
/-! SUPPORT. The queue and the memories' canonical form through the operations of Machine/FabBase.lean. -/

namespace Sys2Proof.Machine

theorem State.groupsCommit_kept {q : List Instr} {s : State} (h0 : Kept q s) :
    Kept q (State.groupsCommit s) := by
  unfold State.groupsCommit
  repeat' first
    | (with_reducible first
        | intro _ | assumption | apply State.setFld_kept | apply State.setBit_kept | apply State.clrBit_kept | apply Kept.ite
        | apply Kept.foldl)
    | simp only [↓Kept.upd_iff]
    | split

theorem State.unroutable_kept {q : List Instr} {s : State} {dim : Option Nat} (h0 : Kept q s) :
    Kept q (State.unroutable s dim) := by
  unfold State.unroutable
  repeat' first
    | (with_reducible first
        | assumption | apply State.eventF_kept | apply State.raiseFault_kept | apply State.updFab_kept | apply Kept.ite)
    | simp only [↓Kept.upd_iff]
    | split

theorem State.route_kept {q : List Instr} {s : State} {qq : List Sys2Proof.Byte} (h0 : Kept q s) :
    Kept q (State.route s qq) := by
  unfold State.route
  repeat' first
    | (with_reducible first | assumption | apply State.unroutable_kept | apply State.queuePacket_kept)
    | simp only [↓Kept.upd_iff]
    | split

theorem State.reroute_kept {q : List Instr} {s : State} {p : Nat} (h0 : Kept q s) :
    Kept q (State.reroute s p) := by
  unfold State.reroute
  repeat' first
    | (with_reducible first | intro _ | assumption | apply State.route_kept | apply State.updPort__kept | apply Kept.foldl)
    | simp only [↓Kept.upd_iff]

theorem State.inject_kept {q : List Instr} {s : State} {vc : Nat} {op : Nat} {dst : Nat} {group : Nat} {addr : Nat} {tag : Nat} {seq : Nat} {payload : List Sys2Proof.Byte} (h0 : Kept q s) :
    Kept q (State.inject s vc op dst group addr tag seq payload) := by
  unfold State.inject
  repeat' first
    | (with_reducible first | assumption | apply State.unroutable_kept | apply State.route_kept | apply Kept.ite)
    | simp only [↓Kept.upd_iff]

theorem State.freePacket_kept {q : List Instr} {s : State} {p : Nat} {qq : List Sys2Proof.Byte} (h0 : Kept q s) :
    Kept q (State.freePacket s p qq) := by
  unfold State.freePacket
  with_reducible repeat' first | assumption | apply State.updPort__kept | apply State.queuePacket_kept

theorem State.handle_kept {q : List Instr} {s : State} {p : Nat} {op : Nat} {f : List Sys2Proof.Byte → State → Option State} (h0 : Kept q s) (hf : ∀ b0 b1, Kept q b1 → KeptO q (f b0 b1)) :
    Kept q (State.handle s p op f) := by
  unfold State.handle
  repeat' first
    | (with_reducible first
        | assumption | apply State.route_kept | apply State.freePacket_kept | apply State.eventF_kept | apply hf
        | refine Kept.some (by assumption) ?_)
    | split

theorem State.takeCredit_kept {q : List Instr} {s : State} {p : Nat} (h0 : Kept q s) :
    Kept q (State.takeCredit s p) := by
  unfold State.takeCredit
  repeat' first
    | (with_reducible first | assumption | apply State.pumpAll_kept | apply State.updPort__kept)
    | split

theorem execPktCredit_kept {q : List Instr} {p : Nat} {s : State} (h0 : Kept q s) :
    KeptR q (execPktCredit p s) := by
  unfold execPktCredit
  with_reducible repeat' first | assumption | apply onUnit_kept | apply State.takeCredit_kept

theorem execPktManagement_kept {q : List Instr} {p : Nat} {s : State} (h0 : Kept q s) :
    KeptR q (execPktManagement p s) := by
  unfold execPktManagement
  with_reducible repeat' first | intro _ | assumption | apply KeptO.of | apply onUnit_kept | apply State.handle_kept

theorem State.bankLoad_kept {q : List Instr} {s : State} (h0 : Kept q s) :
    Kept q (State.bankLoad s) := by
  unfold State.bankLoad
  repeat' first
    | (with_reducible first | assumption | apply State.setBit_kept | apply Kept.ite)
    | simp only [↓Kept.upd_iff]

theorem execBankLoad_kept {q : List Instr} {master : Nat} {s : State} (h0 : Kept q s) :
    KeptR q (execBankLoad master s) := by
  unfold execBankLoad
  with_reducible repeat' first | intro _ | assumption | apply KeptR.of | apply State.guardedWrite_kept | apply State.bankLoad_kept

theorem execEpochHoldExpiry_kept {q : List Instr} {b : Nat} {s : State} (h0 : Kept q s) :
    KeptR q (execEpochHoldExpiry b s) := by
  unfold execEpochHoldExpiry
  with_reducible repeat' first | assumption | apply onUnit_kept | apply State.clrBit_kept

theorem State.epochCommit_kept {q : List Instr} {s : State} (h0 : Kept q s) :
    Kept q (State.epochCommit s) := by
  unfold State.epochCommit
  repeat' first
    | (with_reducible first | assumption | apply State.setBit_kept | apply State.setFld_kept | apply Kept.ite)
    | simp only [↓Kept.upd_iff]

end Sys2Proof.Machine
end

