-- ==== Sys2Proof/Laws/KeptFabAccess.lean ====
section
/-! SUPPORT. The queue and the memories' canonical form through the operations of Machine/FabAccess.lean. -/

namespace Sys2Proof.Machine

theorem State.atomicAt_kept {q : List Instr} {s : State} {master : Nat} {a : Nat} {aop : Nat} {opnd : Nat} {cmp : Nat} (h0 : Kept q s) :
    Kept q (State.atomicAt s master a aop opnd cmp).2.2 := by
  unfold State.atomicAt
  with_reducible repeat' first | assumption | apply State.readMem_kept | apply State.writeMem_kept

theorem State.putOld_kept {q : List Instr} {s : State} {w : Who} {loc : Nat} {old : Nat} {lost : Bool} (h0 : Kept q s) :
    Kept q (State.putOld s w loc old lost).2 := by
  unfold State.putOld
  repeat' first
    | (with_reducible first | assumption | apply State.store_kept | apply Kept.ite2)
    | simp only [↓Kept.upd_iff]

theorem State.localAtomic_kept {q : List Instr} {s : State} {w : Who} {a : Nat} {loc : Nat} {aop : Nat} {opnd : Nat} {cmp : Nat} (h0 : Kept q s) :
    Kept q (State.localAtomic s w a loc aop opnd cmp).2 := by
  unfold State.localAtomic
  repeat' first
    | (with_reducible first | assumption | apply State.atomicAt_kept | apply State.putOld_kept | apply State.refuse_kept)
    | simp only [↓Kept.upd_iff]
    | split

theorem State.endXfer_kept {q : List Instr} {s : State} {o : Owner} {st : Nat} (h0 : Kept q s) :
    Kept q (State.endXfer s o st) := by
  unfold State.endXfer
  with_reducible repeat' first | assumption | apply State.complete_kept | apply State.updFab_kept

theorem State.settleXfer_kept {q : List Instr} {s : State} {o : Owner} (h0 : Kept q s) :
    Kept q (State.settleXfer s o) := by
  unfold State.settleXfer
  repeat' first
    | (with_reducible first | assumption | apply State.endXfer_kept | apply Kept.ite)
    | split

theorem State.addReq_kept {q : List Instr} {s : State} {x : Xfer} {n : Nat} (h0 : Kept q s) :
    Kept q (State.addReq s x n) := by
  unfold State.addReq
  with_reducible repeat' first | assumption | apply State.updFab_kept | apply State.noteTag_kept

theorem State.issue_kept {q : List Instr} {s : State} {x : Xfer} (h0 : Kept q s) :
    Kept q (State.issue s x) := by
  unfold State.issue
  repeat' first
    | (with_reducible first
        | assumption | apply State.endXfer_kept | apply State.request_kept | apply State.updFab_kept | apply State.inject_kept
        | apply State.addReq_kept | apply Kept.ite)
    | simp only [↓Kept.upd_iff]
    | split

theorem State.pumpXfer_kept {q : List Instr} {s : State} {o : Owner} {a2 : Nat} (h0 : Kept q s) :
    Kept q (State.pumpXfer s o a2) := by
  induction a2 generalizing s o with
  | zero =>
    unfold State.pumpXfer
    repeat' first
      | (with_reducible first | assumption | apply State.issue_kept | apply State.eventF_kept | apply Kept.ite)
      | split
  | succ n ih =>
    unfold State.pumpXfer
    repeat' first
      | (with_reducible first | apply ih | assumption | apply State.issue_kept | apply State.eventF_kept | apply Kept.ite)
      | split

theorem State.pumpXfers_kept {q : List Instr} {s : State} (h0 : Kept q s) :
    Kept q (State.pumpXfers s) := by
  unfold State.pumpXfers
  with_reducible repeat' first | intro _ | assumption | apply State.pumpXfer_kept | apply Kept.foldl

theorem State.startXfer_kept {q : List Instr} {s : State} {x : Xfer} (h0 : Kept q s) :
    Kept q (State.startXfer s x) := by
  unfold State.startXfer
  with_reducible repeat' first | assumption | apply State.pumpXfer_kept | apply State.updFab_kept

theorem State.remoteAccess_kept {q : List Instr} {s : State} {c : Nat} {d : Desc} {kind : Nat} {aop : Nat} (h0 : Kept q s) :
    Kept q (State.remoteAccess s c d kind aop) := by
  unfold State.remoteAccess
  repeat' first
    | (with_reducible first
        | assumption | apply State.complete_kept | apply State.localAtomic_kept | apply moveRows_kept | apply State.startXfer_kept
        | apply State.working_kept | apply Kept.ite)
    | simp only [↓Kept.upd_iff]
    | split

theorem execFabricPut_kept {q : List Instr} {c : Nat} {n : Nat} {s : State} (h0 : Kept q s) :
    KeptR q (execFabricPut c n s) := by
  unfold execFabricPut
  with_reducible repeat' first | intro _ | assumption | apply onUnit_kept | apply State.runDesc_kept | apply State.remoteAccess_kept

theorem execFabricGet_kept {q : List Instr} {c : Nat} {n : Nat} {s : State} (h0 : Kept q s) :
    KeptR q (execFabricGet c n s) := by
  unfold execFabricGet
  with_reducible repeat' first | intro _ | assumption | apply onUnit_kept | apply State.runDesc_kept | apply State.remoteAccess_kept

theorem State.runAtomic_kept {q : List Instr} {s : State} {c : Nat} {n : Nat} {aop : Nat} (h0 : Kept q s) :
    Kept q (State.runAtomic s c n aop) := by
  unfold State.runAtomic
  with_reducible repeat' first | intro _ | assumption | apply State.runDesc_kept | apply State.remoteAccess_kept | apply Kept.ite

theorem execFabricAtomicAdd_kept {q : List Instr} {c : Nat} {n : Nat} {s : State} (h0 : Kept q s) :
    KeptR q (execFabricAtomicAdd c n s) := by
  unfold execFabricAtomicAdd
  with_reducible repeat' first | assumption | apply onUnit_kept | apply State.runAtomic_kept

theorem execFabricAtomicSwap_kept {q : List Instr} {c : Nat} {n : Nat} {s : State} (h0 : Kept q s) :
    KeptR q (execFabricAtomicSwap c n s) := by
  unfold execFabricAtomicSwap
  with_reducible repeat' first | assumption | apply onUnit_kept | apply State.runAtomic_kept

theorem execFabricAtomicCas_kept {q : List Instr} {c : Nat} {n : Nat} {s : State} (h0 : Kept q s) :
    KeptR q (execFabricAtomicCas c n s) := by
  unfold execFabricAtomicCas
  with_reducible repeat' first | assumption | apply onUnit_kept | apply State.runAtomic_kept

theorem execFabricAtomicAnd_kept {q : List Instr} {c : Nat} {n : Nat} {s : State} (h0 : Kept q s) :
    KeptR q (execFabricAtomicAnd c n s) := by
  unfold execFabricAtomicAnd
  with_reducible repeat' first | assumption | apply onUnit_kept | apply State.runAtomic_kept

theorem execFabricAtomicOr_kept {q : List Instr} {c : Nat} {n : Nat} {s : State} (h0 : Kept q s) :
    KeptR q (execFabricAtomicOr c n s) := by
  unfold execFabricAtomicOr
  with_reducible repeat' first | assumption | apply onUnit_kept | apply State.runAtomic_kept

theorem execFabricAtomicUmax_kept {q : List Instr} {c : Nat} {n : Nat} {s : State} (h0 : Kept q s) :
    KeptR q (execFabricAtomicUmax c n s) := by
  unfold execFabricAtomicUmax
  with_reducible repeat' first | assumption | apply onUnit_kept | apply State.runAtomic_kept

theorem State.exportCheck_kept {q : List Instr} {s : State} {right : Nat} {src : Nat} {a : Nat} {n : Nat} (h0 : Kept q s) :
    Kept q (State.exportCheck s right src a n).2 := by
  unfold State.exportCheck
  repeat' first
    | (with_reducible first | assumption | apply State.aclCheck_kept | apply State.refuse_kept | apply Kept.ite2)
    | simp only [↓Kept.upd_iff]
    | split

theorem State.respond_kept {q : List Instr} {s : State} {qq : List Sys2Proof.Byte} {vc : Nat} {op : Nat} {tag : Nat} {n : Nat} {payload : List Sys2Proof.Byte} (h0 : Kept q s) :
    Kept q (State.respond s qq vc op tag n payload) := by
  unfold State.respond
  with_reducible repeat' first | assumption | apply State.inject_kept

theorem State.poisonBlock_kept {q : List Instr} {s : State} {a : Nat} {mask : Nat} (h0 : Kept q s) :
    Kept q (State.poisonBlock s a mask) := by
  unfold State.poisonBlock
  with_reducible repeat' first | intro _ | assumption | apply State.poisonLines_kept | apply Kept.foldl

theorem State.serveRemote_kept {q : List Instr} {s : State} {p : Nat} {right : Nat} {n : Nat} {qq : List Sys2Proof.Byte} {f : State → State} (h0 : Kept q s) (hf : ∀ b0, Kept q b0 → Kept q (f b0)) :
    KeptO q (State.serveRemote s p right n qq f) := by
  unfold State.serveRemote
  repeat' first
    | (with_reducible first
        | assumption | apply KeptO.none | apply KeptO.of | apply State.exportCheck_kept | apply State.noteTag_kept
        | apply State.respond_kept | apply hf | apply Kept.ite | apply KeptO.ite)
    | simp only [↓Kept.upd_iff]

theorem State.handleRemote_kept {q : List Instr} {s : State} {p : Nat} {op : Nat} {f : List Sys2Proof.Byte → State → Option State} (h0 : Kept q s) (hf : ∀ b0 b1, Kept q b1 → KeptO q (f b0 b1)) :
    Kept q (State.handleRemote s p op f) := by
  unfold State.handleRemote
  with_reducible repeat' first | intro _ | assumption | apply State.eventF_kept | apply State.handle_kept | apply hf | apply Kept.ite

theorem State.remoteWrite_kept {q : List Instr} {s : State} {p : Nat} {qq : List Sys2Proof.Byte} (h0 : Kept q s) :
    KeptO q (State.remoteWrite s p qq) := by
  unfold State.remoteWrite
  with_reducible repeat' first
    | intro _ | assumption | apply State.serveRemote_kept | apply State.respond_kept | apply State.poisonBlock_kept
    | apply State.writeMem_kept

theorem execPktWrite_kept {q : List Instr} {p : Nat} {s : State} (h0 : Kept q s) :
    KeptR q (execPktWrite p s) := by
  unfold execPktWrite
  with_reducible repeat' first | intro _ | assumption | apply onUnit_kept | apply State.handleRemote_kept | apply State.remoteWrite_kept

theorem State.remoteRead_kept {q : List Instr} {s : State} {p : Nat} {qq : List Sys2Proof.Byte} (h0 : Kept q s) :
    KeptO q (State.remoteRead s p qq) := by
  unfold State.remoteRead
  with_reducible repeat' first
    | intro _ | assumption | apply State.serveRemote_kept | apply State.readMem_kept | apply State.respond_kept

theorem execPktRead_kept {q : List Instr} {p : Nat} {s : State} (h0 : Kept q s) :
    KeptR q (execPktRead p s) := by
  unfold execPktRead
  with_reducible repeat' first | intro _ | assumption | apply onUnit_kept | apply State.handleRemote_kept | apply State.remoteRead_kept

theorem State.remoteAtomic_kept {q : List Instr} {s : State} {p : Nat} {qq : List Sys2Proof.Byte} (h0 : Kept q s) :
    KeptO q (State.remoteAtomic s p qq) := by
  unfold State.remoteAtomic
  with_reducible repeat' first
    | intro _ | assumption | apply State.serveRemote_kept | apply State.atomicAt_kept | apply State.respond_kept

theorem execPktAtomic_kept {q : List Instr} {p : Nat} {s : State} (h0 : Kept q s) :
    KeptR q (execPktAtomic p s) := by
  unfold execPktAtomic
  with_reducible repeat' first
    | intro _ | assumption | apply onUnit_kept | apply State.handleRemote_kept | apply State.remoteAtomic_kept

theorem State.answer_kept {q : List Instr} {s : State} {qq : List Sys2Proof.Byte} {f : Xfer → Rreq → State → State} (h0 : Kept q s) (hf : ∀ b0 b1 b2, Kept q b2 → Kept q (f b0 b1 b2)) :
    KeptO q (State.answer s qq f) := by
  unfold State.answer
  repeat' first
    | (with_reducible first
        | assumption | apply KeptO.of | apply State.updFab_kept | apply State.pumpXfers_kept | apply State.settleXfer_kept | apply hf)
    | simp only [↓Kept.upd_iff]
    | split

theorem execPktWriteAck_kept {q : List Instr} {p : Nat} {s : State} (h0 : Kept q s) :
    KeptR q (execPktWriteAck p s) := by
  unfold execPktWriteAck
  with_reducible repeat' first | intro _ | assumption | apply onUnit_kept | apply State.handle_kept | apply State.answer_kept

theorem State.xferLost_kept {q : List Instr} {s : State} {o : Owner} {lost : Bool} (h0 : Kept q s) :
    Kept q (State.xferLost s o lost) := by
  unfold State.xferLost
  with_reducible repeat' first | assumption | apply State.updFab_kept | apply Kept.ite

theorem State.landData_kept {q : List Instr} {s : State} {x : Xfer} {r : Rreq} {bs : List Sys2Proof.Byte} {mask : Nat} (h0 : Kept q s) :
    Kept q (State.landData s x r bs mask) := by
  unfold State.landData
  repeat' first
    | (with_reducible first
        | intro _ | assumption | apply State.emit_kept | apply State.store_kept | apply State.xferLost_kept
        | apply State.poisonLines_kept | apply State.endXfer_kept | apply Kept.ite | apply Kept.foldl)
    | simp only [↓Kept.upd_iff]
    | split

theorem execPktReadData_kept {q : List Instr} {p : Nat} {s : State} (h0 : Kept q s) :
    KeptR q (execPktReadData p s) := by
  unfold execPktReadData
  with_reducible repeat' first
    | intro _ | assumption | apply onUnit_kept | apply State.handle_kept | apply State.answer_kept | apply State.landData_kept

theorem execPktAtomicResult_kept {q : List Instr} {p : Nat} {s : State} (h0 : Kept q s) :
    KeptR q (execPktAtomicResult p s) := by
  unfold execPktAtomicResult
  with_reducible repeat' first
    | intro _ | assumption | apply onUnit_kept | apply State.handle_kept | apply State.answer_kept | apply State.putOld_kept
    | apply State.endXfer_kept

theorem execPktDenial_kept {q : List Instr} {p : Nat} {s : State} (h0 : Kept q s) :
    KeptR q (execPktDenial p s) := by
  unfold execPktDenial
  with_reducible repeat' first
    | intro _ | assumption | apply onUnit_kept | apply State.handle_kept | apply State.answer_kept | apply State.endXfer_kept

theorem execRemoteReqTimeout_kept {q : List Instr} {tag : Nat} {s : State} (h0 : Kept q s) :
    KeptR q (execRemoteReqTimeout tag s) := by
  unfold execRemoteReqTimeout
  repeat' first
    | (with_reducible first | assumption | apply KeptR.of | apply State.pumpXfers_kept | apply State.endXfer_kept)
    | split

theorem State.penWrites_kept {q : List Instr} {s : State} {x : Xfer} {a2 : Nat} {a3 : Nat} {a4 : List Sys2Proof.Byte} (h0 : Kept q s) :
    Kept q (State.penWrites s x a2 a3 a4) := by
  induction a2 generalizing s x a3 a4 with
  | zero =>
    unfold State.penWrites
    repeat' first
      | (with_reducible first | assumption | apply State.addReq_kept | apply State.inject_kept | apply Kept.ite)
      | simp only [↓Kept.upd_iff]
  | succ n ih =>
    unfold State.penWrites
    repeat' first
      | (with_reducible first | apply ih | assumption | apply State.addReq_kept | apply State.inject_kept | apply Kept.ite)
      | simp only [↓Kept.upd_iff]

theorem State.penAccess_kept {q : List Instr} {s : State} {master : Nat} {a : Nat} {n : Nat} {write : Option (List Sys2Proof.Byte)} (h0 : Kept q s) :
    Kept q (State.penAccess s master a n write) := by
  unfold State.penAccess
  repeat' first
    | (with_reducible first
        | assumption | apply State.startXfer_kept | apply State.penWrites_kept | apply State.updFab_kept | apply Kept.ite)
    | simp only [↓Kept.upd_iff]
    | split

end Sys2Proof.Machine
end

