-- ==== Sys2Proof/Laws/KeptCollect.lean ====
section
/-! SUPPORT. The queue and the memories' canonical form through the operations of Machine/Collect.lean. -/

namespace Sys2Proof.Machine

theorem putBytes_kept {q : List Instr} {w : Who} {d : DAddr} {bs : List Sys2Proof.Byte} {s : State} (h0 : Kept q s) :
    Kept q (putBytes w d bs s).s := by
  unfold putBytes
  repeat' first
    | (with_reducible first | intro _ | assumption | apply State.store_kept | refine Kept.foldlBy (fun p : Move => p.s) ?_ ?_)
    | simp only [↓Kept.upd_iff]
    | split

theorem getBytes_kept {q : List Instr} {w : Who} {d : DAddr} {n : Nat} {s : State} (h0 : Kept q s) :
    Kept q (getBytes w d n s).2.s := by
  unfold getBytes
  repeat' first
    | (with_reducible first | intro _ | assumption | apply State.request_kept | refine Kept.foldlBy (fun p : _ × Move => p.2.s) ?_ ?_)
    | simp only [↓Kept.upd_iff]
    | split

theorem State.updColl_kept {q : List Instr} {s : State} {o : Owner} {f : Coll → Coll} (h0 : Kept q s) :
    Kept q (State.updColl s o f) := by
  unfold State.updColl
  with_reducible repeat' first | assumption | apply State.updFab_kept

theorem State.dropColl_kept {q : List Instr} {s : State} {x : Coll} (h0 : Kept q s) :
    Kept q (State.dropColl s x) := by
  unfold State.dropColl
  with_reducible repeat' first | assumption | apply State.updFab_kept

theorem State.endColl_kept {q : List Instr} {s : State} {x : Coll} {st : Nat} (h0 : Kept q s) :
    Kept q (State.endColl s x st) := by
  unfold State.endColl
  with_reducible repeat' first | assumption | apply State.complete_kept | apply State.dropColl_kept

theorem State.sendPieces_kept {q : List Instr} {s : State} {x : Coll} {bs : List Sys2Proof.Byte} {mask : Nat → Nat} (h0 : Kept q s) :
    Kept q (State.sendPieces s x bs mask) := by
  unfold State.sendPieces
  repeat' first
    | (with_reducible first | intro _ | assumption | apply State.inject_kept | apply Kept.foldl)
    | simp only [↓Kept.upd_iff]
    | split

theorem State.sendStep_kept {q : List Instr} {s : State} {x : Coll} (h0 : Kept q s) :
    Kept q (State.sendStep s x) := by
  unfold State.sendStep
  repeat' first
    | (with_reducible first | assumption | apply State.sendPieces_kept | apply getBytes_kept | apply State.endColl_kept | apply Kept.ite)
    | simp only [↓Kept.upd_iff]
    | split

theorem State.reduceCond_kept {q : List Instr} {s : State} {c : Cond} (h0 : Kept q s) :
    Kept q (State.reduceCond s c) := by
  unfold State.reduceCond
  repeat' first
    | (with_reducible first | assumption | apply State.setBit_kept | apply Kept.ite)
    | simp only [↓Kept.upd_iff]

theorem State.reduceStep_kept {q : List Instr} {s : State} {x : Coll} {got : List Nat} (h0 : Kept q s) :
    Kept q (State.reduceStep s x got).2 := by
  unfold State.reduceStep
  repeat' first
    | (with_reducible first | assumption | apply State.reduceCond_kept | apply Kept.ite2)
    | simp only [↓Kept.upd_iff]

theorem State.takeStep_kept {q : List Instr} {s : State} {x : Coll} {m : List Sys2Proof.Byte × List Nat} (h0 : Kept q s) :
    Kept q (State.takeStep s x m).2 := by
  unfold State.takeStep
  repeat' first
    | (with_reducible first
        | intro _ | assumption | apply State.reduceStep_kept | apply putBytes_kept | apply State.poisonLines_kept | apply Kept.foldl)
    | simp only [↓Kept.upd_iff]
    | split

theorem State.advance_kept {q : List Instr} {s : State} {fin : Coll → State → State} {o : Owner} {a3 : Nat} (h0 : Kept q s) (hfin : ∀ b0 b1, Kept q b1 → Kept q (fin b0 b1)) :
    Kept q (State.advance s fin o a3) := by
  induction a3 generalizing s fin o with
  | zero =>
    unfold State.advance
    repeat' first
      | (with_reducible first
          | intro _ | assumption | apply State.takeStep_kept | apply State.updFab_kept | apply State.endColl_kept
          | apply State.dropColl_kept | apply State.sendStep_kept | apply hfin | apply Kept.ite)
      | simp only [↓Kept.upd_iff]
      | split
  | succ n ih =>
    unfold State.advance
    repeat' first
      | (with_reducible first
          | apply ih | intro _ | assumption | apply State.takeStep_kept | apply State.updFab_kept | apply State.endColl_kept
          | apply State.dropColl_kept | apply State.sendStep_kept | apply hfin | apply Kept.ite)
      | simp only [↓Kept.upd_iff]
      | split

theorem State.beginColl_kept {q : List Instr} {s : State} {fin : Coll → State → State} {x : Coll} (h0 : Kept q s) (hfin : ∀ b0 b1, Kept q b1 → Kept q (fin b0 b1)) :
    Kept q (State.beginColl s fin x) := by
  unfold State.beginColl
  repeat' first
    | (with_reducible first
        | intro _ | assumption | apply State.updFab_kept | apply State.advance_kept | apply State.sendStep_kept | apply hfin
        | apply Kept.ite)
    | simp only [↓Kept.upd_iff]

theorem Coll.finish_kept {q : List Instr} {x : Coll} {s : State} (h0 : Kept q s) :
    Kept q (Coll.finish x s) := by
  unfold Coll.finish
  repeat' first
    | (with_reducible first | assumption | apply putBytes_kept | apply State.complete_kept | apply State.store_kept | apply Kept.ite)
    | simp only [↓Kept.upd_iff]
    | split

theorem State.withGroup_kept {q : List Instr} {s : State} {c : Nat} {d : Desc} {f : State → State} (h0 : Kept q s) (hf : ∀ b0, Kept q b0 → Kept q (f b0)) :
    Kept q (State.withGroup s c d f) := by
  unfold State.withGroup
  with_reducible repeat' first | assumption | apply State.complete_kept | apply hf | apply Kept.ite

theorem State.reduce_kept {q : List Instr} {s : State} {c : Nat} {d : Desc} (h0 : Kept q s) :
    Kept q (State.reduce s c d) := by
  unfold State.reduce
  repeat' first
    | (with_reducible first
        | intro _ | assumption | apply State.withGroup_kept | apply getBytes_kept | apply State.complete_kept
        | apply State.beginColl_kept | apply State.working_kept | apply Coll.finish_kept | apply Kept.ite)
    | simp only [↓Kept.upd_iff]

theorem execReduce_kept {q : List Instr} {c : Nat} {n : Nat} {s : State} (h0 : Kept q s) :
    KeptR q (execReduce c n s) := by
  unfold execReduce
  with_reducible repeat' first | intro _ | assumption | apply onUnit_kept | apply State.runDesc_kept | apply State.reduce_kept

theorem State.gather_kept {q : List Instr} {s : State} {c : Nat} {d : Desc} (h0 : Kept q s) :
    Kept q (State.gather s c d) := by
  unfold State.gather
  repeat' first
    | (with_reducible first
        | intro _ | assumption | apply State.withGroup_kept | apply moveRows_kept | apply State.complete_kept
        | apply State.beginColl_kept | apply State.working_kept | apply Coll.finish_kept | apply Kept.ite)
    | simp only [↓Kept.upd_iff]

theorem execGather_kept {q : List Instr} {c : Nat} {n : Nat} {s : State} (h0 : Kept q s) :
    KeptR q (execGather c n s) := by
  unfold execGather
  with_reducible repeat' first | intro _ | assumption | apply onUnit_kept | apply State.runDesc_kept | apply State.gather_kept

theorem State.syncGroup_kept {q : List Instr} {s : State} {c : Nat} {d : Desc} (h0 : Kept q s) :
    Kept q (State.syncGroup s c d) := by
  unfold State.syncGroup
  with_reducible repeat' first
    | intro _ | assumption | apply State.withGroup_kept | apply State.beginColl_kept | apply State.working_kept | apply Coll.finish_kept

theorem execSync_kept {q : List Instr} {c : Nat} {n : Nat} {s : State} (h0 : Kept q s) :
    KeptR q (execSync c n s) := by
  unfold execSync
  with_reducible repeat' first | intro _ | assumption | apply onUnit_kept | apply State.runDesc_kept | apply State.syncGroup_kept

theorem execCollectiveTimeout_kept {q : List Instr} {c : Nat} {n : Nat} {s : State} (h0 : Kept q s) :
    KeptR q (execCollectiveTimeout c n s) := by
  unfold execCollectiveTimeout
  repeat' first
    | (with_reducible first | assumption | apply onUnit_kept | apply State.endColl_kept)
    | split

theorem State.collArrive_kept {q : List Instr} {s : State} {p : Nat} {cls : Nat} {fin : Coll → State → State} {qq : List Sys2Proof.Byte} (h0 : Kept q s) (hfin : ∀ b0 b1, Kept q b1 → Kept q (fin b0 b1)) :
    KeptO q (State.collArrive s p cls fin qq) := by
  unfold State.collArrive
  repeat' first
    | (with_reducible first
        | intro _ | assumption | apply KeptO.of | apply State.updFab_kept | apply State.advance_kept | apply State.eventF_kept
        | apply hfin | apply Kept.ite)
    | simp only [↓Kept.upd_iff]
    | split

theorem execPktCollectiveData_kept {q : List Instr} {p : Nat} {s : State} (h0 : Kept q s) :
    KeptR q (execPktCollectiveData p s) := by
  unfold execPktCollectiveData
  with_reducible repeat' first
    | intro _ | assumption | apply onUnit_kept | apply State.handle_kept | apply State.collArrive_kept | apply Coll.finish_kept

end Sys2Proof.Machine
end

