-- ==== Sys2Proof/Laws/KeptLayers.lean ====
section
/-! SUPPORT. The queue and the memories' canonical form through the operations of Machine/Layers.lean. -/

namespace Sys2Proof.Machine

theorem State.readRec64_kept {q : List Instr} {s : State} {w : Who} {addr : Nat} (h0 : Kept q s) :
    Kept q (State.readRec64 s w addr).2 := by
  unfold State.readRec64
  with_reducible repeat' first | assumption | apply State.readRecord_kept | apply Kept.ite2

theorem State.readPrec_kept {q : List Instr} {s : State} {w : Who} {addr : Nat} {part : Nat} {g16 : Bool} (h0 : Kept q s) :
    Kept q (State.readPrec s w addr part g16).2 := by
  unfold State.readPrec
  repeat' first
    | (with_reducible first | assumption | apply State.readRec64_kept | apply State.operandsReadable_kept | apply Kept.ite2)
    | simp only [↓Kept.upd_iff]
    | split

theorem State.addProduct_kept {q : List Instr} {s : State} {p : Product} (h0 : Kept q s) :
    Kept q (State.addProduct s p) := by
  unfold State.addProduct
  with_reducible repeat' first | assumption | apply State.updTrn_kept

theorem State.makeChain_kept {q : List Instr} {s : State} {j : LayerJob} {v : Nat} {cb : Nat} {ts : List Nat} {ins : List TileIn} (h0 : Kept q s) :
    Kept q (State.makeChain s j v cb ts ins) := by
  unfold State.makeChain
  repeat' first
    | (with_reducible first
        | intro _ | assumption | apply State.takeFree_kept | apply State.updTrn_kept | apply State.updDie_kept
        | apply State.addProduct_kept | apply Kept.ite2 | apply Kept.foldl)
    | simp only [↓Kept.upd_iff]

theorem State.readInput_kept {q : List Instr} {s : State} {w : Who} {x : WSlot} {l : LRec} {v : Nat} {r : Nat} (h0 : Kept q s) :
    Kept q (State.readInput s w x l v r).2 := by
  unfold State.readInput
  with_reducible repeat' first | assumption | apply State.readRecord_kept

theorem State.readRowIn_kept {q : List Instr} {s : State} {w : Who} {x : WSlot} {l : LRec} {v : Nat} (h0 : Kept q s) :
    Kept q (State.readRowIn s w x l v).2 := by
  unfold State.readRowIn
  repeat' first
    | (with_reducible first | intro _ | assumption | apply State.readInput_kept | apply Kept.foldl2)
    | simp only [↓Kept.upd_iff]
    | split

theorem State.putOutlierRows_kept {q : List Instr} {s : State} {w : Who} {l : LRec} (h0 : Kept q s) :
    Kept q (State.putOutlierRows s w l).2 := by
  unfold State.putOutlierRows
  repeat' first
    | (with_reducible first
        | intro _ | assumption | apply State.readRecord_kept | apply State.store_kept | apply Kept.ite2 | apply Kept.foldl2)
    | simp only [↓Kept.upd_iff]
    | split

theorem State.fwdDigital_kept {q : List Instr} {s : State} {c : Nat} {d : Desc} {l : LRec} (h0 : Kept q s) :
    Kept q (State.fwdDigital s c d l) := by
  unfold State.fwdDigital
  repeat' first
    | (with_reducible first
        | assumption | apply State.readPrec_kept | apply State.complete_kept | apply State.addProduct_kept | apply State.addWork_kept)
    | simp only [↓Kept.upd_iff]
    | split

theorem State.makeReads_kept {q : List Instr} {s : State} {w : Who} {j : LayerJob} {x : WSlot} {v0 : Nat} {nv : Nat} {chains : List (List Nat)} (h0 : Kept q s) :
    Kept q (State.makeReads s w j x v0 nv chains).2 := by
  unfold State.makeReads
  repeat' first
    | (with_reducible first
        | intro _ | assumption | apply State.readRowIn_kept | apply State.makeChain_kept | apply Kept.ite2 | apply Kept.foldl
        | apply Kept.foldl2)
    | simp only [↓Kept.upd_iff]
    | split

theorem State.dropReads_kept {q : List Instr} {s : State} {o : Owner} (h0 : Kept q s) :
    Kept q (State.dropReads s o) := by
  unfold State.dropReads
  repeat' first
    | (with_reducible first | assumption | apply State.updTrn_kept)
    | simp only [↓Kept.upd_iff]

theorem State.useList_kept {q : List Instr} {s : State} {l : LRec} (h0 : Kept q s) :
    Kept q (State.useList s l) := by
  unfold State.useList
  with_reducible repeat' first | assumption | apply State.updTrn_kept | apply Kept.ite

theorem State.fwdStart_kept {q : List Instr} {s : State} {c : Nat} {d : Desc} {l : LRec} {x : WSlot} {out : WSlot} {chains : List (List Nat)} (h0 : Kept q s) :
    Kept q (State.fwdStart s c d l x out chains) := by
  unfold State.fwdStart
  repeat' first
    | (with_reducible first
        | assumption | apply State.useList_kept | apply State.putOutlierRows_kept | apply State.complete_kept | apply State.addWork_kept
        | apply State.makeReads_kept | apply State.finishWork_kept | apply State.failWork_kept | apply State.dropReads_kept
        | apply State.chainSettle_kept | apply Kept.ite | apply Kept.ite2)
    | simp only [↓Kept.upd_iff]

theorem State.fwdArray_kept {q : List Instr} {s : State} {c : Nat} {d : Desc} {l : LRec} (h0 : Kept q s) :
    Kept q (State.fwdArray s c d l) := by
  unfold State.fwdArray
  repeat' first
    | (with_reducible first
        | assumption | apply State.readRec64_kept | apply State.readRecord_kept | apply State.complete_kept | apply State.fwdStart_kept
        | apply Kept.ite | apply Kept.ite2)
    | simp only [↓Kept.upd_iff]
    | split

theorem State.observe_kept {q : List Instr} {s : State} {l : LRec} (h0 : Kept q s) :
    Kept q (State.observe s l) := by
  unfold State.observe
  with_reducible repeat' first | assumption | apply State.updTrn_kept | apply Kept.ite

theorem State.withLayer_kept {q : List Instr} {s : State} {c : Nat} {d : Desc} {f : LRec → State → State} (h0 : Kept q s) (hf : ∀ b0 b1, Kept q b1 → Kept q (f b0 b1)) :
    Kept q (State.withLayer s c d f) := by
  unfold State.withLayer
  repeat' first
    | (with_reducible first
        | assumption | apply State.readRec64_kept | apply State.complete_kept | apply State.observe_kept | apply hf | apply Kept.ite)
    | simp only [↓Kept.upd_iff]
    | split

theorem execLayerFwd_kept {q : List Instr} {c : Nat} {n : Nat} {s : State} (h0 : Kept q s) :
    KeptR q (execLayerFwd c n s) := by
  unfold execLayerFwd
  with_reducible repeat' first
    | intro _ | assumption | apply onUnit_kept | apply State.runDesc_kept | apply State.withLayer_kept | apply State.fwdArray_kept
    | apply State.fwdDigital_kept | apply Kept.ite

theorem State.widenedStatus_kept {q : List Instr} {s : State} {w : Who} {d : Desc} (h0 : Kept q s) :
    Kept q (State.widenedStatus s w d).2 := by
  unfold State.widenedStatus
  repeat' first
    | (with_reducible first | assumption | apply State.readRec64_kept | apply Kept.ite2)
    | simp only [↓Kept.upd_iff]
    | split

theorem State.readDw_kept {q : List Instr} {s : State} {w : Who} {d : Desc} {l : LRec} (h0 : Kept q s) :
    Kept q (State.readDw s w d l).2 := by
  unfold State.readDw
  repeat' first
    | (with_reducible first | assumption | apply State.widenedStatus_kept | apply State.readPrec_kept | apply Kept.ite2)
    | simp only [↓Kept.upd_iff]

theorem State.listStatus_kept {q : List Instr} {s : State} {w : Who} {l : LRec} (h0 : Kept q s) :
    Kept q (State.listStatus s w l).2 := by
  unfold State.listStatus
  repeat' first
    | (with_reducible first | assumption | apply State.readRecord_kept | apply Kept.ite2)
    | simp only [↓Kept.upd_iff]
    | split

theorem State.layerBwd_kept {q : List Instr} {s : State} {c : Nat} {d : Desc} {l : LRec} (h0 : Kept q s) :
    Kept q (State.layerBwd s c d l) := by
  unfold State.layerBwd
  repeat' first
    | (with_reducible first
        | assumption | apply State.listStatus_kept | apply State.readPrec_kept | apply State.complete_kept | apply State.readDw_kept
        | apply State.addWork_kept | apply State.addProduct_kept | apply State.finishWork_kept | apply Kept.ite | apply Kept.ite2)
    | simp only [↓Kept.upd_iff]
    | split

theorem execLayerBwd_kept {q : List Instr} {c : Nat} {n : Nat} {s : State} (h0 : Kept q s) :
    KeptR q (execLayerBwd c n s) := by
  unfold execLayerBwd
  with_reducible repeat' first
    | intro _ | assumption | apply onUnit_kept | apply State.runDesc_kept | apply State.withLayer_kept | apply State.layerBwd_kept

theorem State.lossRun_kept {q : List Instr} {s : State} {c : Nat} {d : Desc} (h0 : Kept q s) :
    Kept q (State.lossRun s c d) := by
  unfold State.lossRun
  repeat' first
    | (with_reducible first
        | intro _ | assumption | apply State.complete_kept | apply State.finishWork_kept | apply State.updDrv_kept
        | apply State.addWork_kept | apply Kept.ite | apply Kept.foldl)
    | simp only [↓Kept.upd_iff]

theorem execLoss_kept {q : List Instr} {c : Nat} {n : Nat} {s : State} (h0 : Kept q s) :
    KeptR q (execLoss c n s) := by
  unfold execLoss
  with_reducible repeat' first | intro _ | assumption | apply onUnit_kept | apply State.runDesc_kept | apply State.lossRun_kept

end Sys2Proof.Machine
end

