-- ==== Sys2Proof/Laws/KeptArrays.lean ====
section
/-! SUPPORT. The queue and the memories' canonical form through the operations of Machine/Arrays.lean. -/

namespace Sys2Proof.Machine

theorem State.eventP_kept {q : List Instr} {s : State} {p : Nat} {src : Nat} {n : Nat} {k : Nat} (h0 : Kept q s) :
    Kept q (State.eventP s p src n k) := by
  unfold State.eventP
  with_reducible repeat' first | assumption | apply State.event_kept

theorem State.updRead_kept {q : List Instr} {s : State} {p : Nat} {key : Nat} {n : Nat} {f : TileRead → TileRead} (h0 : Kept q s) :
    Kept q (State.updRead s p key n f) := by
  unfold State.updRead
  with_reducible repeat' first | assumption | apply State.updDie_kept

theorem State.substitute_kept {q : List Instr} {s : State} {p : Nat} {r : TileRead} (h0 : Kept q s) :
    Kept q (State.substitute s p r) := by
  unfold State.substitute
  repeat' first
    | (with_reducible first | assumption | apply State.updDie_kept | apply State.updChain_kept | apply State.addProduct_kept)
    | simp only [↓Kept.upd_iff]
    | split

theorem State.startMvm_kept {q : List Instr} {s : State} {p : Nat} {n : Nat} {r : TileRead} (h0 : Kept q s) :
    Kept q (State.startMvm s p n r) := by
  unfold State.startMvm
  repeat' first
    | (with_reducible first
        | assumption | apply State.waitPlace_kept | apply State.eventP_kept | apply State.takePlaceOf_kept | apply State.updRead_kept
        | apply State.updTile_kept | apply State.updDie_kept | apply State.setBit_kept | apply Kept.ite)
    | simp only [↓Kept.upd_iff]

theorem State.mvmStart_kept {q : List Instr} {s : State} {p : Nat} {n : Nat} (h0 : Kept q s) :
    Kept q (State.mvmStart s p n) := by
  unfold State.mvmStart
  repeat' first
    | (with_reducible first
        | assumption | apply State.substitute_kept | apply State.startMvm_kept | apply State.eventP_kept | apply Kept.ite)
    | simp only [↓Kept.upd_iff]
    | split

theorem execMvmStart_kept {q : List Instr} {p : Nat} {n : Nat} {s : State} (h0 : Kept q s) :
    KeptR q (execMvmStart p n s) := by
  unfold execMvmStart
  with_reducible repeat' first | assumption | apply onUnit_kept | apply State.mvmStart_kept

theorem State.driftSample_kept {q : List Instr} {s : State} {p : Nat} {pt : Nat} {k : Nat} {taps : List Int} {refs : List (Int × Int)} (h0 : Kept q s) :
    Kept q (State.driftSample s p pt k taps refs) := by
  unfold State.driftSample
  repeat' first
    | (with_reducible first | assumption | apply State.updMus_kept | apply Kept.ite)
    | simp only [↓Kept.upd_iff]

theorem State.leaveRead_kept {q : List Instr} {s : State} {p : Nat} {n : Nat} (h0 : Kept q s) :
    Kept q (State.leaveRead s p n) := by
  unfold State.leaveRead
  repeat' first
    | (with_reducible first | assumption | apply State.setTileState_kept | apply Kept.ite)
    | simp only [↓Kept.upd_iff]

theorem State.finishMvm_kept {q : List Instr} {s : State} {p : Nat} {n : Nat} {r : TileRead} {err : List Int} (h0 : Kept q s) :
    Kept q (State.finishMvm s p n r err) := by
  unfold State.finishMvm
  repeat' first
    | (with_reducible first
        | assumption | apply State.updTile_kept | apply State.updRead_kept | apply State.setBit_kept | apply State.eventP_kept
        | apply State.updChain_kept | apply State.updDie_kept | apply Kept.ite)
    | simp only [↓Kept.upd_iff]

theorem State.mvmComplete_kept {q : List Instr} {s : State} {p : Nat} {n : Nat} {err : List Int} (h0 : Kept q s) :
    Kept q (State.mvmComplete s p n err) := by
  unfold State.mvmComplete
  repeat' first
    | (with_reducible first | assumption | apply State.leaveRead_kept | apply State.finishMvm_kept | apply Kept.ite)
    | split

theorem execMvmComplete_kept {q : List Instr} {p : Nat} {n : Nat} {err : List Int} {s : State} (h0 : Kept q s) :
    KeptR q (execMvmComplete p n err s) := by
  unfold execMvmComplete
  with_reducible repeat' first | assumption | apply onUnit_kept | apply State.mvmComplete_kept

theorem State.partsOf_kept {q : List Instr} {s : State} {p : Nat} {qq : Packet} (h0 : Kept q s) :
    Kept q (State.partsOf s p qq).2 := by
  unfold State.partsOf
  repeat' first
    | (with_reducible first | assumption | apply Kept.ite2)
    | simp only [↓Kept.upd_iff]

theorem State.keepSample_kept {q : List Instr} {s : State} {p : Nat} {r : TileRead} (h0 : Kept q s) :
    Kept q (State.keepSample s p r) := by
  unfold State.keepSample
  repeat' first
    | (with_reducible first | assumption | apply State.eventF_kept | apply Kept.ite)
    | simp only [↓Kept.upd_iff]

theorem State.addPacket_kept {q : List Instr} {s : State} {p : Nat} {qq : Packet} (h0 : Kept q s) :
    Kept q (State.addPacket s p qq) := by
  unfold State.addPacket
  repeat' first
    | (with_reducible first
        | assumption | apply State.partsOf_kept | apply State.updChain_kept | apply State.updRead_kept | apply State.updDie_kept
        | apply State.keepSample_kept | apply Kept.ite)
    | simp only [↓Kept.upd_iff]
    | split

theorem State.seeRefs_kept {q : List Instr} {s : State} {p : Nat} {qq : Packet} (h0 : Kept q s) :
    Kept q (State.seeRefs s p qq) := by
  unfold State.seeRefs
  repeat' first
    | (with_reducible first | assumption | apply State.driftSample_kept | apply Kept.ite)
    | split

theorem State.takePacket_kept {q : List Instr} {s : State} {p : Nat} (h0 : Kept q s) :
    Kept q (State.takePacket s p) := by
  unfold State.takePacket
  repeat' first
    | (with_reducible first
        | assumption | apply State.updDie_kept | apply State.seeRefs_kept | apply State.fetch_kept | apply State.finishWork_kept
        | apply State.chainSettle_kept | apply State.addPacket_kept | apply Kept.ite)
    | simp only [↓Kept.upd_iff]
    | split

theorem execCodePacket_kept {q : List Instr} {p : Nat} {s : State} (h0 : Kept q s) :
    KeptR q (execCodePacket p s) := by
  unfold execCodePacket
  with_reducible repeat' first | assumption | apply onUnit_kept | apply State.takePacket_kept | apply Kept.ite

theorem execDieQuiesce_kept {q : List Instr} {master : Nat} {p : Nat} {on : Bool} {s : State} (h0 : Kept q s) :
    KeptR q (execDieQuiesce master p on s) := by
  unfold execDieQuiesce
  with_reducible repeat' first
    | intro _ | assumption | apply onUnit_kept | apply State.guardedWrite_kept | apply State.setDieQuiesce_kept

end Sys2Proof.Machine
end

