-- ==== Sys2Proof/Laws/KeptAttn.lean ====
section
/-! SUPPORT. The queue and the memories' canonical form through the operations of Machine/Attn.lean. -/

namespace Sys2Proof.Machine

theorem State.ringOrder_kept {q : List Instr} {s : State} {w : Who} {b : List Sys2Proof.Byte} (h0 : Kept q s) :
    Kept q (State.ringOrder s w b).2 := by
  unfold State.ringOrder
  repeat' first
    | (with_reducible first | assumption | apply State.readRecord_kept | apply Kept.ite2)
    | simp only [↓Kept.upd_iff]

theorem State.readStream_kept {q : List Instr} {s : State} {c : Nat} {d : Desc} (h0 : Kept q s) :
    Kept q (State.readStream s c d).2 := by
  unfold State.readStream
  repeat' first
    | (with_reducible first | assumption | apply State.readRecord_kept | apply State.ringOrder_kept | apply Kept.ite2)
    | simp only [↓Kept.upd_iff]
    | split

theorem State.readList_kept {q : List Instr} {s : State} {c : Nat} {d : Desc} (h0 : Kept q s) :
    Kept q (State.readList s c d).2.2 := by
  unfold State.readList
  repeat' first
    | (with_reducible first | intro _ | assumption | apply State.readPrec_kept | apply Kept.ite22 | apply Kept.foldl22)
    | simp only [↓Kept.upd_iff]
    | split

theorem State.addRecords_kept {q : List Instr} {s : State} {c : Nat} {d : Desc} {x : Option Stream} {ps : List Prec} (h0 : Kept q s) :
    Kept q (State.addRecords s c d x ps) := by
  unfold State.addRecords
  repeat' first
    | (with_reducible first | intro _ | assumption | apply State.addProduct_kept | apply Kept.foldl2)
    | simp only [↓Kept.upd_iff]

theorem State.attn_kept {q : List Instr} {s : State} {c : Nat} {d : Desc} (h0 : Kept q s) :
    Kept q (State.attn s c d) := by
  unfold State.attn
  repeat' first
    | (with_reducible first
        | assumption | apply State.complete_kept | apply State.readStream_kept | apply State.readList_kept | apply State.addWork_kept
        | apply State.updFab_kept | apply State.failWork_kept | apply State.finishWork_kept | apply State.addRecords_kept
        | apply Kept.ite | apply Kept.ite22 | refine Kept.snd (by assumption) ?_)
    | simp only [↓Kept.upd_iff]
    | split

theorem execAttnFwd_kept {q : List Instr} {c : Nat} {n : Nat} {s : State} (h0 : Kept q s) :
    KeptR q (execAttnFwd c n s) := by
  unfold execAttnFwd
  with_reducible repeat' first | intro _ | assumption | apply onUnit_kept | apply State.runDesc_kept | apply State.attn_kept

theorem execAttnBwd_kept {q : List Instr} {c : Nat} {n : Nat} {s : State} (h0 : Kept q s) :
    KeptR q (execAttnBwd c n s) := by
  unfold execAttnBwd
  with_reducible repeat' first | intro _ | assumption | apply onUnit_kept | apply State.runDesc_kept | apply State.attn_kept

theorem State.updStream_kept {q : List Instr} {s : State} {o : Owner} {f : Stream → Stream} (h0 : Kept q s) :
    Kept q (State.updStream s o f) := by
  unfold State.updStream
  with_reducible repeat' first | assumption | apply State.updFab_kept

theorem State.failLost_kept {q : List Instr} {s : State} {o : Owner} {lost : Bool} (h0 : Kept q s) :
    Kept q (State.failLost s o lost) := by
  unfold State.failLost
  with_reducible repeat' first | assumption | apply State.failWork_kept | apply Kept.ite

theorem State.sendBlock_kept {q : List Instr} {s : State} {x : Stream} (h0 : Kept q s) :
    Kept q (State.sendBlock s x) := by
  unfold State.sendBlock
  repeat' first
    | (with_reducible first
        | intro _ | assumption | apply getBytes_kept | apply State.updStream_kept | apply State.failWork_kept | apply State.inject_kept
        | apply State.finishWork_kept | apply State.failLost_kept | apply Kept.ite | apply Kept.foldl)
    | simp only [↓Kept.upd_iff]

theorem execRingStepSend_kept {q : List Instr} {c : Nat} {n : Nat} {s : State} (h0 : Kept q s) :
    KeptR q (execRingStepSend c n s) := by
  unfold execRingStepSend
  repeat' first
    | (with_reducible first | assumption | apply onUnit_kept | apply State.sendBlock_kept | apply Kept.ite)
    | split

theorem State.ringReady_kept {q : List Instr} {s : State} {x : Stream} {got : Nat} (h0 : Kept q s) :
    Kept q (State.ringReady s x got) := by
  unfold State.ringReady
  with_reducible repeat' first | assumption | apply State.updTrn_kept

theorem State.landRing_kept {q : List Instr} {s : State} {port : Nat} {qq : List Sys2Proof.Byte} (h0 : Kept q s) :
    KeptO q (State.landRing s port qq) := by
  unfold State.landRing
  repeat' first
    | (with_reducible first
        | intro _ | assumption | apply KeptO.none | apply KeptO.of | apply State.store_kept | apply State.failLost_kept
        | apply State.poisonLines_kept | apply State.failWork_kept | apply State.updStream_kept | apply State.finishWork_kept
        | apply State.ringReady_kept | apply Kept.ite | apply KeptO.ite | apply Kept.foldl)
    | simp only [↓Kept.upd_iff]
    | split

theorem execPktRingData_kept {q : List Instr} {p : Nat} {s : State} (h0 : Kept q s) :
    KeptR q (execPktRingData p s) := by
  unfold execPktRingData
  with_reducible repeat' first | intro _ | assumption | apply onUnit_kept | apply State.handle_kept | apply State.landRing_kept

end Sys2Proof.Machine
end

