-- ==== Sys2Proof/Laws/KeptBoundary.lean ====
section
/-! SUPPORT. The queue and the memories' canonical form through the operations of Machine/Boundary.lean. -/

namespace Sys2Proof.Machine

theorem State.serveMu_kept {q : List Instr} {s : State} {u : Nat} {p : Nat} {st : Nat} (h0 : Kept q s) :
    Kept q (State.serveMu s u p st) := by
  unfold State.serveMu
  with_reducible repeat' first | assumption | apply State.setReg_kept | apply State.updMu_kept | apply State.setFlt_kept

theorem State.imageWords_kept {q : List Instr} {s : State} {f : Nat} {r : Resident} (h0 : Kept q s) :
    Kept q (State.imageWords s f r).2 := by
  unfold State.imageWords
  repeat' first
    | (with_reducible first | assumption | apply State.readMem_kept)
    | simp only [↓Kept.upd_iff]
    | split

theorem State.copyKernels_kept {q : List Instr} {s : State} {e : Nat} (h0 : Kept q s) :
    Kept q (State.copyKernels s e) := by
  unfold State.copyKernels
  repeat' first
    | (with_reducible first | intro _ | assumption | apply State.imageWords_kept | apply State.updDrv_kept | apply Kept.foldl)
    | simp only [↓Kept.upd_iff]

theorem State.serveDrv_kept {q : List Instr} {s : State} {e : Nat} {p : Nat} {st : Nat} (h0 : Kept q s) :
    Kept q (State.serveDrv s e p st) := by
  unfold State.serveDrv
  with_reducible repeat' first
    | assumption | apply State.setReg_kept | apply State.copyKernels_kept | apply State.updDrv_kept | apply State.setFlt_kept

theorem State.askSelfTest_kept {q : List Instr} {s : State} {cls : Nat} {p : Nat} (h0 : Kept q s) :
    Kept q (State.askSelfTest s cls p) := by
  unfold State.askSelfTest
  repeat' first
    | (with_reducible first | assumption | apply Kept.ite)
    | simp only [↓Kept.upd_iff]

theorem State.takeovers_kept {q : List Instr} {s : State} (h0 : Kept q s) :
    Kept q (State.takeovers s) := by
  unfold State.takeovers
  repeat' first
    | (with_reducible first
        | intro _ | assumption | apply State.serveMu_kept | apply State.askSelfTest_kept | apply State.serveDrv_kept | apply Kept.ite
        | apply Kept.foldl)
    | simp only [↓Kept.upd_iff]
    | split

theorem State.unfenceDue_kept {q : List Instr} {s : State} (h0 : Kept q s) :
    Kept q (State.unfenceDue s) := by
  unfold State.unfenceDue
  repeat' first
    | (with_reducible first | intro _ | assumption | apply State.updTile_kept | apply Kept.ite | apply Kept.foldl)
    | simp only [↓Kept.upd_iff]

theorem State.flushLeft_kept {q : List Instr} {s : State} (h0 : Kept q s) :
    Kept q (State.flushLeft s) := by
  unfold State.flushLeft
  with_reducible repeat' first
    | intro _ | assumption | apply State.event_kept | apply State.updPort_kept | apply State.newWindow_kept | apply Kept.ite
    | apply Kept.foldl

theorem State.shepherdWrite_kept {q : List Instr} {s : State} {a : DAddr} {bs : List Sys2Proof.Byte} (h0 : Kept q s) :
    Kept q (State.shepherdWrite s a bs) := by
  unfold State.shepherdWrite
  with_reducible repeat' first | assumption | apply State.store_kept

theorem freeBytes_kept {q : List Instr} {s : State} {a1 : Nat} (h0 : Kept q s) :
    Kept q (freeBytes s a1).2 := by
  induction a1 generalizing s with
  | zero =>
    unfold freeBytes
    with_reducible repeat' first | assumption | apply State.takeFree_kept
  | succ n ih =>
    unfold freeBytes
    with_reducible repeat' first | apply ih | assumption | apply State.takeFree_kept

theorem State.rechoose_kept {q : List Instr} {s : State} {step : Nat} {replay : Bool} (h0 : Kept q s) :
    Kept q (State.rechoose s step replay) := by
  unfold State.rechoose
  repeat' first
    | (with_reducible first
        | intro _ | assumption | apply freeBytes_kept | apply State.shepherdWrite_kept | apply Kept.ite | apply Kept.foldl)
    | simp only [↓Kept.upd_iff]

theorem State.clearAttempt_kept {q : List Instr} {s : State} {step : Nat} (h0 : Kept q s) :
    Kept q (State.clearAttempt s step) := by
  unfold State.clearAttempt
  repeat' first
    | (with_reducible first | intro _ | assumption | apply State.setShr_kept | apply Kept.foldl)
    | simp only [↓Kept.upd_iff]

theorem State.dropRingData_kept {q : List Instr} {s : State} (h0 : Kept q s) :
    Kept q (State.dropRingData s) := by
  unfold State.dropRingData
  with_reducible repeat' first | intro _ | assumption | apply State.freePacket_kept | apply Kept.foldl

theorem State.beginStep_kept {q : List Instr} {s : State} {c : Nat} (h0 : Kept q s) :
    Kept q (State.beginStep s c) := by
  unfold State.beginStep
  repeat' first
    | (with_reducible first
        | assumption | apply State.closeStep_kept | apply State.updTrn_kept | apply State.newWindows_kept | apply State.setFld_kept
        | apply State.setPhase_kept | apply State.setStepState_kept | apply Kept.ite)
    | simp only [↓Kept.upd_iff]

theorem State.failBegin_kept {q : List Instr} {s : State} {c : Nat} {d : Desc} {st : Nat} (h0 : Kept q s) :
    Kept q (State.failBegin s c d st) := by
  unfold State.failBegin
  with_reducible repeat' first
    | assumption | apply State.setReg_kept | apply State.updTrn_kept | apply State.complete_kept | apply Kept.ite

theorem State.openStep_kept {q : List Instr} {s : State} {c : Nat} {d : Desc} {table : List Sys2Proof.Byte} (h0 : Kept q s) :
    Kept q (State.openStep s c d table) := by
  unfold State.openStep
  with_reducible repeat' first
    | assumption | apply State.drainAll_kept | apply State.setFld_kept | apply State.store_kept | apply State.clearAttempt_kept
    | apply State.setReg_kept | apply State.updTrn_kept | apply State.setPhase_kept | apply State.lend_kept | apply Kept.ite

theorem State.boundaryWork_kept {q : List Instr} {s : State} {d : Desc} (h0 : Kept q s) :
    Kept q (State.boundaryWork s d).2 := by
  unfold State.boundaryWork
  repeat' first
    | (with_reducible first
        | intro _ | assumption | apply State.unfenceDue_kept | apply State.takeovers_kept | apply State.flushLeft_kept
        | apply State.applyPending_kept | apply State.rechoose_kept | apply State.dropRingData_kept | apply Kept.ite | apply Kept.ite2
        | apply Kept.foldl)
    | simp only [↓Kept.upd_iff]

theorem State.stepBegin_kept {q : List Instr} {s : State} {c : Nat} {d : Desc} (h0 : Kept q s) :
    Kept q (State.stepBegin s c d) := by
  unfold State.stepBegin
  repeat' first
    | (with_reducible first
        | assumption | apply State.failBegin_kept | apply State.denyAt_kept | apply State.readRecord_kept
        | apply State.boundaryWork_kept | apply State.beginStep_kept | apply State.complete_kept | apply State.openStep_kept
        | apply Kept.ite | apply Kept.ite2)
    | simp only [↓Kept.upd_iff]
    | split

theorem execStepBegin_kept {q : List Instr} {c : Nat} {n : Nat} {s : State} (h0 : Kept q s) :
    KeptR q (execStepBegin c n s) := by
  unfold execStepBegin
  with_reducible repeat' first | intro _ | assumption | apply onUnit_kept | apply State.runDesc_kept | apply State.stepBegin_kept

end Sys2Proof.Machine
end

