-- ==== Sys2Proof/Laws/KeptTrain.lean ====
section
/-! SUPPORT. The queue and the memories' canonical form through the operations of Machine/Train.lean. -/

namespace Sys2Proof.Machine

theorem State.sendControl_kept {q : List Instr} {s : State} {cls : Nat} {dst : Nat} {group : Nat} {step : Nat} {ws : List Nat} (h0 : Kept q s) :
    Kept q (State.sendControl s cls dst group step ws) := by
  unfold State.sendControl
  with_reducible repeat' first | assumption | apply State.inject_kept

theorem State.branchOn_kept {q : List Instr} {s : State} {c : Nat} {d : Desc} {v : Option Nat} (h0 : Kept q s) :
    Kept q (State.branchOn s c d v) := by
  unfold State.branchOn
  repeat' first
    | (with_reducible first | assumption | apply State.setCtx_kept | apply State.complete_kept | apply Kept.ite)
    | simp only [↓Kept.upd_iff]

theorem finBranch_kept {q : List Instr} {x : Coll} {s : State} (h0 : Kept q s) :
    Kept q (finBranch x s) := by
  unfold finBranch
  repeat' first
    | (with_reducible first | assumption | apply State.branchOn_kept | apply Coll.finish_kept)
    | split

theorem State.commitWatch_kept {q : List Instr} {s : State} {clear : Bool} (h0 : Kept q s) :
    Kept q (State.commitWatch s clear).2 := by
  unfold State.commitWatch
  repeat' first
    | (with_reducible first
        | assumption | apply State.readRecord_kept | apply State.store_kept | apply State.eventF_kept | apply Kept.ite2)
    | simp only [↓Kept.upd_iff]
    | split

theorem State.commit_kept {q : List Instr} {s : State} {clear : Bool} (h0 : Kept q s) :
    Kept q (State.commit s clear).2 := by
  unfold State.commit
  with_reducible repeat' first
    | assumption | apply State.commitWatch_kept | apply State.drainAll_kept | apply State.setFld_kept | apply State.updTrn_kept
    | apply State.raiseFault_kept | apply State.eventF_kept | apply State.setPhase_kept | apply State.setStepState_kept
    | apply State.setReg_kept | apply State.noteCommit_kept | apply Kept.ite

theorem State.dropStep_kept {q : List Instr} {s : State} (h0 : Kept q s) :
    Kept q (State.dropStep s) := by
  unfold State.dropStep
  repeat' first
    | (with_reducible first
        | assumption | apply State.updFab_kept | apply State.closeStep_kept | apply State.updTrn_kept | apply Kept.ite)
    | simp only [↓Kept.upd_iff]

theorem State.settleStep_kept {q : List Instr} {s : State} {dec : Nat} {or_ : Nat} {count : Nat} (h0 : Kept q s) :
    Kept q (State.settleStep s dec or_ count) := by
  unfold State.settleStep
  repeat' first
    | (with_reducible first
        | assumption | apply State.updFab_kept | apply State.setReg_kept | apply State.updTrn_kept | apply State.setFlt_kept
        | apply State.sendControl_kept | apply State.commit_kept | apply State.eventF_kept | apply State.store_kept
        | apply State.complete_kept | apply State.dropStep_kept | apply Kept.ite | apply Kept.ite2)
    | simp only [↓Kept.upd_iff]
    | split

theorem State.postHeld_kept {q : List Instr} {s : State} (h0 : Kept q s) :
    Kept q (State.postHeld s) := by
  unfold State.postHeld
  with_reducible repeat' first | assumption | apply State.postMbx_kept

theorem State.barrierResult_kept {q : List Instr} {s : State} {or_ : Nat} {count : Nat} (h0 : Kept q s) :
    Kept q (State.barrierResult s or_ count) := by
  unfold State.barrierResult
  with_reducible repeat' first
    | assumption | apply State.settleStep_kept | apply State.postHeld_kept | apply State.updTrn_kept | apply State.setStepState_kept
    | apply Kept.ite

theorem finExchange_kept {q : List Instr} {x : Coll} {s : State} (h0 : Kept q s) :
    Kept q (finExchange x s) := by
  unfold finExchange
  repeat' first
    | (with_reducible first | assumption | apply State.barrierResult_kept | apply State.settleStep_kept | apply finBranch_kept)
    | split

theorem State.branch_kept {q : List Instr} {s : State} {c : Nat} {d : Desc} (h0 : Kept q s) :
    Kept q (State.branch s c d) := by
  unfold State.branch
  repeat' first
    | (with_reducible first
        | intro _ | assumption | apply State.beginColl_kept | apply State.working_kept | apply finExchange_kept
        | apply State.branchOn_kept | apply Kept.ite)
    | simp only [↓Kept.upd_iff]

theorem execBranch_kept {q : List Instr} {c : Nat} {n : Nat} {s : State} (h0 : Kept q s) :
    KeptR q (execBranch c n s) := by
  unfold execBranch
  with_reducible repeat' first | intro _ | assumption | apply onUnit_kept | apply State.runDesc_kept | apply State.branch_kept

theorem State.settleSpare_kept {q : List Instr} {s : State} (h0 : Kept q s) :
    Kept q (State.settleSpare s) := by
  unfold State.settleSpare
  repeat' first
    | (with_reducible first
        | assumption | apply State.settleStep_kept | apply State.raiseFault_kept | apply State.setBit_kept | apply Kept.ite)
    | simp only [↓Kept.upd_iff]
    | split

theorem State.stepEnd_kept {q : List Instr} {s : State} {c : Nat} {d : Desc} (h0 : Kept q s) :
    Kept q (State.stepEnd s c d) := by
  unfold State.stepEnd
  repeat' first
    | (with_reducible first
        | intro _ | assumption | apply State.setNorm_kept | apply State.working_kept | apply State.setStepState_kept
        | apply State.updTrn_kept | apply State.settleStep_kept | apply State.settleSpare_kept | apply State.beginColl_kept
        | apply finExchange_kept | apply Kept.ite)
    | simp only [↓Kept.upd_iff]

theorem execStepEnd_kept {q : List Instr} {c : Nat} {n : Nat} {s : State} (h0 : Kept q s) :
    KeptR q (execStepEnd c n s) := by
  unfold execStepEnd
  with_reducible repeat' first | intro _ | assumption | apply onUnit_kept | apply State.runDesc_kept | apply State.stepEnd_kept

theorem State.barrierTimeout_kept {q : List Instr} {s : State} (h0 : Kept q s) :
    Kept q (State.barrierTimeout s) := by
  unfold State.barrierTimeout
  repeat' first
    | (with_reducible first
        | intro _ | assumption | apply State.updTrn_kept | apply State.sendControl_kept | apply State.settleStep_kept
        | apply State.raiseFault_kept | apply Kept.ite | apply Kept.foldl)
    | simp only [↓Kept.upd_iff]
    | split

theorem execBarrierResultTimeout_kept {q : List Instr} {s : State} (h0 : Kept q s) :
    KeptR q (execBarrierResultTimeout s) := by
  unfold execBarrierResultTimeout
  with_reducible repeat' first | assumption | apply KeptR.of | apply State.barrierTimeout_kept | apply Kept.ite

theorem State.repostHeld_kept {q : List Instr} {s : State} (h0 : Kept q s) :
    Kept q (State.repostHeld s) := by
  unfold State.repostHeld
  repeat' first
    | (with_reducible first | assumption | apply State.postHeld_kept | apply Kept.ite)
    | split

theorem execHeldBarrierRepost_kept {q : List Instr} {s : State} (h0 : Kept q s) :
    KeptR q (execHeldBarrierRepost s) := by
  unfold execHeldBarrierRepost
  with_reducible repeat' first | assumption | apply KeptR.of | apply State.repostHeld_kept | apply Kept.ite

theorem State.heldReply_kept {q : List Instr} {s : State} (h0 : Kept q s) :
    Kept q (State.heldReply s) := by
  unfold State.heldReply
  repeat' first
    | (with_reducible first
        | intro _ | assumption | apply State.setMbx_kept | apply State.beginColl_kept | apply State.updTrn_kept | apply finExchange_kept
        | apply State.eventF_kept | apply Kept.ite)
    | simp only [↓Kept.upd_iff]
    | split

theorem execHeldBarrierReply_kept {q : List Instr} {s : State} (h0 : Kept q s) :
    KeptR q (execHeldBarrierReply s) := by
  unfold execHeldBarrierReply
  with_reducible repeat' first | assumption | apply KeptR.of | apply State.heldReply_kept | apply Kept.ite

theorem State.answerAsk_kept {q : List Instr} {s : State} {qq : List Sys2Proof.Byte} (h0 : Kept q s) :
    Kept q (State.answerAsk s qq) := by
  unfold State.answerAsk
  repeat' first
    | (with_reducible first | assumption | apply State.sendControl_kept)
    | split

theorem State.takeAnswer_kept {q : List Instr} {s : State} {qq : List Sys2Proof.Byte} (h0 : Kept q s) :
    Kept q (State.takeAnswer s qq) := by
  unfold State.takeAnswer
  repeat' first
    | (with_reducible first | assumption | apply State.settleStep_kept | apply Kept.ite)
    | split

theorem State.takeControl_kept {q : List Instr} {s : State} {p : Nat} {qq : List Sys2Proof.Byte} (h0 : Kept q s) :
    KeptO q (State.takeControl s p qq) := by
  unfold State.takeControl
  repeat' first
    | (with_reducible first
        | intro _ | assumption | apply KeptO.none | apply KeptO.of | apply State.collArrive_kept | apply finExchange_kept
        | apply State.answerAsk_kept | apply State.takeAnswer_kept | apply KeptO.ite)
    | simp only [↓Kept.upd_iff]

theorem execPktCollectiveControl_kept {q : List Instr} {p : Nat} {s : State} (h0 : Kept q s) :
    KeptR q (execPktCollectiveControl p s) := by
  unfold execPktCollectiveControl
  with_reducible repeat' first | intro _ | assumption | apply onUnit_kept | apply State.handle_kept | apply State.takeControl_kept

theorem State.takeNotice_kept {q : List Instr} {s : State} {qq : List Sys2Proof.Byte} (h0 : Kept q s) :
    KeptO q (State.takeNotice s qq) := by
  unfold State.takeNotice
  with_reducible repeat' first
    | assumption | apply KeptO.none | apply KeptO.of | apply State.setFlt_kept | apply Kept.ite | apply KeptO.ite

theorem execSpareReadyNotice_kept {q : List Instr} {p : Nat} {s : State} (h0 : Kept q s) :
    KeptR q (execSpareReadyNotice p s) := by
  unfold execSpareReadyNotice
  with_reducible repeat' first | intro _ | assumption | apply onUnit_kept | apply State.handle_kept | apply State.takeNotice_kept

theorem State.takeForwarded_kept {q : List Instr} {s : State} {qq : List Sys2Proof.Byte} (h0 : Kept q s) :
    KeptO q (State.takeForwarded s qq) := by
  unfold State.takeForwarded
  repeat' first
    | (with_reducible first
        | assumption | apply KeptO.none | apply KeptO.of | apply State.settleSpare_kept | apply State.updTrn_kept
        | apply State.setFlt_kept | apply KeptO.ite)
    | simp only [↓Kept.upd_iff]

theorem execSpareDecision_kept {q : List Instr} {p : Nat} {s : State} (h0 : Kept q s) :
    KeptR q (execSpareDecision p s) := by
  unfold execSpareDecision
  with_reducible repeat' first | intro _ | assumption | apply onUnit_kept | apply State.handle_kept | apply State.takeForwarded_kept

theorem State.spareTimeout_kept {q : List Instr} {s : State} (h0 : Kept q s) :
    Kept q (State.spareTimeout s) := by
  unfold State.spareTimeout
  repeat' first
    | (with_reducible first | assumption | apply State.setFlt_kept | apply State.settleStep_kept | apply Kept.ite)
    | simp only [↓Kept.upd_iff]
    | split

theorem execSpareNoticeTimeout_kept {q : List Instr} {s : State} (h0 : Kept q s) :
    KeptR q (execSpareNoticeTimeout s) := by
  unfold execSpareNoticeTimeout
  with_reducible repeat' first | assumption | apply KeptR.of | apply State.spareTimeout_kept | apply Kept.ite

theorem State.evalBegin_kept {q : List Instr} {s : State} {c : Nat} {d : Desc} (h0 : Kept q s) :
    Kept q (State.evalBegin s c d) := by
  unfold State.evalBegin
  repeat' first
    | (with_reducible first
        | assumption | apply State.updTrn_kept | apply State.drainAll_kept | apply State.newWindows_kept | apply State.complete_kept
        | apply State.setFld_kept | apply State.setPhase_kept | apply State.setStepState_kept | apply Kept.ite)
    | simp only [↓Kept.upd_iff]

theorem execEvalBegin_kept {q : List Instr} {c : Nat} {n : Nat} {s : State} (h0 : Kept q s) :
    KeptR q (execEvalBegin c n s) := by
  unfold execEvalBegin
  with_reducible repeat' first
    | intro _ | assumption | apply onUnit_kept | apply State.runDesc_kept | apply State.evalBegin_kept | apply Kept.ite

theorem State.evalEnd_kept {q : List Instr} {s : State} {c : Nat} {d : Desc} (h0 : Kept q s) :
    Kept q (State.evalEnd s c d) := by
  unfold State.evalEnd
  repeat' first
    | (with_reducible first
        | assumption | apply State.complete_kept | apply State.newWindows_kept | apply State.ringRecord_kept | apply State.updTrn_kept
        | apply State.setReg_kept | apply Kept.ite)
    | simp only [↓Kept.upd_iff]

theorem execEvalEnd_kept {q : List Instr} {c : Nat} {n : Nat} {s : State} (h0 : Kept q s) :
    KeptR q (execEvalEnd c n s) := by
  unfold execEvalEnd
  with_reducible repeat' first
    | intro _ | assumption | apply onUnit_kept | apply State.runDesc_kept | apply State.evalEnd_kept | apply Kept.ite

end Sys2Proof.Machine
end

