-- ==== Sys2Proof/Laws/KeptTimeSync.lean ====
section
/-! SUPPORT. The queue and the memories' canonical form through the operations of Machine/TimeSync.lean. -/

namespace Sys2Proof.Machine

theorem State.sendSync_kept {q : List Instr} {s : State} {master : Nat} {but : Option Nat} (h0 : Kept q s) :
    Kept q (State.sendSync s master but) := by
  unfold State.sendSync
  with_reducible repeat' first | intro _ | assumption | apply State.queuePacket_kept | apply Kept.ite | apply Kept.foldl

theorem execTimeSyncSend_kept {q : List Instr} {s : State} (h0 : Kept q s) :
    KeptR q (execTimeSyncSend s) := by
  unfold execTimeSyncSend
  with_reducible repeat' first | assumption | apply KeptR.of | apply State.sendSync_kept | apply Kept.ite

theorem State.adjustTime_kept {q : List Instr} {s : State} {ofs : Int} (h0 : Kept q s) :
    Kept q (State.adjustTime s ofs) := by
  unfold State.adjustTime
  repeat' first
    | (with_reducible first | assumption | apply State.setFld_kept | apply State.updFab_kept | apply Kept.ite)
    | simp only [↓Kept.upd_iff]

theorem State.takeSync_kept {q : List Instr} {s : State} {p : Nat} {delay : Nat} {qq : List Sys2Proof.Byte} (h0 : Kept q s) :
    Kept q (State.takeSync s p delay qq) := by
  unfold State.takeSync
  repeat' first
    | (with_reducible first
        | assumption | apply State.updFab_kept | apply State.setBit_kept | apply State.setFld_kept | apply State.adjustTime_kept
        | apply State.sendSync_kept | apply Kept.ite)
    | simp only [↓Kept.upd_iff]

theorem execPktTimeSync_kept {q : List Instr} {p : Nat} {delay : Nat} {s : State} (h0 : Kept q s) :
    KeptR q (execPktTimeSync p delay s) := by
  unfold execPktTimeSync
  with_reducible repeat' first
    | intro _ | assumption | apply KeptO.of | apply onUnit_kept | apply State.handle_kept | apply State.takeSync_kept

theorem State.unlockTime_kept {q : List Instr} {s : State} (h0 : Kept q s) :
    Kept q (State.unlockTime s) := by
  unfold State.unlockTime
  with_reducible repeat' first | assumption | apply State.updFab_kept | apply State.clrBit_kept

theorem execTimeSyncLoss_kept {q : List Instr} {s : State} (h0 : Kept q s) :
    KeptR q (execTimeSyncLoss s) := by
  unfold execTimeSyncLoss
  with_reducible repeat' first | assumption | apply KeptR.of | apply State.unlockTime_kept

theorem execMasterConflictClear_kept {q : List Instr} {s : State} (h0 : Kept q s) :
    KeptR q (execMasterConflictClear s) := by
  unfold execMasterConflictClear
  with_reducible repeat' first | assumption | apply KeptR.of | apply State.clrBit_kept

end Sys2Proof.Machine
end

