-- ==== Sys2Proof/Laws/KeptPrecond.lean ====
section
/-! SUPPORT. The queue and the memories' canonical form through the operations of Machine/Precond.lean. -/

namespace Sys2Proof.Machine

theorem Pass.stripeGrad_kept {q : List Instr} {x : Pass} {e : Nat} {sp : Span} {j : Nat} (h0 : Kept q x.s) :
    Kept q (Pass.stripeGrad x e sp j).2.s := by
  unfold Pass.stripeGrad
  repeat' first
    | (with_reducible first | intro _ | assumption | apply Pass.readAs_kept | refine Kept.foldlBy (fun p : _ × Pass => p.2.s) ?_ ?_)
    | simp only [↓Kept.upd_iff]

theorem State.statCounts_kept {q : List Instr} {s : State} {u : Nat} {k : Nat} {chains : List Cond} {dirs : List (List (Nat × Cond))} (h0 : Kept q s) :
    Kept q (State.statCounts s u k chains dirs) := by
  unfold State.statCounts
  repeat' first
    | (with_reducible first | intro _ | assumption | apply State.tileCounts_kept | apply Kept.foldl)
    | simp only [↓Kept.upd_iff]

theorem statWork_kept {q : List Instr} {e : Nat} {u : Nat} {t0 : Nat} {rule : Rule} {clip : Nat} {sp : Span} {j : Nat} {hd : Stripe} {g : GradRows} {l : Mat} {r : Mat} {cnt : StatCnt} {x : Pass} (h0 : Kept q x.s) :
    Kept q (statWork e u t0 rule clip sp j hd g l r cnt x).2.s := by
  unfold statWork
  repeat' first
    | (with_reducible first
        | intro _ | assumption | apply State.raiseCond_kept | apply State.statCounts_kept | apply Pass.writeAs_kept
        | refine Kept.foldlBy (fun p : Pass => p.s) ?_ ?_)
    | split

theorem statStripe_kept {q : List Instr} {k : Nat} {e : Nat} {u : Nat} {tbase : Nat} {table : List Sys2Proof.Byte} {clip : Nat} {i : Nat} {j : Nat} {acc : StatCnt × Pass} (h0 : Kept q acc.2.s) :
    Kept q (statStripe k e u tbase table clip i j acc).2.s := by
  unfold statStripe
  repeat' first
    | (with_reducible first | assumption | apply Pass.readAs_kept | apply Pass.stripeGrad_kept | apply statWork_kept)
    | simp only [↓Kept.upd_iff]
    | split

theorem statSpan_kept {q : List Instr} {k : Nat} {e : Nat} {u : Nat} {tbase : Nat} {table : List Sys2Proof.Byte} {clip : Nat} {acc : StatCnt × Pass} {i : Nat} (h0 : Kept q acc.2.s) :
    Kept q (statSpan k e u tbase table clip acc i).2.s := by
  unfold statSpan
  repeat' first
    | (with_reducible first
        | intro _ | assumption | apply State.setBit_kept | apply statStripe_kept | refine Kept.foldlBy (fun p : _ × Pass => p.2.s) ?_ ?_)
    | simp only [↓Kept.upd_iff]
    | split

theorem State.stepClip_kept {q : List Instr} {s : State} {c : Nat} (h0 : Kept q s) :
    Kept q (State.stepClip s c).2 := by
  unfold State.stepClip
  repeat' first
    | (with_reducible first | assumption | apply State.takeFree_kept | apply Kept.ite2)
    | simp only [↓Kept.upd_iff]
    | split

theorem State.overlayEngine_kept {q : List Instr} {s : State} {ofs : Nat} {words : Nat} {e : Nat} (h0 : Kept q s) :
    Kept q (State.overlayEngine s ofs words e) := by
  unfold State.overlayEngine
  with_reducible repeat' first | assumption | apply State.takeFree_kept | apply State.updDrv_kept

theorem State.loadRoutine_kept {q : List Instr} {s : State} {part : Nat} {ofs : Nat} {words : Nat} (h0 : Kept q s) :
    Kept q (State.loadRoutine s part ofs words) := by
  unfold State.loadRoutine
  with_reducible repeat' first | intro _ | assumption | apply State.trimImages_kept | apply State.overlayEngine_kept | apply Kept.foldl

theorem State.precondEnd_kept {q : List Instr} {d : Desc} {r : ShrPass} {s : State} (h0 : Kept q s) :
    Kept q (State.precondEnd d r s) := by
  unfold State.precondEnd
  with_reducible repeat' first | assumption | apply State.endRecord_kept

theorem State.precond_kept {q : List Instr} {s : State} {c : Nat} {d : Desc} {clipOf : State → Nat × State} {f : ShrPass → Nat → Nat → List Nat → List Nat → Pass → SpanOut} (h0 : Kept q s) (hclipOf : ∀ b0, Kept q b0 → Kept q (clipOf b0).2) (hf : ∀ b0 b1 b2 b3 b4 b5, Kept q b5.s → Kept q (f b0 b1 b2 b3 b4 b5).x.s) :
    Kept q (State.precond s c d clipOf f) := by
  unfold State.precond
  repeat' first
    | (with_reducible first
        | intro _ | assumption | apply State.goOn_kept | apply State.precondEnd_kept | apply State.complete_kept
        | apply State.denyAt_kept | apply State.readRecord_kept | apply State.loadRoutine_kept | apply hclipOf | apply hf
        | apply Kept.ite)
    | simp only [↓Kept.upd_iff]
    | split

theorem statStep_kept {q : List Instr} {r : ShrPass} {k : Nat} {i : Nat} {cnt : List Nat} {share : List Nat} {x : Pass} (h0 : Kept q x.s) :
    Kept q (statStep r k i cnt share x).x.s := by
  unfold statStep
  with_reducible repeat' first | assumption | apply statSpan_kept

theorem State.precondStat_kept {q : List Instr} {s : State} {c : Nat} {d : Desc} (h0 : Kept q s) :
    Kept q (State.precondStat s c d) := by
  unfold State.precondStat
  with_reducible repeat' first
    | intro _ | assumption | apply State.precond_kept | apply State.stepClip_kept | apply tearing_kept | apply statStep_kept

theorem execPrecondStat_kept {q : List Instr} {c : Nat} {n : Nat} {s : State} (h0 : Kept q s) :
    KeptR q (execPrecondStat c n s) := by
  unfold execPrecondStat
  with_reducible repeat' first | intro _ | assumption | apply onUnit_kept | apply State.runDesc_kept | apply State.precondStat_kept

theorem rootStore_kept {q : List Instr} {k : Nat} {e : Nat} {base : Nat} {stamp : Nat} {hd : Stripe} {cnt : RootCnt} {x : Pass} {n : Nat} {a8 : Option Mat} (h0 : Kept q x.s) :
    Kept q (rootStore k e base stamp hd cnt x n a8).2.s := by
  unfold rootStore
  repeat' first
    | (with_reducible first | assumption | apply Pass.writeAs_kept | apply State.eventF_kept | apply Kept.ite)
    | simp only [↓Kept.upd_iff]
    | split

theorem rootFit_kept {q : List Instr} {k : Nat} {e : Nat} {rule : Rule} {base : Nat} {stamp : Nat} {hd : Stripe} {cnt : RootCnt} {l : List Sys2Proof.Byte × Pass} (h0 : Kept q l.2.s) :
    Kept q (rootFit k e rule base stamp hd cnt l).2.s := by
  unfold rootFit
  with_reducible repeat' first | assumption | apply rootStore_kept | apply State.raiseCond_kept

theorem rootTry_kept {q : List Instr} {k : Nat} {e : Nat} {rule : Rule} {base : Nat} {stamp : Nat} {hd : Stripe} {cnt : RootCnt} {x : Pass} (h0 : Kept q x.s) :
    Kept q (rootTry k e rule base stamp hd cnt x).2.s := by
  unfold rootTry
  repeat' first
    | (with_reducible first | assumption | apply Pass.readAs_kept | apply rootFit_kept)
    | simp only [↓Kept.upd_iff]
    | split

theorem rootStripe_kept {q : List Instr} {k : Nat} {e : Nat} {table : List Sys2Proof.Byte} {force : Bool} {i : Nat} {j : Nat} {ord : Nat} {acc : RootCnt × Pass} (h0 : Kept q acc.2.s) :
    Kept q (rootStripe k e table force i j ord acc).2.s := by
  unfold rootStripe
  repeat' first
    | (with_reducible first | assumption | apply Pass.readAs_kept | apply rootTry_kept)
    | simp only [↓Kept.upd_iff]
    | split

theorem rootSpan_kept {q : List Instr} {k : Nat} {part : Nat} {table : List Sys2Proof.Byte} {force : Bool} {dealt : Nat} {acc : RootCnt × Pass} {i : Nat} (h0 : Kept q acc.2.s) :
    Kept q (rootSpan k part table force dealt acc i).2.s := by
  unfold rootSpan
  repeat' first
    | (with_reducible first | intro _ | assumption | apply rootStripe_kept | refine Kept.foldlBy (fun p : _ × Pass => p.2.s) ?_ ?_)
    | simp only [↓Kept.upd_iff]
    | split

theorem rootStep_kept {q : List Instr} {r : ShrPass} {k : Nat} {i : Nat} {cnt : List Nat} {share : List Nat} {x : Pass} (h0 : Kept q x.s) :
    Kept q (rootStep r k i cnt share x).x.s := by
  unfold rootStep
  with_reducible repeat' first | assumption | apply rootSpan_kept

theorem State.precondRoot_kept {q : List Instr} {s : State} {c : Nat} {d : Desc} (h0 : Kept q s) :
    Kept q (State.precondRoot s c d) := by
  unfold State.precondRoot
  with_reducible repeat' first | intro _ | assumption | apply State.precond_kept | apply tearing_kept | apply rootStep_kept

theorem execPrecondRoot_kept {q : List Instr} {c : Nat} {n : Nat} {s : State} (h0 : Kept q s) :
    KeptR q (execPrecondRoot c n s) := by
  unfold execPrecondRoot
  with_reducible repeat' first | intro _ | assumption | apply onUnit_kept | apply State.runDesc_kept | apply State.precondRoot_kept

theorem spanStep_kept {q : List Instr} {r : ShrPass} {a1 : Nat} {a2 : Nat} {a3 : List Nat} {a4 : List Nat} {a5 : Pass} (h0 : Kept q a5.s) :
    Kept q (spanStep r a1 a2 a3 a4 a5).x.s := by
  unfold spanStep
  generalize r.op = o
  split
  · exact normStep_kept h0
  · exact updRun_kept h0
  · exact statStep_kept h0
  · exact rootStep_kept h0

theorem State.cutUnit_kept {q : List Instr} {s : State} {r : ShrPass} {u : PassUnit} {share : List Nat} (h0 : Kept q s) :
    Kept q (State.cutUnit s r u share).2 := by
  unfold State.cutUnit
  repeat' first
    | (with_reducible first | assumption | apply State.takeFree_kept | apply spanStep_kept | apply State.tear_kept | apply Kept.ite)
    | simp only [↓Kept.upd_iff]
    | split

theorem State.cutPasses_kept {q : List Instr} {s : State} (h0 : Kept q s) :
    Kept q (State.cutPasses s) := by
  unfold State.cutPasses
  with_reducible repeat' first
    | intro _ | assumption | apply State.cutUnit_kept | apply State.updTrn_kept | apply Kept.foldl | apply Kept.foldl2

end Sys2Proof.Machine
end

