-- ==== Sys2Proof/Laws/KeptFailSafe.lean ====
section
/-! SUPPORT. The queue and the memories' canonical form through the operations of Machine/FailSafe.lean. -/

namespace Sys2Proof.Machine

theorem State.setClk_kept {q : List Instr} {s : State} {v : Nat} (h0 : Kept q s) :
    Kept q (State.setClk s v) := by
  unfold State.setClk
  repeat' first
    | (with_reducible first | assumption | apply State.setFld_kept)
    | simp only [↓Kept.upd_iff]

theorem State.setBoot_kept {q : List Instr} {s : State} {st : Nat} (h0 : Kept q s) :
    Kept q (State.setBoot s st) := by
  unfold State.setBoot
  with_reducible repeat' first | assumption | apply State.raiseIrq_kept | apply State.setFld_kept | apply Kept.ite

theorem State.announce_kept {q : List Instr} {s : State} {st : Nat} {err : Nat} (h0 : Kept q s) :
    Kept q (State.announce s st err) := by
  unfold State.announce
  with_reducible repeat' first | assumption | apply State.postMbx_kept | apply State.setBoot_kept | apply State.setFld_kept

theorem State.stopDie_kept {q : List Instr} {s : State} {p : Nat} (h0 : Kept q s) :
    Kept q (State.stopDie s p) := by
  unfold State.stopDie
  with_reducible repeat' first | intro _ | assumption | apply State.setFld_kept | apply State.updDie_kept | apply Kept.foldl

theorem State.abandonMig_kept {q : List Instr} {s : State} {k : Nat} (h0 : Kept q s) :
    Kept q (State.abandonMig s k) := by
  unfold State.abandonMig
  repeat' first
    | (with_reducible first | assumption | apply State.setReg_kept)
    | simp only [↓Kept.upd_iff]
    | simp only [↓Kept.updMem_iff]
    | split

theorem State.putRecs_kept {q : List Instr} {s : State} {rs : Map BootRec} (h0 : Kept q s) :
    Kept q (State.putRecs s rs) := by
  unfold State.putRecs
  repeat' first
    | (with_reducible first | assumption | apply Kept.ite)
    | simp only [↓Kept.upd_iff]

theorem State.takeRecs_kept {q : List Instr} {s : State} (h0 : Kept q s) :
    Kept q (State.takeRecs s) := by
  unfold State.takeRecs
  repeat' first
    | (with_reducible first | assumption)
    | simp only [↓Kept.upd_iff]

theorem State.tearRec_kept {q : List Instr} {s : State} (h0 : Kept q s) :
    Kept q (State.tearRec s) := by
  unfold State.tearRec
  repeat' first
    | (with_reducible first | assumption)
    | simp only [↓Kept.upd_iff]

theorem State.setRec_kept {q : List Instr} {s : State} {t : Nat} {r : BootRec} (h0 : Kept q s) :
    Kept q (State.setRec s t r) := by
  unfold State.setRec
  with_reducible repeat' first | assumption | apply State.putRecs_kept | apply State.setFld_kept

theorem State.revertTrial_kept {q : List Instr} {s : State} {t : Nat} (h0 : Kept q s) :
    Kept q (State.revertTrial s t) := by
  unfold State.revertTrial
  with_reducible repeat' first | assumption | apply State.setRec_kept

theorem State.fwResult_kept {q : List Instr} {s : State} {r : Nat} (h0 : Kept q s) :
    Kept q (State.fwResult s r) := by
  unfold State.fwResult
  with_reducible repeat' first | assumption | apply State.setFld_kept | apply State.clrBit_kept

theorem State.cutWrite_kept {q : List Instr} {s : State} (h0 : Kept q s) :
    Kept q (State.cutWrite s) := by
  unfold State.cutWrite
  repeat' first
    | (with_reducible first | assumption | apply State.fwResult_kept | apply Kept.ite)
    | simp only [↓Kept.upd_iff]

theorem State.cutLoad_kept {q : List Instr} {s : State} (h0 : Kept q s) :
    Kept q (State.cutLoad s) := by
  unfold State.cutLoad
  repeat' first
    | (with_reducible first
        | intro _ | assumption | apply State.fwResult_kept | apply State.revertTrial_kept | apply State.clrBit_kept | apply Kept.foldl)
    | simp only [↓Kept.upd_iff]
    | split

theorem State.stopUnits_kept {q : List Instr} {s : State} (h0 : Kept q s) :
    Kept q (State.stopUnits s) := by
  unfold State.stopUnits
  repeat' first
    | (with_reducible first
        | intro _ | assumption | apply State.stopDie_kept | apply State.cutPasses_kept | apply State.updTrn_kept
        | apply State.setFlt_kept | apply State.updFab_kept | apply State.refreshStack_kept | apply State.abandonMig_kept
        | apply State.cutWrite_kept | apply State.cutLoad_kept | apply State.clrBit_kept | apply State.setFld_kept | apply Kept.ite
        | apply Kept.foldl)
    | simp only [↓Kept.upd_iff]
    | simp only [↓Kept.updMem_iff]

theorem State.enterFs_kept {q : List Instr} {s : State} {i : Nat} (h0 : Kept q s) :
    Kept q (State.enterFs s i) := by
  unfold State.enterFs
  with_reducible repeat' first
    | assumption | apply State.fencePorts_kept | apply State.stopUnits_kept | apply State.raiseIrq_kept | apply State.setReg_kept
    | apply State.alert_kept | apply State.raiseFault_kept | apply State.setBoot_kept

theorem State.stopSequence_kept {q : List Instr} {s : State} {bad : Nat} (h0 : Kept q s) :
    Kept q (State.stopSequence s bad) := by
  unfold State.stopSequence
  repeat' first
    | (with_reducible first | assumption | apply State.updRail_kept)
    | simp only [↓Kept.upd_iff]

theorem State.assertFs_kept {q : List Instr} {s : State} {i : Nat} (h0 : Kept q s) :
    Kept q (State.assertFs s i) := by
  unfold State.assertFs
  with_reducible repeat' first
    | assumption | apply State.setBit_kept | apply State.stopSequence_kept | apply State.enterFs_kept | apply Kept.ite

theorem State.stopContexts_kept {q : List Instr} {s : State} (h0 : Kept q s) :
    Kept q (State.stopContexts s) := by
  unfold State.stopContexts
  repeat' first
    | (with_reducible first
        | intro _ | assumption | apply State.setCtx_kept | apply State.complete_kept | apply Kept.ite | apply Kept.foldl)
    | simp only [↓Kept.upd_iff]

theorem State.leaveStep_kept {q : List Instr} {s : State} (h0 : Kept q s) :
    Kept q (State.leaveStep s) := by
  unfold State.leaveStep
  with_reducible repeat' first
    | assumption | apply State.closeStep_kept | apply State.setReg_kept | apply State.updTrn_kept | apply Kept.ite

theorem State.signalPending_kept {q : List Instr} {s : State} (h0 : Kept q s) :
    Kept q (State.signalPending s) := by
  unfold State.signalPending
  repeat' first
    | (with_reducible first | assumption | apply State.sendMsi_kept | apply Kept.ite)
    | simp only [↓Kept.upd_iff]

theorem State.dieMuster_kept {q : List Instr} {s : State} {p : Nat} (h0 : Kept q s) :
    Kept q (State.dieMuster s p) := by
  unfold State.dieMuster
  with_reducible repeat' first | assumption | apply State.beginRun_kept

theorem State.queueSelfTests_kept {q : List Instr} {s : State} (h0 : Kept q s) :
    Kept q (State.queueSelfTests s) := by
  unfold State.queueSelfTests
  repeat' first
    | (with_reducible first | assumption)
    | simp only [↓Kept.upd_iff]

theorem State.leaveFs_kept {q : List Instr} {s : State} (h0 : Kept q s) :
    Kept q (State.leaveFs s) := by
  unfold State.leaveFs
  repeat' first
    | (with_reducible first
        | intro _ | assumption | apply State.leaveStep_kept | apply State.stopContexts_kept | apply State.setReg_kept
        | apply State.setBit_kept | apply State.setFld_kept | apply State.refreshStack_kept | apply State.dieMuster_kept
        | apply State.updDie_kept | apply State.unlockTime_kept | apply State.unfencePorts_kept | apply State.queueSelfTests_kept
        | apply State.signalPending_kept | apply State.raiseFault_kept | apply State.setBoot_kept | apply Kept.foldl)
    | simp only [↓Kept.upd_iff]
    | simp only [↓Kept.updMem_iff]
    | split

theorem execFailSafeExit_kept {q : List Instr} {s : State} (h0 : Kept q s) :
    KeptR q (execFailSafeExit s) := by
  unfold execFailSafeExit
  with_reducible repeat' first | assumption | apply KeptR.of | apply State.leaveFs_kept | apply Kept.ite

theorem State.requestExit_kept {q : List Instr} {s : State} (h0 : Kept q s) :
    Kept q (State.requestExit s).2.2 := by
  unfold State.requestExit
  repeat' first
    | (with_reducible first | assumption | apply State.leaveFs_kept | apply Kept.ite22)
    | simp only [↓Kept.upd_iff]

end Sys2Proof.Machine
end

