-- ==== Sys2Proof/Laws/KeptTests.lean ====
section
/-! SUPPORT. The queue and the memories' canonical form through the operations of Machine/Tests.lean. -/

namespace Sys2Proof.Machine

theorem State.testDue_kept {q : List Instr} {s : State} {cls : Nat} {u : Nat} (h0 : Kept q s) :
    Kept q (State.testDue s cls u) := by
  unfold State.testDue
  repeat' first
    | (with_reducible first | assumption | apply Kept.ite)
    | simp only [↓Kept.upd_iff]

theorem execTestDue_kept {q : List Instr} {cls : Nat} {u : Nat} {s : State} (h0 : Kept q s) :
    KeptR q (execTestDue cls u s) := by
  unfold execTestDue
  with_reducible repeat' first | assumption | apply onUnit_kept | apply State.testDue_kept

theorem State.testTakes_kept {q : List Instr} {s : State} {t : Test} {on : Bool} (h0 : Kept q s) :
    Kept q (State.testTakes s t on) := by
  unfold State.testTakes
  repeat' first
    | (with_reducible first | assumption | apply State.takePlaceOf_kept | apply State.waitPlace_kept | apply Kept.ite)
    | split

theorem State.setTest_kept {q : List Instr} {s : State} {i : Nat} {t : Test} (h0 : Kept q s) :
    Kept q (State.setTest s i t) := by
  unfold State.setTest
  repeat' first
    | (with_reducible first | assumption)
    | simp only [↓Kept.upd_iff]

theorem State.enterTest_kept {q : List Instr} {s : State} {t : Test} {on : Bool} (h0 : Kept q s) :
    Kept q (State.enterTest s t on) := by
  unfold State.enterTest
  repeat' first
    | (with_reducible first
        | assumption | apply State.updMu_kept | apply State.updDrv_kept | apply State.setTileState_kept | apply Kept.ite)
    | split

theorem State.sliceStart_kept {q : List Instr} {s : State} {cls : Nat} {u : Nat} (h0 : Kept q s) :
    Kept q (State.sliceStart s cls u) := by
  unfold State.sliceStart
  repeat' first
    | (with_reducible first
        | assumption | apply State.enterTest_kept | apply State.setTest_kept | apply State.testTakes_kept | apply Kept.ite)
    | simp only [↓Kept.upd_iff]
    | split

theorem execTestSliceStart_kept {q : List Instr} {cls : Nat} {u : Nat} {s : State} (h0 : Kept q s) :
    KeptR q (execTestSliceStart cls u s) := by
  unfold execTestSliceStart
  with_reducible repeat' first | assumption | apply onUnit_kept | apply State.sliceStart_kept

theorem State.setRung_kept {q : List Instr} {s : State} {p : Nat} {pt : Nat} {r : Nat} (h0 : Kept q s) :
    Kept q (State.setRung s p pt r) := by
  unfold State.setRung
  with_reducible repeat' first | assumption | apply State.setFlt_kept

theorem State.rungRetire_kept {q : List Instr} {s : State} {p : Nat} {n : Nat} {pt : Nat} (h0 : Kept q s) :
    Kept q (State.rungRetire s p n pt) := by
  unfold State.rungRetire
  with_reducible repeat' first | assumption | apply State.askRetire_kept | apply State.fenceTile_kept | apply State.setRung_kept

theorem State.failColumns_kept {q : List Instr} {s : State} {p : Nat} {n : Nat} {pt : Nat} {cols : List Nat} (h0 : Kept q s) :
    Kept q (State.failColumns s p n pt cols) := by
  unfold State.failColumns
  repeat' first
    | (with_reducible first
        | intro _ | assumption | apply State.rungRetire_kept | apply State.askMuster_kept | apply State.setRung_kept
        | apply State.askRemap_kept | apply Kept.ite | apply Kept.foldl)
    | simp only [↓Kept.upd_iff]

theorem State.failTile_kept {q : List Instr} {s : State} {p : Nat} {n : Nat} {pt : Nat} (h0 : Kept q s) :
    Kept q (State.failTile s p n pt) := by
  unfold State.failTile
  with_reducible repeat' first
    | assumption | apply State.askMuster_kept | apply State.setRung_kept | apply State.suspect_kept | apply Kept.ite

theorem State.failSpares_kept {q : List Instr} {s : State} {p : Nat} {n : Nat} {cols : List Nat} (h0 : Kept q s) :
    Kept q (State.failSpares s p n cols) := by
  unfold State.failSpares
  with_reducible repeat' first | intro _ | assumption | apply State.setReg_kept | apply Kept.ite | apply Kept.foldl

theorem State.failKinds_kept {q : List Instr} {s : State} {t : Test} {p : Nat} {n : Nat} {fail : Nat} {cols : List Nat} (h0 : Kept q s) :
    Kept q (State.failKinds s t p n fail cols) := by
  unfold State.failKinds
  repeat' first
    | (with_reducible first
        | assumption | apply State.failTile_kept | apply State.failColumns_kept | apply State.failSpares_kept
        | apply State.rungRetire_kept | apply Kept.ite)
    | simp only [↓Kept.upd_iff]
    | split

theorem State.passTile_kept {q : List Instr} {s : State} {t : Test} {p : Nat} {n : Nat} (h0 : Kept q s) :
    Kept q (State.passTile s t p n) := by
  unfold State.passTile
  repeat' first
    | (with_reducible first | assumption | apply State.updTile_kept | apply State.askMuster_kept | apply Kept.ite)
    | simp only [↓Kept.upd_iff]

theorem State.passUnit_kept {q : List Instr} {s : State} {t : Test} (h0 : Kept q s) :
    Kept q (State.passUnit s t) := by
  unfold State.passUnit
  repeat' first
    | (with_reducible first
        | assumption | apply State.setFlt_kept | apply State.updMu_kept | apply State.setFld_kept | apply State.updDrv_kept
        | apply Kept.ite)
    | simp only [↓Kept.upd_iff]
    | split

theorem State.failUnit_kept {q : List Instr} {s : State} {t : Test} (h0 : Kept q s) :
    Kept q (State.failUnit s t) := by
  unfold State.failUnit
  repeat' first
    | (with_reducible first
        | assumption | apply State.threshold_kept | apply State.addLife_kept | apply State.retireMu_kept | apply State.retireDrv_kept
        | apply Kept.ite)
    | simp only [↓Kept.upd_iff]

theorem State.finishTests_kept {q : List Instr} {s : State} {c : Nat} {ptr : Nat} (h0 : Kept q s) :
    Kept q (State.finishTests s c ptr) := by
  unfold State.finishTests
  repeat' first
    | (with_reducible first | assumption | apply State.complete_kept | apply State.store_kept | apply Kept.ite)
    | simp only [↓Kept.upd_iff]
    | split

theorem State.sliceEnd_kept {q : List Instr} {s : State} {cls : Nat} {u : Nat} {fail : Nat} {cols : List Nat} (h0 : Kept q s) :
    Kept q (State.sliceEnd s cls u fail cols) := by
  unfold State.sliceEnd
  repeat' first
    | (with_reducible first
        | assumption | apply State.enterTest_kept | apply State.setTest_kept | apply State.passUnit_kept | apply State.failUnit_kept
        | apply State.failKinds_kept | apply State.passTile_kept | apply State.finishTests_kept | apply Kept.ite)
    | simp only [↓Kept.upd_iff]
    | split

theorem execTestSliceEnd_kept {q : List Instr} {cls : Nat} {u : Nat} {fail : Nat} {cols : List Nat} {s : State} (h0 : Kept q s) :
    KeptR q (execTestSliceEnd cls u fail cols s) := by
  unfold execTestSliceEnd
  with_reducible repeat' first | assumption | apply onUnit_kept | apply State.sliceEnd_kept

theorem State.testOverdue_kept {q : List Instr} {s : State} {cls : Nat} {u : Nat} (h0 : Kept q s) :
    Kept q (State.testOverdue s cls u) := by
  unfold State.testOverdue
  repeat' first
    | (with_reducible first
        | assumption | apply State.setTest_kept | apply State.raiseFault_kept | apply State.fenceTile_kept | apply Kept.ite)
    | simp only [↓Kept.upd_iff]
    | split

theorem execTestOverdue_kept {q : List Instr} {cls : Nat} {u : Nat} {s : State} (h0 : Kept q s) :
    KeptR q (execTestOverdue cls u s) := by
  unfold execTestOverdue
  with_reducible repeat' first | assumption | apply onUnit_kept | apply State.testOverdue_kept

theorem State.tileTest_kept {q : List Instr} {s : State} {c : Nat} {d : Desc} (h0 : Kept q s) :
    Kept q (State.tileTest s c d) := by
  unfold State.tileTest
  repeat' first
    | (with_reducible first
        | assumption | apply State.dieCfg_kept | apply State.complete_kept | apply State.denyAt_kept | apply State.readRecord_kept
        | apply State.finishTests_kept | apply State.working_kept | apply Kept.ite)
    | simp only [↓Kept.upd_iff]
    | split

theorem execTileTest_kept {q : List Instr} {c : Nat} {n : Nat} {s : State} (h0 : Kept q s) :
    KeptR q (execTileTest c n s) := by
  unfold execTileTest
  with_reducible repeat' first | intro _ | assumption | apply onUnit_kept | apply State.runDesc_kept | apply State.tileTest_kept

end Sys2Proof.Machine
end

