-- ==== Sys2Proof/Laws/KeptMemCmds.lean ====
section
/-! SUPPORT. The queue and the memories' canonical form through the operations of Machine/MemCmds.lean. -/

namespace Sys2Proof.Machine

theorem State.memRequest_kept {q : List Instr} {s : State} {master : Nat} {a : Nat} {n : Nat} {write : Option (List Sys2Proof.Byte)} (h0 : Kept q s) :
    Kept q (State.memRequest s master a n write) := by
  unfold State.memRequest
  repeat' first
    | (with_reducible first
        | assumption | apply State.writeMem_kept | apply State.readMem_kept | apply State.emit_kept | apply State.refuse_kept
        | apply Kept.ite)
    | simp only [↓Kept.upd_iff]
    | split

theorem execControlMemoryUe_kept {q : List Instr} {inSram : Bool} {f : Nat} {off : Nat} {master : Nat} {s : State} (h0 : Kept q s) :
    KeptR q (execControlMemoryUe inSram f off master s) := by
  unfold execControlMemoryUe
  with_reducible repeat' first
    | assumption | apply onUnit_kept | apply State.assertFs_kept | apply State.logUe_kept | apply State.setErrs_kept | apply Kept.ite

theorem State.scrubSpare_kept {q : List Instr} {s : State} {k : Nat} {p : Nat} {line : Nat} (h0 : Kept q s) :
    Kept q (State.scrubSpare s k p line) := by
  unfold State.scrubSpare
  repeat' first
    | (with_reducible first
        | assumption | apply State.eventF_kept | apply State.correctedRead_kept | apply State.takeFree_kept | apply State.logUe_kept
        | apply State.setSpare_kept)
    | simp only [↓Kept.upd_iff]
    | split

theorem State.scrub_kept {q : List Instr} {s : State} {k : Nat} {p : Nat} {o : Nat} (h0 : Kept q s) :
    Kept q (State.scrub s k p o) := by
  unfold State.scrub
  repeat' first
    | (with_reducible first
        | assumption | apply State.scrubSpare_kept | apply State.readLine_kept | apply State.setGood_kept | apply State.poisonLine_kept
        | apply Kept.ite)
    | simp only [↓Kept.upd_iff]
    | split

theorem execScrubRead_kept {q : List Instr} {k : Nat} {p : Nat} {o : Nat} {s : State} (h0 : Kept q s) :
    KeptR q (execScrubRead k p o s) := by
  unfold execScrubRead
  with_reducible repeat' first | assumption | apply onUnit_kept | apply State.scrub_kept

theorem State.writeMig_kept {q : List Instr} {s : State} {w : Sys2Proof.Word} (h0 : Kept q s) :
    Kept q (State.writeMig s w) := by
  unfold State.writeMig
  repeat' first
    | (with_reducible first | assumption | apply State.setReg_kept | apply State.retireChannel_kept | apply Kept.ite)
    | simp only [↓Kept.upd_iff]

theorem execChannelMigrate_kept {q : List Instr} {master : Nat} {w : Sys2Proof.Word} {s : State} (h0 : Kept q s) :
    KeptR q (execChannelMigrate master w s) := by
  unfold execChannelMigrate
  with_reducible repeat' first | intro _ | assumption | apply KeptR.of | apply State.guardedWrite_kept | apply State.writeMig_kept

theorem State.copyLine_kept {q : List Instr} {s : State} {k : Nat} {m : Mig} {i : Nat} (h0 : Kept q s) :
    Kept q (State.copyLine s k m i) := by
  unfold State.copyLine
  with_reducible repeat' first | assumption | apply State.setSpare_kept | apply State.noteRead_kept

theorem State.copyLines_kept {q : List Instr} {s : State} {k : Nat} {n : Nat} (h0 : Kept q s) :
    Kept q (State.copyLines s k n) := by
  unfold State.copyLines
  repeat' first
    | (with_reducible first
        | intro _ | assumption | apply State.eventF_kept | apply State.copyLine_kept | apply State.refreshStack_kept | apply Kept.ite
        | apply Kept.foldl)
    | simp only [↓Kept.upd_iff]
    | simp only [↓Kept.updMem_iff]
    | split

theorem State.retireWaiting_kept {q : List Instr} {s : State} {k : Nat} (h0 : Kept q s) :
    Kept q (State.retireWaiting s k) := by
  unfold State.retireWaiting
  repeat' first
    | (with_reducible first | intro _ | assumption | apply State.orderRetire_kept | apply Kept.foldl)
    | simp only [↓Kept.upd_iff]
    | simp only [↓Kept.updMem_iff]

theorem State.takeCopy_kept {q : List Instr} {s : State} {k : Nat} {m : Mig} (h0 : Kept q s) :
    Kept q (State.takeCopy s k m) := by
  unfold State.takeCopy
  repeat' first
    | (with_reducible first
        | intro _ | assumption | apply State.setErrsIn_kept | apply State.poke_kept | apply Kept.ite | apply Kept.foldl)
    | exact Kept.updCells h0 (Memory.wf_filter _ h0.cells) h0.hostCells
    | simp only [↓Kept.upd_iff]

theorem State.migrationDone_kept {q : List Instr} {s : State} {k : Nat} (h0 : Kept q s) :
    Kept q (State.migrationDone s k) := by
  unfold State.migrationDone
  repeat' first
    | (with_reducible first
        | assumption | apply State.copyLines_kept | apply State.takeCopy_kept | apply State.setReg_kept | apply State.markRetired_kept
        | apply State.retireWaiting_kept | apply State.raiseFault_kept | apply State.refreshStack_kept | apply Kept.ite)
    | simp only [↓Kept.upd_iff]
    | simp only [↓Kept.updMem_iff]
    | split

theorem execMigrationDone_kept {q : List Instr} {k : Nat} {s : State} (h0 : Kept q s) :
    KeptR q (execMigrationDone k s) := by
  unfold execMigrationDone
  with_reducible repeat' first | assumption | apply onUnit_kept | apply State.migrationDone_kept

theorem State.migrateTick_kept {q : List Instr} {s : State} (h0 : Kept q s) :
    Kept q (State.migrateTick s) := by
  unfold State.migrateTick
  repeat' first
    | (with_reducible first
        | intro _ | assumption | apply State.takeFree_kept | apply State.copyLines_kept | apply Kept.ite | apply Kept.foldl)
    | simp only [↓Kept.upd_iff]
    | split

end Sys2Proof.Machine
end

