-- ==== Sys2Proof/Laws/KeptFaults.lean ====
section
/-! SUPPORT. The queue and the memories' canonical form through the operations of Machine/Faults.lean. -/

namespace Sys2Proof.Machine

theorem State.fetchCopy_kept {q : List Instr} {s : State} {p : Nat} {n : Nat} {col : Nat} {part : Nat} (h0 : Kept q s) :
    Kept q (State.fetchCopy s p n col part).2 := by
  unfold State.fetchCopy
  repeat' first
    | (with_reducible first | assumption | apply State.fetch_kept | apply Kept.ite2)
    | simp only [↓Kept.upd_iff]
    | split

theorem State.checkSample_kept {q : List Instr} {s : State} {new : Bool} {x : Sample} {n : Nat} {acc : List Int} (h0 : Kept q s) :
    Kept q (State.checkSample s new x n acc).2 := by
  unfold State.checkSample
  repeat' first
    | (with_reducible first
        | intro _ | assumption | apply State.takeFree_kept | apply State.fetchCopy_kept | apply State.satRead_kept | apply Kept.foldl2)
    | simp only [↓Kept.upd_iff]

theorem State.setSamples_kept {q : List Instr} {s : State} {f : Sample → Bool} (h0 : Kept q s) :
    Kept q (State.setSamples s f) := by
  unfold State.setSamples
  with_reducible repeat' first | assumption | apply State.setFlt_kept

theorem State.checkFresh_kept {q : List Instr} {s : State} {p : Nat} {n : Nat} {pt : Nat} (h0 : Kept q s) :
    Kept q (State.checkFresh s p n pt) := by
  unfold State.checkFresh
  repeat' first
    | (with_reducible first
        | intro _ | assumption | apply State.checkSample_kept | apply State.setFlt_kept | apply State.setSamples_kept
        | apply State.setRung_kept | apply Kept.foldl2)
    | simp only [↓Kept.upd_iff]
    | split

theorem State.rungOneFails_kept {q : List Instr} {s : State} {p : Nat} {n : Nat} {pt : Nat} {x : Sample} (h0 : Kept q s) :
    Kept q (State.rungOneFails s p n pt x) := by
  unfold State.rungOneFails
  repeat' first
    | (with_reducible first
        | assumption | apply State.setTileState_kept | apply State.setSamples_kept | apply State.raiseFault_kept
        | apply State.satAdd_kept | apply State.cause_kept | apply State.threshold_kept | apply State.rungRetire_kept
        | apply State.askMuster_kept | apply State.setRung_kept | apply Kept.ite)
    | simp only [↓Kept.upd_iff]

theorem State.rungThree_kept {q : List Instr} {s : State} {p : Nat} {n : Nat} {pt : Nat} {cols : List Nat} (h0 : Kept q s) :
    Kept q (State.rungThree s p n pt cols) := by
  unfold State.rungThree
  repeat' first
    | (with_reducible first | assumption | apply State.setRung_kept)
    | simp only [↓Kept.upd_iff]

theorem State.clearTile_kept {q : List Instr} {s : State} {p : Nat} {n : Nat} {pt : Nat} (h0 : Kept q s) :
    Kept q (State.clearTile s p n pt) := by
  unfold State.clearTile
  with_reducible repeat' first | assumption | apply State.updTile_kept | apply State.setSamples_kept | apply State.setRung_kept

theorem State.analogueCheck_kept {q : List Instr} {s : State} {p : Nat} {pt : Nat} {leaves : Nat} {sums : List Int} (h0 : Kept q s) :
    Kept q (State.analogueCheck s p pt leaves sums) := by
  unfold State.analogueCheck
  repeat' first
    | (with_reducible first
        | assumption | apply State.setRung_kept | apply State.setSamples_kept | apply State.checkFresh_kept
        | apply State.checkSample_kept | apply State.setFlt_kept | apply State.rungOneFails_kept | apply State.rungThree_kept
        | apply State.clearTile_kept | apply Kept.ite)
    | simp only [↓Kept.upd_iff]
    | split

theorem execAnalogueCheck_kept {q : List Instr} {p : Nat} {pt : Nat} {leaves : Nat} {sums : List Int} {s : State} (h0 : Kept q s) :
    KeptR q (execAnalogueCheck p pt leaves sums s) := by
  unfold execAnalogueCheck
  with_reducible repeat' first | assumption | apply onUnit_kept | apply State.analogueCheck_kept

theorem State.clearRow_kept {q : List Instr} {s : State} {row : Nat} (h0 : Kept q s) :
    Kept q (State.clearRow s row) := by
  unfold State.clearRow
  repeat' first
    | (with_reducible first | assumption | apply State.setFlt_kept | apply State.setFld_kept | apply Kept.ite)
    | simp only [↓Kept.upd_iff]

theorem State.writeThr_kept {q : List Instr} {s : State} {win : Bool} {w : Sys2Proof.Word} (h0 : Kept q s) :
    Kept q (State.writeThr s win w) := by
  unfold State.writeThr
  repeat' first
    | (with_reducible first | assumption | apply State.clearRow_kept | apply State.setFlt_kept | apply Kept.ite)
    | simp only [↓Kept.upd_iff]

theorem execThresholdWrite_kept {q : List Instr} {master : Nat} {win : Bool} {w : Sys2Proof.Word} {s : State} (h0 : Kept q s) :
    KeptR q (execThresholdWrite master win w s) := by
  unfold execThresholdWrite
  with_reducible repeat' first | intro _ | assumption | apply KeptR.of | apply State.guardedWrite_kept | apply State.writeThr_kept

theorem execThresholdWindowExpiry_kept {q : List Instr} {row : Nat} {s : State} (h0 : Kept q s) :
    KeptR q (execThresholdWindowExpiry row s) := by
  unfold execThresholdWindowExpiry
  with_reducible repeat' first | assumption | apply onUnit_kept | apply State.clearRow_kept | apply Kept.ite

theorem State.sendRecord_kept {q : List Instr} {s : State} {r : FaultRec} {seq : Nat} (h0 : Kept q s) :
    Kept q (State.sendRecord s r seq) := by
  unfold State.sendRecord
  with_reducible repeat' first | intro _ | assumption | apply State.emit_kept | apply Kept.foldl

theorem State.sendFault_kept {q : List Instr} {s : State} (h0 : Kept q s) :
    Kept q (State.sendFault s) := by
  unfold State.sendFault
  repeat' first
    | (with_reducible first
        | assumption | apply State.setFlt_kept | apply State.postFault_kept | apply State.alert_kept | apply State.sendRecord_kept
        | apply State.setFld_kept | apply Kept.ite)
    | simp only [↓Kept.upd_iff]
    | split

theorem execFaultRecordSend_kept {q : List Instr} {s : State} (h0 : Kept q s) :
    KeptR q (execFaultRecordSend s) := by
  unfold execFaultRecordSend
  with_reducible repeat' first | assumption | apply KeptR.of | apply State.sendFault_kept

theorem execFaultRecordResend_kept {q : List Instr} {seq : Nat} {s : State} (h0 : Kept q s) :
    KeptR q (execFaultRecordResend seq s) := by
  unfold execFaultRecordResend
  repeat' first
    | (with_reducible first | assumption | apply KeptR.of | apply State.sendRecord_kept | apply Kept.ite)
    | split

theorem execFaultRecordAck_kept {q : List Instr} {from_ : Nat} {payload : List Sys2Proof.Byte} {s : State} (h0 : Kept q s) :
    KeptR q (execFaultRecordAck from_ payload s) := by
  unfold execFaultRecordAck
  repeat' first
    | (with_reducible first | assumption | apply KeptR.of | apply State.setFlt_kept | apply Kept.ite)
    | simp only [↓Kept.upd_iff]

theorem execRebuildSetLast_kept {q : List Instr} {master : Nat} {s : State} (h0 : Kept q s) :
    KeptR q (execRebuildSetLast master s) := by
  unfold execRebuildSetLast
  with_reducible repeat' first
    | intro _ | assumption | apply KeptR.of | apply State.guardedWrite_kept | apply State.clrBit_kept | apply State.setBit_kept
    | apply State.setReg_kept | apply Kept.ite

theorem execRebuildGo_kept {q : List Instr} {master : Nat} {s : State} (h0 : Kept q s) :
    KeptR q (execRebuildGo master s) := by
  unfold execRebuildGo
  with_reducible repeat' first
    | intro _ | assumption | apply KeptR.of | apply State.guardedWrite_kept | apply State.setReg_kept | apply Kept.ite

theorem State.passWeight_kept {q : List Instr} {s : State} {p : Nat} {pt : Nat} {pcol : Nat} {row : Nat} {w : Int} {bad : List Sys2Proof.BadCell} (h0 : Kept q s) :
    Kept q (State.passWeight s p pt pcol row w bad) := by
  unfold State.passWeight
  repeat' first
    | (with_reducible first
        | intro _ | assumption | apply State.event_kept | apply State.wearPulse_kept | apply State.setCells_kept
        | apply State.takeFree_kept | apply State.wearOne_kept | apply State.failColumn_kept | apply Kept.ite | apply Kept.foldl)
    | simp only [↓Kept.upd_iff]

theorem State.passColumn_kept {q : List Instr} {s : State} {p : Nat} {n : Nat} {pt : Nat} {col : Nat} {fails : List (Nat × Nat × Sys2Proof.BadCell)} (h0 : Kept q s) :
    Kept q (State.passColumn s p n pt col fails).2 := by
  rw [State.passColumn]
  generalize s.scol p n col = sc
  generalize 480 = rows
  with_reducible apply Kept.foldl2
  · exact h0
  · intro a row ha
    generalize a.2.locate p n row col = o
    cases o with
    | none => exact ha
    | some y =>
      have h1 := State.fetch_kept (master := shrMaster p) (a := y.1.masterAt y.2.1 y.2.2) (n := 4) ha
      dsimp only
      generalize State.fetch a.2 _ _ _ = m at h1 ⊢
      have h2 := State.fetch_kept (master := shrMaster p) (a := y.1.tallyAt y.2.1 y.2.2) (n := 2) h1
      generalize State.fetch m.2 _ _ _ = t at h2 ⊢
      split
      · refine Kept.foldl h2 ?_
        intro u i hu
        exact State.passWeight_kept hu
      · exact h2

theorem State.passDie_kept {q : List Instr} {s : State} {p : Nat} {fails : List (Nat × Nat × Sys2Proof.BadCell)} (h0 : Kept q s) :
    Kept q (State.passDie s p fails).2 := by
  rw [State.passDie]
  refine Kept.foldl2 (State.newWindow_kept h0) ?_
  intro a n ha
  generalize s.ptile p n = o
  cases o with
  | none => exact ha
  | some pt =>
    refine Kept.foldl2 ha ?_
    intro b col hb
    exact Kept.pairOf (r := b.2.passColumn p n pt col fails) (f := fun x => b.1 + x) (State.passColumn_kept hb)

theorem State.rebuildComplete_kept {q : List Instr} {s : State} {fails : List (Nat × Nat × Sys2Proof.BadCell)} (h0 : Kept q s) :
    Kept q (State.rebuildComplete s fails) := by
  unfold State.rebuildComplete
  repeat' first
    | (with_reducible first
        | intro _ | assumption | apply State.passDie_kept | apply State.setFld_kept | apply State.raiseFault_kept
        | apply State.setReg_kept | apply Kept.ite | apply Kept.foldl2)
    | simp only [↓Kept.upd_iff]

theorem execRebuildComplete_kept {q : List Instr} {fails : List (Nat × Nat × Sys2Proof.BadCell)} {s : State} (h0 : Kept q s) :
    KeptR q (execRebuildComplete fails s) := by
  unfold execRebuildComplete
  with_reducible repeat' first | assumption | apply KeptR.of | apply State.rebuildComplete_kept

end Sys2Proof.Machine
end

