-- ==== Sys2Proof/Laws/KeptPersist.lean ====
section
/-! SUPPORT. The queue and the memories' canonical form through the operations of Machine/Persist.lean. -/

namespace Sys2Proof.Machine

theorem State.pdWrite_kept {q : List Instr} {s : State} {i : Nat} (h0 : Kept q s) :
    Kept q (State.pdWrite s i) := by
  unfold State.pdWrite
  repeat' first
    | (with_reducible first | assumption | apply State.pdUpd_kept | apply Kept.ite)
    | simp only [↓Kept.upd_iff]

theorem State.pdSave_kept {q : List Instr} {s : State} {i : Nat} (h0 : Kept q s) :
    Kept q (State.pdSave s i) := by
  unfold State.pdSave
  repeat' first
    | (with_reducible first | assumption | apply State.pdWrite_kept | apply Kept.ite)
    | simp only [↓Kept.upd_iff]

theorem State.pdTorn_kept {q : List Instr} {s : State} {i : Nat} (h0 : Kept q s) :
    Kept q (State.pdTorn s i) := by
  unfold State.pdTorn
  with_reducible repeat' first | assumption | apply State.pdUpd_kept

theorem State.pdSome_kept {q : List Instr} {s : State} {i : Nat} {v : Nat} (h0 : Kept q s) :
    Kept q (State.pdSome s i v) := by
  unfold State.pdSome
  repeat' first
    | (with_reducible first | assumption | apply State.pdWrite_kept | apply State.pdSave_kept | apply State.pdTorn_kept)
    | split

theorem State.pdReset_kept {q : List Instr} {s : State} (h0 : Kept q s) :
    Kept q (State.pdReset s) := by
  unfold State.pdReset
  repeat' first
    | (with_reducible first
        | assumption | apply State.takeFree_kept | apply State.pdSome_kept | apply State.pdSave_kept | apply Kept.ite)
    | simp only [↓Kept.upd_iff]

theorem State.pdTick_kept {q : List Instr} {s : State} (h0 : Kept q s) :
    Kept q (State.pdTick s) := by
  unfold State.pdTick
  repeat' first
    | (with_reducible first | assumption | apply State.takeFree_kept | apply State.pdWrite_kept | apply Kept.ite)
    | simp only [↓Kept.upd_iff]

theorem State.pdSpoil_kept {q : List Instr} {s : State} {bad : Nat} (h0 : Kept q s) :
    Kept q (State.pdSpoil s bad) := by
  unfold State.pdSpoil
  with_reducible repeat' first | intro _ | assumption | apply State.pdUpd_kept | apply Kept.ite | apply Kept.foldl

theorem State.pdConvert_kept {q : List Instr} {s : State} {i : Nat} (h0 : Kept q s) :
    Kept q (State.pdConvert s i) := by
  unfold State.pdConvert
  repeat' first
    | (with_reducible first | assumption | apply State.pdUpd_kept)
    | simp only [↓Kept.upd_iff]
    | split

theorem State.holdItems_kept {q : List Instr} {s : State} {failed : Nat} (h0 : Kept q s) :
    Kept q (State.holdItems s failed) := by
  unfold State.holdItems
  repeat' first
    | (with_reducible first
        | intro _ | assumption | apply State.pdConvert_kept | apply State.setFld_kept | apply Kept.ite | apply Kept.foldl)
    | simp only [↓Kept.upd_iff]

theorem State.commitItems_kept {q : List Instr} {s : State} (h0 : Kept q s) :
    Kept q (State.commitItems s) := by
  unfold State.commitItems
  repeat' first
    | (with_reducible first
        | intro _ | assumption | apply State.pdUpd_kept | apply State.setFld_kept | apply Kept.ite | apply Kept.foldl)
    | simp only [↓Kept.upd_iff]

theorem State.takeMaps_kept {q : List Instr} {s : State} (h0 : Kept q s) :
    Kept q (State.takeMaps s) := by
  unfold State.takeMaps
  repeat' first
    | (with_reducible first | assumption | apply Kept.ite)
    | simp only [↓Kept.upd_iff]
    | simp only [↓Kept.updMem_iff]

theorem State.takeCounts_kept {q : List Instr} {s : State} (h0 : Kept q s) :
    Kept q (State.takeCounts s) := by
  unfold State.takeCounts
  repeat' first
    | (with_reducible first | assumption)
    | simp only [↓Kept.upd_iff]

theorem State.pdTake_kept {q : List Instr} {s : State} (h0 : Kept q s) :
    Kept q (State.pdTake s) := by
  unfold State.pdTake
  repeat' first
    | (with_reducible first | assumption | apply State.takeCounts_kept | apply State.takeMaps_kept)
    | simp only [↓Kept.upd_iff]

theorem State.restoreWear_kept {q : List Instr} {s : State} {p : Nat} (h0 : Kept q s) :
    Kept q (State.restoreWear s p) := by
  unfold State.restoreWear
  with_reducible repeat' first | assumption | apply State.updDie_kept

end Sys2Proof.Machine
end

