-- ==== Sys2Proof/Laws/KeptReset.lean ====
section
/-! SUPPORT. The queue and the memories' canonical form through the operations of Machine/Reset.lean. -/

namespace Sys2Proof.Machine

theorem State.resetTo_kept {q : List Instr} {s : State} (h0 : Kept q s) :
    Kept q (State.resetTo s) := by
  unfold State.resetTo
  exact Kept.updCells h0 rfl h0.hostCells

theorem State.moduleReset_kept {q : List Instr} {s : State} (h0 : Kept q s) :
    Kept q (State.moduleReset s) := by
  unfold State.moduleReset
  with_reducible repeat' first | assumption | apply State.resetTo_kept | apply State.pdReset_kept

theorem State.sampleSlot_kept {q : List Instr} {s : State} (h0 : Kept q s) :
    Kept q (State.sampleSlot s) := by
  unfold State.sampleSlot
  repeat' first
    | (with_reducible first | assumption | apply State.setReg_kept | apply State.alert_kept | apply Kept.ite)
    | simp only [↓Kept.upd_iff]

theorem State.trainLinks_kept {q : List Instr} {s : State} (h0 : Kept q s) :
    Kept q (State.trainLinks s) := by
  unfold State.trainLinks
  repeat' first
    | (with_reducible first | assumption | apply State.setLink_kept | apply Kept.ite)
    | simp only [↓Kept.upd_iff]

theorem State.endReset_kept {q : List Instr} {s : State} (h0 : Kept q s) :
    Kept q (State.endReset s) := by
  unfold State.endReset
  repeat' first
    | (with_reducible first
        | assumption | apply State.trainLinks_kept | apply State.sampleSlot_kept | apply State.setClk_kept | apply State.updRail_kept
        | apply State.setBoot_kept | apply Kept.ite)
    | simp only [↓Kept.upd_iff]

theorem State.selfReset_kept {q : List Instr} {s : State} (h0 : Kept q s) :
    Kept q (State.selfReset s) := by
  unfold State.selfReset
  with_reducible repeat' first | assumption | apply State.endReset_kept | apply State.moduleReset_kept | apply State.sendFences_kept

theorem execModReset_kept {q : List Instr} {master : Nat} {w : Sys2Proof.Word} {s : State} (h0 : Kept q s) :
    KeptR q (execModReset master w s) := by
  unfold execModReset
  with_reducible repeat' first
    | intro _ | assumption | apply KeptR.of | apply State.guardedWrite_kept | apply State.selfReset_kept | apply Kept.ite

theorem execResetNAssert_kept {q : List Instr} {s : State} (h0 : Kept q s) :
    KeptR q (execResetNAssert s) := by
  unfold execResetNAssert
  repeat' first
    | (with_reducible first | assumption | apply KeptR.of | apply State.moduleReset_kept)
    | simp only [↓Kept.upd_iff]

theorem execResetNRelease_kept {q : List Instr} {straps : Nat} {s : State} (h0 : Kept q s) :
    KeptR q (execResetNRelease straps s) := by
  unfold execResetNRelease
  repeat' first
    | (with_reducible first | assumption | apply KeptR.of | apply State.endReset_kept)
    | simp only [↓Kept.upd_iff]

theorem State.resetConsumed_kept {q : List Instr} {s : State} (h0 : Kept q s) :
    Kept q (State.resetConsumed s) := by
  unfold State.resetConsumed
  repeat' first
    | (with_reducible first | assumption | apply State.selfReset_kept | apply State.raiseFault_kept)
    | simp only [↓Kept.upd_iff]
    | split

theorem execUeConsumed_kept {q : List Instr} {s : State} (h0 : Kept q s) :
    KeptR q (execUeConsumed s) := by
  unfold execUeConsumed
  with_reducible repeat' first | assumption | apply KeptR.of | apply State.resetConsumed_kept

theorem State.railsOn_kept {q : List Instr} {s : State} {m : Nat} (h0 : Kept q s) :
    Kept q (State.railsOn s m) := by
  unfold State.railsOn
  with_reducible repeat' first | assumption | apply State.updRail_kept

theorem State.railsGood_kept {q : List Instr} {s : State} {m : Nat} (h0 : Kept q s) :
    Kept q (State.railsGood s m) := by
  unfold State.railsGood
  with_reducible repeat' first | assumption | apply State.updRail_kept

theorem State.startSequence_kept {q : List Instr} {s : State} (h0 : Kept q s) :
    Kept q (State.startSequence s) := by
  unfold State.startSequence
  repeat' first
    | (with_reducible first | assumption | apply State.moduleReset_kept | apply State.railsOn_kept)
    | simp only [↓Kept.upd_iff]

theorem execPowerEnable_kept {q : List Instr} {vin : Nat} {s : State} (h0 : Kept q s) :
    KeptR q (execPowerEnable vin s) := by
  unfold execPowerEnable
  repeat' first
    | (with_reducible first | assumption | apply KeptR.of | apply State.startSequence_kept | apply Kept.ite)
    | simp only [↓Kept.upd_iff]

theorem State.sequenceStep_kept {q : List Instr} {s : State} {i : Nat} (h0 : Kept q s) :
    Kept q (State.sequenceStep s i) := by
  unfold State.sequenceStep
  repeat' first
    | (with_reducible first
        | assumption | apply State.railsGood_kept | apply State.setClk_kept | apply State.railsOn_kept | apply State.endReset_kept
        | apply State.updRail_kept | apply Kept.ite)
    | simp only [↓Kept.upd_iff]

theorem execRailSequenceStep_kept {q : List Instr} {s : State} (h0 : Kept q s) :
    KeptR q (execRailSequenceStep s) := by
  unfold execRailSequenceStep
  repeat' first
    | (with_reducible first | assumption | apply KeptR.of | apply State.sequenceStep_kept)
    | split

theorem execRailSequenceTimeout_kept {q : List Instr} {bad : Nat} {s : State} (h0 : Kept q s) :
    KeptR q (execRailSequenceTimeout bad s) := by
  unfold execRailSequenceTimeout
  repeat' first
    | (with_reducible first | assumption | apply KeptR.of | apply State.stopSequence_kept | apply State.railsGood_kept)
    | split

theorem State.loseMain_kept {q : List Instr} {s : State} (h0 : Kept q s) :
    Kept q (State.loseMain s) := by
  unfold State.loseMain
  repeat' first
    | (with_reducible first | assumption | apply State.moduleReset_kept)
    | simp only [↓Kept.upd_iff]

theorem State.railsOff_kept {q : List Instr} {s : State} (h0 : Kept q s) :
    Kept q (State.railsOff s) := by
  unfold State.railsOff
  with_reducible repeat' first | assumption | apply State.setClk_kept | apply State.updRail_kept

theorem State.powerDown_kept {q : List Instr} {s : State} (h0 : Kept q s) :
    Kept q (State.powerDown s) := by
  unfold State.powerDown
  repeat' first
    | (with_reducible first
        | assumption | apply State.alert_kept | apply State.raiseFault_kept | apply State.fencePorts_kept | apply State.stopUnits_kept
        | apply State.raiseIrq_kept | apply State.railsOff_kept | apply State.loseMain_kept | apply State.setFld_kept
        | apply State.clrBit_kept | apply Kept.ite)
    | simp only [↓Kept.upd_iff]

theorem execPowerDisable_kept {q : List Instr} {s : State} (h0 : Kept q s) :
    KeptR q (execPowerDisable s) := by
  unfold execPowerDisable
  with_reducible repeat' first | assumption | apply KeptR.of | apply State.powerDown_kept | apply Kept.ite

theorem State.inputLost_kept {q : List Instr} {s : State} (h0 : Kept q s) :
    Kept q (State.inputLost s) := by
  unfold State.inputLost
  repeat' first
    | (with_reducible first
        | assumption | apply State.takeFree_kept | apply State.moduleReset_kept | apply State.tearRec_kept | apply State.setClk_kept
        | apply State.updRail_kept | apply Kept.ite)
    | simp only [↓Kept.upd_iff]

theorem execInputPowerLoss_kept {q : List Instr} {s : State} (h0 : Kept q s) :
    KeptR q (execInputPowerLoss s) := by
  unfold execInputPowerLoss
  with_reducible repeat' first | assumption | apply KeptR.of | apply State.inputLost_kept | apply Kept.ite

theorem execStandbyPowerUp_kept {q : List Instr} {straps : Nat} {s : State} (h0 : Kept q s) :
    KeptR q (execStandbyPowerUp straps s) := by
  unfold execStandbyPowerUp
  repeat' first
    | (with_reducible first
        | assumption | apply KeptR.of | apply State.moduleReset_kept | apply State.sampleSlot_kept | apply State.updRail_kept
        | apply Kept.ite)
    | simp only [↓Kept.upd_iff]

theorem execRailFault_kept {q : List Instr} {n : Nat} {s : State} (h0 : Kept q s) :
    KeptR q (execRailFault n s) := by
  unfold execRailFault
  repeat' first
    | (with_reducible first | assumption | apply onUnit_kept | apply State.updRail_kept | apply State.alert_kept | apply Kept.ite)
    | simp only [↓Kept.upd_iff]

end Sys2Proof.Machine
end

