-- ==== Sys2Proof/Laws/KeptPower.lean ====
section
/-! SUPPORT. The queue and the memories' canonical form through the operations of Machine/Power.lean. -/

namespace Sys2Proof.Machine

theorem State.updPwr_kept {q : List Instr} {s : State} {f : Pwr → Pwr} (h0 : Kept q s) :
    Kept q (State.updPwr s f) := by
  unfold State.updPwr
  repeat' first
    | (with_reducible first | assumption)
    | simp only [↓Kept.upd_iff]

theorem State.setLevels_kept {q : List Instr} {s : State} {cap : Nat} {therm : Nat} (h0 : Kept q s) :
    Kept q (State.setLevels s cap therm) := by
  unfold State.setLevels
  with_reducible repeat' first | assumption | apply State.setFld_kept

theorem State.powerSample_kept {q : List Instr} {s : State} {vin : Nat} {ma : Nat} (h0 : Kept q s) :
    Kept q (State.powerSample s vin ma) := by
  unfold State.powerSample
  repeat' first
    | (with_reducible first
        | assumption | apply State.updPwr_kept | apply State.setReg_kept | apply State.setFld_kept | apply State.setBit_kept
        | apply State.setLevels_kept | apply Kept.ite)
    | simp only [↓Kept.upd_iff]

theorem execPowerSample_kept {q : List Instr} {vin : Nat} {ma : Nat} {s : State} (h0 : Kept q s) :
    KeptR q (execPowerSample vin ma s) := by
  unfold execPowerSample
  with_reducible repeat' first | assumption | apply KeptR.of | apply State.powerSample_kept | apply Kept.ite

theorem State.capTick_kept {q : List Instr} {s : State} (h0 : Kept q s) :
    Kept q (State.capTick s) := by
  unfold State.capTick
  repeat' first
    | (with_reducible first | assumption | apply State.setLevels_kept | apply State.updPwr_kept | apply Kept.ite)
    | simp only [↓Kept.upd_iff]

theorem execCapControlTick_kept {q : List Instr} {s : State} (h0 : Kept q s) :
    KeptR q (execCapControlTick s) := by
  unfold execCapControlTick
  with_reducible repeat' first | assumption | apply KeptR.of | apply State.capTick_kept | apply Kept.ite

theorem execCapMiss_kept {q : List Instr} {s : State} (h0 : Kept q s) :
    KeptR q (execCapMiss s) := by
  unfold execCapMiss
  with_reducible repeat' first | assumption | apply KeptR.of | apply State.eventF_kept | apply State.setBit_kept | apply Kept.ite

theorem execPowerCapWrite_kept {q : List Instr} {master : Nat} {w : Sys2Proof.Word} {s : State} (h0 : Kept q s) :
    KeptR q (execPowerCapWrite master w s) := by
  unfold execPowerCapWrite
  with_reducible repeat' first | intro _ | assumption | apply KeptR.of | apply State.guardedWrite_kept | apply State.setFld_kept

theorem State.thermalTick_kept {q : List Instr} {s : State} (h0 : Kept q s) :
    Kept q (State.thermalTick s) := by
  unfold State.thermalTick
  repeat' first
    | (with_reducible first
        | assumption | apply State.updPwr_kept | apply State.setBit_kept | apply State.setLevels_kept | apply Kept.ite)
    | simp only [↓Kept.upd_iff]

theorem execThermalTick_kept {q : List Instr} {s : State} (h0 : Kept q s) :
    KeptR q (execThermalTick s) := by
  unfold execThermalTick
  with_reducible repeat' first | assumption | apply KeptR.of | apply State.thermalTick_kept

theorem execStackTempRead_kept {q : List Instr} {k : Nat} {t : Int} {s : State} (h0 : Kept q s) :
    KeptR q (execStackTempRead k t s) := by
  unfold execStackTempRead
  repeat' first
    | (with_reducible first | assumption | apply onUnit_kept | apply State.assertFs_kept | apply Kept.ite)
    | simp only [↓Kept.upd_iff]
    | simp only [↓Kept.updMem_iff]

theorem State.clockLoss_kept {q : List Instr} {s : State} {ref : Bool} {vco : Bool} (h0 : Kept q s) :
    Kept q (State.clockLoss s ref vco) := by
  unfold State.clockLoss
  repeat' first
    | (with_reducible first
        | assumption | apply State.setClk_kept | apply State.assertFs_kept | apply State.unlockTime_kept | apply State.satAdd_kept
        | apply Kept.ite)
    | simp only [↓Kept.upd_iff]

theorem execClockLoss_kept {q : List Instr} {ref : Bool} {vco : Bool} {s : State} (h0 : Kept q s) :
    KeptR q (execClockLoss ref vco s) := by
  unfold execClockLoss
  with_reducible repeat' first | assumption | apply KeptR.of | apply State.clockLoss_kept | apply Kept.ite

theorem execClockRestore_kept {q : List Instr} {s : State} (h0 : Kept q s) :
    KeptR q (execClockRestore s) := by
  unfold execClockRestore
  with_reducible repeat' first | assumption | apply KeptR.of | apply State.setClk_kept

theorem execWatchdogKick_kept {q : List Instr} {master : Nat} {w : Sys2Proof.Word} {s : State} (h0 : Kept q s) :
    KeptR q (execWatchdogKick master w s) := by
  unfold execWatchdogKick
  repeat' first
    | (with_reducible first
        | intro _ | assumption | apply KeptR.of | apply State.guardedWrite_kept | apply State.setFld_kept | apply State.updPwr_kept
        | apply Kept.ite)
    | simp only [↓Kept.upd_iff]

theorem State.setMsp_kept {q : List Instr} {s : State} {m : Msp} (h0 : Kept q s) :
    Kept q (State.setMsp s m) := by
  unfold State.setMsp
  repeat' first
    | (with_reducible first | assumption)
    | simp only [↓Kept.upd_iff]

theorem State.watchdogExpiry_kept {q : List Instr} {s : State} (h0 : Kept q s) :
    Kept q (State.watchdogExpiry s) := by
  unfold State.watchdogExpiry
  repeat' first
    | (with_reducible first
        | assumption | apply State.revertTrial_kept | apply State.setFld_kept | apply State.assertFs_kept | apply State.setMsp_kept
        | apply Kept.ite)
    | simp only [↓Kept.upd_iff]

theorem execWatchdogExpiry_kept {q : List Instr} {s : State} (h0 : Kept q s) :
    KeptR q (execWatchdogExpiry s) := by
  unfold execWatchdogExpiry
  with_reducible repeat' first | assumption | apply KeptR.of | apply State.watchdogExpiry_kept | apply Kept.ite

theorem execMspColdRestartDone_kept {q : List Instr} {s : State} (h0 : Kept q s) :
    KeptR q (execMspColdRestartDone s) := by
  unfold execMspColdRestartDone
  with_reducible repeat' first
    | assumption | apply KeptR.of | apply State.postFault_kept | apply State.updPwr_kept | apply State.setMsp_kept | apply Kept.ite

theorem execEnergyReadLatch_kept {q : List Instr} {master : Nat} {s : State} (h0 : Kept q s) :
    KeptR q (execEnergyReadLatch master s) := by
  unfold execEnergyReadLatch
  with_reducible repeat' first | intro _ | assumption | apply KeptR.of | apply State.guardedRead_kept | apply State.updPwr_kept

theorem execCodeHashCheck_kept {q : List Instr} {same : Bool} {s : State} (h0 : Kept q s) :
    KeptR q (execCodeHashCheck same s) := by
  unfold execCodeHashCheck
  with_reducible repeat' first | assumption | apply KeptR.of | apply State.assertFs_kept | apply Kept.ite

end Sys2Proof.Machine
end

