-- ==== Sys2Proof/Laws/KeptFirmware.lean ====
section
/-! SUPPORT. The queue and the memories' canonical form through the operations of Machine/Firmware.lean. -/

namespace Sys2Proof.Machine

theorem State.putSlot_kept {q : List Instr} {s : State} {t : Nat} {b : Bool} {bs : List Sys2Proof.Byte} {ok : Bool} (h0 : Kept q s) :
    Kept q (State.putSlot s t b bs ok) := by
  unfold State.putSlot
  repeat' first
    | (with_reducible first | assumption | apply State.setFld_kept)
    | simp only [↓Kept.upd_iff]

theorem State.runFrom_kept {q : List Instr} {s : State} {t : Nat} {b : Bool} {fb : Bool} (h0 : Kept q s) :
    Kept q (State.runFrom s t b fb) := by
  unfold State.runFrom
  with_reducible repeat' first | assumption | apply State.setReg_kept | apply State.setFld_kept

theorem State.reportSlot_kept {q : List Instr} {s : State} {t : Nat} (h0 : Kept q s) :
    Kept q (State.reportSlot s t) := by
  unfold State.reportSlot
  with_reducible repeat' first | assumption | apply State.setRec_kept | apply State.setReg_kept

theorem State.startType_kept {q : List Instr} {s : State} {t : Nat} (h0 : Kept q s) :
    Kept q (State.startType s t).2 := by
  unfold State.startType
  repeat' first
    | (with_reducible first
        | assumption | apply State.reportSlot_kept | apply State.revertTrial_kept | apply State.runFrom_kept | apply State.setRec_kept
        | apply Kept.ite | apply Kept.ite2)
    | simp only [↓Kept.upd_iff]

theorem State.mspBoot_kept {q : List Instr} {s : State} (h0 : Kept q s) :
    Kept q (State.mspBoot s) := by
  unfold State.mspBoot
  repeat' first
    | (with_reducible first
        | assumption | apply State.startType_kept | apply State.takeRecs_kept | apply State.postFault_kept | apply State.setBoot_kept
        | apply State.setMsp_kept | apply State.assertFs_kept | apply Kept.ite)
    | simp only [↓Kept.upd_iff]

theorem execMspBootDone_kept {q : List Instr} {s : State} (h0 : Kept q s) :
    KeptR q (execMspBootDone s) := by
  unfold execMspBootDone
  with_reducible repeat' first | assumption | apply KeptR.of | apply State.mspBoot_kept

theorem State.startTypes_kept {q : List Instr} {s : State} {a1 : List (Nat × Nat)} (h0 : Kept q s) :
    Kept q (State.startTypes s a1).2 := by
  induction a1 generalizing s with
  | nil =>
    unfold State.startTypes
    repeat' first
      | (with_reducible first | assumption | apply State.startType_kept | apply Kept.ite2)
      | simp only [↓Kept.upd_iff]
  | cons b bs ih =>
    unfold State.startTypes
    repeat' first
      | (with_reducible first | apply ih | assumption | apply State.startType_kept | apply Kept.ite2)
      | simp only [↓Kept.upd_iff]

theorem State.loadUnits_kept {q : List Instr} {s : State} (h0 : Kept q s) :
    Kept q (State.loadUnits s) := by
  unfold State.loadUnits
  repeat' first
    | (with_reducible first
        | intro _ | assumption | apply State.setReg_kept | apply State.updMu_kept | apply State.updDrv_kept
        | apply State.queueSelfTests_kept | apply Kept.foldl)
    | simp only [↓Kept.upd_iff]

theorem State.commitProfile_kept {q : List Instr} {s : State} (h0 : Kept q s) :
    Kept q (State.commitProfile s) := by
  unfold State.commitProfile
  with_reducible repeat' first
    | intro _ | assumption | apply State.setReg_kept | apply State.setBit_kept | apply State.clrBit_kept | apply State.portsCommit_kept
    | apply State.groupsCommit_kept | apply Kept.ite | apply Kept.foldl

theorem State.fwLoad_kept {q : List Instr} {s : State} {bad : Nat} {failed : Nat} (h0 : Kept q s) :
    Kept q (State.fwLoad s bad failed) := by
  unfold State.fwLoad
  repeat' first
    | (with_reducible first
        | intro _ | assumption | apply State.startType_kept | apply State.assertFs_kept | apply State.startTypes_kept
        | apply State.setReg_kept | apply State.reportSlot_kept | apply State.pdSpoil_kept | apply State.announce_kept
        | apply State.loadUnits_kept | apply State.commitProfile_kept | apply State.pdTake_kept | apply State.holdItems_kept
        | apply State.setShr_kept | apply State.setBoot_kept | apply Kept.ite | apply Kept.foldl)
    | simp only [↓Kept.upd_iff]

theorem execFwLoadDone_kept {q : List Instr} {bad : Nat} {failed : Nat} {s : State} (h0 : Kept q s) :
    KeptR q (execFwLoadDone bad failed s) := by
  unfold execFwLoadDone
  with_reducible repeat' first | assumption | apply KeptR.of | apply State.fwLoad_kept

theorem State.deliverDie_kept {q : List Instr} {s : State} {p : Nat} (h0 : Kept q s) :
    Kept q (State.deliverDie s p) := by
  unfold State.deliverDie
  with_reducible repeat' first | intro _ | assumption | apply State.setPtile_kept | apply Kept.foldl

theorem State.factoryDie_kept {q : List Instr} {s : State} {p : Nat} (h0 : Kept q s) :
    Kept q (State.factoryDie s p) := by
  unfold State.factoryDie
  repeat' first
    | (with_reducible first | intro _ | assumption | apply State.factoryTrims_kept | apply Kept.foldl)
    | split

theorem State.loadTrims_kept {q : List Instr} {s : State} {p : Nat} (h0 : Kept q s) :
    Kept q (State.loadTrims s p) := by
  unfold State.loadTrims
  repeat' first
    | (with_reducible first
        | intro _ | assumption | apply State.factoryDie_kept | apply State.setReg_kept | apply State.setColRec_kept
        | apply State.updDie_kept | apply Kept.ite | apply Kept.foldl)
    | simp only [↓Kept.upd_iff]

theorem State.loadMaps_kept {q : List Instr} {s : State} {p : Nat} (h0 : Kept q s) :
    Kept q (State.loadMaps s p) := by
  unfold State.loadMaps
  repeat' first
    | (with_reducible first
        | intro _ | assumption | apply State.deliverDie_kept | apply State.setReg_kept | apply Kept.ite | apply Kept.foldl)
    | simp only [↓Kept.upd_iff]

theorem State.loadDie_kept {q : List Instr} {s : State} {p : Nat} (h0 : Kept q s) :
    Kept q (State.loadDie s p) := by
  unfold State.loadDie
  with_reducible repeat' first
    | assumption | apply State.askWorn_kept | apply State.restoreWear_kept | apply State.loadTrims_kept | apply State.loadMaps_kept

theorem State.initStack_kept {q : List Instr} {s : State} {k : Nat} (h0 : Kept q s) :
    Kept q (State.initStack s k) := by
  unfold State.initStack
  repeat' first
    | (with_reducible first
        | intro _ | assumption | apply State.setReg_kept | apply State.setBit_kept | apply State.refreshStack_kept | apply Kept.ite
        | apply Kept.foldl)
    | simp only [↓Kept.upd_iff]

theorem State.memInit_kept {q : List Instr} {s : State} {bad : Nat} (h0 : Kept q s) :
    Kept q (State.memInit s bad) := by
  unfold State.memInit
  repeat' first
    | (with_reducible first
        | intro _ | assumption | apply State.announce_kept | apply State.retireWaiting_kept | apply State.initStack_kept
        | apply State.loadDie_kept | apply State.dieMuster_kept | apply State.setBoot_kept | apply Kept.ite | apply Kept.foldl)
    | simp only [↓Kept.upd_iff]

theorem execMemInitDone_kept {q : List Instr} {bad : Nat} {s : State} (h0 : Kept q s) :
    KeptR q (execMemInitDone bad s) := by
  unfold execMemInitDone
  with_reducible repeat' first | assumption | apply KeptR.of | apply State.memInit_kept

theorem State.dieRun_kept {q : List Instr} {s : State} {p : Nat} {failed : List Nat} (h0 : Kept q s) :
    Kept q (State.dieRun s p failed) := by
  unfold State.dieRun
  repeat' first
    | (with_reducible first
        | intro _ | assumption | apply State.suspect_kept | apply State.setTileState_kept | apply State.updDie_kept | apply Kept.ite
        | apply Kept.foldl)
    | simp only [↓Kept.upd_iff]
    | split

theorem execDieRun_kept {q : List Instr} {p : Nat} {failed : List Nat} {s : State} (h0 : Kept q s) :
    KeptR q (execDieRun p failed s) := by
  unfold execDieRun
  with_reducible repeat' first | assumption | apply onUnit_kept | apply State.dieRun_kept

theorem State.endTrials_kept {q : List Instr} {s : State} (h0 : Kept q s) :
    Kept q (State.endTrials s) := by
  unfold State.endTrials
  with_reducible repeat' first | assumption | apply State.putRecs_kept

theorem State.arrayInit_kept {q : List Instr} {s : State} (h0 : Kept q s) :
    Kept q (State.arrayInit s) := by
  unfold State.arrayInit
  with_reducible repeat' first
    | assumption | apply State.serveAllMbx_kept | apply State.announce_kept | apply State.endTrials_kept | apply Kept.ite

theorem execArrayInitDone_kept {q : List Instr} {s : State} (h0 : Kept q s) :
    KeptR q (execArrayInitDone s) := by
  unfold execArrayInitDone
  with_reducible repeat' first | assumption | apply KeptR.of | apply State.arrayInit_kept

theorem execBootTimeout_kept {q : List Instr} {s : State} (h0 : Kept q s) :
    KeptR q (execBootTimeout s) := by
  unfold execBootTimeout
  with_reducible repeat' first | assumption | apply KeptR.of | apply State.announce_kept | apply Kept.ite

theorem State.updateEnd_kept {q : List Instr} {s : State} {p : Nat} (h0 : Kept q s) :
    Kept q (State.updateEnd s p) := by
  unfold State.updateEnd
  repeat' first
    | (with_reducible first | assumption | apply State.updDie_kept | apply State.clrBit_kept | apply Kept.ite)
    | simp only [↓Kept.upd_iff]

theorem execDieUpdateEnd_kept {q : List Instr} {p : Nat} {s : State} (h0 : Kept q s) :
    KeptR q (execDieUpdateEnd p s) := by
  unfold execDieUpdateEnd
  with_reducible repeat' first | assumption | apply onUnit_kept | apply State.updateEnd_kept

theorem State.fwRun_kept {q : List Instr} {s : State} {cmd : Nat} {type : Nat} {f : State → State} (h0 : Kept q s) (hf : ∀ b0, Kept q b0 → Kept q (f b0)) :
    Kept q (State.fwRun s cmd type f) := by
  unfold State.fwRun
  repeat' first
    | (with_reducible first
        | assumption | apply State.setBit_kept | apply State.setFld_kept | apply State.fwResult_kept | apply hf | apply Kept.ite)
    | simp only [↓Kept.upd_iff]

theorem State.fwCommand_kept {q : List Instr} {s : State} {master : Nat} {cmd : Nat} {type : Nat} {f : State → State} (h0 : Kept q s) (hf : ∀ b0, Kept q b0 → Kept q (f b0)) :
    Kept q (State.fwCommand s master cmd type f) := by
  unfold State.fwCommand
  with_reducible repeat' first
    | intro _ | assumption | apply State.guardedWrite_kept | apply State.fwRun_kept | apply hf | apply Kept.ite

theorem State.flashEnd_kept {q : List Instr} {s : State} (h0 : Kept q s) :
    Kept q (State.flashEnd s) := by
  unfold State.flashEnd
  repeat' first
    | (with_reducible first | assumption | apply State.fwResult_kept | apply State.putSlot_kept | apply Kept.ite)
    | simp only [↓Kept.upd_iff]
    | split

theorem State.fwWrite_kept {q : List Instr} {s : State} {t : Nat} {flashErr : Bool} (h0 : Kept q s) :
    Kept q (State.fwWrite s t flashErr) := by
  unfold State.fwWrite
  repeat' first
    | (with_reducible first
        | assumption | apply State.revertTrial_kept | apply State.request_kept | apply State.fwResult_kept | apply State.putSlot_kept
        | apply Kept.ite)
    | simp only [↓Kept.upd_iff]
    | split

theorem execFwWrite_kept {q : List Instr} {master : Nat} {type : Nat} {flashErr : Bool} {s : State} (h0 : Kept q s) :
    KeptR q (execFwWrite master type flashErr s) := by
  unfold execFwWrite
  with_reducible repeat' first | intro _ | assumption | apply KeptR.of | apply State.fwCommand_kept | apply State.fwWrite_kept

theorem State.fwActivate_kept {q : List Instr} {s : State} {t : Nat} (h0 : Kept q s) :
    Kept q (State.fwActivate s t) := by
  unfold State.fwActivate
  repeat' first
    | (with_reducible first | assumption | apply State.fwResult_kept | apply State.setRec_kept | apply Kept.ite)
    | simp only [↓Kept.upd_iff]

theorem execFwActivate_kept {q : List Instr} {master : Nat} {type : Nat} {s : State} (h0 : Kept q s) :
    KeptR q (execFwActivate master type s) := by
  unfold execFwActivate
  with_reducible repeat' first | intro _ | assumption | apply KeptR.of | apply State.fwCommand_kept | apply State.fwActivate_kept

theorem State.fwCommit_kept {q : List Instr} {s : State} {t : Nat} (h0 : Kept q s) :
    Kept q (State.fwCommit s t) := by
  unfold State.fwCommit
  repeat' first
    | (with_reducible first
        | assumption | apply State.fwResult_kept | apply State.setRec_kept | apply State.commitItems_kept | apply Kept.ite)
    | simp only [↓Kept.upd_iff]

theorem execFwCommit_kept {q : List Instr} {master : Nat} {type : Nat} {s : State} (h0 : Kept q s) :
    KeptR q (execFwCommit master type s) := by
  unfold execFwCommit
  with_reducible repeat' first | intro _ | assumption | apply KeptR.of | apply State.fwCommand_kept | apply State.fwCommit_kept

theorem State.fwRevert_kept {q : List Instr} {s : State} {t : Nat} (h0 : Kept q s) :
    Kept q (State.fwRevert s t) := by
  unfold State.fwRevert
  with_reducible repeat' first | assumption | apply State.fwResult_kept | apply State.revertTrial_kept | apply Kept.ite

theorem execFwRevert_kept {q : List Instr} {master : Nat} {type : Nat} {s : State} (h0 : Kept q s) :
    KeptR q (execFwRevert master type s) := by
  unfold execFwRevert
  with_reducible repeat' first | intro _ | assumption | apply KeptR.of | apply State.fwCommand_kept | apply State.fwRevert_kept

theorem State.stageFw_kept {q : List Instr} {s : State} {t : Nat} {b : Bool} (h0 : Kept q s) :
    Kept q (State.stageFw s t b) := by
  unfold State.stageFw
  repeat' first
    | (with_reducible first | intro _ | assumption | apply State.writeMem_kept | apply Kept.foldl)
    | simp only [↓Kept.upd_iff]

theorem State.fwLive_kept {q : List Instr} {s : State} {t : Nat} {units : Nat} (h0 : Kept q s) :
    Kept q (State.fwLive s t units) := by
  unfold State.fwLive
  repeat' first
    | (with_reducible first
        | assumption | apply State.fwResult_kept | apply State.stageFw_kept | apply State.setMsp_kept | apply State.setBit_kept
        | apply Kept.ite)
    | simp only [↓Kept.upd_iff]

theorem execFwLoad_kept {q : List Instr} {master : Nat} {type : Nat} {units : Nat} {s : State} (h0 : Kept q s) :
    KeptR q (execFwLoad master type units s) := by
  unfold execFwLoad
  with_reducible repeat' first | intro _ | assumption | apply KeptR.of | apply State.fwCommand_kept | apply State.fwLive_kept

theorem State.fwRaise_kept {q : List Instr} {s : State} {key : Nat} (h0 : Kept q s) :
    Kept q (State.fwRaise s key) := by
  unfold State.fwRaise
  repeat' first
    | (with_reducible first | assumption | apply State.fwResult_kept | apply State.setFld_kept | apply Kept.ite)
    | simp only [↓Kept.upd_iff]

theorem execFwRaiseEpoch_kept {q : List Instr} {master : Nat} {key : Nat} {s : State} (h0 : Kept q s) :
    KeptR q (execFwRaiseEpoch master key s) := by
  unfold execFwRaiseEpoch
  with_reducible repeat' first | intro _ | assumption | apply KeptR.of | apply State.fwCommand_kept | apply State.fwRaise_kept

theorem State.quiesceFor_kept {q : List Instr} {s : State} {l : LiveLoad} (h0 : Kept q s) :
    Kept q (State.quiesceFor s l).2 := by
  unfold State.quiesceFor
  repeat' first
    | (with_reducible first | intro _ | assumption | apply State.setBit_kept | apply Kept.foldl)
    | simp only [↓Kept.upd_iff]

theorem State.loadStart_kept {q : List Instr} {s : State} (h0 : Kept q s) :
    Kept q (State.loadStart s) := by
  unfold State.loadStart
  repeat' first
    | (with_reducible first
        | intro _ | assumption | apply State.quiesceFor_kept | apply State.clrBit_kept | apply State.updDie_kept
        | apply State.setShr_kept | apply Kept.ite | apply Kept.foldl)
    | simp only [↓Kept.upd_iff]
    | split

theorem execLiveLoadStart_kept {q : List Instr} {s : State} (h0 : Kept q s) :
    KeptR q (execLiveLoadStart s) := by
  unfold execLiveLoadStart
  with_reducible repeat' first | assumption | apply KeptR.of | apply State.loadStart_kept

theorem State.nextFold_kept {q : List Instr} {s : State} {l : LiveLoad} {f : Nat} (h0 : Kept q s) :
    Kept q (State.nextFold s l f) := by
  unfold State.nextFold
  repeat' first
    | (with_reducible first | assumption | apply State.linkResume_kept | apply State.setBit_kept)
    | simp only [↓Kept.upd_iff]

theorem State.loadEnd_kept {q : List Instr} {s : State} {ok : Bool} {failed : Nat} (h0 : Kept q s) :
    Kept q (State.loadEnd s ok failed) := by
  unfold State.loadEnd
  repeat' first
    | (with_reducible first
        | intro _ | assumption | apply State.nextFold_kept | apply State.setShr_kept | apply State.fwResult_kept
        | apply State.runFrom_kept | apply State.revertTrial_kept | apply State.stageFw_kept | apply State.postFault_kept
        | apply State.serveAllMbx_kept | apply State.holdItems_kept | apply State.setMsp_kept | apply State.linkResume_kept
        | apply Kept.ite | apply Kept.foldl)
    | simp only [↓Kept.upd_iff]
    | split

theorem execLiveLoadResume_kept {q : List Instr} {ok : Bool} {failed : Nat} {s : State} (h0 : Kept q s) :
    KeptR q (execLiveLoadResume ok failed s) := by
  unfold execLiveLoadResume
  with_reducible repeat' first | assumption | apply KeptR.of | apply State.loadEnd_kept

end Sys2Proof.Machine
end

