-- ==== Sys2Proof/Laws/KeptRegRead.lean ====
section
/-! SUPPORT. The queue and the memories' canonical form through the operations of Machine/RegRead.lean. -/

namespace Sys2Proof.Machine

theorem State.wearNext_kept {q : List Instr} {s : State} {p : Nat} (h0 : Kept q s) :
    Kept q (State.wearNext s p) := by
  unfold State.wearNext
  repeat' first
    | (with_reducible first | assumption | apply State.setFld_kept | apply Kept.ite)
    | simp only [↓Kept.upd_iff]

theorem State.readEffect_kept {q : List Instr} {s : State} {off : Nat} (h0 : Kept q s) :
    Kept q (State.readEffect s off) := by
  unfold State.readEffect
  repeat' first
    | (with_reducible first
        | assumption | apply State.updPwr_kept | apply State.postFault_kept | apply State.setMbx_kept | apply State.wearNext_kept
        | apply Kept.ite)
    | simp only [↓Kept.upd_iff]
    | split

theorem State.readReg_kept {q : List Instr} {s : State} {master : Nat} {off : Nat} (h0 : Kept q s) :
    Kept q (State.readReg s master off) := by
  unfold State.readReg
  with_reducible repeat' first | intro _ | assumption | apply State.guardedRead_kept | apply State.readEffect_kept

end Sys2Proof.Machine
end

