-- ==== Sys2Proof/Laws/KeptMgmt.lean ====
section
/-! SUPPORT. The queue and the memories' canonical form through the operations of Machine/Mgmt.lean. -/

namespace Sys2Proof.Machine

theorem State.smbus_kept {q : List Instr} {s : State} {bs : List Sys2Proof.Byte} (h0 : Kept q s) :
    Kept q (State.smbus s bs) := by
  unfold State.smbus
  with_reducible repeat' first | assumption | apply State.emit_kept | apply Kept.ite

theorem execSmbGlbId_kept {q : List Instr} {s : State} (h0 : Kept q s) :
    KeptR q (execSmbGlbId s) := by
  unfold execSmbGlbId
  with_reducible repeat' first | assumption | apply KeptR.of | apply State.smbus_kept

theorem execSmbState_kept {q : List Instr} {s : State} (h0 : Kept q s) :
    KeptR q (execSmbState s) := by
  unfold execSmbState
  with_reducible repeat' first | assumption | apply KeptR.of | apply State.smbus_kept

theorem execSmbVin_kept {q : List Instr} {s : State} (h0 : Kept q s) :
    KeptR q (execSmbVin s) := by
  unfold execSmbVin
  with_reducible repeat' first | assumption | apply KeptR.of | apply State.smbus_kept

theorem execSmbPinAvg_kept {q : List Instr} {s : State} (h0 : Kept q s) :
    KeptR q (execSmbPinAvg s) := by
  unfold execSmbPinAvg
  with_reducible repeat' first | assumption | apply KeptR.of | apply State.smbus_kept

theorem execSmbTemp_kept {q : List Instr} {s : State} (h0 : Kept q s) :
    KeptR q (execSmbTemp s) := by
  unfold execSmbTemp
  with_reducible repeat' first | assumption | apply KeptR.of | apply State.smbus_kept

theorem execSmbFsCause_kept {q : List Instr} {s : State} (h0 : Kept q s) :
    KeptR q (execSmbFsCause s) := by
  unfold execSmbFsCause
  with_reducible repeat' first | assumption | apply KeptR.of | apply State.smbus_kept

theorem execSmbFltSeq_kept {q : List Instr} {s : State} (h0 : Kept q s) :
    KeptR q (execSmbFltSeq s) := by
  unfold execSmbFltSeq
  with_reducible repeat' first | assumption | apply KeptR.of | apply State.smbus_kept

theorem execSmbAlertStatus_kept {q : List Instr} {s : State} (h0 : Kept q s) :
    KeptR q (execSmbAlertStatus s) := by
  unfold execSmbAlertStatus
  with_reducible repeat' first | assumption | apply KeptR.of | apply State.smbus_kept

theorem execSmbAlertClear_kept {q : List Instr} {v : Nat} {s : State} (h0 : Kept q s) :
    KeptR q (execSmbAlertClear v s) := by
  unfold execSmbAlertClear
  repeat' first
    | (with_reducible first | assumption | apply KeptR.of | apply Kept.ite)
    | simp only [↓Kept.upd_iff]

theorem execSmbAlertMask_kept {q : List Instr} {w : Option Nat} {s : State} (h0 : Kept q s) :
    KeptR q (execSmbAlertMask w s) := by
  unfold execSmbAlertMask
  repeat' first
    | (with_reducible first | assumption | apply KeptR.of | apply State.smbus_kept | apply Kept.ite)
    | simp only [↓Kept.upd_iff]
    | split

theorem execSmbSerial_kept {q : List Instr} {s : State} (h0 : Kept q s) :
    KeptR q (execSmbSerial s) := by
  unfold execSmbSerial
  with_reducible repeat' first | assumption | apply KeptR.of | apply State.smbus_kept

theorem execSmbAlertResponse_kept {q : List Instr} {s : State} (h0 : Kept q s) :
    KeptR q (execSmbAlertResponse s) := by
  unfold execSmbAlertResponse
  with_reducible repeat' first | assumption | apply KeptR.of | apply State.smbus_kept | apply Kept.ite

theorem State.reply_kept {q : List Instr} {s : State} {qq : List Sys2Proof.Byte} {status : Nat} {body : List Sys2Proof.Byte} (h0 : Kept q s) :
    Kept q (State.reply s qq status body) := by
  unfold State.reply
  with_reducible repeat' first | assumption | apply State.emit_kept

theorem State.request18_kept {q : List Instr} {s : State} {ops : Nat → Bool} {qq : List Sys2Proof.Byte} {f : State → State} (h0 : Kept q s) (hf : ∀ b0, Kept q b0 → Kept q (f b0)) :
    Kept q (State.request18 s ops qq f) := by
  unfold State.request18
  repeat' first
    | (with_reducible first | assumption | apply hf | apply Kept.ite)
    | simp only [↓Kept.upd_iff]

theorem State.fwRequest_kept {q : List Instr} {s : State} {qq : List Sys2Proof.Byte} (h0 : Kept q s) :
    Kept q (State.fwRequest s qq) := by
  unfold State.fwRequest
  repeat' first
    | (with_reducible first
        | intro _ | assumption | apply State.fwRun_kept | apply State.reply_kept | apply State.fwActivate_kept
        | apply State.fwCommit_kept | apply State.fwRevert_kept | apply State.fwLive_kept | apply State.fwResult_kept
        | apply State.fwRaise_kept | apply Kept.ite)
    | simp only [↓Kept.upd_iff]
    | split

theorem State.statusRequest_kept {q : List Instr} {s : State} {qq : List Sys2Proof.Byte} (h0 : Kept q s) :
    Kept q (State.statusRequest s qq) := by
  unfold State.statusRequest
  with_reducible repeat' first | assumption | apply State.reply_kept | apply State.fwRequest_kept | apply Kept.ite

theorem execStatus_kept {q : List Instr} {req : List Sys2Proof.Byte} {s : State} (h0 : Kept q s) :
    KeptR q (execStatus req s) := by
  unfold execStatus
  with_reducible repeat' first | intro _ | assumption | apply KeptR.of | apply State.request18_kept | apply State.statusRequest_kept

theorem State.exitRequest_kept {q : List Instr} {s : State} {qq : List Sys2Proof.Byte} (h0 : Kept q s) :
    Kept q (State.exitRequest s qq) := by
  unfold State.exitRequest
  repeat' first
    | (with_reducible first | assumption | apply State.reply_kept | apply State.requestExit_kept | apply Kept.ite)
    | simp only [↓Kept.upd_iff]

theorem execFsExit_kept {q : List Instr} {req : List Sys2Proof.Byte} {s : State} (h0 : Kept q s) :
    KeptR q (execFsExit req s) := by
  unfold execFsExit
  with_reducible repeat' first | intro _ | assumption | apply KeptR.of | apply State.request18_kept | apply State.exitRequest_kept

theorem State.chunkRequest_kept {q : List Instr} {s : State} {qq : List Sys2Proof.Byte} (h0 : Kept q s) :
    Kept q (State.chunkRequest s qq) := by
  unfold State.chunkRequest
  repeat' first
    | (with_reducible first | assumption | apply State.reply_kept | apply freeBytes_kept | apply State.putSlot_kept | apply Kept.ite)
    | simp only [↓Kept.upd_iff]

theorem execImageChunk_kept {q : List Instr} {req : List Sys2Proof.Byte} {s : State} (h0 : Kept q s) :
    KeptR q (execImageChunk req s) := by
  unfold execImageChunk
  with_reducible repeat' first | intro _ | assumption | apply KeptR.of | apply State.request18_kept | apply State.chunkRequest_kept

theorem State.checkRequest_kept {q : List Instr} {s : State} {qq : List Sys2Proof.Byte} (h0 : Kept q s) :
    Kept q (State.checkRequest s qq) := by
  unfold State.checkRequest
  repeat' first
    | (with_reducible first | assumption | apply State.reply_kept | apply State.putSlot_kept | apply Kept.ite)
    | simp only [↓Kept.upd_iff]

theorem execImageCheck_kept {q : List Instr} {req : List Sys2Proof.Byte} {s : State} (h0 : Kept q s) :
    KeptR q (execImageCheck req s) := by
  unfold execImageCheck
  with_reducible repeat' first | intro _ | assumption | apply KeptR.of | apply State.request18_kept | apply State.checkRequest_kept

theorem State.readRequest_kept {q : List Instr} {s : State} {qq : List Sys2Proof.Byte} (h0 : Kept q s) :
    Kept q (State.readRequest s qq) := by
  unfold State.readRequest
  repeat' first
    | (with_reducible first | assumption | apply State.reply_kept | apply State.readEffect_kept | apply Kept.ite)
    | simp only [↓Kept.upd_iff]

theorem execReadReg_kept {q : List Instr} {req : List Sys2Proof.Byte} {s : State} (h0 : Kept q s) :
    KeptR q (execReadReg req s) := by
  unfold execReadReg
  with_reducible repeat' first | intro _ | assumption | apply KeptR.of | apply State.request18_kept | apply State.readRequest_kept

theorem execIcmpEcho_kept {q : List Instr} {data : List Sys2Proof.Byte} {s : State} (h0 : Kept q s) :
    KeptR q (execIcmpEcho data s) := by
  unfold execIcmpEcho
  with_reducible repeat' first | assumption | apply KeptR.of | apply State.emit_kept | apply Kept.ite

theorem execArpRequest_kept {q : List Instr} {mine : Bool} {nd : Bool} {s : State} (h0 : Kept q s) :
    KeptR q (execArpRequest mine nd s) := by
  unfold execArpRequest
  with_reducible repeat' first | assumption | apply KeptR.of | apply State.emit_kept | apply Kept.ite

end Sys2Proof.Machine
end

