-- ==== Sys2Proof/Laws/KeptMonitors.lean ====
section
/-! SUPPORT. The queue and the memories' canonical form through the operations of Machine/Monitors.lean. -/

namespace Sys2Proof.Machine

theorem State.updMon_kept {q : List Instr} {s : State} {d : Nat} {f : Mon → Mon} (h0 : Kept q s) :
    Kept q (State.updMon s d f) := by
  unfold State.updMon
  repeat' first
    | (with_reducible first | assumption)
    | simp only [↓Kept.upd_iff]

theorem State.monBuffer_kept {q : List Instr} {s : State} {d : Nat} {e : Nat} (h0 : Kept q s) :
    Kept q (State.monBuffer s d e) := by
  unfold State.monBuffer
  repeat' first
    | (with_reducible first | assumption | apply State.setGood_kept | apply State.poke_kept | apply State.setFld_kept | apply Kept.ite)
    | simp only [↓Kept.upd_iff]

theorem State.monMirror_kept {q : List Instr} {s : State} {d : Nat} {e : Nat} (h0 : Kept q s) :
    Kept q (State.monMirror s d e) := by
  unfold State.monMirror
  repeat' first
    | (with_reducible first
        | assumption | apply State.updMon_kept | apply State.store_kept | apply State.clrBit_kept | apply State.setFld_kept
        | apply Kept.ite)
    | simp only [↓Kept.upd_iff]
    | split

theorem State.monFail_kept {q : List Instr} {s : State} {d : Nat} {c : Nat} {bad : Bool} {low : Bool} (h0 : Kept q s) :
    Kept q (State.monFail s d c bad low) := by
  unfold State.monFail
  repeat' first
    | (with_reducible first
        | intro _ | assumption | apply State.updMon_kept | apply State.assertFs_kept | apply State.setBit_kept | apply Kept.ite
        | apply Kept.foldl)
    | simp only [↓Kept.upd_iff]

theorem State.monWarn_kept {q : List Instr} {s : State} {d : Nat} {c : Nat} (h0 : Kept q s) :
    Kept q (State.monWarn s d c) := by
  unfold State.monWarn
  with_reducible repeat' first | assumption | apply State.alert_kept | apply State.raiseIrq_kept | apply State.event_kept

theorem State.tempTrigger_kept {q : List Instr} {s : State} {p : Nat} {c : Nat} {users : List Nat} (h0 : Kept q s) :
    Kept q (State.tempTrigger s p c users) := by
  unfold State.tempTrigger
  repeat' first
    | (with_reducible first
        | intro _ | assumption | apply State.event_kept | apply State.fieldDue_kept | apply Kept.ite | apply Kept.foldl)
    | simp only [↓Kept.upd_iff]

theorem State.convert_kept {q : List Instr} {s : State} {d : Nat} {c : Nat} {code : Nat} (h0 : Kept q s) :
    Kept q (State.convert s d c code) := by
  unfold State.convert
  with_reducible repeat' first
    | assumption | apply State.updMon_kept | apply State.setReg_kept | apply State.monMirror_kept | apply State.monBuffer_kept
    | apply State.monWarn_kept | apply State.tempTrigger_kept | apply State.monFail_kept | apply Kept.ite

theorem execHkConversion_kept {q : List Instr} {d : Nat} {code : Nat} {s : State} (h0 : Kept q s) :
    KeptR q (execHkConversion d code s) := by
  unfold execHkConversion
  repeat' first
    | (with_reducible first | assumption | apply onUnit_kept | apply State.convert_kept | apply Kept.ite)
    | split

theorem execHkLowPower_kept {q : List Instr} {d : Nat} {s : State} (h0 : Kept q s) :
    KeptR q (execHkLowPower d s) := by
  unfold execHkLowPower
  with_reducible repeat' first | assumption | apply onUnit_kept | apply State.setFld_kept

theorem execMonLock_kept {q : List Instr} {master : Nat} {d : Nat} {w : Sys2Proof.Word} {s : State} (h0 : Kept q s) :
    KeptR q (execMonLock master d w s) := by
  unfold execMonLock
  with_reducible repeat' first
    | intro _ | assumption | apply onUnit_kept | apply State.guardedWrite_kept | apply State.setBit_kept | apply Kept.ite

theorem State.setMirror_kept {q : List Instr} {s : State} {d : Nat} {w : Sys2Proof.Word} (h0 : Kept q s) :
    Kept q (State.setMirror s d w) := by
  unfold State.setMirror
  repeat' first
    | (with_reducible first | assumption | apply State.setReg_kept | apply State.updMon_kept | apply Kept.ite)
    | simp only [↓Kept.upd_iff]

theorem execMirrorEnable_kept {q : List Instr} {master : Nat} {d : Nat} {w : Sys2Proof.Word} {s : State} (h0 : Kept q s) :
    KeptR q (execMirrorEnable master d w s) := by
  unfold execMirrorEnable
  with_reducible repeat' first | intro _ | assumption | apply onUnit_kept | apply State.guardedWrite_kept | apply State.setMirror_kept

end Sys2Proof.Machine
end

