-- ==== Sys2Proof/Laws/KeptRegWrite.lean ====
section
/-! SUPPORT. The queue and the memories' canonical form through the operations of Machine/RegWrite.lean. -/

namespace Sys2Proof.Machine

theorem State.putReg_kept {q : List Instr} {s : State} {off : Nat} {skip : Sys2Proof.Word} {w : Sys2Proof.Word} (h0 : Kept q s) :
    Kept q (State.putReg s off skip w) := by
  unfold State.putReg
  repeat' first
    | (with_reducible first | assumption | apply State.setReg_kept | apply State.stage_kept | apply Kept.ite)
    | simp only [↓Kept.upd_iff]
    | split

theorem State.putCtxReg_kept {q : List Instr} {s : State} {master : Nat} {off : Nat} {w : Sys2Proof.Word} (h0 : Kept q s) :
    Kept q (State.putCtxReg s master off w) := by
  unfold State.putCtxReg
  repeat' first
    | (with_reducible first | assumption | apply State.putReg_kept | apply Kept.ite)
    | simp only [↓Kept.upd_iff]

theorem State.putCtxCtl_kept {q : List Instr} {s : State} {master : Nat} {c : Nat} {w : Sys2Proof.Word} (h0 : Kept q s) :
    Kept q (State.putCtxCtl s master c w) := by
  unfold State.putCtxCtl
  repeat' first
    | (with_reducible first
        | intro _ | assumption | apply State.guardedWrite_kept | apply State.rebind_kept | apply State.writeEnable_kept
        | apply State.disableCtx_kept | apply Kept.ite)
    | simp only [↓Kept.upd_iff]

theorem State.putBank_kept {q : List Instr} {s : State} {b : Nat} {off : Nat} {w : Sys2Proof.Word} (h0 : Kept q s) :
    Kept q (State.putBank s b off w) := by
  unfold State.putBank
  with_reducible repeat' first | assumption | apply State.clrBit_kept | apply State.putReg_kept | apply Kept.ite

theorem State.putPortCtl_kept {q : List Instr} {s : State} {p : Nat} {w : Sys2Proof.Word} (h0 : Kept q s) :
    Kept q (State.putPortCtl s p w) := by
  unfold State.putPortCtl
  repeat' first
    | (with_reducible first
        | intro _ | assumption | apply State.settlePort_kept | apply State.putReg_kept | apply State.clrBit_kept
        | apply State.retrain_kept | apply Kept.ite | apply Kept.foldl)
    | simp only [↓Kept.upd_iff]

theorem State.putRingCtl_kept {q : List Instr} {s : State} {w : Sys2Proof.Word} (h0 : Kept q s) :
    Kept q (State.putRingCtl s w) := by
  unfold State.putRingCtl
  repeat' first
    | (with_reducible first | assumption | apply State.putReg_kept | apply State.setReg_kept | apply Kept.ite)
    | simp only [↓Kept.upd_iff]

theorem State.putRebuild_kept {q : List Instr} {s : State} {w : Sys2Proof.Word} (h0 : Kept q s) :
    Kept q (State.putRebuild s w) := by
  unfold State.putRebuild
  repeat' first
    | (with_reducible first | assumption | apply State.clrBit_kept | apply State.setBit_kept | apply State.setReg_kept | apply Kept.ite)
    | simp only [↓Kept.upd_iff]

theorem State.putFw_kept {q : List Instr} {s : State} {w : Sys2Proof.Word} (h0 : Kept q s) :
    Kept q (State.putFw s w) := by
  unfold State.putFw
  repeat' first
    | (with_reducible first
        | intro _ | assumption | apply State.fwRun_kept | apply State.takeFree_kept | apply State.fwWrite_kept
        | apply State.fwActivate_kept | apply State.fwCommit_kept | apply State.fwRevert_kept | apply State.fwLive_kept
        | apply State.fwRaise_kept | apply Kept.ite)
    | simp only [↓Kept.upd_iff]
    | split

theorem State.putWdt_kept {q : List Instr} {s : State} {w : Sys2Proof.Word} (h0 : Kept q s) :
    Kept q (State.putWdt s w) := by
  unfold State.putWdt
  repeat' first
    | (with_reducible first | assumption | apply State.putReg_kept | apply State.updPwr_kept | apply Kept.ite)
    | simp only [↓Kept.upd_iff]

theorem State.putWear_kept {q : List Instr} {s : State} {p : Nat} {w : Sys2Proof.Word} (h0 : Kept q s) :
    Kept q (State.putWear s p w) := by
  unfold State.putWear
  repeat' first
    | (with_reducible first | assumption | apply State.wearNext_kept | apply State.askWorn_kept | apply State.updDie_kept)
    | split

theorem State.putCounter_kept {q : List Instr} {s : State} {d : Nat} {i : Nat} {o : Nat} {w : Sys2Proof.Word} (h0 : Kept q s) :
    Kept q (State.putCounter s d i o w) := by
  unfold State.putCounter
  repeat' first
    | (with_reducible first | assumption | apply Kept.ite)
    | simp only [↓Kept.upd_iff]

theorem State.putCnt_kept {q : List Instr} {s : State} {off : Nat} {w : Sys2Proof.Word} (h0 : Kept q s) :
    Kept q (State.putCnt s off w) := by
  unfold State.putCnt
  repeat' first
    | (with_reducible first
        | assumption | apply State.putCounter_kept | apply State.putRingCtl_kept | apply State.putReg_kept | apply Kept.ite)
    | split

theorem State.putMon_kept {q : List Instr} {s : State} {off : Nat} {w : Sys2Proof.Word} (h0 : Kept q s) :
    Kept q (State.putMon s off w) := by
  unfold State.putMon
  repeat' first
    | (with_reducible first
        | assumption | apply State.setBit_kept | apply State.setMirror_kept | apply State.putReg_kept | apply Kept.ite)
    | simp only [↓Kept.upd_iff]

theorem State.putDie_kept {q : List Instr} {s : State} {off : Nat} {w : Sys2Proof.Word} (h0 : Kept q s) :
    Kept q (State.putDie s off w) := by
  unfold State.putDie
  repeat' first
    | (with_reducible first
        | assumption | apply State.putWear_kept | apply State.afterQuiesce_kept | apply State.putReg_kept | apply Kept.ite)
    | simp only [↓Kept.upd_iff]

theorem State.putMem_kept {q : List Instr} {s : State} {off : Nat} {w : Sys2Proof.Word} (h0 : Kept q s) :
    Kept q (State.putMem s off w) := by
  unfold State.putMem
  with_reducible repeat' first | assumption | apply State.writeMig_kept | apply State.putReg_kept | apply Kept.ite

theorem State.putGlb_kept {q : List Instr} {s : State} {off : Nat} {w : Sys2Proof.Word} (h0 : Kept q s) :
    Kept q (State.putGlb s off w) := by
  unfold State.putGlb
  with_reducible repeat' first
    | assumption | apply State.selfReset_kept | apply State.putRebuild_kept | apply State.writeThr_kept | apply State.putFw_kept
    | apply State.putReg_kept | apply Kept.ite

theorem State.putFab_kept {q : List Instr} {s : State} {off : Nat} {w : Sys2Proof.Word} (h0 : Kept q s) :
    Kept q (State.putFab s off w) := by
  unfold State.putFab
  repeat' first
    | (with_reducible first
        | assumption | apply State.putBank_kept | apply State.putPortCtl_kept | apply State.putReg_kept | apply State.bankLoad_kept
        | apply Kept.ite)
    | simp only [↓Kept.upd_iff]
    | split

theorem State.putShr_kept {q : List Instr} {s : State} {master : Nat} {off : Nat} {w : Sys2Proof.Word} (h0 : Kept q s) :
    Kept q (State.putShr s master off w) := by
  unfold State.putShr
  with_reducible repeat' first | assumption | apply State.deny_kept | apply State.putReg_kept | apply Kept.ite

theorem State.putAclReg_kept {q : List Instr} {s : State} {off : Nat} {w : Sys2Proof.Word} (h0 : Kept q s) :
    Kept q (State.putAclReg s off w) := by
  unfold State.putAclReg
  repeat' first
    | (with_reducible first | assumption | apply State.setBit_kept | apply State.putAcl_kept | apply State.putReg_kept | apply Kept.ite)
    | simp only [↓Kept.upd_iff]

theorem State.putAny_kept {q : List Instr} {s : State} {master : Nat} {off : Nat} {w : Sys2Proof.Word} (h0 : Kept q s) :
    Kept q (State.putAny s master off w) := by
  unfold State.putAny
  repeat' first
    | (with_reducible first
        | assumption | apply State.putGlb_kept | apply State.putWdt_kept | apply State.putReg_kept | apply State.putCtxReg_kept
        | apply State.putAclReg_kept | apply State.setQuiesce_kept | apply State.putShr_kept | apply State.putMem_kept
        | apply State.putFab_kept | apply State.putCnt_kept | apply State.putMon_kept | apply State.putDie_kept | apply Kept.ite)
    | split

theorem State.writeReg_kept {q : List Instr} {s : State} {master : Nat} {off : Nat} {w : Sys2Proof.Word} (h0 : Kept q s) :
    Kept q (State.writeReg s master off w) := by
  unfold State.writeReg
  repeat' first
    | (with_reducible first
        | intro _ | assumption | apply State.writeMbx_kept | apply State.putCtxCtl_kept | apply State.guardedWrite_kept
        | apply State.putAny_kept | apply Kept.ite)
    | split

theorem execRegisterWrite_kept {q : List Instr} {master : Nat} {off : Nat} {w : Sys2Proof.Word} {s : State} (h0 : Kept q s) :
    KeptR q (execRegisterWrite master off w s) := by
  unfold execRegisterWrite
  with_reducible repeat' first | assumption | apply KeptR.of | apply State.writeReg_kept

theorem execStagedRegisterWrite_kept {q : List Instr} {master : Nat} {off : Nat} {w : Sys2Proof.Word} {s : State} (h0 : Kept q s) :
    KeptR q (execStagedRegisterWrite master off w s) := by
  unfold execStagedRegisterWrite
  with_reducible repeat' first | assumption | apply KeptR.of | apply State.writeReg_kept | apply Kept.ite

end Sys2Proof.Machine
end

