-- ==== Sys2Proof/Laws/KeptMemSpace.lean ====
section
/-! SUPPORT. The queue and the memories' canonical form through the operations of Machine/MemSpace.lean. -/

namespace Sys2Proof.Machine

theorem State.regSpace_kept {q : List Instr} {s : State} {qq : MemReq} {off : Nat} (h0 : Kept q s) :
    Kept q (State.regSpace s qq off) := by
  unfold State.regSpace
  repeat' first
    | (with_reducible first
        | assumption | apply State.writeReg_kept | apply State.readReg_kept | apply State.refuse_kept | apply Kept.ite)
    | simp only [↓Kept.upd_iff]
    | split

theorem State.serveReq_kept {q : List Instr} {s : State} {qq : MemReq} (h0 : Kept q s) :
    Kept q (State.serveReq s qq) := by
  unfold State.serveReq
  repeat' first
    | (with_reducible first
        | assumption | apply State.regSpace_kept | apply State.memRequest_kept | apply State.penAccess_kept | apply Kept.ite)
    | split

theorem State.setWaiting_kept {q : List Instr} {s : State} {qs : List MemReq} (h0 : Kept q s) :
    Kept q (State.setWaiting s qs) := by
  unfold State.setWaiting
  repeat' first
    | (with_reducible first | assumption)
    | simp only [↓Kept.upd_iff]
    | simp only [↓Kept.updMem_iff]

theorem State.submit_kept {q : List Instr} {s : State} {qq : MemReq} (h0 : Kept q s) :
    Kept q (State.submit s qq) := by
  unfold State.submit
  repeat' first
    | (with_reducible first
        | assumption | apply State.serveReq_kept | apply State.setWaiting_kept | apply State.eventF_kept | apply Kept.ite)
    | simp only [↓Kept.upd_iff]

theorem State.retryWaiting_kept {q : List Instr} {s : State} (h0 : Kept q s) :
    Kept q (State.retryWaiting s) := by
  unfold State.retryWaiting
  with_reducible repeat' first | intro _ | assumption | apply State.submit_kept | apply State.setWaiting_kept | apply Kept.foldl

theorem execMemoryRequest_kept {q : List Instr} {pen : Bool} {master : Nat} {a : Nat} {n : Nat} {write : Bool} {data : List Sys2Proof.Byte} {s : State} (h0 : Kept q s) :
    KeptR q (execMemoryRequest pen master a n write data s) := by
  unfold execMemoryRequest
  with_reducible repeat' first | assumption | apply KeptR.of | apply State.submit_kept

end Sys2Proof.Machine
end

