-- ==== Sys2Proof/Laws/KeptCommit.lean ====
section
/-! SUPPORT. The queue and the memories' canonical form through the operations of Machine/Commit.lean. -/

namespace Sys2Proof.Machine

theorem State.stageRights_kept {q : List Instr} {s : State} {master : Nat} {a2 : List (Nat × Sys2Proof.Word × Sys2Proof.Word)} (h0 : Kept q s) :
    Kept q (State.stageRights s master a2).2 := by
  induction a2 generalizing s master with
  | nil =>
    unfold State.stageRights
    repeat' first
      | (with_reducible first | assumption | apply State.regCheck_kept | apply Kept.ite2)
      | simp only [↓Kept.upd_iff]
  | cons b bs ih =>
    unfold State.stageRights
    repeat' first
      | (with_reducible first | apply ih | assumption | apply State.regCheck_kept | apply Kept.ite2)
      | simp only [↓Kept.upd_iff]

theorem State.stageAll_kept {q : List Instr} {s : State} {es : List (Nat × Sys2Proof.Word × Sys2Proof.Word)} (h0 : Kept q s) :
    Kept q (State.stageAll s es) := by
  unfold State.stageAll
  with_reducible repeat' first | intro _ | assumption | apply State.stage_kept | apply Kept.foldl

theorem State.configStage_kept {q : List Instr} {s : State} {c : Nat} {d : Desc} (h0 : Kept q s) :
    Kept q (State.configStage s c d) := by
  unfold State.configStage
  repeat' first
    | (with_reducible first
        | assumption | apply State.readRecord_kept | apply State.complete_kept | apply State.stageRights_kept
        | apply State.stageAll_kept | apply Kept.ite | apply Kept.ite2)
    | simp only [↓Kept.upd_iff]
    | split

theorem execConfigStage_kept {q : List Instr} {c : Nat} {n : Nat} {s : State} (h0 : Kept q s) :
    KeptR q (execConfigStage c n s) := by
  unfold execConfigStage
  with_reducible repeat' first | intro _ | assumption | apply onUnit_kept | apply State.runDesc_kept | apply State.configStage_kept

theorem State.commitOne_kept {q : List Instr} {a : Nat × State} {kv : Nat × Sys2Proof.Word} (h0 : Kept q a.2) :
    Kept q (State.commitOne a kv).2 := by
  unfold State.commitOne
  repeat' first
    | (with_reducible first | assumption | apply State.setReg_kept | apply State.setBit_kept | apply State.clrBit_kept | apply Kept.ite2)
    | simp only [↓Kept.upd_iff]

theorem State.commitShadows_kept {q : List Instr} {s : State} (h0 : Kept q s) :
    Kept q (State.commitShadows s).2 := by
  unfold State.commitShadows
  repeat' first
    | (with_reducible first | intro _ | assumption | apply State.commitOne_kept | apply Kept.foldl2)
    | simp only [↓Kept.upd_iff]

theorem State.commitActions_kept {q : List Instr} {s : State} (h0 : Kept q s) :
    Kept q (State.commitActions s) := by
  unfold State.commitActions
  with_reducible repeat' first
    | intro _ | assumption | apply State.askWorn_kept | apply State.commitSpans_kept | apply State.portsCommit_kept
    | apply State.groupsCommit_kept | apply State.epochCommit_kept | apply Kept.foldl

theorem State.sensorsCommit_kept {q : List Instr} {old : State} {s : State} (h0 : Kept q old) (h1 : Kept q s) :
    Kept q (State.sensorsCommit old s) := by
  unfold State.sensorsCommit
  repeat' first
    | (with_reducible first | intro _ | assumption | apply State.event_kept | apply Kept.foldl)
    | simp only [↓Kept.upd_iff]

theorem State.commitNow_kept {q : List Instr} {s : State} {c : Nat} {d : Desc} (h0 : Kept q s) :
    Kept q (State.commitNow s c d) := by
  unfold State.commitNow
  repeat' first
    | (with_reducible first
        | assumption | apply State.commitShadows_kept | apply State.commitActions_kept | apply State.sensorsCommit_kept
        | apply State.setReg_kept | apply State.clrBit_kept | apply State.complete_kept | apply State.store_kept | apply Kept.ite)
    | simp only [↓Kept.upd_iff]

theorem State.configCommit_kept {q : List Instr} {s : State} {c : Nat} {d : Desc} (h0 : Kept q s) :
    Kept q (State.configCommit s c d) := by
  unfold State.configCommit
  repeat' first
    | (with_reducible first
        | assumption | apply State.complete_kept | apply State.commitNow_kept | apply State.setBit_kept | apply Kept.ite)
    | simp only [↓Kept.upd_iff]

theorem execConfigCommit_kept {q : List Instr} {c : Nat} {n : Nat} {s : State} (h0 : Kept q s) :
    KeptR q (execConfigCommit c n s) := by
  unfold execConfigCommit
  with_reducible repeat' first | intro _ | assumption | apply onUnit_kept | apply State.runDesc_kept | apply State.configCommit_kept

end Sys2Proof.Machine
end

