-- ==== Sys2Proof/Laws/KeptMishap.lean ====
section
/-! SUPPORT. The queue and the memories' canonical form through the operations of Machine/Mishap.lean. -/

namespace Sys2Proof.Machine

theorem State.symbolError_kept {q : List Instr} {s : State} {k : Nat} {p : Nat} {line : Nat} {sym : Nat} {mask : Nat} (h0 : Kept q s) :
    Kept q (State.symbolError s k p line sym mask) := by
  unfold State.symbolError
  repeat' first
    | (with_reducible first | assumption | apply State.setSpare_kept)
    | simp only [↓Kept.upd_iff]
    | simp only [↓Kept.updMem_iff]
    | split

theorem State.sramError_kept {q : List Instr} {s : State} {f : Nat} {line : Nat} {i : Nat} {bit : Nat} (h0 : Kept q s) :
    Kept q (State.sramError s f line i bit) := by
  unfold State.sramError
  with_reducible repeat' first | assumption | apply State.setErrs_kept

theorem State.channelFails_kept {q : List Instr} {s : State} {k : Nat} {p : Nat} {dead : Bool} (h0 : Kept q s) :
    Kept q (State.channelFails s k p dead) := by
  unfold State.channelFails
  repeat' first
    | (with_reducible first | assumption | apply State.orderRetire_kept | apply Kept.ite)
    | simp only [↓Kept.upd_iff]
    | simp only [↓Kept.updMem_iff]

theorem State.imemError_kept {q : List Instr} {s : State} {e : Nat} {w : Nat} (h0 : Kept q s) :
    Kept q (State.imemError s e w) := by
  unfold State.imemError
  with_reducible repeat' first | assumption | apply State.updDrv_kept

theorem State.localError_kept {q : List Instr} {s : State} {e : Nat} {line : Nat} (h0 : Kept q s) :
    Kept q (State.localError s e line) := by
  unfold State.localError
  with_reducible repeat' first | assumption | apply State.updDrv_kept

theorem State.mishapOf_kept {q : List Instr} {s : State} {v : Nat} (h0 : Kept q s) :
    Kept q (State.mishapOf s v) := by
  unfold State.mishapOf
  repeat' first
    | (with_reducible first
        | assumption | apply State.symbolError_kept | apply State.sramError_kept | apply State.channelFails_kept
        | apply State.imemError_kept | apply State.localError_kept | apply State.drvFault_kept | apply State.drain_kept)
    | simp only [↓Kept.upd_iff]
    | split

theorem State.mishap_kept {q : List Instr} {s : State} (h0 : Kept q s) :
    Kept q (State.mishap s) := by
  unfold State.mishap
  with_reducible repeat' first | assumption | apply State.takeFree_kept | apply State.mishapOf_kept

end Sys2Proof.Machine
end

