-- ==== Sys2Proof/Laws/KeptTick.lean ====
section
/-! SUPPORT. The queue and the memories' canonical form through the operations of Machine/Tick.lean. -/

namespace Sys2Proof.Machine

theorem State.tickTime_kept {q : List Instr} {s : State} (h0 : Kept q s) :
    Kept q (State.tickTime s) := by
  unfold State.tickTime
  repeat' first
    | (with_reducible first | assumption | apply State.updFab_kept)
    | simp only [↓Kept.upd_iff]

theorem State.tickWdt_kept {q : List Instr} {s : State} (h0 : Kept q s) :
    Kept q (State.tickWdt s) := by
  unfold State.tickWdt
  with_reducible repeat' first | assumption | apply State.updPwr_kept | apply Kept.ite

theorem State.sampleLevel_kept {q : List Instr} {s : State} {d : Nat} {i : Nat} (h0 : Kept q s) :
    Kept q (State.sampleLevel s d i) := by
  unfold State.sampleLevel
  repeat' first
    | (with_reducible first | assumption | apply State.cntAdd_kept | apply Kept.ite)
    | simp only [↓Kept.upd_iff]
    | split

theorem State.tickDie_kept {q : List Instr} {s : State} {d : Nat} (h0 : Kept q s) :
    Kept q (State.tickDie s d) := by
  unfold State.tickDie
  repeat' first
    | (with_reducible first
        | intro _ | assumption | apply State.event_kept | apply State.sampleLevel_kept | apply Kept.ite | apply Kept.foldl)
    | simp only [↓Kept.upd_iff]

theorem State.stallPort_kept {q : List Instr} {s : State} {p : Nat} (h0 : Kept q s) :
    Kept q (State.stallPort s p) := by
  unfold State.stallPort
  with_reducible repeat' first | assumption | apply State.eventF_kept

theorem State.tickPorts_kept {q : List Instr} {s : State} (h0 : Kept q s) :
    Kept q (State.tickPorts s) := by
  unfold State.tickPorts
  with_reducible repeat' first | intro _ | assumption | apply State.stallPort_kept | apply State.reroute_kept | apply Kept.foldl

theorem State.tickGate_kept {q : List Instr} {s : State} (h0 : Kept q s) :
    Kept q (State.tickGate s) := by
  unfold State.tickGate
  with_reducible repeat' first | intro _ | assumption | apply State.eventF_kept | apply Kept.ite | apply Kept.foldl

theorem State.tickRing_kept {q : List Instr} {s : State} (h0 : Kept q s) :
    Kept q (State.tickRing s) := by
  unfold State.tickRing
  repeat' first
    | (with_reducible first | assumption)
    | simp only [↓Kept.upd_iff]

theorem State.tick_kept {q : List Instr} {s : State} (h0 : Kept q s) :
    Kept q (State.tick s) := by
  unfold State.tick
  with_reducible repeat' first
    | intro _ | assumption | apply State.pdTick_kept | apply State.flashEnd_kept | apply State.tickPorts_kept
    | apply State.retryWaiting_kept | apply State.migrateTick_kept | apply State.mishap_kept | apply State.tickTime_kept
    | apply State.tickWdt_kept | apply State.tickGate_kept | apply State.tickRing_kept | apply State.tickDie_kept | apply Kept.ite
    | apply Kept.foldl

end Sys2Proof.Machine
end

