-- ==== Sys2Proof/Laws/KeptStart.lean ====
section
/-! SUPPORT. The queue and the memories' canonical form through the operations of Machine/Start.lean. -/

namespace Sys2Proof.Machine

theorem State.closeDone_kept {q : List Instr} {s : State} (h0 : Kept q s) :
    Kept q (State.closeDone s) := by
  unfold State.closeDone
  repeat' first
    | (with_reducible first | assumption | apply State.closeStep_kept | apply Kept.ite)
    | simp only [↓Kept.upd_iff]

theorem State.ownCheck_kept {q : List Instr} {s : State} {c : Nat} {d : Desc} (h0 : Kept q s) :
    Kept q (State.ownCheck s c d).2 := by
  unfold State.ownCheck
  repeat' first
    | (with_reducible first | assumption | apply State.normCheck_kept | apply State.flushCheck_kept)
    | split

theorem State.startStatus_kept {q : List Instr} {s : State} {c : Nat} {d : Desc} (h0 : Kept q s) :
    Kept q (State.startStatus s c d).2 := by
  unfold State.startStatus
  repeat' first
    | (with_reducible first | assumption | apply State.ownCheck_kept | apply Kept.ite2)
    | simp only [↓Kept.upd_iff]

theorem State.enterPhase_kept {q : List Instr} {s : State} {c : Nat} {d : Desc} (h0 : Kept q s) :
    Kept q (State.enterPhase s c d) := by
  unfold State.enterPhase
  repeat' first
    | (with_reducible first
        | assumption | apply State.setPhase_kept | apply State.setStepState_kept | apply State.sendControl_kept | apply Kept.ite)
    | split

theorem State.takePlace_kept {q : List Instr} {s : State} {c : Nat} {d : Desc} (h0 : Kept q s) :
    Kept q (State.takePlace s c d) := by
  unfold State.takePlace
  repeat' first
    | (with_reducible first | assumption | apply State.updDesc_kept | apply State.updTrn_kept | apply Kept.ite)
    | simp only [↓Kept.upd_iff]

theorem State.startDesc_kept {q : List Instr} {s : State} {c : Nat} {d : Desc} (h0 : Kept q s) :
    Kept q (State.startDesc s c d) := by
  unfold State.startDesc
  repeat' first
    | (with_reducible first
        | assumption | apply State.takePlace_kept | apply State.complete_kept | apply State.setCtx_kept | apply State.startStatus_kept
        | apply State.enterPhase_kept | apply State.updDesc_kept | apply Kept.ite)
    | simp only [↓Kept.upd_iff]

theorem execDescriptorStart_kept {q : List Instr} {s : State} (h0 : Kept q s) :
    KeptR q (execDescriptorStart s) := by
  unfold execDescriptorStart
  repeat' first
    | (with_reducible first
        | assumption | apply KeptR.refused | apply KeptR.of | apply State.closeDone_kept | apply State.startDesc_kept | apply KeptR.ite)
    | simp only [↓Kept.upd_iff]
    | split

end Sys2Proof.Machine
end

