-- ==== Sys2Proof/Laws/KeptExec.lean ====
section
/-! SUPPORT. Every command keeps the queue and the memories' canonical form. -/

namespace Sys2Proof.Machine

theorem exec_kept {q : List Instr} {s : State} (i : Instr) (h : Kept q s) : KeptR q (exec i s) := by
  cases i with
  | nop _ _ => exact execNop_kept h
  | copy _ _ => exact execCopy_kept h
  | fill _ _ => exact execFill_kept h
  | fence _ _ => exact execFence_kept h
  | mailboxPost _ _ => exact execMailboxPost_kept h
  | counterSnapshot _ _ => exact execCounterSnapshot_kept h
  | reservedOpcode _ _ => exact execReservedOpcode_kept h
  | stepBegin _ _ => exact execStepBegin_kept h
  | layerFwd _ _ => exact execLayerFwd_kept h
  | layerBwd _ _ => exact execLayerBwd_kept h
  | attnFwd _ _ => exact execAttnFwd_kept h
  | attnBwd _ _ => exact execAttnBwd_kept h
  | loss _ _ => exact execLoss_kept h
  | branch _ _ => exact execBranch_kept h
  | stepEnd _ _ => exact execStepEnd_kept h
  | evalBegin _ _ => exact execEvalBegin_kept h
  | evalEnd _ _ => exact execEvalEnd_kept h
  | vecKernelLoad _ _ => exact execVecKernelLoad_kept h
  | vecKernelRun _ _ => exact execVecKernelRun_kept h
  | vecKernelUnload _ _ => exact execVecKernelUnload_kept h
  | vecKernelLoadRun _ _ => exact execVecKernelLoadRun_kept h
  | updateNorm _ _ => exact execUpdateNorm_kept h
  | updateApply _ _ => exact execUpdateApply_kept h
  | precondStat _ _ => exact execPrecondStat_kept h
  | precondRoot _ _ => exact execPrecondRoot_kept h
  | programFlush _ _ => exact execProgramFlush_kept h
  | programDirectLevels _ _ => exact execProgramDirectLevels_kept h
  | programDirectMaster _ _ => exact execProgramDirectMaster_kept h
  | columnRescaleAuto _ _ => exact execColumnRescaleAuto_kept h
  | columnRescaleExplicit _ _ => exact execColumnRescaleExplicit_kept h
  | columnRescaleRestore _ _ => exact execColumnRescaleRestore_kept h
  | muster _ _ => exact execMuster_kept h
  | tileTest _ _ => exact execTileTest_kept h
  | reduce _ _ => exact execReduce_kept h
  | gather _ _ => exact execGather_kept h
  | sync _ _ => exact execSync_kept h
  | fabricPut _ _ => exact execFabricPut_kept h
  | fabricGet _ _ => exact execFabricGet_kept h
  | fabricAtomicAdd _ _ => exact execFabricAtomicAdd_kept h
  | fabricAtomicSwap _ _ => exact execFabricAtomicSwap_kept h
  | fabricAtomicCas _ _ => exact execFabricAtomicCas_kept h
  | fabricAtomicAnd _ _ => exact execFabricAtomicAnd_kept h
  | fabricAtomicOr _ _ => exact execFabricAtomicOr_kept h
  | fabricAtomicUmax _ _ => exact execFabricAtomicUmax_kept h
  | configStage _ _ => exact execConfigStage_kept h
  | configCommit _ _ => exact execConfigCommit_kept h
  | descriptorStart => exact execDescriptorStart_kept h
  | descriptorFetch _ => exact execDescriptorFetch_kept h
  | doorbellTail _ _ _ _ => exact execDoorbellTail_kept h
  | doorbellHead _ _ _ _ => exact execDoorbellHead_kept h
  | irqGapExpiry _ => exact execIrqGapExpiry_kept h
  | msixUnmask _ _ _ => exact execMsixUnmask_kept h
  | contextEnable _ _ _ => exact execContextEnable_kept h
  | contextDisable _ _ _ => exact execContextDisable_kept h
  | contextRebind _ _ => exact execContextRebind_kept h
  | registerWrite _ _ _ => exact execRegisterWrite_kept h
  | stagedRegisterWrite _ _ _ => exact execStagedRegisterWrite_kept h
  | mailboxWrite _ _ _ _ _ => exact execMailboxWrite_kept h
  | mailboxRead _ _ _ _ => exact execMailboxRead_kept h
  | aclShadowWrite _ _ _ _ _ => exact execAclShadowWrite_kept h
  | aclEntryWrite _ _ _ _ => exact execAclEntryWrite_kept h
  | aclSync _ => exact execAclSync_kept h
  | aclDrainDone => exact execAclDrainDone_kept h
  | modReset _ _ => exact execModReset_kept h
  | resetNAssert => exact execResetNAssert_kept h
  | resetNRelease _ => exact execResetNRelease_kept h
  | mspBootDone => exact execMspBootDone_kept h
  | fwLoadDone _ _ => exact execFwLoadDone_kept h
  | memInitDone _ => exact execMemInitDone_kept h
  | arrayInitDone => exact execArrayInitDone_kept h
  | bootTimeout => exact execBootTimeout_kept h
  | linkDown _ => exact execLinkDown_kept h
  | linkUp _ => exact execLinkUp_kept h
  | hostLinkReset _ _ => exact execHostLinkReset_kept h
  | pfFlr _ => exact execPfFlr_kept h
  | vfFlr _ _ => exact execVfFlr_kept h
  | mvmStart _ _ => exact execMvmStart_kept h
  | mvmComplete _ _ _ => exact execMvmComplete_kept h
  | codePacket _ => exact execCodePacket_kept h
  | arrayResultDeliver _ => exact execArrayResultDeliver_kept h
  | dieQuiesce _ _ _ => exact execDieQuiesce_kept h
  | dieRun _ _ => exact execDieRun_kept h
  | dieUpdateEnd _ => exact execDieUpdateEnd_kept h
  | portArbitrate _ => exact execPortArbitrate_kept h
  | portPreempt _ => exact execPortPreempt_kept h
  | requestDrop _ => exact execRequestDrop_kept h
  | lockSet _ _ _ _ => exact execLockSet_kept h
  | lockClear _ _ => exact execLockClear_kept h
  | batchStart _ => exact execBatchStart_kept h
  | levelReadDone _ _ _ => exact execLevelReadDone_kept h
  | verifyReadDone _ _ _ => exact execVerifyReadDone_kept h
  | batchEnd _ _ => exact execBatchEnd_kept h
  | livenessRevoke _ => exact execLivenessRevoke_kept h
  | reconcileRead _ _ => exact execReconcileRead_kept h
  | reconcileDrain _ => exact execReconcileDrain_kept h
  | columnRescaleRun _ _ _ => exact execColumnRescaleRun_kept h
  | columnRemap _ _ _ => exact execColumnRemap_kept h
  | tileRetire _ _ _ _ => exact execTileRetire_kept h
  | referenceRestore _ _ _ => dsimp only [exec]; exact execReferenceRestore_kept h
  | vprogClose _ => exact execVprogClose_kept h
  | vprogOutOfWindow _ => exact execVprogOutOfWindow_kept h
  | vprogIdleOpen _ => exact execVprogIdleOpen_kept h
  | hkConversion _ _ => exact execHkConversion_kept h
  | hkLowPower _ => exact execHkLowPower_kept h
  | monLock _ _ _ => exact execMonLock_kept h
  | mirrorEnable _ _ _ => exact execMirrorEnable_kept h
  | musterDueTimer _ _ => exact execMusterDueTimer_kept h
  | driftTrackerUpdate _ _ => exact execDriftTrackerUpdate_kept h
  | musterStart _ _ => exact execMusterStart_kept h
  | musterForce _ _ => exact execMusterForce_kept h
  | musterComplete _ _ _ => exact execMusterComplete_kept h
  | musterRetry _ _ => exact execMusterRetry_kept h
  | gradualApplyStart _ => exact execGradualApplyStart_kept h
  | gradualApplyStep _ _ _ => exact execGradualApplyStep_kept h
  | testDue _ _ => exact execTestDue_kept h
  | testSliceStart _ _ => exact execTestSliceStart_kept h
  | testSliceEnd _ _ _ _ => exact execTestSliceEnd_kept h
  | testOverdue _ _ => exact execTestOverdue_kept h
  | chainAssign _ _ _ => exact execChainAssign_kept h
  | chainComplete _ _ => exact execChainComplete_kept h
  | tileDrain _ => exact execTileDrain_kept h
  | recountDone _ _ => exact execRecountDone_kept h
  | muQuiesce _ _ => exact execMuQuiesce_kept h
  | invocationStart _ => exact execInvocationStart_kept h
  | partialCombine _ => exact execPartialCombine_kept h
  | kernelWatchdog _ => exact execKernelWatchdog_kept h
  | holdWaitExpiry _ => exact execHoldWaitExpiry_kept h
  | copyEngineDone _ _ => exact execCopyEngineDone_kept h
  | summaryDrain _ => exact execSummaryDrain_kept h
  | drvQuiesce _ _ => exact execDrvQuiesce_kept h
  | varith _ => exact execVarith_kept h
  | vfma _ => exact execVfma_kept h
  | vun1 _ => exact execVun1_kept h
  | vun2 _ => exact execVun2_kept h
  | vcmp _ => exact execVcmp_kept h
  | vsel _ => exact execVsel_kept h
  | vsmxSexp _ => exact execVsmxSexp_kept h
  | vsmxSnorm _ => exact execVsmxSnorm_kept h
  | vcvt _ => exact execVcvt_kept h
  | vbcastBs _ => exact execVbcastBs_kept h
  | vbcastBl _ => exact execVbcastBl_kept h
  | vbcastIota _ => exact execVbcastIota_kept h
  | vpermIdx _ => exact execVpermIdx_kept h
  | vpermRot _ => exact execVpermRot_kept h
  | vred _ => exact execVred_kept h
  | pred _ => exact execPred_kept h
  | setvl _ => exact execSetvl_kept h
  | vld _ => exact execVld_kept h
  | vst _ => exact execVst_kept h
  | vldt _ => exact execVldt_kept h
  | vstt _ => exact execVstt_kept h
  | top _ => exact execTop_kept h
  | tred _ => exact execTred_kept h
  | xcopy _ => exact execXcopy_kept h
  | xwait _ => exact execXwait_kept h
  | wrOpen _ => exact execWrOpen_kept h
  | wrRow _ => exact execWrRow_kept h
  | wrClose _ => exact execWrClose_kept h
  | wrSatcnt _ => exact execWrSatcnt_kept h
  | wrUnfcnt _ => exact execWrUnfcnt_kept h
  | voutl _ => exact execVoutl_kept h
  | salu _ => exact execSalu_kept h
  | saddi _ => exact execSaddi_kept h
  | sli _ => exact execSli_kept h
  | sld _ => exact execSld_kept h
  | sst _ => exact execSst_kept h
  | slane _ => exact execSlane_kept h
  | scond _ => exact execScond_kept h
  | br _ => exact execBr_kept h
  | tqHdr _ => exact execTqHdr_kept h
  | tqHbind _ => exact execTqHbind_kept h
  | tqHdone _ => exact execTqHdone_kept h
  | tqHtake _ => exact execTqHtake_kept h
  | tqHrel _ => exact execTqHrel_kept h
  | spush _ => exact execSpush_kept h
  | ctlNop _ => exact execCtlNop_kept h
  | ctlEnd _ => exact execCtlEnd_kept h
  | ctlFault _ => exact execCtlFault_kept h
  | shrQuiesce _ _ => exact execShrQuiesce_kept h
  | memoryRequest _ _ _ _ _ _ => exact execMemoryRequest_kept h
  | ueConsumed => exact execUeConsumed_kept h
  | controlMemoryUe _ _ _ _ => exact execControlMemoryUe_kept h
  | scrubRead _ _ _ => exact execScrubRead_kept h
  | channelMigrate _ _ => exact execChannelMigrate_kept h
  | migrationDone _ => exact execMigrationDone_kept h
  | signalDetect _ _ => exact execSignalDetect_kept h
  | trainDone _ _ => exact execTrainDone_kept h
  | trainTimeout _ _ _ => exact execTrainTimeout_kept h
  | alignMask _ _ _ => exact execAlignMask_kept h
  | alignTimeout _ => exact execAlignTimeout_kept h
  | identitySend _ => exact execIdentitySend_kept h
  | identityRecord _ _ => exact execIdentityRecord_kept h
  | identTimeout _ => exact execIdentTimeout_kept h
  | bringupRetry _ => exact execBringupRetry_kept h
  | portRetrain _ _ => exact execPortRetrain_kept h
  | portLaneClr _ _ => exact execPortLaneClr_kept h
  | frameReceive _ _ => exact execFrameReceive_kept h
  | ackTimeout _ => exact execAckTimeout_kept h
  | recoverDone _ _ => exact execRecoverDone_kept h
  | recoverTimeout _ => exact execRecoverTimeout_kept h
  | skipSend _ => exact execSkipSend_kept h
  | lossOfSignal _ _ => exact execLossOfSignal_kept h
  | fenceReceive _ => exact execFenceReceive_kept h
  | pktWrite _ => exact execPktWrite_kept h
  | pktRead _ => exact execPktRead_kept h
  | pktReadData _ => exact execPktReadData_kept h
  | pktWriteAck _ => exact execPktWriteAck_kept h
  | pktAtomic _ => exact execPktAtomic_kept h
  | pktAtomicResult _ => exact execPktAtomicResult_kept h
  | pktDenial _ => exact execPktDenial_kept h
  | pktCollectiveData _ => exact execPktCollectiveData_kept h
  | pktCollectiveControl _ => exact execPktCollectiveControl_kept h
  | pktRingData _ => exact execPktRingData_kept h
  | pktTimeSync _ _ => exact execPktTimeSync_kept h
  | pktCredit _ => exact execPktCredit_kept h
  | pktManagement _ => exact execPktManagement_kept h
  | ringStepSend _ _ => exact execRingStepSend_kept h
  | remoteReqTimeout _ => exact execRemoteReqTimeout_kept h
  | collectiveTimeout _ _ => exact execCollectiveTimeout_kept h
  | bankLoad _ => exact execBankLoad_kept h
  | epochHoldExpiry _ => exact execEpochHoldExpiry_kept h
  | timeSyncSend => exact execTimeSyncSend_kept h
  | timeSyncLoss => exact execTimeSyncLoss_kept h
  | barrierResultTimeout => exact execBarrierResultTimeout_kept h
  | heldBarrierRepost => exact execHeldBarrierRepost_kept h
  | heldBarrierReply => exact execHeldBarrierReply_kept h
  | spareReadyNotice _ => exact execSpareReadyNotice_kept h
  | spareDecision _ => exact execSpareDecision_kept h
  | analogueCheck _ _ _ _ => exact execAnalogueCheck_kept h
  | thresholdWrite _ _ _ => exact execThresholdWrite_kept h
  | thresholdWindowExpiry _ => exact execThresholdWindowExpiry_kept h
  | faultRecordSend => exact execFaultRecordSend_kept h
  | faultRecordResend _ => exact execFaultRecordResend_kept h
  | faultRecordAck _ _ => exact execFaultRecordAck_kept h
  | rebuildSetLast _ => exact execRebuildSetLast_kept h
  | rebuildGo _ => exact execRebuildGo_kept h
  | rebuildComplete _ => exact execRebuildComplete_kept h
  | powerEnable _ => exact execPowerEnable_kept h
  | railSequenceStep => exact execRailSequenceStep_kept h
  | railSequenceTimeout _ => exact execRailSequenceTimeout_kept h
  | powerDisable => exact execPowerDisable_kept h
  | inputPowerLoss => exact execInputPowerLoss_kept h
  | powerSample _ _ => exact execPowerSample_kept h
  | capControlTick => exact execCapControlTick_kept h
  | capMiss => exact execCapMiss_kept h
  | powerCapWrite _ _ => exact execPowerCapWrite_kept h
  | thermalTick => exact execThermalTick_kept h
  | stackTempRead _ _ => exact execStackTempRead_kept h
  | clockLoss _ _ => exact execClockLoss_kept h
  | clockRestore => exact execClockRestore_kept h
  | failSafeExit => exact execFailSafeExit_kept h
  | watchdogKick _ _ => exact execWatchdogKick_kept h
  | watchdogExpiry => exact execWatchdogExpiry_kept h
  | codeHashCheck _ => exact execCodeHashCheck_kept h
  | fwWrite _ _ _ => exact execFwWrite_kept h
  | fwActivate _ _ => exact execFwActivate_kept h
  | fwCommit _ _ => exact execFwCommit_kept h
  | fwRevert _ _ => exact execFwRevert_kept h
  | fwLoad _ _ _ => exact execFwLoad_kept h
  | fwRaiseEpoch _ _ => exact execFwRaiseEpoch_kept h
  | liveLoadStart => exact execLiveLoadStart_kept h
  | liveLoadResume _ _ => exact execLiveLoadResume_kept h
  | counterLoad _ _ _ _ => exact execCounterLoad_kept h
  | counterReadLatch _ _ _ => exact execCounterReadLatch_kept h
  | energyReadLatch _ => exact execEnergyReadLatch_kept h
  | counterFreeze _ _ => exact execCounterFreeze_kept h
  | smbGlbId => exact execSmbGlbId_kept h
  | smbState => exact execSmbState_kept h
  | smbVin => exact execSmbVin_kept h
  | smbPinAvg => exact execSmbPinAvg_kept h
  | smbTemp => exact execSmbTemp_kept h
  | smbFsCause => exact execSmbFsCause_kept h
  | smbFltSeq => exact execSmbFltSeq_kept h
  | smbAlertStatus => exact execSmbAlertStatus_kept h
  | smbAlertClear _ => exact execSmbAlertClear_kept h
  | smbAlertMask _ => exact execSmbAlertMask_kept h
  | smbSerial => exact execSmbSerial_kept h
  | smbAlertResponse => exact execSmbAlertResponse_kept h
  | status _ => exact execStatus_kept h
  | fsExit _ => exact execFsExit_kept h
  | imageChunk _ => exact execImageChunk_kept h
  | imageCheck _ => exact execImageCheck_kept h
  | readReg _ => exact execReadReg_kept h
  | icmpEcho _ => exact execIcmpEcho_kept h
  | arpRequest _ _ => exact execArpRequest_kept h
  | standbyPowerUp _ => exact execStandbyPowerUp_kept h
  | hostLinkResetExit _ => exact execHostLinkResetExit_kept h
  | vprogInWindow _ => exact execVprogInWindow_kept h
  | mspColdRestartDone => exact execMspColdRestartDone_kept h
  | masterConflictClear => exact execMasterConflictClear_kept h
  | spareNoticeTimeout => exact execSpareNoticeTimeout_kept h
  | illegalInstruction _ => exact execIllegalInstruction_kept h
  | nakResendTimeout _ => exact execNakResendTimeout_kept h
  | railFault _ => exact execRailFault_kept h

end Sys2Proof.Machine
end

