-- ==== Sys2Proof/Laws/Ops.lean ====
section
/-! SUPPORT. One lemma for each shared operation: descriptors at hand, guarded register writes and reads, kernel steps. -/

namespace Sys2Proof.Machine

/-- A descriptor at hand: the context exists, the descriptor is at the pointer, and a command of its opcode runs on it. -/
theorem atHand_spec {s : State} {c n op : Nat} {d : Desc} (h : s.atHand c n op = some d) :
    ctxOk c = true ∧ d.ptr = n ∧ ∀ f, s.runDesc c n op f = f d s := by
  unfold State.atHand at h
  split at h
  · rename_i d' hd
    split at h
    · rename_i hb
      cases h
      simp only [Bool.and_eq_true, decide_eq_true_eq, Bool.not_eq_true'] at hb
      obtain ⟨⟨⟨h1, h2⟩, h3⟩, h4⟩ := hb
      refine ⟨h1, ?_, ?_⟩
      · have := List.find?_some hd
        simp only [Bool.and_eq_true, decide_eq_true_eq] at this
        exact this.1.1
      · intro f; simp [State.runDesc, hd, h2, h3, h4]
    · cases h
  · cases h

/-- A byte string spells a number below its range. -/
theorem leNat_lt (bs : List Byte) : leNat bs < 256 ^ bs.length := by
  induction bs with
  | nil => simp [leNat]
  | cons b bs ih => simp only [leNat, List.length_cons, Nat.pow_succ]; have := b.isLt; omega

/-- A field of a byte string spells a number below its range. -/
theorem leAt_lt (bs : List Byte) (o n : Nat) : leAt bs o n < 256 ^ n := by
  unfold leAt
  refine Nat.lt_of_lt_of_le (leNat_lt _) (Nat.pow_le_pow_right (by omega) (by simp))

/-- A number below 2^32 survives a register word. -/
theorem toNat_ofNat32 (a : Nat) (h : a < 2 ^ 32) : (BitVec.ofNat 32 a).toNat = a := by
  rw [BitVec.toNat_ofNat, Nat.mod_eq_of_lt h]

/-- What every step of a fold keeps, the fold keeps. -/
theorem foldl_inv {α β γ : Type} (p : α → γ) (f : α → β → α) (h : ∀ a b, p (f a b) = p a) (l : List β) (a : α) : p (l.foldl f a) = p a := by
  induction l generalizing a with
  | nil => rfl
  | cons x l ih => simp [ih, h]

/-- Forgetting a previous attempt changes no register. -/
theorem reg_clearAttempt (s : State) (n o : Nat) : (s.clearAttempt n).reg o = s.reg o := by
  unfold State.clearAttempt
  refine foldl_inv (fun s : State => s.reg o) _ ?_ _ _
  intro a b; rfl

/-- A loan changes no register, and of the step only its loans. -/
theorem lendTo_keeps (s : State) (f q : Nat) : ((s.lendTo f q).regs, (s.lendTo f q).trn.opened, (s.lendTo f q).trn.ctx,
    (s.lendTo f q).trn.share) = (s.regs, s.trn.opened, s.trn.ctx, s.trn.share) := by
  unfold State.lendTo
  split
  · rfl
  · dsimp only
    split <;> rfl

/-- The loans of a boundary change no register, and of the step only its loans. -/
theorem lend_keeps (s : State) : (s.lend.regs, s.lend.trn.opened, s.lend.trn.ctx, s.lend.trn.share) =
    (s.regs, s.trn.opened, s.trn.ctx, s.trn.share) := by
  unfold State.lend
  refine foldl_inv (fun t : State => (t.regs, t.trn.opened, t.trn.ctx, t.trn.share)) _ ?_ _ _
  intro t f
  exact foldl_inv (fun t : State => (t.regs, t.trn.opened, t.trn.ctx, t.trn.share)) _ (fun u q => lendTo_keeps u f q) _ _

/-- A register check that passes changes nothing. -/
theorem regCheck_ok {s : State} {r m o : Nat} (h : (s.regCheck r m o).1 = true) : s.regCheck r m o = (true, s) := by
  unfold State.regCheck State.aclCheck at h ⊢
  dsimp only at h ⊢
  split at h
  · rename_i q; rw [if_pos q]
  · simp at h

/-- The check of a register write that passes changes nothing. -/
theorem regWriteCheck_ok {s : State} {m o : Nat} (h : (s.regWriteCheck m o).1 = true) : s.regWriteCheck m o = (true, s) := by
  unfold State.regWriteCheck at h ⊢
  dsimp only at h ⊢
  split at h
  · simp at h
  · rename_i q; rw [if_neg q]
    split at h
    · rename_i q1; simp [h] at q1
    · rename_i q1
      simp at q1
      have e := regCheck_ok q1
      rw [e] at h ⊢
      simp only [Bool.not_true, Bool.false_eq_true, if_false] at h ⊢
      split at h
      · rename_i q2; rw [if_pos q2]; exact regCheck_ok h
      · rename_i q2; rw [if_neg q2]

/-- A register write that passes takes the effect given. -/
theorem lets_guard {s : State} {m o : Nat} (h : s.lets m o = true) (f : State → State) : s.guardedWrite m o f = f s := by
  unfold State.lets at h
  simp only [Bool.and_eq_true] at h
  obtain ⟨h1, h2⟩ := h
  unfold State.guardedWrite
  rw [if_neg (by simp only [Bool.or_eq_true] at h1; rcases h1 with a | a <;> simp [a]), regWriteCheck_ok h2]
  simp

/-- A register read that passes answers the word and takes the effect given. -/
theorem letsRead_guard {s : State} {m o : Nat} (h : s.letsRead m o = true) (w : State → Word) (f : State → State) :
    s.guardedRead m o w f = (f s).emit (.readData (w s)) := by
  unfold State.letsRead at h
  simp only [Bool.and_eq_true] at h
  obtain ⟨h1, h2⟩ := h
  unfold State.guardedRead
  rw [if_neg (by simp only [Bool.or_eq_true] at h1; rcases h1 with a | a <;> simp [a]), regCheck_ok h2]
  simp

/-- An executed word that neither faults nor waits nor ends moves the engine on. -/
theorem kstep_move {s : State} {e w pc : Nat} {x : Kx} {sel : Nat → Bool} {f : Nat → Kx → Kx} (h : s.atWord e w = some x)
    (hs : sel w = true) (hc : (f w x).clear pc = true) : s.kstep e sel f = (f w x).moved pc := by
  unfold State.atWord at h
  split at h
  · rename_i i hi
    split at h
    · rename_i hb
      simp only [Option.some.injEq] at h
      subst h
      simp only [Bool.and_eq_true, Bool.not_eq_true', decide_eq_true_eq, Option.isNone_iff_eq_none] at hb
      obtain ⟨⟨⟨⟨⟨h1, h2⟩, h3⟩, h6⟩, h4⟩, h5⟩ := hb
      simp only [Kx.clear, Bool.and_eq_true, Bool.not_eq_true', decide_eq_true_eq, Option.isNone_iff_eq_none] at hc
      obtain ⟨⟨⟨⟨⟨c1, c2⟩, c3⟩, c4⟩, c5⟩, c6⟩ := hc
      unfold State.kstep
      simp only [hi, h4, h2, h3, hs, h5, h6, c2, c4]
      simp [Kx.close, Kx.note, c1, c3, c5, c6, Kx.moved]
    · cases h
  · cases h
/-- What holds of an engine that is about to execute a word. -/
theorem atWord_ix {s : State} {e w : Nat} {x : Kx} (h : s.atWord e w = some x) : drvOk e = true ∧ x.fault = 0 ∧ x.wait = false ∧ x.ended = false ∧ x.s = s ∧ x.nxt = none ∧ s.mem.consumed = none := by
  unfold State.atWord at h
  split at h
  · split at h
    · rename_i hb
      simp only [Option.some.injEq] at h
      subst h
      simp [drvIx, drvOk] at hb ⊢
      simp [hb]
    · cases h
  · cases h

end Sys2Proof.Machine
end

