-- ==== Sys2Proof/Laws/Kernel.lean ====
section
/-! SUPPORT. Laws of kernel execution: an instruction that neither faults, waits nor ends moves its engine on, and local memory with
no copy in flight and no lost line reads as it stands. -/

namespace Sys2Proof.Machine

/-- The state, engine and conditions an instruction starts from. -/
theorem atWord_engine {s : State} {e w : Nat} {x : Kx} (h : s.atWord e w = some x) : x.e = e := by
  unfold State.atWord at h
  split at h
  · split at h
    · simp only [Option.some.injEq] at h; subst h; rfl
    · cases h
  · cases h

/-- The step of an instruction named by its opcode. -/
theorem execKernelOp_moves {s : State} {e w : Nat} {x : Kx} (h : s.atWord e w = some x) (hp : x.i.pc + 1 < x.i.code.length)
    {op : Nat} {f : Nat → Kx → Kx} (ho : wOp w = op) (b1 : (f w x).fault = 0) (b2 : (f w x).wait = false)
    (b3 : (f w x).ended = false) (b4 : (f w x).s.mem.consumed = none) (b5 : (f w x).nxt = none) (b6 : (f w x).i.pc = x.i.pc)
    (b7 : (f w x).i.code = x.i.code) : execKernelOp op e f s = .next ((f w x).moved (x.i.pc + 1)) := by
  obtain ⟨a1, -⟩ := atWord_ix h
  unfold execKernelOp onUnit
  rw [if_pos a1, kstep_move h (by simp [ho])]
  simp [Kx.clear, b1, b2, b3, b4, b5, b6, b7]
  exact hp

/-- The step of an instruction named by its opcode and FN. -/
theorem execKernelFn_moves {s : State} {e w : Nat} {x : Kx} (h : s.atWord e w = some x) (hp : x.i.pc + 1 < x.i.code.length)
    {op fn : Nat} {f : Nat → Kx → Kx} (ho : wOp w = op) (hf : wFN w = fn) (b1 : (f w x).fault = 0) (b2 : (f w x).wait = false)
    (b3 : (f w x).ended = false) (b4 : (f w x).s.mem.consumed = none) (b5 : (f w x).nxt = none) (b6 : (f w x).i.pc = x.i.pc)
    (b7 : (f w x).i.code = x.i.code) : execKernelFn op fn e f s = .next ((f w x).moved (x.i.pc + 1)) := by
  obtain ⟨a1, -⟩ := atWord_ix h
  unfold execKernelFn onUnit
  rw [if_pos a1, kstep_move h (by simp [ho, hf])]
  simp [Kx.clear, b1, b2, b3, b4, b5, b6, b7]
  exact hp

/-- With no copy in flight a touched line stays as it is. -/
theorem touchLine_idle {s : State} {e l : Nat} {b : Bool} (h : (s.drv e).copies = []) : s.touchLine e l b = s := by
  simp [State.touchLine, h]

theorem touchLines_idle {s : State} {e : Nat} {b : Bool} (ls : List Nat) (h : (s.drv e).copies = []) :
    ls.foldl (fun t l => t.touchLine e l b) s = s := by
  induction ls with
  | nil => rfl
  | cons l ls ih => simp [touchLine_idle h, ih]

/-- Bytes read from local memory with no copy in flight and no lost line. -/
theorem readBytes_idle {x : Kx} {a n : Nat} (h : (x.s.drv x.e).copies = []) (hb : (x.s.drv x.e).bad = []) :
    x.readBytes a n = (memReadAt (x.s.drv x.e).loc a n, x) := by
  have hf : ∀ l : List Nat, l.find? ([] : List Nat).contains = none := fun l => by simp
  unfold Kx.readBytes
  simp only [touchLines_idle _ h, hb, hf]

/-- Words read from local memory with no copy in flight and no lost line. -/
theorem readLocal_idle {x : Kx} {a : Nat} {act : List Nat} (h : (x.s.drv x.e).copies = []) (hb : (x.s.drv x.e).bad = []) :
    x.readLocal a act =
      ((List.range 128).map fun j => if act.contains j then leNat (memReadAt (x.s.drv x.e).loc (a + 4 * j) 4) else 0, x) := by
  have hf : ∀ l : List Nat, l.find? ([] : List Nat).contains = none := fun l => by simp
  unfold Kx.readLocal
  simp only [touchLines_idle _ h, hb, hf]

/-- Words written to local memory with no copy in flight. -/
theorem writeLocal_idle {x : Kx} {a : Nat} {act : List Nat} {val : Nat → Nat} (h : (x.s.drv x.e).copies = []) :
    (x.writeLocal a act val).s.mem = x.s.mem ∧ (x.writeLocal a act val).i = x.i := by
  unfold Kx.writeLocal
  simp only [touchLines_idle _ h]
  exact ⟨rfl, trivial⟩

end Sys2Proof.Machine
end

