-- ==== Sys2Proof/Laws/PerInstr.lean ====
section
/-! SUPPORT. One law per command: a well-formed command names only instances the module has. -/

namespace Sys2Proof.Laws.Names
open Sys2Proof
set_option Elab.async false

/-- The instances a command names, each as its index and how many of its kind the module has. -/
def named : Instr → List (Nat × Nat)
  | .nop c _ => [(c, 4096)]
  | .copy c _ => [(c, 4096)]
  | .fill c _ => [(c, 4096)]
  | .fence c _ => [(c, 4096)]
  | .mailboxPost c _ => [(c, 4096)]
  | .counterSnapshot c _ => [(c, 4096)]
  | .reservedOpcode c _ => [(c, 4096)]
  | .stepBegin c _ => [(c, 4096)]
  | .layerFwd c _ => [(c, 4096)]
  | .layerBwd c _ => [(c, 4096)]
  | .attnFwd c _ => [(c, 4096)]
  | .attnBwd c _ => [(c, 4096)]
  | .loss c _ => [(c, 4096)]
  | .branch c _ => [(c, 4096)]
  | .stepEnd c _ => [(c, 4096)]
  | .evalBegin c _ => [(c, 4096)]
  | .evalEnd c _ => [(c, 4096)]
  | .vecKernelLoad c _ => [(c, 4096)]
  | .vecKernelRun c _ => [(c, 4096)]
  | .vecKernelUnload c _ => [(c, 4096)]
  | .vecKernelLoadRun c _ => [(c, 4096)]
  | .updateNorm c _ => [(c, 4096)]
  | .updateApply c _ => [(c, 4096)]
  | .precondStat c _ => [(c, 4096)]
  | .precondRoot c _ => [(c, 4096)]
  | .programFlush c _ => [(c, 4096)]
  | .programDirectLevels c _ => [(c, 4096)]
  | .programDirectMaster c _ => [(c, 4096)]
  | .columnRescaleAuto c _ => [(c, 4096)]
  | .columnRescaleExplicit c _ => [(c, 4096)]
  | .columnRescaleRestore c _ => [(c, 4096)]
  | .muster c _ => [(c, 4096)]
  | .tileTest c _ => [(c, 4096)]
  | .reduce c _ => [(c, 4096)]
  | .gather c _ => [(c, 4096)]
  | .sync c _ => [(c, 4096)]
  | .fabricPut c _ => [(c, 4096)]
  | .fabricGet c _ => [(c, 4096)]
  | .fabricAtomicAdd c _ => [(c, 4096)]
  | .fabricAtomicSwap c _ => [(c, 4096)]
  | .fabricAtomicCas c _ => [(c, 4096)]
  | .fabricAtomicAnd c _ => [(c, 4096)]
  | .fabricAtomicOr c _ => [(c, 4096)]
  | .fabricAtomicUmax c _ => [(c, 4096)]
  | .configStage c _ => [(c, 4096)]
  | .configCommit c _ => [(c, 4096)]
  | .descriptorFetch c => [(c, 4096)]
  | .doorbellTail link func _ _ => [(link, 2), (func, 64)]
  | .doorbellHead link func _ _ => [(link, 2), (func, 64)]
  | .irqGapExpiry c => [(c, 4096)]
  | .msixUnmask link func vec => [(link, 2), (func, 64), (vec, 32)]
  | .contextEnable _ c _ => [(c, 4096)]
  | .contextDisable _ c _ => [(c, 4096)]
  | .contextRebind link c => [(c, 4096), (link, 2)]
  | .mailboxWrite _ _ f _ _ => [(f, 2)]
  | .mailboxRead _ _ f _ => [(f, 2)]
  | .aclEntryWrite _ t e _ => [(t, 64), (e, 64)]
  | .linkDown link => [(link, 2)]
  | .linkUp link => [(link, 2)]
  | .hostLinkReset link _ => [(link, 2)]
  | .pfFlr link => [(link, 2)]
  | .mvmStart p n => [(p, 8), (n, 8192)]
  | .mvmComplete p n _ => [(p, 8), (n, 8192)]
  | .codePacket p => [(p, 8)]
  | .arrayResultDeliver p => [(p, 8)]
  | .dieQuiesce _ p _ => [(p, 8)]
  | .dieRun p _ => [(p, 8)]
  | .dieUpdateEnd p => [(p, 8)]
  | .portArbitrate p => [(p, 8)]
  | .portPreempt p => [(p, 8)]
  | .requestDrop p => [(p, 8)]
  | .lockSet p n _ _ => [(p, 8), (n, 8192)]
  | .lockClear p n => [(p, 8), (n, 8192)]
  | .batchStart p => [(p, 8)]
  | .levelReadDone p n _ => [(p, 8), (n, 8192)]
  | .verifyReadDone p n _ => [(p, 8), (n, 8192)]
  | .batchEnd p n => [(p, 8), (n, 8192)]
  | .livenessRevoke p => [(p, 8)]
  | .reconcileRead p _ => [(p, 8)]
  | .reconcileDrain p => [(p, 8)]
  | .columnRescaleRun p _ _ => [(p, 8)]
  | .columnRemap p _ _ => [(p, 8)]
  | .tileRetire p n _ _ => [(p, 8), (n, 8192)]
  | .referenceRestore p _ _ => [(p, 8)]
  | .vprogClose p => [(p, 8)]
  | .vprogOutOfWindow p => [(p, 8)]
  | .vprogIdleOpen p => [(p, 8)]
  | .hkConversion d _ => [(d, 10)]
  | .hkLowPower d => [(d, 10)]
  | .monLock _ d _ => [(d, 10)]
  | .mirrorEnable _ d _ => [(d, 10)]
  | .musterDueTimer p f => [(p, 8), (f, 64)]
  | .driftTrackerUpdate p f => [(p, 8), (f, 64)]
  | .musterStart p f => [(p, 8), (f, 64)]
  | .musterForce p f => [(p, 8), (f, 64)]
  | .musterComplete p n _ => [(p, 8), (n, 8192)]
  | .musterRetry p n => [(p, 8), (n, 8192)]
  | .gradualApplyStart p => [(p, 8)]
  | .gradualApplyStep p n _ => [(p, 8), (n, 8192)]
  | .chainAssign _ u _ => [(u, 80)]
  | .chainComplete u _ => [(u, 80)]
  | .tileDrain u => [(u, 80)]
  | .recountDone u _ => [(u, 80)]
  | .invocationStart e => [(e, 40)]
  | .partialCombine e => [(e, 40)]
  | .kernelWatchdog e => [(e, 40)]
  | .holdWaitExpiry e => [(e, 40)]
  | .copyEngineDone e _ => [(e, 40)]
  | .summaryDrain e => [(e, 40)]
  | .varith e => [(e, 40)]
  | .vfma e => [(e, 40)]
  | .vun1 e => [(e, 40)]
  | .vun2 e => [(e, 40)]
  | .vcmp e => [(e, 40)]
  | .vsel e => [(e, 40)]
  | .vsmxSexp e => [(e, 40)]
  | .vsmxSnorm e => [(e, 40)]
  | .vcvt e => [(e, 40)]
  | .vbcastBs e => [(e, 40)]
  | .vbcastBl e => [(e, 40)]
  | .vbcastIota e => [(e, 40)]
  | .vpermIdx e => [(e, 40)]
  | .vpermRot e => [(e, 40)]
  | .vred e => [(e, 40)]
  | .pred e => [(e, 40)]
  | .setvl e => [(e, 40)]
  | .vld e => [(e, 40)]
  | .vst e => [(e, 40)]
  | .vldt e => [(e, 40)]
  | .vstt e => [(e, 40)]
  | .top e => [(e, 40)]
  | .tred e => [(e, 40)]
  | .xcopy e => [(e, 40)]
  | .xwait e => [(e, 40)]
  | .wrOpen e => [(e, 40)]
  | .wrRow e => [(e, 40)]
  | .wrClose e => [(e, 40)]
  | .wrSatcnt e => [(e, 40)]
  | .wrUnfcnt e => [(e, 40)]
  | .voutl e => [(e, 40)]
  | .salu e => [(e, 40)]
  | .saddi e => [(e, 40)]
  | .sli e => [(e, 40)]
  | .sld e => [(e, 40)]
  | .sst e => [(e, 40)]
  | .slane e => [(e, 40)]
  | .scond e => [(e, 40)]
  | .br e => [(e, 40)]
  | .tqHdr e => [(e, 40)]
  | .tqHbind e => [(e, 40)]
  | .tqHdone e => [(e, 40)]
  | .tqHtake e => [(e, 40)]
  | .tqHrel e => [(e, 40)]
  | .spush e => [(e, 40)]
  | .ctlNop e => [(e, 40)]
  | .ctlEnd e => [(e, 40)]
  | .ctlFault e => [(e, 40)]
  | .migrationDone k => [(k, 8)]
  | .signalDetect p _ => [(p, 12)]
  | .trainDone p _ => [(p, 12)]
  | .trainTimeout p _ _ => [(p, 12)]
  | .alignMask p _ _ => [(p, 12)]
  | .alignTimeout p => [(p, 12)]
  | .identitySend p => [(p, 12)]
  | .identityRecord p _ => [(p, 12)]
  | .identTimeout p => [(p, 12)]
  | .bringupRetry p => [(p, 12)]
  | .portRetrain _ p => [(p, 12)]
  | .portLaneClr _ p => [(p, 12)]
  | .frameReceive p _ => [(p, 12)]
  | .ackTimeout p => [(p, 12)]
  | .recoverDone p _ => [(p, 12)]
  | .recoverTimeout p => [(p, 12)]
  | .skipSend p => [(p, 12)]
  | .lossOfSignal p _ => [(p, 12)]
  | .fenceReceive p => [(p, 12)]
  | .pktWrite p => [(p, 12)]
  | .pktRead p => [(p, 12)]
  | .pktReadData p => [(p, 12)]
  | .pktWriteAck p => [(p, 12)]
  | .pktAtomic p => [(p, 12)]
  | .pktAtomicResult p => [(p, 12)]
  | .pktDenial p => [(p, 12)]
  | .pktCollectiveData p => [(p, 12)]
  | .pktCollectiveControl p => [(p, 12)]
  | .pktRingData p => [(p, 12)]
  | .pktTimeSync p _ => [(p, 12)]
  | .pktCredit p => [(p, 12)]
  | .pktManagement p => [(p, 12)]
  | .ringStepSend c _ => [(c, 4096)]
  | .collectiveTimeout c _ => [(c, 4096)]
  | .epochHoldExpiry b => [(b, 2)]
  | .spareReadyNotice p => [(p, 12)]
  | .spareDecision p => [(p, 12)]
  | .analogueCheck p pt _ _ => [(p, 8), (pt, 8320)]
  | .thresholdWindowExpiry row => [(row, 14)]
  | .stackTempRead k _ => [(k, 8)]
  | .counterLoad _ d _ _ => [(d, 10)]
  | .counterReadLatch _ d _ => [(d, 10)]
  | .hostLinkResetExit link => [(link, 2)]
  | .vprogInWindow p => [(p, 8)]
  | .illegalInstruction e => [(e, 40)]
  | .nakResendTimeout p => [(p, 12)]
  | _ => []

/-- A well-formed command names instances that exist. -/
def Statement (i : Instr) : Prop := i.wf = true → ∀ q ∈ named i, q.1 < q.2

theorem one {a m : Nat} {q : Nat × Nat} (h : decide (a < m) = true) (hq : q ∈ [(a, m)]) : q.1 < q.2 := by
  simp_all

theorem two {a b m n : Nat} {q : Nat × Nat} (h : (decide (a < m) && decide (b < n)) = true) (hq : q ∈ [(a, m), (b, n)]) : q.1 < q.2 := by
  simp at h hq; obtain rfl | rfl := hq <;> simp [h]

theorem three {a b c m n k : Nat} {q : Nat × Nat} (h : (decide (a < m) && decide (b < n) && decide (c < k)) = true)
    (hq : q ∈ [(a, m), (b, n), (c, k)]) : q.1 < q.2 := by
  simp at h hq; obtain rfl | rfl | rfl := hq <;> simp [h]

theorem nop (c n : Nat) : Statement (.nop c n) := fun h _ hq => one h hq
theorem copy (c n : Nat) : Statement (.copy c n) := fun h _ hq => one h hq
theorem fill (c n : Nat) : Statement (.fill c n) := fun h _ hq => one h hq
theorem fence (c n : Nat) : Statement (.fence c n) := fun h _ hq => one h hq
theorem mailboxPost (c n : Nat) : Statement (.mailboxPost c n) := fun h _ hq => one h hq
theorem counterSnapshot (c n : Nat) : Statement (.counterSnapshot c n) := fun h _ hq => one h hq
theorem reservedOpcode (c n : Nat) : Statement (.reservedOpcode c n) := fun h _ hq => one h hq
theorem stepBegin (c n : Nat) : Statement (.stepBegin c n) := fun h _ hq => one h hq
theorem layerFwd (c n : Nat) : Statement (.layerFwd c n) := fun h _ hq => one h hq
theorem layerBwd (c n : Nat) : Statement (.layerBwd c n) := fun h _ hq => one h hq
theorem attnFwd (c n : Nat) : Statement (.attnFwd c n) := fun h _ hq => one h hq
theorem attnBwd (c n : Nat) : Statement (.attnBwd c n) := fun h _ hq => one h hq
theorem loss (c n : Nat) : Statement (.loss c n) := fun h _ hq => one h hq
theorem branch (c n : Nat) : Statement (.branch c n) := fun h _ hq => one h hq
theorem stepEnd (c n : Nat) : Statement (.stepEnd c n) := fun h _ hq => one h hq
theorem evalBegin (c n : Nat) : Statement (.evalBegin c n) := fun h _ hq => one h hq
theorem evalEnd (c n : Nat) : Statement (.evalEnd c n) := fun h _ hq => one h hq
theorem vecKernelLoad (c n : Nat) : Statement (.vecKernelLoad c n) := fun h _ hq => one h hq
theorem vecKernelRun (c n : Nat) : Statement (.vecKernelRun c n) := fun h _ hq => one h hq
theorem vecKernelUnload (c n : Nat) : Statement (.vecKernelUnload c n) := fun h _ hq => one h hq
theorem vecKernelLoadRun (c n : Nat) : Statement (.vecKernelLoadRun c n) := fun h _ hq => one h hq
theorem updateNorm (c n : Nat) : Statement (.updateNorm c n) := fun h _ hq => one h hq
theorem updateApply (c n : Nat) : Statement (.updateApply c n) := fun h _ hq => one h hq
theorem precondStat (c n : Nat) : Statement (.precondStat c n) := fun h _ hq => one h hq
theorem precondRoot (c n : Nat) : Statement (.precondRoot c n) := fun h _ hq => one h hq
theorem programFlush (c n : Nat) : Statement (.programFlush c n) := fun h _ hq => one h hq
theorem programDirectLevels (c n : Nat) : Statement (.programDirectLevels c n) := fun h _ hq => one h hq
theorem programDirectMaster (c n : Nat) : Statement (.programDirectMaster c n) := fun h _ hq => one h hq
theorem columnRescaleAuto (c n : Nat) : Statement (.columnRescaleAuto c n) := fun h _ hq => one h hq
theorem columnRescaleExplicit (c n : Nat) : Statement (.columnRescaleExplicit c n) := fun h _ hq => one h hq
theorem columnRescaleRestore (c n : Nat) : Statement (.columnRescaleRestore c n) := fun h _ hq => one h hq
theorem muster (c n : Nat) : Statement (.muster c n) := fun h _ hq => one h hq
theorem tileTest (c n : Nat) : Statement (.tileTest c n) := fun h _ hq => one h hq
theorem reduce (c n : Nat) : Statement (.reduce c n) := fun h _ hq => one h hq
theorem gather (c n : Nat) : Statement (.gather c n) := fun h _ hq => one h hq
theorem sync (c n : Nat) : Statement (.sync c n) := fun h _ hq => one h hq
theorem fabricPut (c n : Nat) : Statement (.fabricPut c n) := fun h _ hq => one h hq
theorem fabricGet (c n : Nat) : Statement (.fabricGet c n) := fun h _ hq => one h hq
theorem fabricAtomicAdd (c n : Nat) : Statement (.fabricAtomicAdd c n) := fun h _ hq => one h hq
theorem fabricAtomicSwap (c n : Nat) : Statement (.fabricAtomicSwap c n) := fun h _ hq => one h hq
theorem fabricAtomicCas (c n : Nat) : Statement (.fabricAtomicCas c n) := fun h _ hq => one h hq
theorem fabricAtomicAnd (c n : Nat) : Statement (.fabricAtomicAnd c n) := fun h _ hq => one h hq
theorem fabricAtomicOr (c n : Nat) : Statement (.fabricAtomicOr c n) := fun h _ hq => one h hq
theorem fabricAtomicUmax (c n : Nat) : Statement (.fabricAtomicUmax c n) := fun h _ hq => one h hq
theorem configStage (c n : Nat) : Statement (.configStage c n) := fun h _ hq => one h hq
theorem configCommit (c n : Nat) : Statement (.configCommit c n) := fun h _ hq => one h hq
theorem descriptorStart : Statement (.descriptorStart) := fun _ _ hq => nomatch hq
theorem descriptorFetch (c : Nat) : Statement (.descriptorFetch c) := fun h _ hq => one h hq
theorem doorbellTail (link func page v : Nat) : Statement (.doorbellTail link func page v) := fun h _ hq => two h hq
theorem doorbellHead (link func page v : Nat) : Statement (.doorbellHead link func page v) := fun h _ hq => two h hq
theorem irqGapExpiry (c : Nat) : Statement (.irqGapExpiry c) := fun h _ hq => one h hq
theorem msixUnmask (link func vec : Nat) : Statement (.msixUnmask link func vec) := fun h _ hq => three h hq
theorem contextEnable (master c : Nat) (w : Word) : Statement (.contextEnable master c w) := fun h _ hq => one h hq
theorem contextDisable (master c : Nat) (w : Word) : Statement (.contextDisable master c w) := fun h _ hq => one h hq
theorem contextRebind (link c : Nat) : Statement (.contextRebind link c) := fun h _ hq => two h hq
theorem registerWrite (master off : Nat) (w : Word) : Statement (.registerWrite master off w) := fun _ _ hq => nomatch hq
theorem stagedRegisterWrite (master off : Nat) (w : Word) : Statement (.stagedRegisterWrite master off w) := fun _ _ hq => nomatch hq
theorem mailboxWrite (master dir f n : Nat) (w : Word) : Statement (.mailboxWrite master dir f n w) := fun h _ hq => one (Bool.and_eq_true_iff.mp h).1 hq
theorem mailboxRead (master dir f n : Nat) : Statement (.mailboxRead master dir f n) := fun h _ hq => one (Bool.and_eq_true_iff.mp h).1 hq
theorem aclShadowWrite (master t e word : Nat) (w : Word) : Statement (.aclShadowWrite master t e word w) := fun _ _ hq => nomatch hq
theorem aclEntryWrite (master t e : Nat) (w : Word) : Statement (.aclEntryWrite master t e w) := fun h _ hq => two h hq
theorem aclSync (master : Nat) : Statement (.aclSync master) := fun _ _ hq => nomatch hq
theorem aclDrainDone : Statement (.aclDrainDone) := fun _ _ hq => nomatch hq
theorem modReset (master : Nat) (w : Word) : Statement (.modReset master w) := fun _ _ hq => nomatch hq
theorem resetNAssert : Statement (.resetNAssert) := fun _ _ hq => nomatch hq
theorem resetNRelease (straps : Nat) : Statement (.resetNRelease straps) := fun _ _ hq => nomatch hq
theorem mspBootDone : Statement (.mspBootDone) := fun _ _ hq => nomatch hq
theorem fwLoadDone (pd migrated : Nat) : Statement (.fwLoadDone pd migrated) := fun _ _ hq => nomatch hq
theorem memInitDone (bad : Nat) : Statement (.memInitDone bad) := fun _ _ hq => nomatch hq
theorem arrayInitDone : Statement (.arrayInitDone) := fun _ _ hq => nomatch hq
theorem bootTimeout : Statement (.bootTimeout) := fun _ _ hq => nomatch hq
theorem linkDown (link : Nat) : Statement (.linkDown link) := fun h _ hq => one h hq
theorem linkUp (link : Nat) : Statement (.linkUp link) := fun h _ hq => one h hq
theorem hostLinkReset (link : Nat) (perst : Bool) : Statement (.hostLinkReset link perst) := fun h _ hq => one h hq
theorem pfFlr (link : Nat) : Statement (.pfFlr link) := fun h _ hq => one h hq
theorem vfFlr (link vf : Nat) : Statement (.vfFlr link vf) := fun _ _ hq => nomatch hq
theorem mvmStart (p n : Nat) : Statement (.mvmStart p n) := fun h _ hq => two h hq
theorem mvmComplete (p n : Nat) (err : List Int) : Statement (.mvmComplete p n err) := fun h _ hq => two h hq
theorem codePacket (p : Nat) : Statement (.codePacket p) := fun h _ hq => one h hq
theorem arrayResultDeliver (p : Nat) : Statement (.arrayResultDeliver p) := fun h _ hq => one h hq
theorem dieQuiesce (master p : Nat) (on : Bool) : Statement (.dieQuiesce master p on) := fun h _ hq => one h hq
theorem dieRun (p : Nat) (failed : List Nat) : Statement (.dieRun p failed) := fun h _ hq => one h hq
theorem dieUpdateEnd (p : Nat) : Statement (.dieUpdateEnd p) := fun h _ hq => one h hq
theorem portArbitrate (p : Nat) : Statement (.portArbitrate p) := fun h _ hq => one h hq
theorem portPreempt (p : Nat) : Statement (.portPreempt p) := fun h _ hq => one h hq
theorem requestDrop (p : Nat) : Statement (.requestDrop p) := fun h _ hq => one h hq
theorem lockSet (p n col : Nat) (kind : ScopeKind) : Statement (.lockSet p n col kind) := fun h _ hq => two h hq
theorem lockClear (p n : Nat) : Statement (.lockClear p n) := fun h _ hq => two h hq
theorem batchStart (p : Nat) : Statement (.batchStart p) := fun h _ hq => one h hq
theorem levelReadDone (p n : Nat) (g : List Nat) : Statement (.levelReadDone p n g) := fun h _ hq => two h hq
theorem verifyReadDone (p n : Nat) (g : List Nat) : Statement (.verifyReadDone p n g) := fun h _ hq => two h hq
theorem batchEnd (p n : Nat) : Statement (.batchEnd p n) := fun h _ hq => two h hq
theorem livenessRevoke (p : Nat) : Statement (.livenessRevoke p) := fun h _ hq => one h hq
theorem reconcileRead (p : Nat) (g : List Nat) : Statement (.reconcileRead p g) := fun h _ hq => one h hq
theorem reconcileDrain (p : Nat) : Statement (.reconcileDrain p) := fun h _ hq => one h hq
theorem columnRescaleRun (p : Nat) (bad : List BadCell) (retries : Nat) : Statement (.columnRescaleRun p bad retries) := fun h _ hq => one h hq
theorem columnRemap (p : Nat) (bad : List BadCell) (retries : Nat) : Statement (.columnRemap p bad retries) := fun h _ hq => one h hq
theorem tileRetire (p n cols : Nat) (bad : List BadCell) : Statement (.tileRetire p n cols bad) := fun h _ hq => two h hq
theorem referenceRestore (p : Nat) (bad : List BadCell) (retries : Nat) : Statement (.referenceRestore p bad retries) := fun h _ hq => one h hq
theorem vprogClose (p : Nat) : Statement (.vprogClose p) := fun h _ hq => one h hq
theorem vprogOutOfWindow (p : Nat) : Statement (.vprogOutOfWindow p) := fun h _ hq => one h hq
theorem vprogIdleOpen (p : Nat) : Statement (.vprogIdleOpen p) := fun h _ hq => one h hq
theorem hkConversion (d code : Nat) : Statement (.hkConversion d code) := fun h _ hq => one h hq
theorem hkLowPower (d : Nat) : Statement (.hkLowPower d) := fun h _ hq => one h hq
theorem monLock (master d : Nat) (w : Word) : Statement (.monLock master d w) := fun h _ hq => one h hq
theorem mirrorEnable (master d : Nat) (w : Word) : Statement (.mirrorEnable master d w) := fun h _ hq => one h hq
theorem musterDueTimer (p f : Nat) : Statement (.musterDueTimer p f) := fun h _ hq => two h hq
theorem driftTrackerUpdate (p f : Nat) : Statement (.driftTrackerUpdate p f) := fun h _ hq => two h hq
theorem musterStart (p f : Nat) : Statement (.musterStart p f) := fun h _ hq => two h hq
theorem musterForce (p f : Nat) : Statement (.musterForce p f) := fun h _ hq => two h hq
theorem musterComplete (p n : Nat) (m : Measure) : Statement (.musterComplete p n m) := fun h _ hq => two h hq
theorem musterRetry (p n : Nat) : Statement (.musterRetry p n) := fun h _ hq => two h hq
theorem gradualApplyStart (p : Nat) : Statement (.gradualApplyStart p) := fun h _ hq => one h hq
theorem gradualApplyStep (p n : Nat) (field : Bool) : Statement (.gradualApplyStep p n field) := fun h _ hq => two h hq
theorem testDue (cls unit : Nat) : Statement (.testDue cls unit) := fun _ _ hq => nomatch hq
theorem testSliceStart (cls unit : Nat) : Statement (.testSliceStart cls unit) := fun _ _ hq => nomatch hq
theorem testSliceEnd (cls unit fail : Nat) (cols : List Nat) : Statement (.testSliceEnd cls unit fail cols) := fun _ _ hq => nomatch hq
theorem testOverdue (cls unit : Nat) : Statement (.testOverdue cls unit) := fun _ _ hq => nomatch hq
theorem chainAssign (i u dr : Nat) : Statement (.chainAssign i u dr) := fun h _ hq => one h hq
theorem chainComplete (u : Nat) (err : List (Nat × Nat)) : Statement (.chainComplete u err) := fun h _ hq => one h hq
theorem tileDrain (u : Nat) : Statement (.tileDrain u) := fun h _ hq => one h hq
theorem recountDone (u : Nat) (err : List (Nat × Nat)) : Statement (.recountDone u err) := fun h _ hq => one h hq
theorem muQuiesce (master : Nat) (on : Bool) : Statement (.muQuiesce master on) := fun _ _ hq => nomatch hq
theorem invocationStart (e : Nat) : Statement (.invocationStart e) := fun h _ hq => one h hq
theorem partialCombine (e : Nat) : Statement (.partialCombine e) := fun h _ hq => one h hq
theorem kernelWatchdog (e : Nat) : Statement (.kernelWatchdog e) := fun h _ hq => one h hq
theorem holdWaitExpiry (e : Nat) : Statement (.holdWaitExpiry e) := fun h _ hq => one h hq
theorem copyEngineDone (e i : Nat) : Statement (.copyEngineDone e i) := fun h _ hq => one h hq
theorem summaryDrain (e : Nat) : Statement (.summaryDrain e) := fun h _ hq => one h hq
theorem drvQuiesce (master : Nat) (on : Bool) : Statement (.drvQuiesce master on) := fun _ _ hq => nomatch hq
theorem varith (e : Nat) : Statement (.varith e) := fun h _ hq => one h hq
theorem vfma (e : Nat) : Statement (.vfma e) := fun h _ hq => one h hq
theorem vun1 (e : Nat) : Statement (.vun1 e) := fun h _ hq => one h hq
theorem vun2 (e : Nat) : Statement (.vun2 e) := fun h _ hq => one h hq
theorem vcmp (e : Nat) : Statement (.vcmp e) := fun h _ hq => one h hq
theorem vsel (e : Nat) : Statement (.vsel e) := fun h _ hq => one h hq
theorem vsmxSexp (e : Nat) : Statement (.vsmxSexp e) := fun h _ hq => one h hq
theorem vsmxSnorm (e : Nat) : Statement (.vsmxSnorm e) := fun h _ hq => one h hq
theorem vcvt (e : Nat) : Statement (.vcvt e) := fun h _ hq => one h hq
theorem vbcastBs (e : Nat) : Statement (.vbcastBs e) := fun h _ hq => one h hq
theorem vbcastBl (e : Nat) : Statement (.vbcastBl e) := fun h _ hq => one h hq
theorem vbcastIota (e : Nat) : Statement (.vbcastIota e) := fun h _ hq => one h hq
theorem vpermIdx (e : Nat) : Statement (.vpermIdx e) := fun h _ hq => one h hq
theorem vpermRot (e : Nat) : Statement (.vpermRot e) := fun h _ hq => one h hq
theorem vred (e : Nat) : Statement (.vred e) := fun h _ hq => one h hq
theorem pred (e : Nat) : Statement (.pred e) := fun h _ hq => one h hq
theorem setvl (e : Nat) : Statement (.setvl e) := fun h _ hq => one h hq
theorem vld (e : Nat) : Statement (.vld e) := fun h _ hq => one h hq
theorem vst (e : Nat) : Statement (.vst e) := fun h _ hq => one h hq
theorem vldt (e : Nat) : Statement (.vldt e) := fun h _ hq => one h hq
theorem vstt (e : Nat) : Statement (.vstt e) := fun h _ hq => one h hq
theorem top (e : Nat) : Statement (.top e) := fun h _ hq => one h hq
theorem tred (e : Nat) : Statement (.tred e) := fun h _ hq => one h hq
theorem xcopy (e : Nat) : Statement (.xcopy e) := fun h _ hq => one h hq
theorem xwait (e : Nat) : Statement (.xwait e) := fun h _ hq => one h hq
theorem wrOpen (e : Nat) : Statement (.wrOpen e) := fun h _ hq => one h hq
theorem wrRow (e : Nat) : Statement (.wrRow e) := fun h _ hq => one h hq
theorem wrClose (e : Nat) : Statement (.wrClose e) := fun h _ hq => one h hq
theorem wrSatcnt (e : Nat) : Statement (.wrSatcnt e) := fun h _ hq => one h hq
theorem wrUnfcnt (e : Nat) : Statement (.wrUnfcnt e) := fun h _ hq => one h hq
theorem voutl (e : Nat) : Statement (.voutl e) := fun h _ hq => one h hq
theorem salu (e : Nat) : Statement (.salu e) := fun h _ hq => one h hq
theorem saddi (e : Nat) : Statement (.saddi e) := fun h _ hq => one h hq
theorem sli (e : Nat) : Statement (.sli e) := fun h _ hq => one h hq
theorem sld (e : Nat) : Statement (.sld e) := fun h _ hq => one h hq
theorem sst (e : Nat) : Statement (.sst e) := fun h _ hq => one h hq
theorem slane (e : Nat) : Statement (.slane e) := fun h _ hq => one h hq
theorem scond (e : Nat) : Statement (.scond e) := fun h _ hq => one h hq
theorem br (e : Nat) : Statement (.br e) := fun h _ hq => one h hq
theorem tqHdr (e : Nat) : Statement (.tqHdr e) := fun h _ hq => one h hq
theorem tqHbind (e : Nat) : Statement (.tqHbind e) := fun h _ hq => one h hq
theorem tqHdone (e : Nat) : Statement (.tqHdone e) := fun h _ hq => one h hq
theorem tqHtake (e : Nat) : Statement (.tqHtake e) := fun h _ hq => one h hq
theorem tqHrel (e : Nat) : Statement (.tqHrel e) := fun h _ hq => one h hq
theorem spush (e : Nat) : Statement (.spush e) := fun h _ hq => one h hq
theorem ctlNop (e : Nat) : Statement (.ctlNop e) := fun h _ hq => one h hq
theorem ctlEnd (e : Nat) : Statement (.ctlEnd e) := fun h _ hq => one h hq
theorem ctlFault (e : Nat) : Statement (.ctlFault e) := fun h _ hq => one h hq
theorem shrQuiesce (master : Nat) (on : Bool) : Statement (.shrQuiesce master on) := fun _ _ hq => nomatch hq
theorem memoryRequest (pen : Bool) (master a n : Nat) (write : Bool) (data : List Byte) : Statement (.memoryRequest pen master a n write data) := fun _ _ hq => nomatch hq
theorem ueConsumed : Statement (.ueConsumed) := fun _ _ hq => nomatch hq
theorem controlMemoryUe (inSram : Bool) (f off master : Nat) : Statement (.controlMemoryUe inSram f off master) := fun _ _ hq => nomatch hq
theorem scrubRead (k p o : Nat) : Statement (.scrubRead k p o) := fun _ _ hq => nomatch hq
theorem channelMigrate (master : Nat) (w : Word) : Statement (.channelMigrate master w) := fun _ _ hq => nomatch hq
theorem migrationDone (k : Nat) : Statement (.migrationDone k) := fun h _ hq => one h hq
theorem signalDetect (p lanes : Nat) : Statement (.signalDetect p lanes) := fun h _ hq => one h hq
theorem trainDone (p : Nat) (peer : List Nat) : Statement (.trainDone p peer) := fun h _ hq => one h hq
theorem trainTimeout (p ok : Nat) (peer : List Nat) : Statement (.trainTimeout p ok peer) := fun h _ hq => one h hq
theorem alignMask (p mask skew : Nat) : Statement (.alignMask p mask skew) := fun h _ hq => one h hq
theorem alignTimeout (p : Nat) : Statement (.alignTimeout p) := fun h _ hq => one h hq
theorem identitySend (p : Nat) : Statement (.identitySend p) := fun h _ hq => one h hq
theorem identityRecord (p : Nat) (r : List Byte) : Statement (.identityRecord p r) := fun h _ hq => one h hq
theorem identTimeout (p : Nat) : Statement (.identTimeout p) := fun h _ hq => one h hq
theorem bringupRetry (p : Nat) : Statement (.bringupRetry p) := fun h _ hq => one h hq
theorem portRetrain (master p : Nat) : Statement (.portRetrain master p) := fun h _ hq => one h hq
theorem portLaneClr (master p : Nat) : Statement (.portLaneClr master p) := fun h _ hq => one h hq
theorem frameReceive (p : Nat) (bs : List Byte) : Statement (.frameReceive p bs) := fun h _ hq => one h hq
theorem ackTimeout (p : Nat) : Statement (.ackTimeout p) := fun h _ hq => one h hq
theorem recoverDone (p mask : Nat) : Statement (.recoverDone p mask) := fun h _ hq => one h hq
theorem recoverTimeout (p : Nat) : Statement (.recoverTimeout p) := fun h _ hq => one h hq
theorem skipSend (p : Nat) : Statement (.skipSend p) := fun h _ hq => one h hq
theorem lossOfSignal (p lanes : Nat) : Statement (.lossOfSignal p lanes) := fun h _ hq => one h hq
theorem fenceReceive (p : Nat) : Statement (.fenceReceive p) := fun h _ hq => one h hq
theorem pktWrite (p : Nat) : Statement (.pktWrite p) := fun h _ hq => one h hq
theorem pktRead (p : Nat) : Statement (.pktRead p) := fun h _ hq => one h hq
theorem pktReadData (p : Nat) : Statement (.pktReadData p) := fun h _ hq => one h hq
theorem pktWriteAck (p : Nat) : Statement (.pktWriteAck p) := fun h _ hq => one h hq
theorem pktAtomic (p : Nat) : Statement (.pktAtomic p) := fun h _ hq => one h hq
theorem pktAtomicResult (p : Nat) : Statement (.pktAtomicResult p) := fun h _ hq => one h hq
theorem pktDenial (p : Nat) : Statement (.pktDenial p) := fun h _ hq => one h hq
theorem pktCollectiveData (p : Nat) : Statement (.pktCollectiveData p) := fun h _ hq => one h hq
theorem pktCollectiveControl (p : Nat) : Statement (.pktCollectiveControl p) := fun h _ hq => one h hq
theorem pktRingData (p : Nat) : Statement (.pktRingData p) := fun h _ hq => one h hq
theorem pktTimeSync (p delay : Nat) : Statement (.pktTimeSync p delay) := fun h _ hq => one h hq
theorem pktCredit (p : Nat) : Statement (.pktCredit p) := fun h _ hq => one h hq
theorem pktManagement (p : Nat) : Statement (.pktManagement p) := fun h _ hq => one h hq
theorem ringStepSend (c n : Nat) : Statement (.ringStepSend c n) := fun h _ hq => one h hq
theorem remoteReqTimeout (tag : Nat) : Statement (.remoteReqTimeout tag) := fun _ _ hq => nomatch hq
theorem collectiveTimeout (c n : Nat) : Statement (.collectiveTimeout c n) := fun h _ hq => one h hq
theorem bankLoad (master : Nat) : Statement (.bankLoad master) := fun _ _ hq => nomatch hq
theorem epochHoldExpiry (b : Nat) : Statement (.epochHoldExpiry b) := fun h _ hq => one h hq
theorem timeSyncSend : Statement (.timeSyncSend) := fun _ _ hq => nomatch hq
theorem timeSyncLoss : Statement (.timeSyncLoss) := fun _ _ hq => nomatch hq
theorem barrierResultTimeout : Statement (.barrierResultTimeout) := fun _ _ hq => nomatch hq
theorem heldBarrierRepost : Statement (.heldBarrierRepost) := fun _ _ hq => nomatch hq
theorem heldBarrierReply : Statement (.heldBarrierReply) := fun _ _ hq => nomatch hq
theorem spareReadyNotice (p : Nat) : Statement (.spareReadyNotice p) := fun h _ hq => one h hq
theorem spareDecision (p : Nat) : Statement (.spareDecision p) := fun h _ hq => one h hq
theorem analogueCheck (p pt leaves : Nat) (sums : List Int) : Statement (.analogueCheck p pt leaves sums) := fun h _ hq => two h hq
theorem thresholdWrite (master : Nat) (win : Bool) (w : Word) : Statement (.thresholdWrite master win w) := fun _ _ hq => nomatch hq
theorem thresholdWindowExpiry (row : Nat) : Statement (.thresholdWindowExpiry row) := fun h _ hq => one h hq
theorem faultRecordSend : Statement (.faultRecordSend) := fun _ _ hq => nomatch hq
theorem faultRecordResend (seq : Nat) : Statement (.faultRecordResend seq) := fun _ _ hq => nomatch hq
theorem faultRecordAck (from_ : Nat) (payload : List Byte) : Statement (.faultRecordAck from_ payload) := fun _ _ hq => nomatch hq
theorem rebuildSetLast (master : Nat) : Statement (.rebuildSetLast master) := fun _ _ hq => nomatch hq
theorem rebuildGo (master : Nat) : Statement (.rebuildGo master) := fun _ _ hq => nomatch hq
theorem rebuildComplete (fails : List (Nat × Nat × BadCell)) : Statement (.rebuildComplete fails) := fun _ _ hq => nomatch hq
theorem powerEnable (vin : Nat) : Statement (.powerEnable vin) := fun _ _ hq => nomatch hq
theorem railSequenceStep : Statement (.railSequenceStep) := fun _ _ hq => nomatch hq
theorem railSequenceTimeout (bad : Nat) : Statement (.railSequenceTimeout bad) := fun _ _ hq => nomatch hq
theorem powerDisable : Statement (.powerDisable) := fun _ _ hq => nomatch hq
theorem inputPowerLoss : Statement (.inputPowerLoss) := fun _ _ hq => nomatch hq
theorem powerSample (vin ma : Nat) : Statement (.powerSample vin ma) := fun _ _ hq => nomatch hq
theorem capControlTick : Statement (.capControlTick) := fun _ _ hq => nomatch hq
theorem capMiss : Statement (.capMiss) := fun _ _ hq => nomatch hq
theorem powerCapWrite (master : Nat) (w : Word) : Statement (.powerCapWrite master w) := fun _ _ hq => nomatch hq
theorem thermalTick : Statement (.thermalTick) := fun _ _ hq => nomatch hq
theorem stackTempRead (k : Nat) (t : Int) : Statement (.stackTempRead k t) := fun h _ hq => one h hq
theorem clockLoss (ref vco : Bool) : Statement (.clockLoss ref vco) := fun _ _ hq => nomatch hq
theorem clockRestore : Statement (.clockRestore) := fun _ _ hq => nomatch hq
theorem failSafeExit : Statement (.failSafeExit) := fun _ _ hq => nomatch hq
theorem watchdogKick (master : Nat) (w : Word) : Statement (.watchdogKick master w) := fun _ _ hq => nomatch hq
theorem watchdogExpiry : Statement (.watchdogExpiry) := fun _ _ hq => nomatch hq
theorem codeHashCheck (same : Bool) : Statement (.codeHashCheck same) := fun _ _ hq => nomatch hq
theorem fwWrite (master type : Nat) (flashErr : Bool) : Statement (.fwWrite master type flashErr) := fun _ _ hq => nomatch hq
theorem fwActivate (master type : Nat) : Statement (.fwActivate master type) := fun _ _ hq => nomatch hq
theorem fwCommit (master type : Nat) : Statement (.fwCommit master type) := fun _ _ hq => nomatch hq
theorem fwRevert (master type : Nat) : Statement (.fwRevert master type) := fun _ _ hq => nomatch hq
theorem fwLoad (master type units : Nat) : Statement (.fwLoad master type units) := fun _ _ hq => nomatch hq
theorem fwRaiseEpoch (master key : Nat) : Statement (.fwRaiseEpoch master key) := fun _ _ hq => nomatch hq
theorem liveLoadStart : Statement (.liveLoadStart) := fun _ _ hq => nomatch hq
theorem liveLoadResume (ok : Bool) (migrated : Nat) : Statement (.liveLoadResume ok migrated) := fun _ _ hq => nomatch hq
theorem counterLoad (master d i : Nat) (w : Word) : Statement (.counterLoad master d i w) := fun h _ hq => one (Bool.and_eq_true_iff.mp h).1 hq
theorem counterReadLatch (master d i : Nat) : Statement (.counterReadLatch master d i) := fun h _ hq => one (Bool.and_eq_true_iff.mp h).1 hq
theorem energyReadLatch (master : Nat) : Statement (.energyReadLatch master) := fun _ _ hq => nomatch hq
theorem counterFreeze (master : Nat) (freeze : Bool) : Statement (.counterFreeze master freeze) := fun _ _ hq => nomatch hq
theorem smbGlbId : Statement (.smbGlbId) := fun _ _ hq => nomatch hq
theorem smbState : Statement (.smbState) := fun _ _ hq => nomatch hq
theorem smbVin : Statement (.smbVin) := fun _ _ hq => nomatch hq
theorem smbPinAvg : Statement (.smbPinAvg) := fun _ _ hq => nomatch hq
theorem smbTemp : Statement (.smbTemp) := fun _ _ hq => nomatch hq
theorem smbFsCause : Statement (.smbFsCause) := fun _ _ hq => nomatch hq
theorem smbFltSeq : Statement (.smbFltSeq) := fun _ _ hq => nomatch hq
theorem smbAlertStatus : Statement (.smbAlertStatus) := fun _ _ hq => nomatch hq
theorem smbAlertClear (v : Nat) : Statement (.smbAlertClear v) := fun _ _ hq => nomatch hq
theorem smbAlertMask (w : Option Nat) : Statement (.smbAlertMask w) := fun _ _ hq => nomatch hq
theorem smbSerial : Statement (.smbSerial) := fun _ _ hq => nomatch hq
theorem smbAlertResponse : Statement (.smbAlertResponse) := fun _ _ hq => nomatch hq
theorem status (req : List Byte) : Statement (.status req) := fun _ _ hq => nomatch hq
theorem fsExit (req : List Byte) : Statement (.fsExit req) := fun _ _ hq => nomatch hq
theorem imageChunk (req : List Byte) : Statement (.imageChunk req) := fun _ _ hq => nomatch hq
theorem imageCheck (req : List Byte) : Statement (.imageCheck req) := fun _ _ hq => nomatch hq
theorem readReg (req : List Byte) : Statement (.readReg req) := fun _ _ hq => nomatch hq
theorem icmpEcho (data : List Byte) : Statement (.icmpEcho data) := fun _ _ hq => nomatch hq
theorem arpRequest (mine nd : Bool) : Statement (.arpRequest mine nd) := fun _ _ hq => nomatch hq
theorem standbyPowerUp (straps : Nat) : Statement (.standbyPowerUp straps) := fun _ _ hq => nomatch hq
theorem hostLinkResetExit (link : Nat) : Statement (.hostLinkResetExit link) := fun h _ hq => one h hq
theorem vprogInWindow (p : Nat) : Statement (.vprogInWindow p) := fun h _ hq => one h hq
theorem mspColdRestartDone : Statement (.mspColdRestartDone) := fun _ _ hq => nomatch hq
theorem masterConflictClear : Statement (.masterConflictClear) := fun _ _ hq => nomatch hq
theorem spareNoticeTimeout : Statement (.spareNoticeTimeout) := fun _ _ hq => nomatch hq
theorem illegalInstruction (e : Nat) : Statement (.illegalInstruction e) := fun h _ hq => one h hq
theorem nakResendTimeout (p : Nat) : Statement (.nakResendTimeout p) := fun h _ hq => one h hq
theorem railFault (n : Nat) : Statement (.railFault n) := fun _ _ hq => nomatch hq

end Sys2Proof.Laws.Names
end

