-- ==== Sys2Proof/Tests/Slice0.lean ====
section
/-! SUPPORT. Tests: witnesses of the hypotheses of the statements, ill-formed commands that the check refuses, and values that the spec
works out. A witness is a small state that meets them, for one command or clause. -/

namespace Sys2Proof.Tests

open Sys2Proof Sys2Proof.Machine

set_option Elab.async false

/-- A module at READY with power good, its links up and its pins released. -/
def rdy : State :=
  let s := (State.reset.setFld oBoot 31 28 5).setBit oRail 31
  { s with host := { s.host with up0 := true, up1 := true }, pwr := { s.pwr with rail := 0x9FFF1FFF#32, resetLow := false, perst0 := false, perst1 := false } }

/-- Bytes of a descriptor or record: fields (offset, width, value) over zeros. -/
def bytesOf (n : Nat) (fs : List (Nat × Nat × Nat)) : List Byte :=
  fs.foldl (fun b f => b.take f.1 ++ leBytes f.2.1 f.2.2 ++ b.drop (f.1 + f.2.1)) (List.replicate n 0)

/-- A started descriptor with its opcode and fields. -/
def dsc (op : Nat) (fs : List (Nat × Nat × Nat)) : Desc := { ptr := 0, bytes := bytesOf 64 ([(0, 1, op), (1, 1, 0x10)] ++ fs), started := true }

/-- Context 0, in RUN, holds a descriptor. -/
def held (s : State) (d : Desc) : State := s.setCtx 0 { state := .run, infl := [d], tail := 1, fetch := 1 }

/-- The module with a descriptor at hand in context 0. -/
def hand (op : Nat) (fs : List (Nat × Nat × Nat)) : State := held rdy (dsc op fs)

/-- Memory with bytes at a module-local address. -/
def withBytes (s : State) (a : Nat) (bs : List Byte) : State := s.poke a bs


/-! Descriptors of the common opcodes. -/

theorem test_nop_at_hand : (hand 0 []).atHand 0 0 0x00 = some (dsc 0 []) := by decide +kernel
theorem test_nop_at_last_context : ((hand 0 []).setCtx 4095 { state := .run, infl := [dsc 0 []] }).atHand 4095 0 0x00 = some (dsc 0 []) := by
  decide +kernel
theorem test_copy_moves :
    let fs := [(16, 8, 0x1000), (24, 8, 0x2000), (32, 4, 8), (36, 4, 1)]
    let s := withBytes (hand 1 fs) 0x1000 [1, 2, 3, 4, 5, 6, 7, 8]
    let d := dsc 1 fs
    let m := moveRows (s.ctxWho 0) (daddr (d.u64 16)) (daddr (d.u64 24)) (d.u32 32) (d.u32 36 % 2 ^ 24) (d.u32 40) (d.u32 44) s
    s.atHand 0 0 0x01 = some d ∧ m.denied = false ∧ m.cut = false ∧ m.lost = false ∧ m.s.peek 0x2000 8 = [1, 2, 3, 4, 5, 6, 7, 8] := by
  decide +kernel
theorem test_fill_stores :
    let fs := [(16, 8, 0x0807060504030201), (24, 8, 0x2FF0), (32, 4, 16), (36, 4, 1)]
    let s := hand 2 fs
    let d := dsc 2 fs
    let r := s.store (s.ctxWho 0) (daddr (d.u64 24)) ((List.range (d.u32 32)).map fun i => ((d.bytes.drop 16).take 8).getD (i % 8) 0)
    s.atHand 0 0 0x02 = some d ∧ d.u32 36 % 2 ^ 24 = 1 ∧ 0 < d.u32 32 ∧ (daddr (d.u64 24)).off % 4096 + d.u32 32 ≤ 4096 ∧
    r.1 = .data [] false ∧ r.2.peek 0x2FF8 2 = [1, 2] := by decide +kernel
theorem test_fence_at_hand : (hand 3 [(16, 1, 2)]).atHand 0 0 0x03 = some (dsc 3 [(16, 1, 2)]) ∧ (hand 3 [(16, 1, 2)]).linkUp 0 = true := by
  decide +kernel
theorem test_mailbox_post_allowed :
    let s := hand 4 [(16, 1, 1), (17, 1, 15), (20, 4, 77)]
    s.atHand 0 0 0x04 = some (dsc 4 [(16, 1, 1), (17, 1, 15), (20, 4, 77)]) ∧ s.aclAllows 19 rightW (s.ctxMaster 0) 15 15 = true := by
  decide +kernel
theorem test_snapshot_of_dies :
    let s := hand 5 [(16, 2, 0x300), (24, 8, 0x4000)]
    let d := dsc 5 [(16, 2, 0x300), (24, 8, 0x4000)]
    s.atHand 0 0 0x05 = some d ∧ d.u16 16 % 1024 ≠ 0 ∧ d.u8 18 % 2 = 0 ∧
    s.aclAllows 30 rightR (s.ctxMaster 0) ((diesOf (d.u16 16 % 1024)).headD 0) ((diesOf (d.u16 16 % 1024)).getLastD 0) = true := by
  decide +kernel
theorem test_reserved_opcode_waits :
    let d : Desc := { dsc 0x60 [] with started := false }
    let s := held rdy d
    (s.ctx 0).infl.find? (fun d => d.ptr = 0 && d.held.isNone && !d.started) = some d ∧ opcodeListed d.op = false ∧
    (diagOpcode d.op && s.boot.diag) = false := by decide +kernel

/-! Descriptors of the training step. -/

theorem test_step_begin_opens :
    let d := dsc 0x10 [(4, 4, 1), (18, 1, 1), (19, 1, 1), (20, 1, 40), (24, 1, 40)]
    let s := held rdy d
    let s1 := (s.beginStep 0).takeovers.unfenceDue
    s.atHand 0 0 0x10 = some d ∧ s.mayBegin = true ∧ d.u32 28 = 0 ∧ s.atBoundary = false ∧ s1.testsBefore = false ∧
    s1.flushLeft.flushPending = false := by
  dsimp only
  rw [takeovers_idle rfl rfl]
  decide +kernel
theorem test_branch_final :
    let d := dsc 0x16 []
    let s := { held rdy d with trn := { rdy.trn with opened := true } }
    s.atHand 0 0 0x16 = some d ∧ s.summaryFinal 0 d = true ∧ (d.u8 26).testBit 0 = false := by decide +kernel
theorem test_step_end_decided :
    let d := dsc 0x17 []
    let s := { held rdy d with trn := { rdy.trn with opened := true } }
    s.atHand 0 0 0x17 = some d ∧ s.undecided = false ∧ s.trn.opened = true ∧ s.trn.lostCtx = false ∧ s.role ≠ 1 := by decide +kernel
theorem test_eval_begin :
    let d := dsc 0x18 []
    let s := held rdy d
    s.atHand 0 0 0x18 = some d ∧ d.u8 16 = 0 ∧ s.trn.opened = false ∧ s.trn.evalOpen = false ∧
    (List.range 8).any (fun p => (s.port p).batches != [] || (s.port p).scopes != []) = false := by decide +kernel
theorem test_eval_end :
    let d := dsc 0x18 [(16, 1, 1)]
    let s := { held rdy d with trn := { rdy.trn with evalOpen := true } }
    s.atHand 0 0 0x18 = some d ∧ d.u8 16 = 1 ∧ s.trn.evalOpen = true ∧ s.trn.evalCtx = 0 ∧
    ((s.ctx 0).infl.takeWhile (·.ptr != 0)).any (·.pass) = false := by
  decide +kernel


/-! Descriptors of layers, kernels, updates, the array, care, the fabric and configuration. -/

/-- An open step of one partition with units 0 and 1 and engine 0, which holds kernel 9. -/
def opn (d : Desc) : State :=
  let s := held rdy d
  { s with units := [(0, { ok := true }), (1, { ok := true })], drvs := [(0, { ok := true, res := [(0, { id := 9, words := 1 })] })],
           trn := { s.trn with opened := true, share := [2, 0] } }

/-- A product record: BF16 by FP32 in mode 2 for kernel 9. -/
def prec : List Byte := bytesOf 64 [(0, 8, 0x50000), (8, 8, 0x60000), (16, 4, 1), (20, 4, 1), (24, 4, 1), (28, 4, 1), (32, 4, 1), (36, 1, 2),
  (40, 1, 1), (44, 4, 9)]

/-- A layer record of a 1 by 1 layer of a kind. -/
def lrec (kind : Nat) : List Byte := bytesOf 64 [(2, 1, kind), (4, 4, 1), (8, 4, 1), (16, 8, 0x20000), (24, 8, 0x100000), (32, 4, 1)]

theorem test_layer_fwd_array :
    let d := dsc 0x11 [(16, 8, 0x10000), (24, 8, 0x30000), (36, 4, 1), (48, 8, 0x30000)]
    let s := withBytes (withBytes (opn d) 0x10000 (lrec 0)) 0x30000 (bytesOf 64 [(0, 8, 0x40000), (8, 4, 1), (12, 4, 1), (17, 1, 4)])
    let s := ((s.setPtile 0 0 0).setBit (tileCfgOff 0 0) 15).updDie 0 fun x => { x with state := .run }
    let l := parseLRec (lrec 0)
    let u := (s.readRec64 (s.ctxWho 0) (d.u64 16)).2.observe l
    let w := u.ctxWho 0
    let ri := u.readRec64 w (d.u64 24)
    let ro := ri.2.readRec64 w (d.u64 48)
    let rt := ro.2.readRecord w l.tileList (2 * l.rb * l.cb)
    let x := parseTensor (bytesOf 64 [(0, 8, 0x40000), (8, 4, 1), (12, 4, 1), (17, 1, 4)])
    let tc := tileChains l.rb l.cb [0, 0]
    s.atHand 0 0 0x11 = some d ∧ (s.readRec64 (s.ctxWho 0) (d.u64 16)).1 = .inr (lrec 0) ∧ l.ok s.trn.npart = true ∧
    s.unitsHeld l.part = false ∧ l.kind = 0 ∧ l.outKernel = 0 ∧ l.outl = false ∧ d.pass = false ∧
    rt.1 = .inr [0, 0] ∧ (match ri.1, ro.1 with | .inr a, .inr b => decide (layerTensors l a b = .inr (x, x)) | _, _ => false) = true ∧
    rt.2.tilesStatus l.rb tc = 0 ∧ ((tc.map fun ts => ts.headD 0 / 8192).eraseDups.any fun p => (u.die p).state != .run) = false ∧
    ((rt.2.addWork { own := ⟨0, 0⟩, op := 0x11, layer := l.layer }).makeReads (rt.2.ctxWho 0)
      { own := ⟨0, 0⟩, prod := d.prod, l := l, out := x, master := rt.2.ctxMaster 0 } x (d.u32 32) (d.u32 36) tc).1 = 0 := by decide +kernel
theorem test_layer_fwd_digital :
    let d := dsc 0x11 [(16, 8, 0x10000), (24, 8, 0x30000)]
    let s := withBytes (withBytes (opn d) 0x10000 (lrec 1)) 0x30000 prec
    let l := parseLRec (lrec 1)
    let u := (s.readRec64 (s.ctxWho 0) (d.u64 16)).2.observe l
    s.atHand 0 0 0x11 = some d ∧ (s.readRec64 (s.ctxWho 0) (d.u64 16)).1 = .inr (lrec 1) ∧ l.ok s.trn.npart = true ∧
    s.unitsHeld l.part = false ∧ l.kind ≠ 0 ∧ (u.readPrec (u.ctxWho 0) (d.u64 24) l.part true).1 = .inr (parsePrec prec) := by decide +kernel
theorem test_layer_bwd :
    let d := dsc 0x12 [(16, 8, 0x10000), (24, 8, 0x30000), (32, 8, 0x30000)]
    let s := withBytes (withBytes (opn d) 0x10000 (lrec 1)) 0x30000 prec
    let l := parseLRec (lrec 1)
    let u := (s.readRec64 (s.ctxWho 0) (d.u64 16)).2.observe l
    let r := u.readPrec (u.ctxWho 0) (d.u64 24) l.part (l.kind = 1)
    s.atHand 0 0 0x12 = some d ∧ (s.readRec64 (s.ctxWho 0) (d.u64 16)).1 = .inr (lrec 1) ∧ l.ok s.trn.npart = true ∧
    s.unitsHeld l.part = false ∧ (d.u8 48).testBit 0 = false ∧ (d.u8 48).testBit 1 = false ∧
    u.listStatus (u.ctxWho 0) l = (0, u) ∧ r.1 = .inr (parsePrec prec) ∧ (r.2.readDw (u.ctxWho 0) d l).1 = .inr (parsePrec prec) := by decide +kernel
theorem test_attn_lists : [0x13, 0x14].all (fun op =>
    let d := dsc op [(16, 8, 0x30000), (24, 4, 1)]
    let s := withBytes (opn d) 0x30000 prec
    s.atHand 0 0 op = some d && decide (d.u8 30 < s.trn.npart) && !s.unitsHeld (d.u8 30) && !(d.u8 31).testBit 1 &&
    decide ((s.readList 0 d).1 = [parsePrec prec]) && (s.readList 0 d).2.1 = 0) = true := by decide +kernel
theorem test_loss :
    let d := dsc 0x15 [(16, 8, 1), (24, 4, 9)]
    (opn d).atHand 0 0 0x15 = some d ∧ (opn d).unitsHeld 0 = false ∧ (opn d).lossEngines d = [0] ∧
    (opn d).residentOn ((opn d).lossEngines d) (d.u32 24) = true := by decide +kernel
theorem test_vec_kernels_resident :
    [1, 2].all (fun k =>
      let d := dsc 0x20 [(16, 8, 1), (24, 1, k), (28, 4, 9)]
      decide ((opn d).atHand 0 0 0x20 = some d) && d.kop = k && d.engines = [0] &&
      d.engines.all fun e => (((opn d).drv e).find (d.u32 28)).isSome) = true := by decide +kernel
theorem test_vec_kernels_loading :
    [0, 3].all (fun k =>
      let d := dsc 0x20 [(16, 8, 2 ^ 39), (24, 1, k), (28, 4, 7), (32, 8, 0x1000)]
      let s := withBytes (opn d) 0x1000 (bytesOf 68 [(0, 4, 7), (4, 2, 1), (8, 4, 1), (16, 4, crc32 (leBytes 4 0xFC000000)), (64, 4, 0xFC000000)])
      decide (s.atHand 0 0 0x20 = some d) && d.kop = k && d.engines = [39] &&
      match s.readImage 0 d with
      | (.inr i, s1) => i.res.id = 7 && (((s1.loadEngine 39 { own := ⟨0, 0⟩, res := i.res, code := i.code }).drv 39).find (d.u32 28)).isSome
      | _ => false) = true := by decide +kernel

/-- Shearer unit 0 ready, with one span of 1 by 1 weights, in tables that allow shearer units and engines stack 0. -/
def shrd (d : Desc) : State :=
  let sp : Span := { kind := 1, k := 1, n := 1, pc := true, master := 0x100000, mom1 := 0x200000, mom2 := 0x300000, tally := 0x400000,
                     grad := 0x500000, pstate := 0x600000 }
  let all (m : Nat) : AclEnt := { valid := true, anyidx := true, rights := 31, master := m, limit := 2 ^ 48 - 1 }
  let s := opn d
  { s with shrs := [(0, { state := .ready, spans := [sp] })], host := { s.host with acl := [(1, all 0x4000), (2, all 0x3000)] } }

/-- A round of a pass over the one span ends the pass, with nothing denied or lost. -/
def roundEnds (f : Nat → Nat → List Nat → List Nat → Pass → SpanOut) (r : ShrPass) (s : State) : Bool :=
  let q := spanRound f r.units r.share s
  !q.2.2.stop && !q.2.2.denied && q.1.all (·.left = [])

theorem test_update_norm :
    let d := { dsc 0x28 [(16, 1, 1)] with step := true }
    let s := shrd d
    s.atHand 0 0 0x28 = some d ∧ s.shrPass 0 0 = none ∧ s.namedAll (d.u8 16) (d.u16 18) (d.u16 20) = some [(0, [0])] ∧ d.u64 24 = 0 ∧
    d.step = true ∧ s.shrReady 0 = true ∧ s.bit 0x1000010 0 = false ∧ roundEnds (normStep true) (newPass 0 d [(0, [0])]) s = true := by
  decide +kernel
theorem test_update_apply :
    let d := { dsc 0x29 [(16, 1, 1), (24, 8, 0x10000)] with step := true }
    let s := shrd d
    let r := s.readRecord (s.ctxWho 0) (d.u64 24) 1024
    let tb : List Byte := List.replicate 1024 0
    s.atHand 0 0 0x29 = some d ∧ s.shrPass 0 0 = none ∧ d.step = true ∧ s.namedAll (d.u8 16) (d.u16 18) (d.u16 20) = some [(0, [0])] ∧
    d.u64 40 = 0 ∧ s.torn 0 = false ∧ s.shrReady 0 = true ∧ (s.port 0).recon = [] ∧ r.1 = .inr tb ∧ r.2.ruleBad tb [(0, [0])] = false ∧
    roundEnds (updStep tb 0x3F800000) (newPass 0 d [(0, [0])]) s = true := by decide +kernel
theorem test_pass_in_hand : [0x28, 0x29, 0x2A, 0x2B].all (fun op =>
    let d := { dsc op [(16, 1, 1), (24, 8, 0x10000)] with step := true }
    let r := newPass 0 d [(0, [0])]
    let s := (shrd d).putPass r
    decide (s.atHand 0 0 op = some d) && decide (s.shrPass 0 0 = some r) && !s.bit 0x1000010 0 && (s.setBit 0x1000010 0).bit 0x1000010 0) =
    true := by decide +kernel

/-- The header of stripe 0 carries the stamps of step 0: the pass finds its work done. -/
def stamped (s : State) : State := withBytes s 0x600000 (leBytes 4 1 ++ leBytes 4 1 ++ leBytes 4 1)
theorem test_precond_stat :
    let d := { dsc 0x2A [(16, 1, 1), (24, 8, 0x10000)] with step := true }
    let s := stamped ((shrd d).updTrn fun t => { t with share := [0, 0] })
    let r := s.readRecord (s.ctxWho 0) (d.u64 24) 1024
    let tb : List Byte := List.replicate 1024 0
    let clip := r.2.stepClip 0
    let q : ShrPass := { newPass 0 d [(0, [0])] with rules := tb, part := d.u8 17, tbase := d.u16 22, clip := clip.1 }
    d.step = true ∧ s.shrPass 0 0 = none ∧ s.namedAll (d.u8 16) (d.u16 18) (d.u16 20) = some [(0, [0])] ∧ d.u8 17 < s.trn.npart ∧
    d.u64 40 = 0 ∧ s.torn 0 = false ∧ s.shrReady 0 = true ∧ r.1 = .inr tb ∧ s.partEngines (d.u8 17) = [] ∧ s.atHand 0 0 0x2A = some d ∧
    roundEnds (tearing (statStep q)) q (clip.2.loadRoutine (d.u8 17) (d.u16 32) (routineWords d.op)) = true := by decide +kernel
theorem test_precond_root :
    let d := { dsc 0x2B [(16, 1, 1), (24, 8, 0x10000)] with step := true }
    let s := stamped ((shrd d).updTrn fun t => { t with share := [0, 0] })
    let r := s.readRecord (s.ctxWho 0) (d.u64 24) 1024
    let tb : List Byte := List.replicate 1024 0
    let q : ShrPass := { newPass 0 d [(0, [0])] with rules := tb, part := d.u8 17, force := (d.u8 34).testBit 0 }
    d.step = true ∧ s.shrPass 0 0 = none ∧ s.namedAll (d.u8 16) (d.u16 18) (d.u16 20) = some [(0, [0])] ∧ d.u8 17 < s.trn.npart ∧
    d.u64 40 = 0 ∧ s.torn 0 = false ∧ s.shrReady 0 = true ∧ r.1 = .inr tb ∧ s.partEngines (d.u8 17) = [] ∧ s.atHand 0 0 0x2B = some d ∧
    roundEnds (tearing (rootStep q)) q (r.2.loadRoutine (d.u8 17) (d.u16 32) (routineWords d.op)) = true := by decide +kernel


/-- Die 0 in RUN. -/
def dieRunning (s : State) : State := s.updDie 0 fun x => { x with state := .run }
theorem test_program_flush :
    let d := dsc 0x30 [(16, 1, 1)]
    let s := dieRunning (held rdy d)
    s.atHand 0 0 0x30 = some d ∧ dieList (d.u8 16) = [0] ∧ (s.flushCheck 0 d).1 = stSuccess ∧ (s.die 0).state = .run ∧
    (s.port 0).flush = none := by decide +kernel
theorem test_program_direct : [0, 1].all (fun k =>
    let d := dsc 0x31 [(17, 1, k), (18, 2, 1), (24, 8, 0x1000), (32, 8, 0x2000)]
    let s := held rdy d
    let r := s.readRecord (s.ctxWho 0) (d.u64 24) (8 * d.u16 18)
    decide (s.atHand 0 0 0x31 = some d) && d.u8 17 = k && decide (r.1 = .inr (List.replicate 8 0)) &&
    (entriesOf (List.replicate 8 0) (d.u16 18)).all (fun e => s.aclAllows 10 rightProg (s.ctxMaster 0) (reqTile e) (reqTile e)) &&
    s.mayStore (s.ctxWho 0) (d.u64 32) (2 * d.u16 18) && decide ((s.port 0).direct = none)) = true := by decide +kernel
theorem test_column_rescale : [0, 1, 2].all (fun k =>
    let d := dsc 0x32 [(17, 1, k), (18, 2, 1), (24, 8, 0x1000), (32, 8, 0x2000)]
    let s := held rdy d
    let r := s.readRecord (s.ctxWho 0) (d.u64 24) (8 * d.u16 18)
    decide (s.atHand 0 0 0x32 = some d) && d.u8 17 = k && decide (r.1 = .inr (List.replicate 8 0)) &&
    (entriesOf (List.replicate 8 0) (d.u16 18)).all (fun e => s.aclAllows 10 rightProg (s.ctxMaster 0) (reqTile e) (reqTile e)) &&
    s.mayStore (s.ctxWho 0) (d.u64 32) (4 * d.u16 18)) = true := by decide +kernel
theorem test_muster :
    let d := dsc 0x38 [(16, 1, 1)]
    let s := held rdy d
    s.atHand 0 0 0x38 = some d ∧ dieList (d.u8 16) = [0] ∧ d.u8 17 = 0 ∧ s.aclAllows 32 rightCfg (s.ctxMaster 0) 0 0x3FF = true ∧
    (s.die 0).state ≠ .failSafe ∧ s.mayStore (s.ctxWho 0) (d.u64 32) (16 * (dieList (d.u8 16)).length) = true := by decide +kernel
theorem test_tile_test :
    let d := dsc 0x39 [(17, 1, 1), (18, 2, 1), (24, 8, 0x1000)]
    let s := held rdy d
    s.atHand 0 0 0x39 = some d ∧ (s.dieCfg (d.u8 16 % 8) (s.ctxMaster 0)).1 = true ∧ d.u8 17 % 16 ≠ 0 ∧
    (s.die (d.u8 16 % 8)).state ≠ .failSafe ∧ s.mayStore (s.ctxWho 0) (d.u64 32) (4 * d.u16 18) = true ∧
    (s.readRecord (s.ctxWho 0) (d.u64 24) (8 * d.u16 18)).1 = .inr (List.replicate 8 0) := by decide +kernel

/-- Module 0 of flock 0 holds group 1 of modules 0 and 1, and knows module 1 at position 1. -/
def flock (s : State) : State := ((s.setReg (oGrp 0 0 0) 0x80000001).setReg (oGrp 0 0 2) 3).setReg (oPos 0 1) 0x80000001
theorem test_reduce :
    let d := dsc 0x40 [(16, 2, 1), (20, 4, 2), (24, 8, 0x1000)]
    let s := flock (held rdy d)
    (s.group s.sendEpoch (d.u16 16)).isSome = true ∧ s.atHand 0 0 0x40 = some d ∧
    (getBytes (s.ctxWho 0) (daddr (d.u64 24)) (2 * d.u32 20) s).1 = [0, 0, 0, 0] ∧
    (getBytes (s.ctxWho 0) (daddr (d.u64 24)) (2 * d.u32 20) s).2.status = stSuccess := by decide +kernel
theorem test_gather :
    let d := dsc 0x41 [(16, 2, 1), (20, 4, 8), (24, 8, 0x1000), (32, 8, 0x2000)]
    let s := flock (held rdy d)
    let m := moveRows (s.ctxWho 0) (daddr (d.u64 24)) (.mod (d.u64 32 % 2 ^ 40)) (d.u32 20) 1 0 0 s
    ((s.group s.sendEpoch (d.u16 16)).map fun g => g.members.idxOf s.self) = some 0 ∧ s.atHand 0 0 0x41 = some d ∧ m.denied = false ∧
    m.cut = false := by decide +kernel
theorem test_sync :
    let d := dsc 0x42 [(16, 2, 1), (24, 8, 7)]
    let s := flock (held rdy d)
    (s.group s.sendEpoch (d.u16 16)).isSome = true ∧ s.atHand 0 0 0x42 = some d := by decide +kernel
theorem test_transfers : [(0x48, 0), (0x49, 0), (0x4A, 0), (0x4A, 1), (0x4A, 2), (0x4A, 3), (0x4A, 4), (0x4A, 5)].all (fun q =>
    let d := dsc q.1 [(16, 2, 1), (18, 1, q.2), (20, 4, 64), (24, 8, 0x1000), (32, 8, 2 ^ 40 + 0x3000)]
    let s := flock (held rdy d)
    decide (s.moduleOf (d.u64 32 % 2 ^ 54) = some 1) && s.self = 0 && s.inGroup (d.u16 16) 1 && decide (s.atHand 0 0 q.1 = some d) &&
    d.u8 18 = q.2) = true := by decide +kernel
theorem test_config_stage :
    let d := dsc 0x50 [(4, 4, 1), (16, 2, 1), (24, 8, 0x1000)]
    let s := held rdy d
    let bs := List.replicate 16 (0 : Byte)
    let es := (List.range (d.u16 16)).map (stageEntry bs)
    s.atHand 0 0 0x50 = some d ∧ d.u16 16 ≠ 0 ∧ chkStage d = 0 ∧ d.epoch = s.nextEpoch ∧ d.u8 18 % 2 = 0 ∧
    (s.readRecord (s.ctxWho 0) (d.u64 24) (16 * d.u16 16)).1 = .inr bs ∧ es.all stageValid = true ∧
    (es.all fun e => s.aclAllows (20 + (regBlock e.1).1) rightCfg (s.ctxMaster 0) ((regBlock e.1).2 / 4096) ((regBlock e.1).2 / 4096)) =
      true := by decide +kernel
theorem test_config_commit :
    let d := dsc 0x51 [(4, 4, 1)]
    let s := held rdy d
    s.atHand 0 0 0x51 = some d ∧ chkCommit d = 0 ∧ d.epoch = s.nextEpoch ∧ s.boot.commitWait = none ∧ s.boundary16 = true ∧
    s.loadFirst = false := by decide +kernel
theorem test_descriptor_start :
    let d : Desc := { dsc 0 [] with started := false }
    let s := held rdy d
    s.closeDone.chosen = some 0 ∧ s.closeDone.candidate 0 = some d ∧ diagOpcode d.op = false := by decide +kernel


/-! Rings, contexts, interrupts, registers, mailboxes, access tables and links. -/

/-- Context 5, in RUN, with rings of 16 entries and an announced descriptor in host memory. -/
def ringed : State :=
  let s := (rdy.setReg 0x200140 0x10000).setReg 0x200144 0x80000000
  s.setCtx 5 { state := .run, tail := 1, cqTail := 3 }

theorem test_tail_door_last :
    ringed.failSafe = false ∧ ringed.ready = true ∧ ringed.pageCtx 0 0 5 = some 5 ∧ (ringed.ctx 5).state = .run ∧
    doorPtr (ringed.sqSize 5) 0x10000 = some 16 ∧ (16 + 2 * ringed.sqSize 5 - (ringed.ctx 5).fetch) % (2 * ringed.sqSize 5) ≤ ringed.sqSize 5 ∧
    ((ringed.ctx 5).tail + 2 * ringed.sqSize 5 - (ringed.ctx 5).fetch) % (2 * ringed.sqSize 5) ≤
      (16 + 2 * ringed.sqSize 5 - (ringed.ctx 5).fetch) % (2 * ringed.sqSize 5) := by decide +kernel
theorem test_head_door_all_read :
    (ringed.ctx 5).state ≠ .disabled ∧ doorPtr (ringed.cqSize 5) 3 = some 3 ∧
    (3 + 2 * ringed.cqSize 5 - (ringed.ctx 5).cqHead) % (2 * ringed.cqSize 5) ≤
      ((ringed.ctx 5).cqTail + 2 * ringed.cqSize 5 - (ringed.ctx 5).cqHead) % (2 * ringed.cqSize 5) := by decide +kernel
theorem test_fetch :
    ringed.mayFetch 5 = true ∧ (ringed.request (ringed.ctxWho 5) 1 ((ringed.sqAddr 5).plus
      (64 * ((ringed.ctx 5).fetch % ringed.sqSize 5))) 64).1 = .data (List.replicate 64 0) false := by decide +kernel
theorem test_context_enable :
    let w : Word := 0x81000000
    rdy.lets 0 (ctxBase 4095 + 16) = true ∧ rdy.ready = true ∧ rdy.failSafe = false ∧ (rdy.ctx 4095).state = .disabled ∧
    (rdy.putCtl 4095 w).ownsCtx 0 4095 = true ∧ (rdy.putCtl 4095 w).enableErr 4095 = 0 := by decide +kernel
theorem test_context_disable : (ringed.ctx 5).state ≠ .disabled ∧ ringed.ownsCtx 0 5 = true ∧ ringed.lets 0 (ctxBase 5 + 16) = true := by
  decide +kernel
theorem test_context_rebind :
    let s := ringed.setCtx 5 { state := .suspended }
    s.lets 1 (ctxBase 5 + 16) = true ∧ (s.ctx 5).state = .suspended ∧ s.ctxFunc 5 = 0 ∧ s.ctxLink 5 ≠ 1 ∧ s.linkUp 1 = true := by
  decide +kernel
theorem test_gap_expiry :
    ((ringed.setCtx 5 { gap := true }).ctx 5).gapPend = false ∧ ((ringed.setCtx 5 { gap := true }).ctx 5).gap = true ∧
    ((ringed.setCtx 5 { gap := true, gapPend := true }).ctx 5).gapPend = true := by decide +kernel
theorem test_vector_pending :
    let s := { rdy with host := { rdy.host with msix := [(127, { pend := 2 ^ 31 })] } }
    (mapGet ({} : Msix) s.host.msix (1 * 64 + 63)).pend.testBit 31 = true ∧ s.failSafe = false ∧
    (mapGet ({} : Msix) s.host.msix (1 * 64 + 63)).pend.testBit 0 = false := by decide +kernel
theorem test_register_write :
    ∃ r, regRow 0x800010 = some r ∧ r.staged = 0 ∧ rdy.lets 0 0x800010 = true := ⟨_, rfl, by decide +kernel, by decide +kernel⟩
theorem test_mu_quiesce_written :
    (match exec (.registerWrite 0 0x800010 1) rdy with | .next t => t.reg 0x800010 | _ => 0) = 1 := by decide +kernel
theorem test_mailbox_write_empty_and_full :
    firmwareMaster 0x2000 = true ∧ (rdy.mbx 1 1 31).full = false ∧ ((rdy.setMbx 1 1 31 ⟨7, true⟩).mbx 1 1 31).full = true := by decide +kernel
theorem test_mailbox_read : firmwareMaster 0 = false ∧ (rdy.regCheck rightR 0 (0x400100 + 0x10000 * 1 + 4 * 31)).1 = true := by
  decide +kernel
theorem test_acl_last_entry : rdy.lets 0 (oAcl 35 61) = true ∧ rdy.lets 0 0x510000 = true := by decide +kernel
theorem test_link_down : rdy.linkUp 1 = true ∧ ((rdy.setLink 1 false).linkUp 1) = false ∧ rdy.bootState ≠ 0 := by decide +kernel
theorem test_link_contexts_suspended : ringed.ctxLink 5 = 0 ∧ (ringed.ctx 5).state = .run := by decide +kernel
theorem test_functions_of_link : (127 / 64 = 1 ∧ (fun f => decide (f = 63)) (127 % 64) = true) := by decide +kernel
theorem test_staged_write :
    ∃ r, regRow 0x100 = some r ∧ r.staged ≠ 0 ∧ r.rw = r.staged ∧ r.w1c = 0 ∧ rdy.lets 0 0x100 = true := ⟨_, rfl, by decide +kernel⟩


/-! Reset, boot, power, clocks, the fail-safe state and firmware. -/

theorem test_module_reset_key :
    let w : Word := 0xD6400001
    rdy.lets 0 0x14 = true ∧ wfld w 31 16 = 0xD640 ∧ w.getLsbD 0 = true := by decide +kernel
theorem test_reset_release :
    let s := { State.reset with pwr := { State.reset.pwr with rail := 0x80000000#32 } }
    s.bootState = 0 ∧ s.pgood = true := by decide +kernel
theorem test_consumed_line : ({ rdy with mem := { rdy.mem with consumed := some { master := 0x2001, line := 77 } } } : State).mem.consumed = some { master := 0x2001, line := 77 } := rfl

/-- A firmware image of a type with a body of one byte. -/
def img (t : Nat) : List Byte := bytesOf 513 [(0, 4, 0x54464D57), (4, 2, 1), (6, 1, t), (8, 2, 0x640), (11, 1, 255), (32, 4, 1)]

/-- What the fuses, the digest and the signature check would have to say for the images of the tests to be sound: the model leaves these
functions open. -/
def Signed : Prop :=
  keyTrusted (List.replicate 97 0) = true ∧ Config.sha384 [0] = List.replicate 48 0 ∧
  ∀ t, Config.ecdsaVerify (List.replicate 97 0) (List.replicate 48 0) (List.replicate 48 0) ((img t).take 256) = true

/-- The slots of all types hold sound images. -/
def loaded : List (Nat × Slot) := (List.range 16).map fun i => (i + 2, { bytes := img (i / 2 + 1), valid := true })

theorem img_fields : (List.range 8).all (fun t => let b := img t
    leAt b 0 4 = 0x54464D57 && leAt b 4 2 = 1 && leAt b 6 1 = t && leAt b 32 4 = 1 && leAt b 8 2 = 0x640 && leAt b 10 1 = 0 && leAt b 11 1 = 255 &&
    leAt b 7 1 = 0 && leAt b 16 8 = 0 && leAt b 38 2 = 0 && leAt b 36 2 = 0 && (b.drop 96).take 97 = List.replicate 97 0 &&
    (b.drop 256).take 48 = List.replicate 48 0 && (b.drop 304).take 48 = List.replicate 48 0 && (b.drop 48).take 48 = List.replicate 48 0 &&
    (b.drop 512).take 1 = [0] && (t = 0 || decide (1 ≤ bodyLimit t))) = true := by decide +kernel
theorem test_image_sound (h : Signed) (s : State) (t : Nat) (h1 : 1 ≤ t) (ht : t < 8) (hr : (s.fld 0 31 16, s.fld 0 7 0) = (0x640, 0xA1)) (hf : s.boot.fused = 0)
    (hi : leAt (s.slotBytes 1 (s.runSlot 1)) 36 2 = 0) : s.checkImage t (img t) = 0 := by
  obtain ⟨k, d, v⟩ := h
  have f := List.all_eq_true.mp img_fields t (List.mem_range.mpr ht)
  simp only [Bool.and_eq_true, decide_eq_true_eq, Bool.or_eq_true] at f
  obtain ⟨⟨⟨⟨⟨⟨⟨⟨⟨⟨⟨⟨⟨⟨⟨⟨a1, a2⟩, a3⟩, a4⟩, a5⟩, a6⟩, a7⟩, a8⟩, a9⟩, a10⟩, a11⟩, a12⟩, a13⟩, a14⟩, a15⟩, a16⟩, a17⟩ := f
  have a17' : 1 ≤ bodyLimit t := by rcases a17 with q | q <;> omega
  obtain ⟨l0, l1⟩ := Prod.mk.inj hr
  generalize List.replicate 97 (0 : Byte) = key at *
  generalize List.replicate 48 (0 : Byte) = z at *
  generalize [(0 : Byte)] = body at *
  have nb : bodyLimit t ≠ 0 := by omega
  unfold State.checkImage State.bootIface
  simp [a1, a2, a3, a4, a5, a6, a7, a8, a9, a10, a12, a13, a14, a15, a16, k, d, v t, l0, l1, hf, hi, nb]

/-- A type whose slot 0 is sound and NEXT starts from it. -/
theorem start_slot (h : Signed) (s : State) (t : Nat) (h1 : 1 ≤ t) (ht : t < 8)
    (ok : let u := s.reportSlot t
      (u.bootRec t).trial = false ∧ (u.bootRec t).next = false ∧ u.slotBytes t false = img t ∧ (u.fld 0 31 16, u.fld 0 7 0) = (0x640, 0xA1) ∧
      u.boot.fused = 0 ∧ leAt (u.slotBytes 1 (u.runSlot 1)) 36 2 = 0) :
    s.startType t = (true, ((s.reportSlot t).setRec t { (s.reportSlot t).bootRec t with begun := false }).runFrom t false false) := by
  obtain ⟨a, b, c, d, e, f⟩ := ok
  have g : (s.reportSlot t).checkSlot t false = 0 := by
    unfold State.checkSlot; rw [c]; exact test_image_sound h _ t h1 ht d e f
  simp only [State.startType, a, b, g, Bool.false_and, Bool.false_eq_true, if_false, if_true]

/-- The module in a boot state, with sound images in slots 0. -/
def booting (n : Nat) : State :=
  let s := State.reset.setBoot n
  { s with boot := { s.boot with slots := loaded } }
theorem test_msp_boot (h : Signed) :
    let s := (booting 1).setMsp .rom
    s.bootState = 1 ∧ s.boot.msp = .rom ∧ (s.startType 1).1 = true := by
  refine ⟨by decide +kernel, by decide +kernel, ?_⟩
  rw [start_slot h _ 1 (by decide) (by decide) (by decide +kernel)]

theorem test_fw_load (h : Signed) :
    let s := (booting 2).setMsp .running
    s.bootState = 2 ∧ s.mspUp = true ∧ (s.startType 2).1 = true ∧ ((s.startType 2).2.startTypes bootTypes).1 = 0 := by
  refine ⟨by decide +kernel, by decide +kernel, ?_⟩
  rw [start_slot h _ 2 (by decide) (by decide) (by decide +kernel)]
  refine ⟨rfl, ?_⟩
  simp only [bootTypes, State.startTypes]
  rw [start_slot h _ 7 (by decide) (by decide) (by decide +kernel)]
  simp only [if_true]
  rw [start_slot h _ 3 (by decide) (by decide) (by decide +kernel)]
  simp only [if_true]
  rw [start_slot h _ 4 (by decide) (by decide) (by decide +kernel)]
  simp only [if_true]
  rw [start_slot h _ 5 (by decide) (by decide) (by decide +kernel)]
  simp only [if_true]
  rw [start_slot h _ 6 (by decide) (by decide) (by decide +kernel)]
  simp only [if_true]

theorem test_pd_error :
    (booting 2).pdError 0 = 0 ∧ ((booting 2).pdSpoil 3).pdError 0 = 0x10 := by
  refine ⟨?_, by decide +kernel⟩
  unfold State.pdError
  rw [show (pdItems.find? fun i => ((booting 2).pdPick i).isNone) = none by decide +kernel]
  simp
theorem test_mem_init : (booting 3).bootState = 3 ∧ 0 % 256 = 0 ∧ ((booting 3).mem.unmapped.any (·.2)) = false := by decide +kernel
theorem test_array_init :
    let s := (List.range 8).foldl (fun (t : State) p => t.updDie p fun x => { x with state := .run }) (booting 4)
    s.bootState = 4 ∧ (List.range 8).all (fun p => (s.die p).state = .run) = true := by decide +kernel
theorem test_boot_timeout : 1 ≤ (booting 1).bootState ∧ (booting 4).bootState ≤ 4 := by decide +kernel

/-- The standby domain up. -/
def stby : State := { State.reset with pwr := { State.reset.pwr with standby := true } }
theorem test_power_enable :
    stby.pwr.standby = true ∧ stby.pgood = false ∧ stby.pwr.seqStep = none ∧ stby.pwr.seqFailed = false := by decide +kernel
theorem test_rail_steps :
    let s := { stby with pwr := { stby.pwr with seqStep := some 7, resetLow := false } }
    s.pwr.seqStep = some 7 ∧ s.bootState = 0 ∧ s.pwr.resetLow = false := by decide +kernel
theorem test_power_disable : ({ stby with pwr := { stby.pwr with pwrEn := true } } : State).pwr.pwrEn = true := by decide
theorem test_rail_fault : rdy.pgood = true ∧ rdy.failSafe = false := by decide +kernel
theorem test_power_sample_at_limit : stby.pwr.standby = true ∧ 5400 * 25000 / 10000 ≤ 13500 ∧ 25000 ≤ 25000 := by decide
theorem test_cap_exceeded :
    let s := (stby.setReg oPwrAvg 12501).setFld oPwrStat 31 28 12
    s.pwr.standby = true ∧ 10 * s.capW < s.fld oPwrAvg 15 0 ∧ s.fld oPwrStat 31 28 = 12 := by decide +kernel
theorem test_cap_write_and_energy_read : rdy.lets 0 oCap = true ∧ rdy.letsRead 0 0x100110 = true := by decide +kernel
theorem test_hot :
    let s := { rdy with mem := { rdy.mem with stackTemp := [(7, 86)] } }
    s.hot = true ∧ s.thermLvl < 12 := by decide +kernel
theorem test_clock_loss : (true && false) = false ∧ rdy.bit oClk 29 = false := by decide +kernel
theorem test_watchdog :
    let s := ((rdy.setBit oWdt 30).setMsp .running)
    s.bit oWdt 30 = true ∧ s.boot.msp = .running ∧ (s.bootRec 1).trial = false ∧ rdy.lets mspMaster oWdt = true ∧
    (s.setMsp .cold).boot.msp = .cold ∧ 3 ≤ s.bootState := by decide +kernel
theorem test_enter_fail_safe : rdy.failSafe = false ∧ rdy.bootState ≠ 0 ∧ 6 < 7 := by decide +kernel
theorem test_leave_fail_safe :
    let s := ((rdy.setBoot 7).setReg oFsStat 0x80000000).setBit oFsCtl 31
    s.failSafe = true ∧ s.bit oFsCtl 31 = true ∧ s.causesLeft = 0 := by decide +kernel

/-- The module at READY with its MSP running. -/
def fwReady : State := let s := rdy.setMsp .running; { s with boot := { s.boot with slots := loaded } }
theorem test_fw_command : fwReady.lets 0 oFwCtl = true ∧ fwReady.bit oFwStat 31 = false ∧ fwReady.mspUp = true := by decide +kernel
theorem test_fw_activate :
    let b := ((fwReady.setFld oFwStat 23 20 2).setFld oFwStat 15 8 8).setBit oFwStat 31
    b.slotValid 8 (!b.runSlot 8) = true := by decide +kernel
theorem test_fw_trial_ends :
    let s := fwReady.setRec 8 { trial := true }
    let b := ((s.setFld oFwStat 23 20 3).setFld oFwStat 15 8 8).setBit oFwStat 31
    (s.bootRec 8).trial = true ∧ b.runSlot 8 = (s.bootRec 8).next := by decide +kernel
theorem test_fw_load_command (h : Signed) :
    let b := ((fwReady.setFld oFwStat 23 20 5).setFld oFwStat 15 8 6).setBit oFwStat 31
    b.checkSlot 6 (fwReady.bootRec 6).next = 0 :=
  test_image_sound h _ 6 (by decide) (by decide) (by decide +kernel) (by decide +kernel) (by decide +kernel)
theorem test_raise_epoch :
    let b := ((fwReady.setFld oFwStat 23 20 6).setFld oFwStat 15 8 0).setBit oFwStat 31
    (fwReady.bootRec 1).trial = false ∧ b.runSlot 1 = (fwReady.bootRec 1).commit ∧ (fwReady.bootRec 2).trial = false ∧
    b.runSlot 2 = (fwReady.bootRec 2).commit ∧ b.committedEpoch ≤ 64 := by decide +kernel

/-- FW_SRC names the image of type 8 in module memory. -/
def fwSource : State := withBytes (fwReady.setFld 0x404 31 12 1) 0x1000 (img 7)
theorem test_fw_write :
    let src := daddr (2 ^ 32 * (fwSource.reg 0x408).toNat + 4096 * fwSource.fld 0x404 31 12)
    let r := fwSource.request fwSource.mspWho 1 src 512
    let q := r.2.request fwSource.mspWho 1 src (512 + 1)
    (fwSource.bootRec 7).trial = false ∧ r.1 = .data ((img 7).take 512) false ∧ leAt ((img 7).take 512) 32 4 = 1 ∧ 1 ≤ bodyLimit 7 ∧
    q.1 = .data (img 7) false := by decide +kernel
theorem test_fw_write_sound (h : Signed) : fwSource.checkImage 7 (img 7) = 0 :=
  test_image_sound h _ 7 (by decide) (by decide) (by decide +kernel) (by decide +kernel) (by decide +kernel)
theorem test_fw_writing :
    let s := fun e => ({ fwSource with boot := { fwSource.boot with writing := some { type := 7, slot := true, bytes := img 7, err := e } } } : State)
    (s false).boot.writing = some { type := 7, slot := true, bytes := img 7, err := false } ∧
    (s true).boot.writing = some { type := 7, slot := true, bytes := img 7, err := true } := ⟨rfl, rfl⟩
theorem test_fw_write_unsound : fwSource.checkImage 7 (img 6) ≠ 0 := by decide +kernel
/-- The module with a live load. -/
def loading (s : State) (l : LiveLoad) : State := { s with boot := { s.boot with load := some l } }
theorem test_live_loads_start :
    let s := (List.range 8).foldl (fun (t : State) p => t.updDie p fun x => { x with state := .run }) fwReady
    ([4, 5, 6].all fun k =>
      let l : LiveLoad := { type := k, units := 255, running := false }
      let r := (loading s l).quiesceFor l
      r.2.mayLoad r.1) && !s.failSafe = true := by decide +kernel
theorem test_live_load_waits :
    let l : LiveLoad := { type := 4, units := 128, running := false }
    let r := (loading fwReady l).quiesceFor l
    r.2.mayLoad r.1 = false ∧ (loading fwReady l).failSafe = false ∧ (loading fwReady l).boundary16 = true ∧ l.units.testBit 7 = true := by
  decide +kernel
theorem test_die_update_ends :
    let s := rdy.updDie 7 fun x => { x with state := .update }
    (s.die 7).state = .update ∧ ([] : List Nat).contains 7 = false ∧ [7].contains 7 = true := by decide +kernel
theorem test_persistent_copies :
    let s := { rdy with save := { rdy.save with copies := [(4, { seq := 7 }), (5, { seq := 7 })] } }
    s.pdPick 2 = some 0 ∧ s.held 2 = false ∧ (s.pdCopy 2 0).order = (s.pdCopy 2 1).order ∧
    (s.pdTorn 2).pdPick 2 = some 1 ∧ ((s.pdUpd 2 1 fun x => { x with seq := 8 }).pdPick 2) = some 1 ∧ (rdy.pdSpoil 12).pdPick 2 = none := by decide +kernel


/-! Tile arrays, the program port and maintenance. -/

/-- Die 0 in RUN with logical tile 0, mapped to physical tile 0, in a state. -/
def tile0 (st : TileState) : State := ((rdy.setPtile 0 0 0).setTileState 0 0 st).updDie 0 fun x => { x with state := .run }
def withPort (s : State) (f : Port → Port) : State := s.updPort 0 f

theorem test_mvm_start :
    let s := (tile0 .ready).updDie 0 fun x => { x with reads := [{ chain := 3, todo := [{}] }] }
    (s.nextRead 0 0).isSome = true ∧ (s.tile 0 0).st = .ready ∧ (s.die 0).state = .run ∧ s.quiesced 0 = false ∧ s.failSafe = false ∧
    (s.tile 0 0).banks.length < 2 ∧ s.placeFree 0 0 = true ∧ s.bufferUsed 0 + s.packetBytes 0 0 ≤ 524288 := by decide +kernel
theorem test_mvm_complete :
    let r : TileRead := { chain := 3, busy := [{}] }
    let s := ((tile0 .read).updTile 0 0 fun x => { x with banks := [3] }).updDie 0 fun x => { x with reads := [r] }
    (s.tile 0 0).banks = [3] ∧ (s.die 0).reads.find? (fun r => decide (r.chain = 3) && decide (r.tile = 0)) = some r ∧ r.busy ≠ [] := by
  decide +kernel
theorem test_code_packet_overrange :
    let s := (tile0 .read).updDie 0 fun x => { x with packets := [{ ovr := true }] }
    s.failSafe = false ∧ (s.die 0).packets = [{ ovr := true }] := by decide +kernel
theorem test_code_packet :
    ({} : Packet).ovr = false ∧
    let s := { tile0 .read with chains := [{ key := 3 }] }
    let r := s.fetch baMaster (recAddr 0 0 0) 2048
    (s.findChain 3).isSome = true ∧ r.1 = some (List.replicate 2048 0) := by decide +kernel
theorem test_array_result :
    let c : AChain := { key := 3, kernel := 9, cols := 1, tiles := [0] }
    let s := { tile0 .ready with chains := [c] }
    s.chains.find? (fun c => c.die = 0 && c.kernel != 0 && s.chainReady c && decide ((s.drv c.engine).aq.length < 64)) = some c ∧
    (s.readRecords c).1 = true := by decide +kernel
theorem test_die_quiesce : rdy.lets 0 (pst 7 + 0x10) = true := by decide +kernel

/-- Die 0 with a descriptor of PROGRAM_DIRECT waiting for a request of tile 0, row 0, column 0. -/
def direct (o : Option Nat) : State := withPort (tile0 .ready) fun q => { q with owner := o, direct := some { entries := [0] } }
theorem test_arbitrate :
    ((direct none).winner 0).map (·.1) = some 4 ∧ ((direct none).port 0).owner = none ∧ ((direct none).port 0).toRecon = [] := by
  decide +kernel
theorem test_preempt :
    let s := (direct (some 1)).setReg (pst 0 + 0x204) 0x7000
    (s.port 0).scopes = [] ∧ s.outranked 0 = true ∧ (s.port 0).idle = true ∧ s.sliceOnPort 0 = false ∧
    ((s.passGrant 0).winner 0).isSome = true := by decide +kernel
theorem test_preempt_busy :
    let s := withPort ((direct (some 1)).setReg (pst 0 + 0x204) 0x7000) fun q => { q with batches := [{}] }
    (s.port 0).scopes = [] ∧ s.outranked 0 = true ∧ (s.port 0).idle = false := by decide +kernel
theorem test_request_drop :
    ((direct (some 4)).port 0).owner ≠ none ∧ ((direct (some 4)).port 0).batches = [] ∧ ((direct (some 4)).port 0).scopes = [] ∧
    (direct (some 4)).sliceOnPort 0 = false := by decide +kernel
theorem test_lock_set :
    let s := (direct (some 4)).setReg (pst 0 + 0x204) 0x10000000
    (s.port 0).owner = some 4 ∧ s.lockEn 0 4 = true ∧ (s.port 0).scopes.length < s.tileLim 0 := by decide +kernel
theorem test_liveness :
    let s := withPort (direct (some 4)) fun q => { q with scopes := [{ owner := 4 }] }
    (s.port 0).owner = some 4 ∧ (s.port 0).scopes ≠ [] := by decide +kernel
theorem test_vprog :
    (direct (some 4)).vprogMay 0 = true ∧
    (let s := withPort (direct (some 4)) fun q => { q with vClosed := true, batches := [{}] }
     (s.port 0).vClosed = true ∧ (s.port 0).batches = [{}]) ∧
    ((withPort (direct (some 4)) fun q => { q with vClosed := true }).port 0).batches = [] := by decide +kernel
theorem test_batch_start :
    let s := direct (some 4)
    (s.port 0).owner = some 4 ∧ (s.port 0).direct = some { entries := [0] } ∧ s.permitted 0 4 = true ∧ s.entryTile 0 0 = some 0 ∧
    s.mayBatch 0 (reqTile 0) (s.nextRun 0 [0]) = true := by decide +kernel
theorem test_level_read :
    let b : Batch := { owner := 4, items := [{ pcols := [0], aim := .canon 3 }] }
    let s := withPort (tile0 .program) fun q => { q with batches := [b] }
    s.batchOn 0 0 .reading = some b ∧ b.retry = false ∧ (s.levelCells 0 b []).2.2 = none := by decide +kernel

/-- A batch with one cell at level 0 whose target is level 15. -/
def pulsed (n : Nat) : Batch :=
  { owner := 4, phase := .pulsing, iter := n, retry := true, items := [{ pcols := [0], aim := .canon 120 }],
    cells := [{ target := 15, done := false }] }
def judged (s : State) (b : Batch) (g : List Nat) : List BCell :=
  (List.range b.cells.length).map fun i =>
    let c := b.cells.getD i {}
    { c with g := readOr g i c.g, done := c.done || passes (s.vtol 0) (readOr g i c.g) c.target }
theorem test_verify_read :
    let s := withPort (tile0 .program) fun q => { q with batches := [pulsed 4], vIn := true }
    s.batchOn 0 0 .pulsing = some (pulsed 4) ∧ (s.port 0).vIn = true ∧ (pulsed 4).iter + 1 < 6 := by decide +kernel
theorem test_verify_read_last_iteration :
    let s := withPort (tile0 .program) fun q => { q with batches := [pulsed 5], vIn := true }
    s.batchOn 0 0 .pulsing = some (pulsed 5) ∧ (judged s (pulsed 5) [0]).filter (!·.done) ≠ [] ∧ (pulsed 5).iter = 5 ∧
    (pulsed 5).retry = true := by decide +kernel
theorem test_batch_end :
    let b := { pulsed 6 with phase := .ended }
    (withPort (tile0 .program) fun q => { q with batches := [b] }).batchOn 0 0 .ended = some b := by decide +kernel
theorem test_reconcile :
    let s := withPort (tile0 .fenced) fun q => { q with toRecon := [{ kind := .weight 479 }] }
    s.trn.evalOpen = false ∧ (s.port 0).toRecon = [{ kind := .weight 479 }] ∧ (s.port 0).recon.length + ({ kind := .weight 479 } : Scope).rows.length ≤ 2048 ∧
    s.permitted 0 1 = true ∧ s.fenced 0 1 = false := by decide +kernel
theorem test_rescale_run :
    let j : RsJob := { desc := some (0, 0, 0) }
    let s := withPort (tile0 .ready) fun q => { q with owner := some 1, jobs := [j] }
    s.seqMay 0 1 [] = true ∧ ((s.port 0).jobs.filter (·.unfence) ++ (s.port 0).jobs).find? (s.jobMay 0) = some j := by decide +kernel
theorem test_remap :
    let s := withPort (tile0 .ready) fun q => { q with owner := some 1, remaps := [(0, 511)] }
    s.seqMay 0 1 [] = true ∧ s.mayRemap 0 = true ∧ (s.port 0).remaps.find? (s.remapMay 0) = some (0, 511) ∧ s.servesIndex 0 0 = some 0 ∧
    s.colInUse 0 0 511 = true ∧ s.columnMay 0 0 true = true ∧ (List.range 16).find? (fun i => s.fld (colMapOff 0 0 i) 31 30 = 0) = some 0 := by decide +kernel
theorem test_remap_no_spare :
    let s := (List.range 16).foldl (fun (t : State) i => t.setReg (colMapOff 0 0 i) 0xC0000000)
      (withPort (tile0 .ready) fun q => { q with owner := some 1, remaps := [(0, 511)] })
    s.seqMay 0 1 [] = true ∧ s.mayRemap 0 = true ∧ (s.port 0).remaps.find? (s.remapMay 0) = some (0, 511) ∧ s.servesIndex 0 0 = some 0 ∧
    s.colInUse 0 0 511 = true ∧ (List.range 16).find? (fun i => s.fld (colMapOff 0 0 i) 31 30 = 0) = none := by decide +kernel
theorem test_reference_restore :
    let s := withPort (tile0 .ready) fun q => { q with owner := some 2, restore := [(0, 528)] }
    s.seqMay 0 2 [] = true ∧ (s.port 0).restore.find? (s.restoreMay 0) = some (0, 528) ∧ s.servesIndex 0 0 = some 0 := by decide +kernel


/-! Monitors, musters, tests, matrix units and drover engines. -/

theorem test_conversion :
    let s := stby.updMon 9 fun m => { m with next := 15 }
    s.pwr.standby = true ∧ (s.nextChannel 9).isSome = true ∧ outside 0 (stby.fld (monBase 9 + 0x300 + 4 * 15) 11 0, stby.fld
      (monBase 9 + 0x300 + 4 * 15) 27 16) = false := by decide +kernel
theorem test_monitor_writes :
    rdy.lets 0 (monBase 9 + 0xC) = true ∧ rdy.lets 0 (monBase 9 + 0x10) = true ∧ rdy.bit (monBase 9 + 0x10) 0 = false := by decide +kernel

/-- Die 0 with a muster engine. -/
def mustering (f : Mus → Mus) : State := (tile0 .ready).updMus 0 f
theorem test_field_due : (tile0 .ready).fld (pst 0 + 0x300) 19 8 ≠ 0 := by decide +kernel
theorem test_drift_ratio :
    let s := mustering fun m => { m with ratioN := [(63, 16384)], ratioSum := [(63, 16384 * 1090000)] }
    16384 ≤ mapGet 0 (s.mus 0).ratioN 63 ∧
    (mapGet 0 (s.mus 0).ratioSum 63 * 100 < 97 * mapGet 0 (s.mus 0).ratioN 63 * 2 ^ 20 ∨
      103 * mapGet 0 (s.mus 0).ratioN 63 * 2 ^ 20 < mapGet 0 (s.mus 0).ratioSum 63 * 100) := by
  decide +kernel
theorem test_muster_due_field :
    let s := mustering fun m => { m with due := [63] }
    63 ∈ (s.mus 0).due ∧ s.bit (pst 0 + 0x300) 28 = true ∧ s.arrayIdle 0 = true ∧ (s.die 0).state = .run := by decide +kernel
theorem test_muster_retry :
    let s := mustering fun m => { m with asked := [8191] }
    let u := s.setPtile 0 8191 8191
    8191 ∈ (u.mus 0).asked ∧ (u.ptile 0 8191).isSome = true ∧ (u.mus 0).runs = [] ∧ u.arrayIdle 0 = true := by decide +kernel
theorem test_muster_ends :
    let s := mustering fun m => { m with runs := [{ busy := [(0, 1)] }] }
    ((s.mus 0).runs.findIdx? fun r => r.busy.any (·.1 = 0)) = some 0 ∧ s.ptile 0 0 = some 0 := by decide +kernel

/-- Factory trims near zero and a nominal factory gain; the model leaves them open. -/
def Trimmed : Prop := (∀ c, (Config.factoryOfs 0 0 c).natAbs ≤ 24) ∧ Config.factoryGain 0 0 = 2 ^ 20
theorem accepts (h : Trimmed) (s : State) : s.rejects 0 0 0 {} = false := by
  have z : offsetTrim (0, 0) = 0 := by decide +kernel
  have u : usablePatterns 0 = 4 := by decide +kernel
  have o : ∀ c, ¬ 24 < (0 - Config.factoryOfs 0 0 c).natAbs := by
    intro c; have := h.1 c; omega
  unfold State.rejects
  simp [z, u, h.2]
  exact fun c _ => h.1 _
theorem test_muster_accepted (h : Trimmed) :
    let s := mustering fun m => { m with runs := [{ busy := [(0, 1)] }] }
    ((((s.setTileState 0 0 .ready).event 0 0x120 (fieldOf 0) 1).enterRestore 0 0 0).rejects 0 0 0 {}) = false :=
  accepts h _
theorem test_gradual :
    let s := mustering fun m => { m with pend := { drift := [(0, some 1)] }, gradual := true }
    s.nonePending 0 = false ∧ s.bit (pst 0 + 0x300) 29 = true ∧ (s.die 0).state = .run ∧ (s.mus 0).gradual = true := by decide +kernel
theorem test_test_due :
    testOk 4 41 = true ∧ rdy.bit oTestCtl 31 = true ∧ rdy.fld (oTestPer 4) 15 0 ≠ 0 ∧ rdy.testable 4 41 = true ∧ rdy.tests = [] := by
  decide +kernel
theorem test_slice_start :
    let t : Test := { cls := 0, kinds := 1, hi := 511, slices := 1, forced := true }
    let s := { tile0 .ready with tests := [t] }
    let w := s.setReg (pst 0 + 0x10) 0
    t.running = false ∧ s.tests.findIdx? (fun t => t.cls = 0 && t.unit_ = 0 && s.mayTest t) = some 0 ∧ s.testPlace t = true ∧
    w.tests.findIdx? (fun t => t.cls = 0 && t.unit_ = 0 && w.mayTest t) = some 0 ∧ w.testPlace t = false := by decide +kernel
theorem test_slice_end :
    [0, 1, 2, 3, 4].all (fun k =>
      let s := { tile0 .test with tests := [{ cls := k, unit_ := 5, slices := 1, running := true }] }
      s.tests.findIdx? (fun t => t.cls = k && t.unit_ = 5 && t.running) = some 0) = true := by decide +kernel
theorem test_overdue :
    let t : Test := { cls := 1, unit_ := 0 }
    let s := { tile0 .ready with tests := [t] }
    let s1 := s.setTest 0 { t with overdue := true, forced := true }
    s.tests.findIdx? (fun t => t.cls = 1 && t.unit_ = 0 && !t.running && !t.overdue && !t.forced) = some 0 ∧
    s1.testTile (s.tests.getD 0 {}) = some (0, 0) := by decide +kernel

/-- Unit 0 and engine 0 mapped and in service, with product 5 of one chain in hand. -/
def units (f : Drv → Drv) (g : Mu → Mu) : State :=
  let s := opn {}
  let s := ((s.setReg (muMapOff 0) 0x80000000).setReg (drvMapOff 0) 0x80000000).updDrv 0 f
  (s.updMu 0 g).updTrn fun t => { t with prods := [{ key := 5, info := parsePrec prec }] }
theorem test_chain_assign :
    let p : Product := { key := 5, info := parsePrec prec }
    let s := units id id
    s.trn.prods[0]? = some p ∧ s.mayAssign p = true ∧ s.muFree 0 = true ∧ (s.mu 0).ahead = [] ∧ s.muQuiesced = false ∧ 0 ∈ p.folds ∧
    0 ∈ s.pool 0 p.part ∧ p.partNo p.next + 1 = p.info.parts ∧ min s.trn.frac 4096 ≤ 65535 % 65536 := by decide +kernel
theorem test_chain_complete :
    let s := units id fun m => { m with cur := some { key := 5 } }
    (s.mu 0).cur = some { key := 5 } ∧ s.findProd 5 = some { key := 5, info := parsePrec prec } ∧
    (s.mu 0).full = [] ∧ (s.fetchChain { key := 5, info := parsePrec prec } 0).1 ≠ .lost ∧ s.trn.dropped = [] ∧ s.flt.recounts = [] := by decide +kernel
theorem test_tile_drain :
    let s := units id fun m => { m with full := [{}] }
    s.failSafe = false ∧ (s.mu 0).full = [{}] ∧ (s.drv 0).qa.length < 4 := by decide +kernel
theorem test_recount :
    let r : Recount := { key := 5 }
    let u := units id fun m => { m with cur := some { key := 5, kind := 2 } }
    let s := { u with flt := { u.flt with recounts := [r] } }
    (s.mu 0).cur = some { key := 5, kind := 2 } ∧ s.findProd 5 = some { key := 5, info := parsePrec prec } ∧
    (s.fetchChain { key := 5, info := parsePrec prec } 0).1 ≠ .lost ∧
    (s.flt.recounts.find? fun r => decide (r.key = 5) && decide (r.idx = 0)) = some r := by decide +kernel
theorem test_quiesce_units : rdy.lets 0 oMuCtl = true ∧ rdy.lets 0 oDrvCtl = true ∧ rdy.lets 0 0x1000010 = true := by decide +kernel
theorem test_start_run :
    let s := units (fun d => { d with runs := [{ kernel := 9 }] }) id
    s.drvFree 0 = true ∧ s.nextSource 0 = some 3 ∧ (s.drv 0).runs = [{ kernel := 9 }] ∧ ((s.drv 0).find 9).isSome = true := by
  decide +kernel
theorem test_start_tile :
    let s := units (fun d => { d with qa := [{ kernel := 9 }] }) id
    s.drvFree 0 = true ∧ s.nextSource 0 = some 0 ∧ (s.drv 0).qa = [{ kernel := 9 }] := by decide +kernel
theorem test_start_array :
    let s := units (fun d => { d with aq := [{ kernel := 9 }] }) id
    s.drvFree 0 = true ∧ s.nextSource 0 = some 2 ∧ (s.drv 0).aq = [{ kernel := 9 }] := by decide +kernel
theorem test_partial_combine :
    let t : TileEnt := { key := 5, kernel := 9, split := true, last := true }
    let s := units (fun d => { d with qa := [t] }) id
    s.drvFree 0 = true ∧ s.nextSource 0 = some 0 ∧ (s.drv 0).qa = [t] := by decide +kernel


/-- Engine 0, with all rights on the stacks, runs an invocation that executes a word and then a NOP. -/
def running (w : Nat) (f : Inv → Inv) (g : Drv → Drv) : State :=
  let s := units (fun d => g { d with inv := some (f { code := [w, 0xFC000000], s := List.replicate 16 0, kernel := 9 }) }) id
  let all : AclEnt := { valid := true, anyidx := true, rights := 31, master := 0x3000, limit := 2 ^ 48 - 1 }
  { s with host := { s.host with acl := (List.range 8).map fun t => (64 * t, all) } }

/-- A word of an opcode, a type and a function. -/
def word (op ty fn : Nat) : Nat := 2 ^ 26 * op + 16 * ty + fn
def atW (w : Nat) (f : Inv → Inv) (g : Drv → Drv) (c : State → Kx → Bool) : Bool :=
  match (running w f g).atWord 0 w with
  | some x => decide (x.i.pc + 1 < x.i.code.length) && c (running w f g) x
  | none => false

theorem test_watchdog_hold_wait :
    ((running (word 0x30 0 1) id id).drv 0).inv.isSome = true ∧
    ((((running (word 0x30 0 1) id id).drv 0).inv.map Inv.holdWait) = some true) := by decide +kernel
theorem test_copies_and_fifo :
    let s := units (fun d => { d with copies := [{ addr := 0x1000, len := 64 }], fifo := [{}] }) id
    ((s.drv 0).copies[0]?).isSome = true ∧ s.failSafe = false ∧ (s.drv 0).fifo = [{}] ∧
    (s.trn.summ.map fun x => (x.layer, x.kind)).eraseDups.length < 4096 := by decide +kernel
theorem test_vector_words :
    [word 0x00 0 0, word 0x01 0 0, word 0x02 0 0, word 0x03 0 0, word 0x04 0 0, word 0x05 0 0, word 0x00 4 11, word 0x02 4 3,
     word 0x03 2 4, word 0x04 4 7, word 0x05 4 0].all (fun w => atW w id id fun _ _ => true) = true := by decide +kernel
theorem test_lane_words :
    [word 0x06 0 0, word 0x06 2 1, word 0x07 4 4, word 0x08 0 0, word 0x08 3 2, word 0x08 0 2, word 0x09 0 0, word 0x09 4 1].all
      (fun w => atW w id id fun _ _ => true) = true ∧
    atW (word 0x08 0 1) id id (fun _ x => decide (x.i.sreg 0 < x.i.eff 0)) = true ∧
    atW (word 0x08 0 1) (fun i => i.setS 0 128) id (fun _ x => decide (x.i.eff 0 ≤ x.i.sreg 0)) = true ∧
    tyFloat 3 = false ∧ tyFloat 0 = true := by decide +kernel
theorem test_scalar_words :
    [word 0x0A 3 0, word 0x0A 0 4, word 0x0B 0 0, word 0x0B 0 7, word 0x0C 0 0, word 0x20 0 0, word 0x21 0 0, word 0x22 0 0, word 0x25 0 0,
     word 0x26 0 0, word 0x26 0 1, word 0x3F 0 0].all (fun w => atW w id id fun _ _ => true) = true := by decide +kernel
theorem test_branch_taken_and_not :
    atW (word 0x28 0 0 + 2 ^ 15 * 2) id id (fun _ x => !brTaken 2 (x.i.sreg 0) (x.i.sreg 0)) = true ∧
    atW (word 0x28 0 1 + 2 ^ 15 * 0) id id (fun _ x => brTaken 0 (x.i.sreg 0) (x.i.sreg 0) &&
      decide ((x.i.pc : Int) + sext 15 1 = ((1 : Nat) : Int))) = true := by decide +kernel
theorem test_memory_words :
    [word 0x10 0 0, word 0x11 0 0].all (fun w => atW w id id fun _ x => localFault (mAddr w x.i) 512 64 = 0) = true ∧
    [word 0x23 0 0, word 0x24 0 0].all (fun w => atW w id id fun _ x => decide (slAddr w x.i = ((0 : Nat) : Int)) &&
      localFault 0 4 4 = 0) = true ∧
    [word 0x12 0 0 + 2 ^ 17 * 8, word 0x13 0 0 + 2 ^ 17 * 8].all (fun w => atW w id id fun _ x => x.hasTile 8) = true ∧
    atW (word 0x14 0 0 + 2 ^ 17 * 8 + 2 ^ 13 * 8) id id (fun _ x => x.hasTile 8) = true ∧
    atW (word 0x15 0 0 + 2 ^ 13 * 8) id id (fun _ x => x.hasTile 8) = true ∧
    atW (word 0x1B 0 0) id id (fun _ x => decide (x.i.sreg 0 + 16 * x.i.sreg 0 ≤ 524288)) = true ∧
    ((running 0 id id).drv 0).copies = [] ∧ ((running 0 id id).drv 0).bad = [] := by decide +kernel
theorem test_copy_words :
    [word 0x18 0 0 + 2 ^ 14 * 2, word 0x18 0 0 + 2 ^ 14 * 2 + 2 ^ 13].all (fun w => atW w (fun i => i.setS 2 64) id fun s x =>
      fld w 21 18 % 2 = 0 && x.i.sreg (fld w 17 14) = 64 && localFault (x.i.sreg (fld w 25 22)) 64 64 = 0 &&
      decide ((s.drv 0).copies.length < 16) && decide (daddr (x.i.sreg 0 + 2 ^ 32 * x.i.sreg 1) = .mod 0) &&
      decide (s.memCheck (drvMaster 0) (if w.testBit 13 then rightW else rightR) 0 64 = .ok)) = true ∧
    atW (word 0x19 0 0) id id (fun s _ => !((s.drv 0).copies.any fun c => (word 0x19 0 0).testBit 4 || decide (c.tag = 0))) = true := by
  decide +kernel

/-- A tensor descriptor of rows of 128 BF16 values, and a writer slot of it. -/
def tensor : List Byte := bytesOf 64 [(0, 8, 0x40000), (8, 4, 128), (12, 4, 4), (17, 1, 1)]
def slot0 (d : Drv) : Drv := { d with slots := [(0, some (parseTensor tensor))] }
theorem test_writer_words :
    atW (word 0x1A 0 0) id (fun d => { d with loc := memWriteAt [] 0 tensor }) (fun s x => decide ((s.drv 0).slot 0 = none) &&
      decide (x.i.sreg 0 + 64 ≤ 524288) && (parseTensor (memReadAt (s.drv 0).loc 0 64)).status = 0) = true ∧
    atW (word 0x1A 0 1) id slot0 (fun s x => let t := parseTensor tensor
      decide ((s.drv 0).slot 0 = some t) && x.i.sreg 0 = (if t.row = some (x.i.sreg 0) then t.col else 0) &&
      (kWrRow (word 0x1A 0 1) x).fault = 0 && (kWrRow (word 0x1A 0 1) x).s.mem.consumed.isNone) = true ∧
    atW (word 0x1A 0 2) id id (fun s _ => decide ((s.drv 0).slot 0 = none)) = true ∧
    atW (word 0x1A 0 2) id slot0 (fun s x => decide ((s.drv 0).slot 0 = some (parseTensor tensor)) && !(parseTensor tensor).autosum &&
      (x.closeSlot 0).fault = 0 && (x.closeSlot 0).s.mem.consumed.isNone) = true ∧
    [word 0x1A 0 3, word 0x1A 0 4].all (fun w => atW w id slot0 (fun s _ => decide ((s.drv 0).slot (wSlotNo w) = some (parseTensor tensor)))
      && atW w id id (fun s _ => decide ((s.drv 0).slot (wSlotNo w) = none))) = true := by decide +kernel
theorem test_queue_words :
    atW (word 0x30 0 0) id id (fun _ x => decide (x.i.sreg 0 < 8)) = true ∧
    atW (word 0x30 0 0) (fun i => i.setS 0 8) id (fun _ x => decide (8 ≤ x.i.sreg 0)) = true ∧
    atW (word 0x30 0 1) id (fun d => { d with hold1 := { st := 1 } }) (fun s x => (s.drv 0).findHold 1 (some (x.i.sreg 0)) = some 1) = true ∧
    atW (word 0x30 0 1) id id (fun s x => (s.drv 0).findHold 1 (some (x.i.sreg 0)) = none && (s.drv 0).findHold 0 none = some 0) = true ∧
    [2, 4].all (fun k => atW (word 0x30 0 k) (fun i => { i with bound := some (1, false) }) id fun _ x => x.i.bound.isSome) = true ∧
    atW (word 0x30 0 3) id (fun d => { d with hold0 := { st := 2 } }) (fun s x => (s.drv 0).findHold 2 (some (x.i.sreg 0)) = some 0) = true ∧
    atW (word 0x31 0 0) id id (fun s _ => decide ((s.drv 0).fifo.length < 64)) = true ∧
    [word 0x3F 0 1, word 0x3F 0 2].all (fun w => atW w id id fun _ _ => true) = true ∧
    atW (word 0x3F 0 1) (fun i => { i with work := .arr { flags := 1 } }) (fun d => { d with fifo := List.replicate 63 {} }) (fun s x =>
      x.i.asat.isSome && decide ((s.drv 0).fifo.length < 64)) = true ∧
    kLegal (word 0x3F 0 3) = false ∧ ((running (word 0x3F 0 3) id id).drv 0).inv.isSome = true := by decide +kernel
theorem test_bad_word :
    let s := running (word 0x3F 0 3) id fun d => { d with ibad := [0] }
    s.failSafe = false ∧ s.mem.consumed = none ∧ (s.drv 0).inv.isSome = true ∧ (s.drv 0).ibad.contains (0 + 0) = true ∧
    ((running (word 0x3F 0 3) id id).drv 0).ibad.contains (0 + 0) = false := by decide +kernel


/-! Memory and links. -/

/-- Stacks in service. -/
def stacked : State := (List.range 8).foldl (fun (t : State) k => t.setFld (0x1400100 + 4 * k) 31 28 1) rdy
theorem test_memory_requests :
    (stacked.memCheck 0 rightW 0x1000 8 = .ok ∧ stacked.reachable 0x1000 8 = true) ∧
    (stacked.memCheck 0 rightR 0x1000 8 = .ok ∧ stacked.rangeBad 0x1000 8 = false) ∧ placeOf stacked.stripe 0x1000 = .stack 0 0x1000 ∧
    stacked.mem.waiting = [] ∧ stacked.localTag 0 = true ∧ (stacked.setReg 0x1400020 0xFFF00101).localTag 0 = false ∧
    placeOf stacked.stripe 0xFE00000010 = .regs 0x10 ∧ stacked.reachable 0xFE00000010 4 = true := by decide +kernel
theorem test_pen_requests :
    masterClass 0x2000 = .shepherd ∧ Machine.fld (3 * 2 ^ 40 + 0x1000) 41 40 ≠ stacked.self % 4 ∧
    Machine.fld 0x1000 41 40 = stacked.self % 4 ∧ stacked.memCheck 0x2000 rightW 0x1000 8 = .ok ∧
    stacked.localTag 0x2000 = true ∧ stacked.fabTag (masterDie 0x2000) = true := by decide +kernel
theorem test_control_memory : sramRegion 0x9A00000 = .firmware := by decide +kernel
theorem test_scrub :
    stacked.bit 0x1400014 31 = true ∧ stacked.stackUp 7 = true ∧ stacked.channelServed 7 29 = some 29 ∧ stacked.channelServed 7 31 = none := by
  decide +kernel
theorem test_scrub_marks :
    let a := stackAddr stacked.stripe 7 (stackOffset 29 ((2 ^ 32 - 1) / 64 * 64))
    stacked.mark a = .good ∧ (stacked.setErrs a [(3, 1)]).mark a = .fixed 3 ∧
    (stacked.setErrs a [(0, 1), (1, 1), (2, 1), (3, 1)]).mark a = .bad := by decide +kernel
theorem test_line_codes :
    let s := fun (es : Errs) => stacked.setErrs 0x7000 es
    let t := fun (es : Errs) => stacked.setErrs (sramBase 1 + 64) es
    placeOf stacked.stripe 0x7000 = .stack 0 0x7000 ∧ stacked.unmappedIn (.stack 0 0x7000) = false ∧ stacked.silent 0 (stacked.pch 0 22) = false ∧ (channelOf 0x7000).1 = 22 ∧
    ((s [(0, 255), (63, 1), (71, 128)]).errsIn (.stack 0 0x7000)).length = 3 ∧
    ((s [(0, 1), (1, 1), (2, 1), (3, 1)]).errsIn (.stack 0 0x7000)).length = 4 ∧
    ((s [(0, 1), (1, 1), (2, 1), (3, 1), (71, 1)]).errsIn (.stack 0 0x7000)).length = 5 ∧
    placeOf stacked.stripe (sramBase 1 + 64) = .sram 1 64 ∧ (t [(0, 2 ^ 71), (7, 1)]).errsIn (.sram 1 64) = [(0, 2 ^ 71), (7, 1)] ∧
    popcount 72 (2 ^ 71) = 1 ∧ (t [(7, 3)]).errsIn (.sram 1 64) = [(7, 3)] ∧ popcount 72 3 = 2 := by decide +kernel
theorem test_migrate :
    let w : Word := 0x871D0000
    rdy.lets 0 0x1400018 = true ∧ w.getLsbD 31 = true ∧ wfld w 20 16 = 29 ∧ wfld w 26 24 = 7 := by decide +kernel
theorem test_migration_ends :
    let s := { rdy with mem := { rdy.mem with migs := [(7, some { lch := 29, pch := 31, off := false })] } }
    mapGet none s.mem.migs 7 = some { lch := 29, pch := 31, off := false } ∧ s.failSafe = false ∧ s.mem.retireWait = [] ∧
    ((List.range 30).all fun c => s.pch 7 c != s.pch 7 29 || c == 29) = true := by decide +kernel
theorem test_port_control : rdy.lets 0 (oPortCtl 11) = true := by decide +kernel

/-- Port 0 in a state of Table 12-3. -/
def ported (st : Nat) (f : Lport → Lport) : State := ((rdy.setFld (oPortStat 0) 31 28 st).setFld (oPortStat 0) 15 12 8).updPort_ 0 f
theorem test_signal :
    let s := ported 2 fun x => { x with sig := 7 }
    s.linkFw (portDie 0) = true ∧ s.pstate 0 = 2 ∧ (s.lport 0).failed = false ∧ 4 ≤ popcount 8 (((s.lport 0).sig ||| 128) % 256) := by
  decide +kernel
theorem test_training :
    let s := ported 3 fun x => { x with sig := 15 }
    s.pstate 0 = 3 ∧ (s.lport 0).failed = false ∧ (s.lport 0).sig < 256 ∧ 4 ≤ popcount 8 (s.lport 0).sig ∧
    popcount 8 (laneMask fun i => (s.lport 0).sig.testBit i && (7 : Nat).testBit i) < 4 ∧ (s.lport 0).attempts < 7 ∧
    7 ≤ ((ported 3 fun x => { x with sig := 15, attempts := 7 }).lport 0).attempts := by decide +kernel
theorem test_align :
    let s := ported 4 fun x => { x with sig := 255, trained := 255 }
    s.pstate 0 = 4 ∧ (s.lport 0).failed = false ∧ (s.goodLanes 0).length = 8 ∧ 4 ≤ popcount 8 15 := by decide +kernel
theorem test_ident : (ported 5 id).pstate 0 = 5 ∧ ((ported 5 id).lport 0).failed = false ∧ (ported 8 id).pstate 0 = 8 := by decide +kernel

/-- An identity record of module 0 of flock 0, of any generation, from a device of a serial number. -/
def record (n : Nat) : List Byte :=
  let b := bytesOf 60 [(0, 1, 1), (8, 8, n), (16, 2, 0xFFFF), (18, 1, 1)]
  b ++ leBytes 4 (crc32 b)
theorem test_identity_record :
    (ported 5 id).linkFw (portDie 0) = true ∧ ∃ r, recordValid r = true ∧ (leAt r 18 1).testBit 0 = true ∧
      ((ported 5 id).keepRecord 0 r).quarReason 0 r = 0 := by
  refine ⟨by decide +kernel, ?_⟩
  have k (n : Nat) (h : leAt (record n) 8 8 ≠ Config.serial % 2 ^ 64)
      (e : let s := (ported 5 id).keepRecord 0 (record n)
        recordValid (record n) = true ∧ (leAt (record n) 18 1).testBit 0 = true ∧
        leAt (record n) 4 4 % 64 = s.fld (oWmap 0) 17 12 ∧ leAt (record n) 4 4 / 64 % 256 = s.fld (oWmap 0) 25 18 ∧
        s.bit (oWmap 0) 30 = false ∧ leAt (record n) 1 1 % 16 = s.fld (oWmap 0) 3 0 ∧ s.genMask &&& leAt (record n) 16 2 ≠ 0 ∧
        (leAt (record n) 18 1).testBit 1 = false) :
      ∃ r, recordValid r = true ∧ (leAt r 18 1).testBit 0 = true ∧ ((ported 5 id).keepRecord 0 r).quarReason 0 r = 0 := by
    obtain ⟨a, b, c, d, f, g, i, j⟩ := e
    exact ⟨record n, a, b, by unfold State.quarReason; dsimp only; rw [if_neg h]; simp [c, d, f, g, i, j]⟩
  by_cases h : Config.serial % 2 ^ 64 = 0
  · exact k 1 (by rw [h]; decide +kernel) (by decide +kernel)
  · exact k 0 (by rw [show leAt (record 0) 8 8 = 0 by decide +kernel]; exact fun q => h q.symm) (by decide +kernel)
theorem test_failed_attempts :
    let s := ported 2 fun x => { x with failed := true, attempts := 7 }
    (s.lport 0).failed = true ∧ ((ported 5 id).lport 0).failed = false ∧ ((ported 5 id).lport 0).attempts < 7 ∧
    7 ≤ ((ported 5 fun x => { x with attempts := 7 }).lport 0).attempts := by decide +kernel
theorem test_retrain : 2 ≤ (ported 8 id).pstate 0 ∧ (ported 8 id).pstate 0 ≤ 8 ∧ (ported 6 id).portUp 0 = true := by decide +kernel
theorem test_bad_frame : readFrame (List.replicate 256 1) = none := by decide +kernel
theorem test_replay :
    let s := ported 6 fun x => { x with replay := [(0, [])], nak := true }
    s.portUp 0 = true ∧ (s.lport 0).replay ≠ [] ∧ (s.lport 0).resends + 1 < max (s.fld oLinkCtl 15 8) 1 ∧ (s.lport 0).nak = true := by
  decide +kernel
theorem test_recover :
    let s := ported 7 fun x => { x with sig := 255, trained := 255 }
    s.pstate 0 = 7 ∧ s.linkFw (portDie 0) = true ∧ (s.align 0 255).isSome = true := by decide +kernel
theorem test_loss_of_signal :
    let s := ported 6 fun x => { x with sig := 255 }
    3 ≤ s.pstate 0 ∧ s.pstate 0 ≤ 8 ∧ 4 ≤ (bitsSet 8 (15 &&& (s.lport 0).sig)).length ∧ s.linkFw (portDie 0) = true := by decide +kernel
theorem test_good_frame :
    (readFrame (mkFrame 0 [1, 2, 3])).map (fun r => (Machine.fld (leAt r.1 0 4) 7 5, Machine.fld (leAt r.1 0 4) 31 20)) = some (0, 0) ∧
    ((((ported 6 id).countSymbols 0 []).takeAck 0 0 false).lport 0).rxSeq = 0 := by decide +kernel


/-! Packets, collectives, banks, time and barriers. -/

/-- Port 0 of a module of group 1 holds a packet from module 1. -/
def rxd (q : List Byte) : State := (flock (rdy.setBit oEpoch 28)).updPort_ 0 fun x => { x with rxq := [q] }
def pkt (vc op dst tag seq : Nat) (payload : List Byte) : List Byte := mkPkt vc op 0 0 1 dst 1 0x1000 tag seq payload
theorem test_forwarded : [0, 1, 2, 3, 4, 5, 6, 7, 8, 9, 11, 12].all (fun op =>
    let q := pkt 1 op 1 0 0 []
    decide ((rxd q).headPacket 0 op = some q) && decide ((rxd q).verdict q = .forward)) = true := by decide +kernel

/-- The exporting table, and the tables of the stacks, allow module 1 everything. -/
def exporting (s : State) : State :=
  let all : AclEnt := { valid := true, rights := 31, master := 0x8001, limit := 2 ^ 48 - 1 }
  { s with host := { s.host with acl := (List.range 8 ++ [33]).map fun t => (64 * t, all) } }
theorem test_remote_requests : [(0, rightW), (1, rightR), (4, rightAtomic)].all (fun x =>
    let q := pkt 1 x.1 0 7 8 (List.replicate 32 1)
    let s := exporting (rxd q)
    decide (s.headPacket 0 x.1 = some q) && decide (s.verdict q = .deliver) && min (pktSeq q) 256 = 8 && 0x8000 + pktSrc q = 0x8001 &&
    s.aclAllows 33 x.2 0x8001 (pktAddr q / 4096) ((pktAddr q + max 8 1 - 1) / 4096) &&
    decide (s.memCheck 0x8001 x.2 (pktAddr q) 8 = .ok) && s.fabTag (portDie 0)) = true := by decide +kernel
theorem test_remote_waits : [0, 1, 4].all (fun op =>
    let q := pkt 1 op 0 7 8 (List.replicate 32 1)
    let s := (rxd q).setReg (0x1400020 + 4 * portDie 0) 0xFFFFF
    decide (s.headPacket 0 op = some q) && decide (s.verdict q = .deliver) && !s.fabTag (portDie 0)) = true := by
  decide +kernel
theorem test_remote_denied :
    let q := pkt 1 0 0 7 8 (List.replicate 32 1)
    (rxd q).headPacket 0 0 = some q ∧ (rxd q).verdict q = .deliver ∧
    (rxd q).aclAllows 33 rightW (0x8000 + pktSrc q) (pktAddr q / 4096) ((pktAddr q + max (min (pktSeq q) 256) 1 - 1) / 4096) = false := by
  decide +kernel
theorem test_remote_answers : [3, 2, 5, 11].all (fun op =>
    let q := pkt 2 op 0 7 8 (List.replicate 32 1)
    let s := (rxd q).updFab fun f => { f with xfers := [{}], reqs := [{ tag := 7 }] }
    decide (s.headPacket 0 op = some q) && decide (s.verdict q = .deliver) &&
    decide (s.fab.reqs.find? (fun r => r.tag = pktTag q % 2 ^ 28) = some { tag := 7 }) &&
    decide (s.fab.xfers.find? (·.own = ({} : Owner)) = some {})) = true := by decide +kernel
theorem test_collective_packets : [(0, 6, CKind.reduce), (1, 8, CKind.barrier), (3, 8, CKind.branch)].all (fun x =>
    let q := pkt 3 x.2.1 0 (2 ^ 28 * x.1) 5 []
    let y : Coll := { kind := x.2.2, group := 1, seq := 5 }
    let s := (rxd q).updFab fun f => { f with colls := [y] }
    decide (s.headPacket 0 x.2.1 = some q) && decide (s.verdict q = .deliver) && (x.1 = 0 || x.1 = ctlClass q) &&
    decide (s.fab.colls.find? (fun y => y.chan = 4 * pktGroup q + x.1 && y.seq = pktSeq q) = some y)) = true := by decide +kernel
theorem test_ring_data :
    let q := pkt 3 7 0 9 1 []
    let s := (rxd q).updFab fun f => { f with streams := [{ id := 9, group := 1, blk := 64, slots := 0x4000 }] }
    s.headPacket 0 7 = some q ∧ s.verdict q = .deliver ∧ (s.landRing 0 q).isSome = true := by decide +kernel
theorem test_time_management_credit : [(1, 9), (1, 12), (4, 10)].all (fun x =>
    let q := pkt x.1 x.2 0 0 0 []
    decide ((rxd q).headPacket 0 x.2 = some q) && decide ((rxd q).verdict q = .deliver)) = true := by decide +kernel
theorem test_stream_and_collective_held :
    let s := rdy.updFab fun f => { f with streams := [{ own := ⟨4095, 0⟩ }], colls := [{ own := ⟨4095, 0⟩ }] }
    (s.fab.streams.find? (·.own = ⟨4095, 0⟩)).isSome = true ∧ s.failSafe = false ∧
    (s.fab.colls.find? fun x => x.own = ⟨4095, 0⟩ && x.kind != .barrier && x.kind != .actions).isSome = true := by decide +kernel
theorem test_banks_and_time :
    rdy.lets 0 oEpoch = true ∧ rdy.bit oEpoch (27 - rdy.sendEpoch) = false ∧
    (let s := (rdy.setBit oTsCtl 31).setBit oTsCtl 30; s.bit oTsCtl 31 = true ∧ s.bit oTsCtl 30 = true) := by decide +kernel

/-- An open step in its barrier, of a module of a role of Table 14-10. -/
def barred (role : Nat) (b : Barrier) (q : List Byte) : State :=
  ((rxd q).setFld 0x310 31 30 role |>.setFld 0x310 13 0 1).updTrn fun t => { t with opened := true, barrier := some b }
theorem test_barrier_waits :
    let s := barred 0 {} []
    s.failSafe = false ∧ s.trn.barrier = some {} ∧ ({} : Barrier).held = false ∧ s.role ≠ 1 ∧ (s.mbx 1 0 1).full = false := by
  decide +kernel
theorem test_held_reply :
    let s := (barred 0 { held := true } []).setMbx 0 0 1 ⟨0x52000000, true⟩
    s.ready = true ∧ (s.mbx 0 0 1).full = true ∧ wfld (s.mbx 0 0 1).data 31 28 = 5 ∧ wfld (s.mbx 0 0 1).data 27 24 = 2 ∧
    wfld (s.mbx 0 0 1).data 23 0 = s.stepNo % 2 ^ 24 := by decide +kernel
theorem test_spare : [5, 6].all (fun k =>
    let q := pkt 1 8 0 (2 ^ 28 * k) 0 (List.replicate 12 0)
    let s := barred 1 {} q
    s.role = 1 && decide (s.headPacket 0 8 = some q) && decide (s.verdict q = .deliver) && pktSrc q = s.pairPeer && ctlClass q = k &&
    s.trn.opened && pktSeq q = s.stepNo) = true := by decide +kernel


/-! Faults, counters, SMBus, management and memory laws. -/

theorem test_check_rung_0 :
    (tile0 .ready).servesIndex 0 0 = some 0 ∧ (tile0 .ready).failSafe = false ∧ (tile0 .ready).rung 0 0 = 0 := by decide +kernel
theorem test_threshold : rdy.lets 0 0x328 = true ∧ rdy.lets 0 0x324 = true ∧ ((rdy.setFld 0x320 3 0 13).fld 0x320 3 0) ≤ 13 ∧
    rdy.thrWindow 13 ≠ 0 := by decide +kernel
theorem test_rebuild_starts : rdy.lets 0 0x314 = true ∧ rdy.trn.opened = false ∧ rdy.trn.evalOpen = false ∧ rdy.fld oRbldStat 31 28 ≠ 1 := by
  decide +kernel
theorem test_rebuild_ends :
    let s := (List.range 8).foldl (fun (t : State) p => t.updDie p fun x => { x with state := .run }) (rdy.setReg oRbldStat 0x10000000)
    let r := (List.range 8).foldl (fun (a : Nat × State) p => let q := a.2.passDie p []; (a.1 + q.1, q.2)) (0, s)
    s.fld oRbldStat 31 28 = 1 ∧ s.failSafe = false ∧ (List.range 8).all s.maintenance = true ∧ r.2.mem.consumed = s.mem.consumed := by
  decide +kernel
theorem test_die_run : (booting 4).bootState = 4 ∧ ((booting 4).die 7).state = .hold ∧ ((booting 4).die 7).mus.runs = [] ∧
    ((booting 4).die 7).port.toRecon = [] ∧ ((booting 4).die 7).port.recon = [] := by decide +kernel

/-- Every tile of the last die is unmapped after reset. -/
theorem tile_map_reset (n : Nat) (h : n < 8192) : (regResetAt (tileMapOff 7 n)) = 0 := by
  have e : tileMapOff 7 n = 0x3D20000 + 4 * n := by unfold tileMapOff pst; omega
  have ra : rowsAt (tileMapOff 7 n) = rowsPst := by
    rw [e]; unfold rowsAt; simp only [show ∀ c : Nat, c ≤ 0x2000000 → ¬ 0x3D20000 + 4 * n < c from fun c hc => by omega, Nat.reduceLeDiff, if_false]
  have k : ∀ r ∈ rowsPst, (r.index (tileMapOff 7 n)).isSome = true → r.base = 0x2120000 ∧ r.reset = 0 := by
    rw [e]; intro r hr
    simp only [rowsPst, List.mem_cons, List.not_mem_nil, or_false] at hr
    rcases hr with rfl | rfl | rfl | rfl | rfl | rfl | rfl | rfl | rfl | rfl | rfl | rfl | rfl | rfl | rfl | rfl | rfl | rfl | rfl | rfl | rfl <;>
      simp [RegRow.index] <;> omega
  unfold regResetAt regRow
  rw [ra]
  split
  · rfl
  · rename_i r hr
    obtain ⟨b, z⟩ := k r (List.mem_of_find?_eq_some hr) (by simpa using List.find?_some hr)
    simp [b, z]
theorem test_no_retry_left (n : Nat) (h : n < 8192) : (booting 4).toRetry 7 n = false := by
  have r : (booting 4).regs = [(0x10, 0x40000000), (0x20, 0x100)] := by decide +kernel
  have o : 0x20 < tileMapOff 7 n := by unfold tileMapOff pst; omega
  have z : (booting 4).bit (tileMapOff 7 n) 31 = false := by
    simp [State.bit, State.reg, r, mapGet, show tileMapOff 7 n ≠ 0x10 by omega, show tileMapOff 7 n ≠ 0x20 by omega, regReset,
      tile_map_reset n h]
  simp [State.toRetry, State.ptile, z]

/-- The management port up, with one collector and a record of the fault log. -/
def managed (r : FaultRec) : State :=
  { fwReady with pwr := { fwReady.pwr with standby := true }, flt := { fwReady.flt with log := [r] },
                 boot := { fwReady.boot with profile := { fwReady.boot.profile with collectors := [0xC0A80001] } } }
theorem test_fault_record_waits :
    (managed {}).mgmtUp = true ∧ (managed {}).flt.log.findIdx? (·.seq.isNone) = some 0 ∧
    (managed {}).boot.profile.collectors.take 2 = [0xC0A80001] := by decide +kernel
theorem test_fault_record_unacknowledged :
    (managed { seq := some 9 }).flt.log.find? (fun r => r.seq = some 9 && !r.acked) = some { seq := some 9 } := by decide +kernel
theorem test_fault_ack :
    let b := leBytes 4 0x54464B41 ++ leBytes 4 9
    b.length = 8 ∧ leAt b 0 4 = 0x54464B41 ∧ leAt b 4 3 = 9 ∧ 0xC0A80001 ∈ (managed {}).boot.profile.collectors.take 2 := by decide +kernel
theorem test_counter_registers :
    rdy.lets 0 (cntCfg 9 63 + 0xC) = true ∧ rdy.letsRead 0 (cntCfg 9 63 + 0xC) = true ∧ cntCount 9 = 64 ∧ cntCount 7 = 16 ∧
    rdy.letsRead 0x7000 (cntCfg 9 63 + 0xC) = false ∧ rdy.lets 0 0x1C0A000 = true := by decide +kernel
theorem test_smbus : stby.pwr.standby = true ∧ ({ stby with mgmt := { stby.mgmt with alert := 1 } } : State).alertN = true := by decide +kernel

/-- A management request: its magic number, sequence number, operation and body, and a code of sixteen zeros. -/
def req (op : Nat) (body : List Byte) : List Byte :=
  leBytes 4 0x544D5251 ++ leBytes 4 7 ++ leBytes 1 op ++ leBytes 1 0 ++ leBytes 2 body.length ++ leBytes 4 0 ++ body ++ List.replicate 16 0

/-- A management port that holds a key, over running firmware. -/
def keyed : State := { fwReady with boot := { fwReady.boot with profile := { fwReady.boot.profile with key := [1] } } }

/-- The code of a request being sixteen zeros; the model leaves the hash open. -/
theorem accepted (s : State) (q : List Byte) (hk : s.keySet = true) (hl : s.mgmt.lastSeq = none)
    (h : macOf s.boot.profile.key (q.take (q.length - 16)) = q.drop (q.length - 16)) : s.reqAccepted q = true := by
  simp [State.reqAccepted, hk, hl, h]
theorem test_request_accepted (h : (Config.hmac384 [1] ((req 2 []).take 16)).take 16 = List.replicate 16 0) :
    keyed.reqAccepted (req 2 []) = true := accepted _ _ (by decide +kernel) rfl h
theorem test_status_request : keyed.mgmtUp = true ∧ reqFormed (req 1 []) = true ∧ reqOp (req 1 []) = 1 ∧ reqBody (req 1 []) = [] := by
  decide +kernel
theorem test_exit_request :
    reqFormed (req 2 []) = true ∧ reqOp (req 2 []) = 2 ∧ reqBody (req 2 []) = [] ∧ keyed.requestExit.1 = false ∧
    (((keyed.setBoot 7).setReg oFsStat 0x80000000).setFld oFsCtl 31 31 0).requestExit.1 = true := by decide +kernel
theorem test_image_chunk :
    let q := req 4 (leBytes 1 2 ++ leBytes 4 513 ++ [5])
    reqFormed q = true ∧ reqOp q = 4 ∧ reqBody q = leBytes 1 2 ++ leBytes 4 513 ++ [5] ∧ keyed.bit oFwStat 31 = false ∧ 514 ≤ slotSize 2 ∧
    (keyed.slotBytes 2 (!keyed.runSlot 2)).length = 513 := by decide +kernel
theorem test_image_check (h : Signed) :
    let q := req 5 [2]
    reqFormed q = true ∧ reqOp q = 5 ∧ (reqBody q).length = 1 ∧ leAt (reqBody q) 0 1 = 2 ∧ keyed.checkSlot 2 (!keyed.runSlot 2) = 0 := by
  refine ⟨by decide +kernel, by decide +kernel, by decide +kernel, by decide +kernel, ?_⟩
  have e : keyed.slotBytes 2 (!keyed.runSlot 2) = img 2 := by decide +kernel
  unfold State.checkSlot; rw [e]
  exact test_image_sound h _ 2 (by decide) (by decide) (by decide +kernel) (by decide +kernel) (by decide +kernel)
theorem test_image_check_fails :
    let s := { keyed with boot := { keyed.boot with slots := [] ++ (List.range 16).map fun i => (i + 2, ({ bytes := [] } : Slot)) } }
    s.checkSlot 2 (!s.runSlot 2) ≠ 0 := by decide +kernel
theorem test_read_request :
    let q := req 6 (leBytes 4 0x14)
    reqFormed q = true ∧ reqOp q = 6 ∧ (reqBody q).length = 4 ∧ keyed.pgood = true := by decide +kernel

/-- An analogue check at rung 1: a sample of a tile that no span maps passes. -/
def laddered : State := { tile0 .ready with flt := { (tile0 .ready).flt with samples := [{}], ladder := [(0, 1)] } }
theorem located (s : State) (h : (s.shr 0).spans = []) (r c : Nat) : s.locate 0 0 r c = none := by
  simp [State.locate, h]
theorem fetched (s : State) (h : (s.shr 0).spans = []) (l : List Nat) :
    l.foldl (fun (a : Bool × State) c =>
      let q := a.2.fetchCopy 0 0 c 0
      let z := q.2.satRead 0 0 c
      (a.1 && q.1 && z.1, z.2)) (true, s) = (true, s) := by
  refine foldl_fix fun c => ?_
  simp [State.fetchCopy, State.satRead, located s h]
theorem test_check_rung_1 (acc : List Int) :
    laddered.rung 0 0 = 1 ∧ laddered.flt.samples.find? (fun x => x.of 0 0) = some {} ∧
    (laddered.checkSample false {} 0 acc).1 = some [] := by
  refine ⟨by decide +kernel, by decide +kernel, ?_⟩
  have h : (laddered.takeFree.2.shr 0).spans = [] := by rfl
  unfold State.checkSample
  dsimp only
  have e := fetched laddered.takeFree.2 h
  dsimp only at e
  rw [e]
  simp [State.columnPasses, State.workingCopy, located _ h]


/-! The whole machine, and the check of well-formedness. -/

theorem test_step_keeps : State.reset.memOk = true ∧ step State.reset = .next State.reset.tick := by
  exact ⟨by decide +kernel, rfl⟩
theorem test_ill_formed_command_faults : exec (.hkLowPower 10) rdy = .fault .noSuchUnit := rfl
theorem test_diagnostic_refused :
    let s := { hand 0xF0 [] with boot := { (hand 0xF0 []).boot with diag := true } }
    let s := s.setCtx 0 { s.ctx 0 with infl := [{ dsc 0xF0 [] with started := false }] }
    (match exec (.reservedOpcode 0 0) s with
      | .refused .diagnosticOpcode => true
      | _ => false) = true := by decide +kernel
theorem test_pool_addresses : (0x1008 : Nat) + 4096 < 2 ^ 30 * (8 * 1) ∧ placeOf 1 0x1008 = .stack 1 8 ∧
    placeOf 1 (8 * 2 ^ 30 - 1) = .stack 7 (2 ^ 30 - 1) ∧ placeOf 1 (8 * 2 ^ 30) ≠ placeOf 1 (8 * 2 ^ 30 - 1) := by decide +kernel
theorem test_window_addresses : placeOf 1 (windowBase 1 3) = .stack 3 (2 ^ 30) ∧
    placeOf 1 (windowBase 1 3 + 2 ^ 30 * 119 - 1) = .stack 3 (2 ^ 30 * 120 - 1) := by decide +kernel
theorem test_no_alias : (placeOf 1 0x1008).key.isSome = true ∧ (placeOf 1 0x1008).key ≠ (placeOf 1 0x1009).key := by decide +kernel
theorem test_memory_write : (List.range 65).all (fun i => (placeOf rdy.stripe (0x3F + i)).key.isSome && rdy.mark (0x3F + i) == .good) = true := by
  decide +kernel
theorem test_column_codes :
    ([(-135, -15, -15), (135, 15, 15), (-4, 0, -4), (3, 0, 3), (4, 1, -4), (124, 15, 4)] : List (Int × Int × Int)).all (fun x =>
      let c := (rdy.writeRow 0 0 5 7 0 x.1 [] 0).2.cells 0 0 7 5
      decide ((c.mp : Int) - c.mm = x.2.1) && decide ((c.np : Int) - c.nm = x.2.2)) = true := by decide +kernel
theorem test_counter_wraps :
    let s := rdy.setBit (cntCfg 9 63) 28
    let t := ({ s with cnt := { s.cnt with val := [(639, 2 ^ 48 - 1)] } } : State).cntAdd 9 63 2
    mapGet 0 t.cnt.val 639 = 1 ∧ t.bit 0x1C09004 31 = true ∧ t.bit 0x20 4 = true ∧ s.bit 0x1C09004 31 = false := by decide +kernel
theorem test_counter_counts : 2 ^ 48 ≤ 2 ^ 48 - 1 + 1 ∧ (10 : Nat) < 2 ^ 48 := by decide
theorem test_host_writes_ignored :
    let s := (rdy.setBoot 7).setReg oFsStat 0x80000000
    firmwareMaster 0 = false ∧ s.failSafe = true ∧ (rdy.setBoot 3).ready = false ∧ (rdy.setBoot 3).bootState ≠ 5 ∧
    (regBlock 0x1C0A000).1 ∉ [0, 1, 3, 11] ∧ mbxWordAt 0x1C0A000 = none ∧ ctxCtlAt 0x1C0A000 = none := by decide +kernel
theorem test_deep_queue : ({ rdy with pending := [.tileDrain 3, .tileDrain 4] } : State).pending = .tileDrain 3 :: [.tileDrain 4] := rfl

/-- Each check of well-formedness refuses a term just outside its range. -/
theorem test_wf_contexts : [(Instr.nop 4096 0), .stepBegin 4096 0, .reduce 4096 0, .descriptorFetch 4096, .irqGapExpiry 4096,
    .contextEnable 0 4096 0, .contextRebind 0 4096, .ringStepSend 4096 0, .collectiveTimeout 4096 0].all (fun i => !i.wf) = true := by decide
theorem test_wf_links : [(Instr.doorbellTail 2 0 0 0), .doorbellHead 0 64 0 0, .msixUnmask 0 0 32, .msixUnmask 2 0 0, .contextRebind 2 0,
    .linkDown 2, .linkUp 2, .hostLinkReset 2 true, .hostLinkResetExit 2, .pfFlr 2, .vfFlr 0 0, .vfFlr 0 64, .vfFlr 2 1].all (fun i => !i.wf) =
    true := by decide
theorem test_wf_dies : [(Instr.mvmStart 8 0), .mvmStart 0 8192, .codePacket 8, .dieRun 8 [], .portArbitrate 8, .lockSet 0 8192 0 .remap,
    .batchEnd 8 0, .vprogInWindow 8, .musterDueTimer 0 64, .musterRetry 0 8192, .gradualApplyStep 8 0 true, .analogueCheck 0 8320 0 [],
    .analogueCheck 8 0 0 []].all (fun i => !i.wf) = true := by decide
theorem test_wf_units : [(Instr.chainAssign 0 80 0), .chainComplete 80 [], .tileDrain 80, .recountDone 80 [], .invocationStart 40, .vfma 40,
    .ctlEnd 40, .illegalInstruction 40].all (fun i => !i.wf) = true := by decide
theorem test_wf_ports : [(Instr.signalDetect 12 0), .frameReceive 12 [], .pktManagement 12, .spareDecision 12, .nakResendTimeout 12].all
    (fun i => !i.wf) = true := by decide
theorem test_wf_mailboxes : [(Instr.mailboxWrite 0 0 2 0 0), .mailboxWrite 0 0 0 32 0, .mailboxRead 0 2 0 16, .mailboxRead 0 3 0 0,
    .aclShadowWrite 0 64 0 1 0, .aclShadowWrite 0 0 64 1 0, .aclShadowWrite 0 0 0 0 0, .aclShadowWrite 0 0 0 4 0, .aclEntryWrite 0 64 0 0,
    .aclEntryWrite 0 0 64 0].all (fun i => !i.wf) = true := by decide
theorem test_wf_monitors_and_counters : [(Instr.hkConversion 10 0), .hkLowPower 10, .monLock 0 10 0, .mirrorEnable 0 10 0, .counterLoad 0 10 0 0,
    .counterLoad 0 7 16 0, .counterReadLatch 0 9 64, .testDue 0 65536, .testDue 2 8320, .testSliceStart 3 84, .testSliceEnd 4 42 0 [],
    .testOverdue 5 0].all (fun i => !i.wf) = true := by decide
theorem test_wf_memory_and_power : [(Instr.controlMemoryUe true 2 0x9A00000 0), .controlMemoryUe true 0 0x99FFFFF 0, .controlMemoryUe true 0 0xA200000 0,
    .scrubRead 8 0 0, .scrubRead 0 32 0, .scrubRead 0 0 (2 ^ 32), .migrationDone 8, .epochHoldExpiry 2, .thresholdWindowExpiry 14,
    .stackTempRead 8 0, .railFault 1, .railFault 13].all (fun i => !i.wf) = true := by decide
theorem test_wf_accepts : [(Instr.nop 4095 0), .doorbellTail 1 63 0 0, .mvmStart 7 8191, .chainAssign 0 79 0, .vfma 39, .signalDetect 11 0,
    .mailboxRead 0 2 1 15, .counterLoad 0 9 63 0, .testDue 2 8319, .railFault 12].all (·.wf) = true := by decide


/-! Values that the spec works out, and published check values of the functions it names. -/

/-- The example of R53: 1 + 2^-9 to BF16 with a draw of 50,081, and with one below 49,152. -/
theorem test_stochastic_rounding :
    (fcvt fp32 bf16 (.sr 0xC3A1) 0x3F804000).1 = 0x3F81 ∧ (fcvt fp32 bf16 (.sr 0xC3A1) 0xBF804000).1 = 0xBF81 ∧
    (fcvt fp32 bf16 (.sr 49151) 0x3F804000).1 = 0x3F80 := by decide +kernel

/-- A decimal fraction in FP32. -/
def dec (n d : Int) : Nat := (fp32.round .rne ((FVal.ofInt n).div (FVal.ofInt d))).1
/-- The example of a predicted T4 block (R40 to R43): steps 100, 101 and 102. -/
theorem test_predicted_block :
    predictedE .t4 48 [44, 44, 44, 44] = 36 ∧
    (let b := predictedBlock .t4 16 36 [(fp32.decode (dec 61 100), .rne)]; (b.codes, b.scale, b.proposal) = ([7], 0xA4, 37)) ∧
    (let b := predictedBlock .t4 16 37 [(fp32.decode (dec 58 100), .rne)]; (b.codes, b.scale, b.proposal) = ([5], 37, 37)) ∧
    predictedE .t8 48 [45, 45] = 33 ∧
    (let b := predictedBlock .t8 16 33 [(fp32.decode (dec 58 100), .rne)]; (b.codes, b.scale, b.proposal) = ([74], 33, 33)) := by
  decide +kernel
/-- A fresh T4 block whose largest magnitude is 0.9 takes E = 38 (R38). -/
theorem test_fresh_block : freshE .t4 [fp32.decode (dec 9 10)] = 38 := by decide +kernel

/-- The example of a column (R74 to R86): part, accumulator and result. -/
def oneColumn : State :=
  let s := (tile0 .ready).setColRec 0 0 17 (2 ^ 26 * 2 + 2 ^ 16 * 276 + 0x1C00)
  (s.setFld (tileCfgOff 0 0) 2 0 3).setFld (driftOff 0 0) 15 0 0x3BFE
theorem test_column_value :
    (oneColumn.partOf 0 0 { codes := List.replicate 17 (0, 0) ++ [(117, -43)] } 17) = 7128 ∧
    (oneColumn.yOf { tiles := [0], parts := [{ et := 38, cols := [List.replicate 17 0 ++ [7128]] }] } 17).1 = 0x3F62E0FA := by decide +kernel

/-- The example of a tally (R105 to R109): the targets of steps 500 and 501, and the pairs of codes 86 and 93. -/
theorem test_tally :
    let sc := fp16.decode 0x1C00
    tallyOf (dec 418 10000) sc 85 = 155 ∧ tallyOf (dec 422 10000) sc 85 = 365 ∧ tallyOf (dec 422 10000) sc 86 = 109 ∧
    movePair 10 86 = (10, 6) ∧ movePair 10 93 = (11, 5) := by decide +kernel

/-- The example of two addresses with Z = 16 (R341, R342). -/
theorem test_two_addresses :
    placeOf 16 0x9000 = .stack 1 4096 ∧ channelOf 4096 = (16, 0) ∧ placeOf 16 0x6E00012345 = .stack 3 17179943749 ∧
    channelOf 17179943749 = (25, 0x22222B45) := by decide +kernel

/-- The example of a route of six differing bits (R437). -/
theorem test_two_hops : cubePath true 8 5 58 = [21, 58] := by decide +kernel

/-- The temperature and voltage codes of R166, and the drift factor of the example of a field muster. -/
theorem test_drift_example : (fp16.round .rne ((FVal.ofInt 1250).div (FVal.ofInt 1220))).1 = 0x3C19 ∧ offsetTrim (11, -29) = 2 := by decide +kernel

/-- RFC 8439, section 2.1.1: the quarter round. -/
theorem test_quarter_round :
    quarter 0x11111111 0x01020304 0x9B8D6F43 0x01234567 = (0xEA2A92F4, 0xCB1CF8CE, 0x4581472E, 0x5881C4BB) := by decide +kernel
/-- The check values of the CRC catalogue over the characters 1 to 9. -/
theorem test_crcs :
    let m := (List.range 9).map fun i => BitVec.ofNat 8 (0x31 + i)
    crc32 m = 0xCBF43926 ∧ crc32c m = 0xE3069283 ∧ crc64 m = 0x995DC9BBDF1939FA := by decide +kernel

end Sys2Proof.Tests
end

/-! PROOFS. The scope of the module: what a register write does by access code, what module reset leaves, and which commands are refused. -/

namespace Sys2Proof.Machine

/-! Lookups in a sparse table, and a mask of all ones. -/

@[simp] theorem mapFind_mapIns_self {α : Type} (m : Map α) (i : Nat) (a : α) : mapFind (mapIns m i a) i = some a := by
  induction m with
  | nil => simp [mapIns, mapFind]
  | cons kv m ih =>
    obtain ⟨k, v⟩ := kv
    simp only [mapIns]
    split
    · simp [mapFind]
    · split
      · simp [mapFind]
      · rename_i h; simp [mapFind, h, ih]

@[simp] theorem mapFind_mapErase_self {α : Type} (m : Map α) (i : Nat) : mapFind (mapErase m i) i = none := by
  induction m with
  | nil => rfl
  | cons kv m ih =>
    obtain ⟨k, v⟩ := kv
    simp only [mapErase]
    split
    · exact ih
    · rename_i h; simp [mapFind, h, ih]

/-- Settles O3: the reset state is the structure of defaults, every table and memory of it empty. -/
theorem resetIsCanonical : Obligations.ResetIsCanonical :=
  ⟨rfl, rfl, fun _ => rfl⟩

/-- A mask of all ones leaves a word as it is. -/
theorem and_ones (w : Word) : w &&& 0xFFFFFFFF#32 = w := BitVec.and_allOnes

/-! Register writes by access code (R12) and into the shadow (R534). -/

section
variable {s : State} {master off : Nat} {w mask : Word} {r : RegRow}

/-- A virtual function's BAR0 takes no writes (Table 11-2). -/
theorem State.writeReg_hostVf (h : masterClass master = .hostVf) : s.writeReg master off w = s := by
  simp [State.writeReg, h]

/-- A write that passes its checks, away from the host-to-firmware words and `CTX_CTL`, goes to the block of its offset. -/
theorem State.writeReg_lets (ha : off % 4 = 0) (hb : off < 0x4000000) (hm : mbxWordAt off = none) (hc : ctxCtlAt off = none)
    (hv : masterClass master ≠ .hostVf) (hl : s.lets master off = true) : s.writeReg master off w = s.putAny master off w := by
  have hn : ¬ (off % 4 ≠ 0 ∨ 0x4000000 ≤ off ∨ masterClass master = .hostVf) := by
    rintro (h | h | h)
    · exact h ha
    · omega
    · exact hv h
  unfold State.writeReg
  rw [if_neg hn, hm, hc]
  exact lets_guard hl _

theorem mbxWordAt_eq_none (h : off < 0x400000 ∨ 0x420000 ≤ off) : mbxWordAt off = none := if_neg (by omega)

theorem ctxCtlAt_eq_none (h : off < 0x200000 ∨ 0x240000 ≤ off) : ctxCtlAt off = none := if_neg (by omega)

/-- The shadow reads as what was written, in the bits staged, and as before in the others. -/
theorem State.shadowOf_stage : (s.stage off mask w).shadowOf off =
    (s.shadowOf off &&& ~~~(mask &&& stagedMask off)) ||| (w &&& (mask &&& stagedMask off)) := by
  have hreg : (s.stage off mask w).reg off = s.reg off := rfl
  simp only [State.shadowOf, hreg]
  change (mapFind (ite _ _ _) off).getD _ = _
  split
  · rename_i h
    rw [mapFind_mapErase_self, Option.getD_none]
    exact h.1.symm
  · rw [mapFind_mapIns_self, Option.getD_some]
    rfl

/-- The word in force after a write by access codes: RW bits that are not staged are set, W1C bits written as 1 are cleared. -/
def RegRow.written (r : RegRow) (old w : Word) : Word :=
  ((old &&& ~~~(BitVec.ofNat 32 r.rw &&& ~~~BitVec.ofNat 32 r.staged)) ||| (w &&& (BitVec.ofNat 32 r.rw &&& ~~~BitVec.ofNat 32 r.staged))) &&&
    ~~~(w &&& BitVec.ofNat 32 r.w1c)

theorem RegRow.getLsbD_written (r : RegRow) (old w : Word) (i : Nat) : (r.written old w).getLsbD i =
    ((if (BitVec.ofNat 32 r.rw).getLsbD i && !(BitVec.ofNat 32 r.staged).getLsbD i then w.getLsbD i else old.getLsbD i) &&
      !((BitVec.ofNat 32 r.w1c).getLsbD i && w.getLsbD i)) := by
  by_cases hi : i < 32
  · simp only [RegRow.written, BitVec.getLsbD_and, BitVec.getLsbD_or, BitVec.getLsbD_not, hi, decide_true, Bool.true_and]
    generalize (BitVec.ofNat 32 r.rw).getLsbD i = a
    generalize (BitVec.ofNat 32 r.staged).getLsbD i = b
    generalize (BitVec.ofNat 32 r.w1c).getLsbD i = c
    generalize w.getLsbD i = d
    generalize old.getLsbD i = e
    revert a b c d e
    decide
  · have out : ∀ x : Word, x.getLsbD i = false := fun x => BitVec.getLsbD_of_ge x i (by omega)
    simp [out]

/-- Where all that a write sets is staged and it clears nothing, the word in force stays. -/
theorem RegRow.written_staged (hr : r.rw = r.staged) (hc : r.w1c = 0) (old w : Word) : r.written old w = old := by
  simp [RegRow.written, hr, hc, and_ones]

/-- A write by access codes to a register without staged bits. -/
theorem State.putReg_unstaged (h : regRow off = some r) (h0 : r.staged = 0) :
    s.putReg off 0 w = s.setReg off (r.written (s.reg off) w) := by
  simp [State.putReg, h, h0, RegRow.written, and_ones]

/-- A write by access codes to a register with staged bits. -/
theorem State.putReg_staged (h : regRow off = some r) (h0 : r.staged ≠ 0) :
    s.putReg off 0 w = (s.setReg off (r.written (s.reg off) w)).stage off (BitVec.ofNat 32 r.staged) w := by
  simp [State.putReg, h, h0, RegRow.written, and_ones]

/-- A write by access codes changes the register's word and its shadow, the shadow only where bits are staged. -/
theorem State.putReg_frame (h : regRow off = some r) : ∃ sh, s.putReg off 0 w =
    { s.setReg off (r.written (s.reg off) w) with shadow := sh } ∧ (r.staged = 0 → sh = s.shadow) := by
  by_cases h0 : r.staged = 0
  · exact ⟨s.shadow, State.putReg_unstaged h h0, fun _ => rfl⟩
  · exact ⟨_, State.putReg_staged h h0, fun e => absurd e h0⟩

/-- In the power block below the watchdog, and in the unit blocks but for `MU_CTL`, a write does no more than its access codes. -/
theorem State.putAny_plain (hm : off ≠ oMuCtl) (h : (0x100000 ≤ off ∧ off < 0x100128) ∨ (0x800000 ≤ off ∧ off < 0x1000000)) :
    s.putAny master off w = s.putReg off 0 w := by
  have hb : (regBlock off).1 = 1 ∧ off < 0x100128 ∨ (regBlock off).1 = 5 ∨ (regBlock off).1 = 6 := by
    unfold regBlock; grind
  unfold State.putAny
  rcases hb with ⟨hb, hw⟩ | hb | hb
  · simp only [hb]
    rw [if_neg (by unfold oWdt; omega)]
  · simp only [hb, if_neg hm]
  · simp only [hb]

/-- In the global block, a write to a register with staged bits does no more than its access codes. -/
theorem State.putAny_globalStaged (hb : off < 0x100000) (h : regRow off = some r) (h0 : r.staged ≠ 0) :
    s.putAny master off w = s.putReg off 0 w := by
  have hne : ∀ o r', regRow o = some r' → r'.staged = 0 → off ≠ o := by
    rintro o r' h' hs rfl
    rw [h] at h'; cases h'
    exact h0 hs
  have h14 : off ≠ 0x14 := hne _ _ rfl rfl
  have h314 : off ≠ 0x314 := hne _ _ rfl rfl
  have h324 : off ≠ 0x324 := hne _ _ rfl rfl
  have h328 : off ≠ 0x328 := hne _ _ rfl rfl
  have h400 : off ≠ 0x400 := hne _ _ rfl rfl
  have hblock : regBlock off = (0, off) := if_pos hb
  simp [State.putAny, hblock, State.putGlb, h14, h314, h324, h328, h400]

end

/-- Settles O17: the checks pass, the block of the offset leads to the write by access codes, and that write changes one word and its
shadow. -/
theorem registerWritesByAccessCodeAndStaging : Obligations.RegisterWritesByAccessCodeAndStaging := by
  refine ⟨fun s master off w => ⟨fun hv => congrArg _ (State.writeReg_hostVf hv), ?_⟩, ?_⟩
  · intro r ha hr hv hm hb hl
    have hw : s.writeReg master off w = s.putReg off 0 w := by
      rw [State.writeReg_lets ha (by omega) (mbxWordAt_eq_none (by omega)) (ctxCtlAt_eq_none (by omega)) hv hl,
        State.putAny_plain hm hb]
    obtain ⟨sh, hput, hsh⟩ := State.putReg_frame (s := s) (w := w) hr
    have hreg : ∀ o, (s.putReg off 0 w).reg o = (s.setReg off (r.written (s.reg off) w)).reg o := by rw [hput]; intro o; rfl
    refine ⟨s.putReg off 0 w, congrArg _ hw, ?_, ?_, ?_, ?_⟩
    · intro i
      rw [State.bit, hreg, State.reg_setReg_self, RegRow.getLsbD_written]
      rfl
    · intro o ho
      rw [hreg, State.reg_setReg_ne _ _ _ _ ho]
    · rw [hput]; rfl
    · rw [hput]; exact hsh
  · intro s master off w r ha hb hr h0 hrw hc hv hl
    have hw : s.writeReg master off w = s.putReg off 0 w := by
      rw [State.writeReg_lets ha (by omega) (mbxWordAt_eq_none (by omega)) (ctxCtlAt_eq_none (by omega)) hv hl,
        State.putAny_globalStaged hb hr h0]
    have hkeep : ∀ o, (s.setReg off (s.reg off)).reg o = s.reg o := by
      intro o
      rw [State.reg_setReg]
      split
      · rename_i e; rw [e]
      · rfl
    have hmask : stagedMask off = BitVec.ofNat 32 r.staged := by simp [stagedMask, hr]
    have hput : s.putReg off 0 w = (s.setReg off (s.reg off)).stage off (stagedMask off) w := by
      rw [State.putReg_staged hr h0, RegRow.written_staged hrw hc, hmask]
    have hshadow : (s.setReg off (s.reg off)).shadowOf off = s.shadowOf off := by
      simp [State.shadowOf]
    by_cases hz : stagedMask off = 0
    · exact ⟨s, congrArg _ (if_pos hz), fun _ => rfl, by simp [hz, and_ones]⟩
    · refine ⟨s.putReg off 0 w, congrArg _ ((if_neg hz).trans hw), ?_, ?_⟩
      · intro o
        rw [hput]; exact hkeep o
      · rw [hput, State.shadowOf_stage, hshadow, BitVec.and_self]

/-! Module reset (R13): what it leaves, and how it ends. -/

/-- The state without its persistent data and the count of free values, all that the writing of persistent data changes. -/
def State.sansSave (s : State) : State := { s with free := 0, save := {} }

section
variable {s t : State} {i v link func vec src l o hi lo st : Nat}

theorem State.eq_of_sansSave (h : s.sansSave = t.sansSave) : s = { t with free := s.free, save := s.save } :=
  congrArg (fun u : State => { u with free := s.free, save := s.save }) h

@[simp] theorem State.takeFree_sansSave : s.takeFree.2.sansSave = s.sansSave := rfl

@[simp] theorem State.pdWrite_sansSave : (s.pdWrite i).sansSave = s.sansSave := by
  unfold State.pdWrite
  dsimp only
  split <;> rfl

@[simp] theorem State.pdSave_sansSave : (s.pdSave i).sansSave = s.sansSave := by
  unfold State.pdSave
  split
  · simp
  · dsimp only
    split <;> simp

@[simp] theorem State.pdSome_sansSave : (s.pdSome i v).sansSave = s.sansSave := by
  unfold State.pdSome
  split
  · simp
  · simp
  · rfl
  · rfl

theorem State.pdReset_sansSave : s.pdReset.sansSave = s.sansSave := by
  have hsel : ∀ u : State, ({ u with save := { u.save with live := false, sel := [] } } : State).sansSave = u.sansSave := fun _ => rfl
  unfold State.pdReset
  dsimp only
  rw [hsel]
  split
  · rfl
  · simp

/-- Module reset leaves what `resetTo` keeps of the state, with the persistent data as the MSP had written it. -/
theorem State.moduleReset_frame : s.moduleReset = { s.resetTo with free := s.moduleReset.free, save := s.moduleReset.save } := by
  apply State.eq_of_sansSave
  calc s.moduleReset.sansSave = s.pdReset.sansSave.resetTo := rfl
    _ = s.sansSave.resetTo := by rw [State.pdReset_sansSave]
    _ = s.resetTo.sansSave := rfl

/-- `RESET_N` low leaves what `resetTo` keeps, and holds the module there. -/
theorem execResetNAssert_frame (s : State) : ∃ f v, execResetNAssert s =
    .next { s.resetTo with free := f, save := v, pwr := { s.resetTo.pwr with resetLow := true } } := by
  refine ⟨s.moduleReset.free, s.moduleReset.save, ?_⟩
  unfold execResetNAssert
  rw [State.moduleReset_frame]

/-- A register that does not survive module reset holds its reset value. -/
theorem State.reg_resetTo (h1 : o ≠ oFltStat) (h2 : o ≠ oFltSeq) (h3 : o ≠ 0x600) (h4 : o ≠ oFwStat) :
    s.resetTo.reg o = regReset o := by
  change mapGet (regReset o) s.keptRegs o = regReset o
  unfold State.keptRegs
  dsimp only
  split <;> simp [mapGet_mapSet_ne, h1, h2, h3, h4]

theorem State.bootState_resetTo : s.resetTo.bootState = 0 := by
  unfold State.bootState State.fld
  rw [State.reg_resetTo (by decide) (by decide) (by decide) (by decide)]
  rfl

/-! An interrupt changes the interrupt status, the pending vectors and the messages sent; no link, pin or firmware state. -/

theorem State.sendMsi_frame : s.sendMsi link func vec = { s with
    out := (s.sendMsi link func vec).out
    host := { s.host with msix := (s.sendMsi link func vec).host.msix } } := by
  unfold State.sendMsi; dsimp only; repeat' split
  all_goals rfl

@[simp] theorem State.sendMsi_regs : (s.sendMsi link func vec).regs = s.regs := by rw [State.sendMsi_frame]

@[simp] theorem State.sendMsi_pwr : (s.sendMsi link func vec).pwr = s.pwr := by rw [State.sendMsi_frame]

@[simp] theorem State.sendMsi_boot : (s.sendMsi link func vec).boot = s.boot := by rw [State.sendMsi_frame]

@[simp] theorem State.linkUp_sendMsi : (s.sendMsi link func vec).linkUp l = s.linkUp l := by
  rw [State.sendMsi_frame]; rfl

/-- An interrupt source raised: its status bit is set, and a message may be sent. -/
theorem State.raiseIrq_cases (s : State) (src : Nat) : s.raiseIrq src = s.setBit oIrqStat src ∨
    ∃ link vec, s.raiseIrq src = (s.setBit oIrqStat src).sendMsi link 0 vec := by
  unfold State.raiseIrq
  dsimp only
  split
  · exact .inl rfl
  · exact .inr ⟨_, _, rfl⟩

@[simp] theorem State.raiseIrq_regs : (s.raiseIrq src).regs = (s.setBit oIrqStat src).regs := by
  rcases s.raiseIrq_cases src with h | ⟨_, _, h⟩ <;> rw [h]
  simp

@[simp] theorem State.raiseIrq_pwr : (s.raiseIrq src).pwr = s.pwr := by
  rcases s.raiseIrq_cases src with h | ⟨_, _, h⟩ <;> simp [h]

@[simp] theorem State.raiseIrq_boot : (s.raiseIrq src).boot = s.boot := by
  rcases s.raiseIrq_cases src with h | ⟨_, _, h⟩ <;> simp [h]

@[simp] theorem State.linkUp_raiseIrq : (s.raiseIrq src).linkUp l = s.linkUp l := by
  rcases s.raiseIrq_cases src with h | ⟨_, _, h⟩ <;> simp only [h, State.linkUp_sendMsi] <;> rfl

/-- Registers read by their table. -/
theorem State.fld_congr (h : s.regs = t.regs) : s.fld o hi lo = t.fld o hi lo := by
  unfold State.fld State.reg; rw [h]

@[simp] theorem State.fld_raiseIrq_ne (h : o ≠ oIrqStat) : (s.raiseIrq src).fld o hi lo = s.fld o hi lo := by
  rw [State.fld_congr State.raiseIrq_regs, State.fld_setBit_ne _ _ _ _ _ _ h]

/-! The steps of the end of a reset. -/

@[simp] theorem State.setBoot_pwr : (s.setBoot st).pwr = s.pwr := by
  unfold State.setBoot; split <;> simp

@[simp] theorem State.setBoot_boot : (s.setBoot st).boot = s.boot := by
  unfold State.setBoot; split <;> simp

@[simp] theorem State.linkUp_setBoot : (s.setBoot st).linkUp l = s.linkUp l := by
  unfold State.setBoot; split
  · rfl
  · rw [State.linkUp_raiseIrq]; rfl

theorem State.fld_setBoot_ne (h : o ≠ oIrqStat) (hb : o ≠ oBoot) : (s.setBoot st).fld o hi lo = s.fld o hi lo := by
  unfold State.setBoot; split
  · rfl
  · rw [State.fld_raiseIrq_ne h, State.fld_setFld_ne _ _ _ _ _ _ _ _ hb]

theorem State.bootState_setBoot (h : st < 16) : (s.setBoot st).bootState = st := by
  unfold State.setBoot; split
  · assumption
  · unfold State.bootState
    rw [State.fld_raiseIrq_ne (by decide), State.fld_setFld_self _ _ _ _ _ (by decide) (by decide)]
    omega

theorem State.sampleSlot_pwr : s.sampleSlot.pwr = s.pwr := by
  unfold State.sampleSlot; dsimp only; split <;> rfl

theorem State.linkUp_sampleSlot : s.sampleSlot.linkUp l = s.linkUp l := by
  unfold State.sampleSlot; dsimp only; split <;> rfl

/-- `GLB_SLOT` reports the straps sampled. -/
theorem State.fld_sampleSlot : s.sampleSlot.fld oSlot 6 0 = s.pwr.straps % 128 := by
  have hraw : ∀ b : Nat, b = 2 ^ 31 ∨ b = 2 ^ 30 → wfld (BitVec.ofNat 32 (b + s.pwr.straps % 128)) 6 0 = s.pwr.straps % 128 := by
    intro b hb
    unfold wfld Machine.fld
    rw [toNat_ofNat32 _ (by omega)]
    simp only [Nat.shiftRight_zero]
    omega
  unfold State.sampleSlot; dsimp only; split
  · rw [State.fld_setReg_self]; exact hraw _ (.inl rfl)
  · change State.fld (State.setReg _ _ _) _ _ _ = _
    rw [State.fld_setReg_self]; exact hraw _ (.inr rfl)

theorem State.trainLinks_frame : s.trainLinks = { s with host := s.trainLinks.host } := by
  unfold State.trainLinks State.setLink; dsimp only; repeat' split
  all_goals rfl

/-- A link that `GLB_PERSTh_N` does not hold trains. -/
theorem State.linkUp_trainLinks : s.trainLinks.linkUp 0 = (s.linkUp 0 || !s.pwr.perst0) ∧
    s.trainLinks.linkUp 1 = (s.linkUp 1 || !s.pwr.perst1) := by
  unfold State.trainLinks
  cases s.pwr.perst0 <;> cases s.pwr.perst1 <;> simp [State.setLink, State.linkUp]

/-- The straps are sampled and the links train, before the boot chain begins. -/
def State.awake (s : State) : State := ((s.updRail id).setClk s.pwr.clk).sampleSlot.trainLinks

/-- Where nothing holds module reset, it ends in MSP_BOOT. -/
theorem State.endReset_free (hb : s.bootState = 0) (hr : s.pwr.resetLow = false) (hg : s.pgood = true) :
    s.endReset = ({ s.awake with boot := { s.awake.boot with msp := .rom } } : State).setBoot 1 := by
  unfold State.endReset
  rw [if_neg (by simp [hb, hr, hg])]
  rfl

theorem State.awake_pwr : s.awake.pwr = s.pwr := by
  unfold State.awake
  rw [State.trainLinks_frame]
  exact State.sampleSlot_pwr

theorem State.fld_awake_slot : s.awake.fld oSlot 6 0 = s.pwr.straps % 128 := by
  unfold State.awake
  rw [State.trainLinks_frame]
  exact State.fld_sampleSlot

theorem State.linkUp_awake : s.awake.linkUp 0 = (s.linkUp 0 || !s.pwr.perst0) ∧ s.awake.linkUp 1 = (s.linkUp 1 || !s.pwr.perst1) := by
  have h := State.linkUp_trainLinks (s := ((s.updRail id).setClk s.pwr.clk).sampleSlot)
  rw [State.linkUp_sampleSlot, State.linkUp_sampleSlot, State.sampleSlot_pwr] at h
  exact h

/-- A reset that ends starts the boot chain with the straps sampled and the links that their pins release. -/
theorem State.endReset_starts (hb : s.bootState = 0) (hr : s.pwr.resetLow = false) (hg : s.pgood = true) :
    s.endReset.bootState = 1 ∧ s.endReset.boot.msp = .rom ∧ s.endReset.pwr = s.pwr ∧ s.endReset.fld oSlot 6 0 = s.pwr.straps % 128 ∧
    s.endReset.linkUp 0 = (s.linkUp 0 || !s.pwr.perst0) ∧ s.endReset.linkUp 1 = (s.linkUp 1 || !s.pwr.perst1) := by
  rw [State.endReset_free hb hr hg]
  refine ⟨State.bootState_setBoot (by decide), by simp, ?_, ?_, ?_, ?_⟩
  · rw [State.setBoot_pwr]; exact State.awake_pwr
  · rw [State.fld_setBoot_ne (by decide) (by decide)]; exact State.fld_awake_slot
  · rw [State.linkUp_setBoot]; exact State.linkUp_awake.1
  · rw [State.linkUp_setBoot]; exact State.linkUp_awake.2

end

/-- Settles O20: the key, the pin and a consumed line each come to `moduleReset`, whose frame says what survives, and `endReset` starts
the boot chain. -/
theorem resetCommandsComplete : Obligations.ResetCommandsComplete := by
  refine fun s => ⟨?key, ?assert, ?release, ?consumed⟩
  case key =>
    intro master w hl hk hb
    refine ⟨?_, rfl⟩
    change Host.Outcome.next _ = _
    rw [lets_guard hl]
    simp [hk, hb]
  case assert =>
    obtain ⟨f, v, h⟩ := execResetNAssert_frame s
    refine ⟨_, h, ?_⟩
    exact ⟨State.bootState_resetTo, rfl, rfl, rfl, rfl, rfl, rfl, rfl, rfl, rfl, by simp only [State.resetTo], rfl, rfl, rfl, rfl, rfl⟩
  case release =>
    intro straps hb hg
    obtain ⟨hboot, hmsp, hpwr, hslot, h0, h1⟩ := State.endReset_starts
      (s := { s with pwr := { s.pwr with resetLow := false, straps := straps % 128 } }) hb rfl hg
    exact ⟨_, rfl, hboot, hmsp, congrArg Pwr.resetLow hpwr, hslot.trans (Nat.mod_mod _ _), h0, h1⟩
  case consumed =>
    intro x hx
    change Host.Outcome.next s.resetConsumed = _
    unfold State.resetConsumed
    rw [hx]

/-! What is refused (R9, R517). The close of a step at a start leaves the firmware state as it is, which
is shown operation by operation. -/

section
variable {s : State} {a c d f i k n o p l st sev code subj row lim kind master sym unit_ t need right lo hi src inst dec : Nat}
  {m : Mark} {pl : Place} {es : Errs} {bs : List Byte} {rep : Bool} {chk : Chk} {who : Who} {ad : DAddr} {dt : List Nat}

/-- What every step of a fold leaves of the firmware state, the fold leaves. -/
theorem boot_foldl {α : Type} {f : State → α → State} (h : ∀ s a, (f s a).boot = s.boot) (l : List α) (s : State) :
    (l.foldl f s).boot = s.boot :=
  foldl_inv (·.boot) f h l s

@[simp] theorem State.satAdd_boot : (s.satAdd o hi lo n).boot = s.boot := rfl

@[simp] theorem State.cntAdd_boot : (s.cntAdd d i n).boot = s.boot := by
  unfold State.cntAdd; dsimp only
  split
  · rfl
  · split <;> simp

@[simp] theorem State.event_boot : (s.event d src inst n).boot = s.boot := by
  unfold State.event
  split
  · rfl
  · refine boot_foldl (fun t i => ?_) _ _
    split <;> simp

@[simp] theorem State.eventF_boot : (s.eventF f src inst n).boot = s.boot := State.event_boot

@[simp] theorem State.raiseFault_boot : (s.raiseFault sev code subj dt).boot = s.boot := by
  unfold State.raiseFault; dsimp only
  split
  · rfl
  · split <;> simp

@[simp] theorem State.drain_boot : (s.drain rep).boot = s.boot := by
  unfold State.drain; dsimp only
  split
  · split <;> simp
  · split <;> simp

@[simp] theorem State.moduleStrike_boot : (s.moduleStrike n).boot = s.boot := by
  unfold State.moduleStrike; dsimp only
  split <;> simp

@[simp] theorem State.threshold_boot : (s.threshold row subj n).2.boot = s.boot := by
  unfold State.threshold; dsimp only
  split <;> simp

@[simp] theorem State.deny_boot : (s.deny t need master unit_).boot = s.boot := by
  unfold State.deny; dsimp only
  split <;> simp

@[simp] theorem State.aclCheck_boot : (s.aclCheck t right master lo hi).2.boot = s.boot := by
  unfold State.aclCheck
  split <;> simp

@[simp] theorem State.refuse_boot : (s.refuse chk right master a).boot = s.boot := by
  cases chk <;> simp [State.refuse]

@[simp] theorem State.setErrsIn_boot : (s.setErrsIn es pl).boot = s.boot := by
  unfold State.setErrsIn; dsimp only
  split
  · rfl
  · split
    · split <;> rfl
    · rfl

@[simp] theorem State.setErrs_boot : (s.setErrs a es).boot = s.boot := State.setErrsIn_boot

@[simp] theorem State.setGood_boot : (s.setGood a).boot = s.boot := State.setErrs_boot

@[simp] theorem State.logUe_boot : (s.logUe kind master a).boot = s.boot := by
  unfold State.logUe; dsimp only
  split <;> simp

@[simp] theorem State.refreshStack_boot : (s.refreshStack k st).boot = s.boot := rfl

@[simp] theorem State.markRetired_boot : (s.markRetired k p).boot = s.boot := rfl

@[simp] theorem State.retireChannel_boot : (s.retireChannel k c).boot = s.boot := by
  unfold State.retireChannel; dsimp only
  split
  · rfl
  · split
    · rfl
    · split <;> simp

@[simp] theorem State.orderRetire_boot : (s.orderRetire k p).boot = s.boot := by
  unfold State.orderRetire; dsimp only
  split
  · rfl
  · split
    · split
      · rfl
      · split <;> simp
    · split <;> simp

@[simp] theorem State.correctedRead_boot : (s.correctedRead k p sym).boot = s.boot := by
  unfold State.correctedRead; dsimp only
  split <;> simp

@[simp] theorem State.correctedSram_boot : (s.correctedSram f n).boot = s.boot := by
  unfold State.correctedSram; dsimp only
  split <;> simp

@[simp] theorem State.noteRead_boot : (s.noteRead kind master a m pl).boot = s.boot := by
  unfold State.noteRead
  split
  · split <;> simp
  · split <;> simp
  · rfl

@[simp] theorem State.stackEvent_boot : (s.stackEvent src pl).boot = s.boot := by
  cases pl <;> simp [State.stackEvent]

@[simp] theorem State.poisonLine_boot : (s.poisonLine l).boot = s.boot := by
  unfold State.poisonLine
  split <;> simp

@[simp] theorem State.writeLine_boot : (s.writeLine master a bs).boot = s.boot := by
  unfold State.writeLine; dsimp only
  split
  · split <;> simp
  · split <;> simp

@[simp] theorem State.writeLines_boot : (s.writeLines master n a bs).boot = s.boot := by
  induction n generalizing s a bs with
  | zero => rfl
  | succ n ih =>
    unfold State.writeLines
    split
    · rfl
    · simp [ih]

@[simp] theorem State.noteTag_boot : (s.noteTag f).boot = s.boot := rfl

@[simp] theorem State.writeMem_boot : (s.writeMem master a bs).boot = s.boot := by
  simp [State.writeMem]

@[simp] theorem State.store_boot : (s.store who ad bs).2.boot = s.boot := by
  unfold State.store
  split
  · split <;> simp
  · dsimp only
    split
    · simp
    · split <;> simp
  · rfl

@[simp] theorem State.cntClear_boot {g : Nat → Nat → Bool} : (s.cntClear a g).boot = s.boot := rfl

@[simp] theorem State.ringWrite_boot : (s.ringWrite kind dec).boot = s.boot := by
  unfold State.ringWrite; dsimp only
  split <;> simp

@[simp] theorem State.takeFree_boot : s.takeFree.2.boot = s.boot := rfl

@[simp] theorem State.ringRecord_boot : (s.ringRecord kind dec).boot = s.boot := by
  unfold State.ringRecord; dsimp only
  split
  · rfl
  · split
    · simp
    · split <;> simp

@[simp] theorem State.noteWindow_boot : (s.noteWindow p).boot = s.boot := by
  unfold State.noteWindow
  split
  · rfl
  · rfl

@[simp] theorem State.newWindows_boot : s.newWindows.boot = s.boot := by
  refine boot_foldl (fun t p => ?_) _ _
  dsimp only
  split <;> simp

@[simp] theorem State.closeStep_boot : s.closeStep.boot = s.boot := by
  simp [State.closeStep]

@[simp] theorem State.closeDone_boot : s.closeDone.boot = s.boot := by
  unfold State.closeDone; dsimp only
  split <;> simp

end

/-- What answers through `onUnit` is a next state or the fault of a missing unit, no refusal. -/
theorem onUnit_ne_refused {ok : Bool} {s : State} {r : Refusal} : onUnit ok s ≠ .refused r := by
  cases ok <;> exact nofun

theorem next_ne_refused {s : State} {r : Refusal} : (.next s : Res) ≠ .refused r := nofun

/-- The firmware region of fold SRAM, by its offsets. -/
theorem sramRegion_eq_firmware (o : Nat) : (sramRegion o == .firmware) = (decide (0x9A00000 ≤ o) && decide (o < 0xA200000)) := by
  rw [Bool.eq_iff_iff]
  simp only [beq_iff_eq, Bool.and_eq_true, decide_eq_true_eq]
  unfold sramRegion
  repeat' split
  all_goals
    simp only [reduceCtorEq, true_iff, false_iff]
    omega

/-- Every command but the two that start or reject a descriptor answers a next state where what it names exists, and the fault
where it does not. -/
theorem exec_eq_onUnit (i : Instr) (s : State) (hr : ∀ c n, i ≠ .reservedOpcode c n) (hs : i ≠ .descriptorStart) :
    ∃ t, exec i s = onUnit i.wf t := by
  cases i
  case reservedOpcode c n => exact absurd rfl (hr c n)
  case descriptorStart => exact absurd rfl hs
  case controlMemoryUe inSram f off master =>
    refine ⟨_, congrArg (onUnit · _) ?_⟩
    simp only [Instr.wf, sramRegion_eq_firmware, Bool.and_assoc]
  all_goals exact ⟨_, rfl⟩

/-- RESERVED_OPCODE refuses only where a diagnostic image is loaded. -/
theorem execReservedOpcode_refused {c n : Nat} {s : State} {r : Refusal} (h : execReservedOpcode c n s = .refused r) :
    r = .diagnosticOpcode ∧ s.boot.diag = true := by
  unfold execReservedOpcode at h
  split at h
  · exact absurd h onUnit_ne_refused
  · split at h
    · rename_i hd
      cases h
      simp only [Bool.and_eq_true] at hd
      exact ⟨rfl, hd.2⟩
    · exact absurd h onUnit_ne_refused

/-- DESCRIPTOR_START refuses only where a diagnostic image is loaded: the close of a step before it loads none. -/
theorem execDescriptorStart_refused {s : State} {r : Refusal} (h : execDescriptorStart s = .refused r) :
    r = .diagnosticOpcode ∧ s.boot.diag = true := by
  unfold execDescriptorStart at h
  dsimp only at h
  split at h
  · exact absurd h next_ne_refused
  · split at h
    · exact absurd h next_ne_refused
    · split at h
      · rename_i hd
        cases h
        simp only [Bool.and_eq_true, State.closeDone_boot] at hd
        obtain ⟨⟨⟨-, hdiag⟩, -⟩, -⟩ := hd
        exact ⟨rfl, hdiag⟩
      · exact absurd h next_ne_refused

/-- Settles O5: a command other than these two answers through `onUnit`, which refuses nothing. -/
theorem refusalOnlyOfDiagnosticOpcodes : Obligations.RefusalOnlyOfDiagnosticOpcodes := by
  intro i s r h
  by_cases hr : ∃ c n, i = .reservedOpcode c n
  · obtain ⟨c, n, rfl⟩ := hr
    obtain ⟨hd, hdiag⟩ := execReservedOpcode_refused h
    exact ⟨hd, hdiag, .inl ⟨c, n, rfl⟩⟩
  by_cases hs : i = .descriptorStart
  · subst hs
    obtain ⟨hd, hdiag⟩ := execDescriptorStart_refused h
    exact ⟨hd, hdiag, .inr rfl⟩
  obtain ⟨t, ht⟩ := exec_eq_onUnit i s (fun c n e => hr ⟨c, n, e⟩) hs
  exact absurd (ht ▸ h) onUnit_ne_refused

end Sys2Proof.Machine

/-! PROOFS. The pasture arrays: which commands fault, live loads, and the commands of dies and tiles. -/

namespace Sys2Proof.Machine

/-! What faults: a command that names a unit the module does not have. -/

/-- What answers through `onUnit` faults exactly where the unit is missing. -/
theorem onUnit_faults (ok : Bool) (s : State) :
    (ok = false → onUnit ok s = .fault .noSuchUnit) ∧ (ok = true → ∀ f, onUnit ok s ≠ .fault f) := by
  cases ok
  · exact ⟨fun _ => rfl, nofun⟩
  · exact ⟨nofun, fun _ _ => nofun⟩

theorem refused_ne_fault {r : Refusal} {f : Fault} : (.refused r : Res) ≠ .fault f := nofun

theorem next_ne_fault {s : State} {f : Fault} : (.next s : Res) ≠ .fault f := nofun

/-- RESERVED_OPCODE faults exactly where its context is missing: it refuses none but those of a context that exists. -/
theorem execReservedOpcode_faults (c n : Nat) (s : State) :
    (ctxOk c = false → execReservedOpcode c n s = .fault .noSuchUnit) ∧
    (ctxOk c = true → ∀ f, execReservedOpcode c n s ≠ .fault f) := by
  unfold execReservedOpcode
  split
  · exact onUnit_faults _ _
  · split
    · rename_i hd
      simp only [Bool.and_eq_true] at hd
      obtain ⟨⟨hc, -⟩, -⟩ := hd
      exact ⟨fun h => absurd (hc.symm.trans h) nofun, fun _ _ => refused_ne_fault⟩
    · exact onUnit_faults _ _

/-- DESCRIPTOR_START names no unit, and never faults. -/
theorem execDescriptorStart_ne_fault (s : State) (f : Fault) : execDescriptorStart s ≠ .fault f := by
  unfold execDescriptorStart
  dsimp only
  split
  · exact next_ne_fault
  · split
    · exact next_ne_fault
    · split
      · exact refused_ne_fault
      · exact next_ne_fault

/-- Settles O4: a command answers through `onUnit` with the units it names, but for the two that start or reject a descriptor. -/
theorem faultExactlyOnMissingInstance : Obligations.FaultExactlyOnMissingInstance := by
  intro i s
  by_cases hr : ∃ c n, i = .reservedOpcode c n
  · obtain ⟨c, n, rfl⟩ := hr
    exact execReservedOpcode_faults c n s
  by_cases hs : i = .descriptorStart
  · subst hs
    exact ⟨nofun, fun _ => execDescriptorStart_ne_fault s⟩
  obtain ⟨t, ht⟩ := exec_eq_onUnit i s (fun c n e => hr ⟨c, n, e⟩) hs
  rw [ht]
  exact onUnit_faults i.wf t

/-! Commands that name a die or a tile of the module. -/

theorem onUnit_die {p : Nat} (hp : p < 8) (t : State) : onUnit (dieOk p) t = .next t := if_pos (decide_eq_true hp)

theorem onUnit_tile {p n : Nat} (hp : p < 8) (hn : n < 8192) (t : State) : onUnit (tileOk p n) t = .next t :=
  if_pos (by simp [tileOk, hp, hn])

/-! Live loads (R98, R531, R532): the dies quiesced first, the start of a load, and its end. -/

section
variable {s : State} {l : LiveLoad} {p q : Nat}

theorem mem_bitsSet {n mask i : Nat} : i ∈ bitsSet n mask ↔ i < n ∧ mask.testBit i = true := by
  simp [bitsSet]

/-- `PST_DIE_CTL` of a die is its own. -/
theorem dieCtl_inj : pst p + 0x10 = pst q + 0x10 ↔ p = q := by unfold pst; omega

/-- Setting `PST_DIE_CTL.QUIESCE` of a die quiesces it, and no other. -/
theorem State.quiesced_setBit : (s.setBit (pst q + 0x10) 12).quiesced p = (s.quiesced p || decide (p = q)) := by
  unfold State.quiesced
  by_cases h : p = q
  · subst h; simp
  · rw [State.bit_setBit_ne _ _ _ _ _ (mt dieCtl_inj.mp h)]
    simp [h]

/-- Dies quiesced one by one. -/
theorem State.quiesced_foldl_setBit (ps : List Nat) (s : State) :
    (ps.foldl (fun t q => t.setBit (pst q + 0x10) 12) s).quiesced p = (s.quiesced p || decide (p ∈ ps)) := by
  induction ps generalizing s with
  | nil => simp
  | cons q ps ih =>
    rw [List.foldl_cons, ih, State.quiesced_setBit]
    simp [Bool.or_assoc]

/-- At a boundary every named die of a tile-sequencer load is quiesced (R98). -/
theorem State.quiesced_quiesceFor (ht : l.type = 4) (hb : s.boundary16 = true) (hp : p < 8) (hu : l.units.testBit p = true) :
    (s.quiesceFor l).2.quiesced p = true := by
  have hkeep : ({ s with boot := { s.boot with load := some (s.quiesceFor l).1 } } : State).quiesced p = s.quiesced p := rfl
  have hmem : p ∈ bitsSet 8 l.units := mem_bitsSet.mpr ⟨hp, hu⟩
  unfold State.quiesceFor at hkeep ⊢
  dsimp only at hkeep ⊢
  rw [State.quiesced_foldl_setBit, hkeep, if_pos (by simp [ht, hb])]
  cases hq : s.quiesced p <;> simp [hmem, hq]

/-- A pending load whose conditions do not hold waits, its dies quiesced. -/
theorem State.loadStart_waits (h : s.boot.load = some l) (hr : l.running = false) (hf : s.failSafe = false)
    (hm : (s.quiesceFor l).2.mayLoad (s.quiesceFor l).1 = false) : s.loadStart = (s.quiesceFor l).2 := by
  simp [State.loadStart, h, hr, hf, hm]

/-- The named units of a load leave service: dies of the tile sequencers, shearers of the microcode (R98, R337). -/
def State.leaveService (s : State) (l : LiveLoad) : State :=
  if l.type = 4 then (bitsSet 8 l.units).foldl (fun (t : State) p => t.updDie p fun d => { d with state := .update }) s
  else if l.type = 5 then (bitsSet 8 l.units).foldl (fun (t : State) k => t.setShr k { t.shr k with state := .ucode }) s
  else s

/-- A pending load whose conditions hold runs from now on, and its units leave service. -/
theorem State.loadStart_begins (h : s.boot.load = some l) (hr : l.running = false) (hf : s.failSafe = false)
    (hm : (s.quiesceFor l).2.mayLoad (s.quiesceFor l).1 = true) :
    s.loadStart = (({ (s.quiesceFor l).2 with boot := { (s.quiesceFor l).2.boot with
      load := some { (s.quiesceFor l).1 with running := true } } } : State).clrBit oFwStat 30).leaveService (s.quiesceFor l).1 := by
  unfold State.loadStart State.leaveService
  simp only [h, hr, hf, hm, Bool.or_self, Bool.not_true, Bool.false_eq_true, if_false]
  split
  · rename_i h4; rw [if_pos h4]
  · rename_i h5; rw [if_neg (by omega), if_pos h5]
  · rename_i h4 h5; rw [if_neg h4, if_neg h5]

/-- Shearers changed one by one leave the boot records as they are. -/
theorem State.bootRec_foldl_setShr (f : Shr → Shr) (ks : List Nat) (t : Nat) :
    (ks.foldl (fun (u : State) k => u.setShr k (f (u.shr k))) s).bootRec t = s.bootRec t :=
  foldl_inv (·.bootRec t) (fun (u : State) k => u.setShr k (f (u.shr k))) (fun _ _ => rfl) ks s

/-- No load is pending or running any more. -/
def State.dropLoad (s : State) : State := { s with boot := { s.boot with load := none } }

/-- A running load of the shepherd firmware that succeeds runs NEXT. -/
theorem State.loadEnd_shepherd (h : s.boot.load = some l) (hr : l.running = true) (ht : l.type = 3) (failed : Nat) :
    s.loadEnd true failed = (s.dropLoad.runFrom 3 (s.dropLoad.bootRec 3).next false).fwResult 0 := by
  simp only [State.loadEnd, h, hr, ht]
  rfl

/-- One that fails runs COMMIT again, whose body is staged. -/
theorem State.loadEnd_shepherdFailed (h : s.boot.load = some l) (hr : l.running = true) (ht : l.type = 3) (failed : Nat) :
    s.loadEnd false failed = (((s.dropLoad.revertTrial 3).runFrom 3 (s.dropLoad.bootRec 3).commit false).fwResult 9).stageFw 3
      (s.dropLoad.bootRec 3).commit := by
  simp only [State.loadEnd, h, hr, ht]
  rfl

/-- A running load of the shearer microcode that succeeds brings its shearers back to READY and runs NEXT. -/
theorem State.loadEnd_shearers (h : s.boot.load = some l) (hr : l.running = true) (ht : l.type = 5) (failed : Nat) :
    s.loadEnd true failed = (((bitsSet 8 l.units).foldl (fun (t : State) k => t.setShr k { t.shr k with state := .ready })
      s.dropLoad).runFrom 5 (s.dropLoad.bootRec 5).next false).fwResult 0 := by
  rw [← State.bootRec_foldl_setShr (s := s.dropLoad) (fun x => { x with state := .ready }) (bitsSet 8 l.units)]
  simp only [State.loadEnd, h, hr, ht]
  rfl

/-- A running load of the serial-link firmware of both fold dies moves on to the second. -/
theorem State.loadEnd_nextFold (h : s.boot.load = some l) (hr : l.running = true) (ht : l.type = 6) (hu : l.units = 3) (failed : Nat) :
    s.loadEnd true failed = s.nextFold l 0 := by
  have hfirst : (bitsSet 2 3).headD 0 = 0 := by decide
  simp only [State.loadEnd, h, hr, ht, hu, hfirst]
  rfl

/-- One of a single fold die, or of the last of two, runs NEXT, and the links of both resume. -/
theorem State.loadEnd_links (h : s.boot.load = some l) (hr : l.running = true) (ht : l.type = 6) (hu : l.units = 1 ∨ l.units = 2)
    (failed : Nat) : s.loadEnd true failed =
      (((s.dropLoad.runFrom 6 (s.dropLoad.bootRec 6).next false).fwResult 0).linkResume 0).linkResume 1 := by
  have hlast : ¬ 2 ^ (bitsSet 2 l.units).headD 0 < l.units := by
    rcases hu with hu | hu <;> rw [hu] <;> decide
  simp only [State.loadEnd, h, hr, ht, hlast]
  rfl

/-- The update of a die ends with the die in RUN, and a QUIESCE that the load set is cleared. -/
theorem State.updateEnd_run (h : s.boot.load = some l) (hu : (s.die p).state = .update) :
    s.updateEnd p = if l.quiet.contains p then (s.updDie p fun d => { d with state := .run }).clrBit (pst p + 0x10) 12
      else s.updDie p fun d => { d with state := .run } := by
  simp only [State.updateEnd, hu, h]
  rfl

end

/-- Settles O27: a pending load either waits or begins, and a running one ends by its type. -/
theorem liveLoadsComplete : Obligations.LiveLoadsComplete := by
  intro s l h
  refine ⟨fun hr hf => ⟨?waits, ?begins, ?quiesced⟩, fun hr failed => ⟨?shepherd, ?shearers, ?nextFold, ?links⟩, ?stays, ?cleared⟩
  case waits => exact fun hm => congrArg _ (State.loadStart_waits h hr hf hm)
  case begins =>
    intro hm
    have hb := State.loadStart_begins h hr hf hm
    refine ⟨fun h4 => ?_, fun h5 => ?_, fun h4 h5 => ?_⟩
    · exact congrArg _ (hb.trans (if_pos h4))
    · exact congrArg _ (hb.trans ((if_neg (by omega)).trans (if_pos h5)))
    · exact congrArg _ (hb.trans ((if_neg h4).trans (if_neg h5)))
  case quiesced => exact fun h4 hb p hp hu => State.quiesced_quiesceFor h4 hb hp hu
  case shepherd =>
    exact fun h3 => ⟨congrArg _ (State.loadEnd_shepherd h hr h3 failed), congrArg _ (State.loadEnd_shepherdFailed h hr h3 failed)⟩
  case shearers => exact fun h5 => congrArg _ (State.loadEnd_shearers h hr h5 failed)
  case nextFold => exact fun h6 hu => congrArg _ (State.loadEnd_nextFold h hr h6 hu failed)
  case links => exact fun h6 hu => congrArg _ (State.loadEnd_links h hr h6 hu failed)
  case stays =>
    intro p hp hs hq
    exact (onUnit_die hp _).trans (congrArg _ ((State.updateEnd_run h hs).trans (if_neg (by simp only [hq]; nofun))))
  case cleared =>
    intro p hp hs hq
    exact (onUnit_die hp _).trans (congrArg _ ((State.updateEnd_run h hs).trans (if_pos hq)))

/-! Counting events changes no die. -/

section
variable {s t : State} {o d i k m n p q src inst link func vec key : Nat}

@[simp] theorem State.sendMsi_dies : (s.sendMsi link func vec).dies = s.dies := by rw [State.sendMsi_frame]

@[simp] theorem State.raiseIrq_dies : (s.raiseIrq src).dies = s.dies := by
  rcases s.raiseIrq_cases src with h | ⟨_, _, h⟩ <;> simp [h]

@[simp] theorem State.cntAdd_dies : (s.cntAdd d i n).dies = s.dies := by
  unfold State.cntAdd; dsimp only
  split
  · rfl
  · split <;> simp

@[simp] theorem State.event_dies : (s.event d src inst n).dies = s.dies := by
  unfold State.event
  split
  · rfl
  · refine foldl_inv (fun t : State => t.dies) _ (fun t i => ?_) _ _
    split <;> simp

@[simp] theorem State.eventP_dies : (s.eventP p src n k).dies = s.dies := State.event_dies

/-- Dies and their tiles are read from the table of dies. -/
theorem State.die_congr (h : s.dies = t.dies) : s.die p = t.die p := by unfold State.die; rw [h]

theorem State.tile_congr (h : s.dies = t.dies) : s.tile p n = t.tile p n := by unfold State.tile; rw [State.die_congr h]

/-! What a die and its tiles read as after a change of the die. -/

/-- A change of a die that keeps its tiles keeps every tile. -/
theorem State.tile_updDie {f : Die → Die} (h : ∀ x, (f x).tiles = x.tiles) : (s.updDie q f).tile p n = s.tile p n := by
  by_cases e : p = q
  · subst e; simp [State.tile, h]
  · simp [State.tile, e]

@[simp] theorem State.tile_updRead {f : TileRead → TileRead} : (s.updRead q key m f).tile p n = s.tile p n :=
  State.tile_updDie fun _ => rfl

@[simp] theorem State.tile_takePlaceOf : (s.takePlaceOf q m).tile p n = s.tile p n := State.tile_updDie fun _ => rfl

/-! The start of an MVM (R75, R79, R81). -/

/-- Where a place is free and the buffer has room an MVM starts: its read takes a place in the banks of its tile, and the MVM counts. -/
theorem State.tile_startMvm {r : TileRead} (hst : (s.tile p n).st ≠ .fenced) (hfree : s.placeFree p n = true)
    (hroom : s.bufferUsed p + s.packetBytes p n ≤ 524288) : (s.startMvm p n r).tile p n =
      { s.tile p n with st := .read, mvms := ((s.tile p n).mvms + 1) % 64, banks := (s.tile p n).banks ++ [r.chain] } := by
  have hdrops : ∀ (c : Prop) [Decidable c] (u : State), (if c then u else u.setBit (tileStatOff p n) 2).dies = u.dies := by
    intro c _ u; split <;> rfl
  have hread : ∀ u : State, (u.updDie p fun d => { d with stepRead := true }).tile p n = u.tile p n :=
    fun u => State.tile_updDie fun _ => rfl
  have htile : ∀ a : Bool, (if a then s else s.takePlaceOf p n).tile p n = s.tile p n := by
    intro a; cases a <;> simp
  unfold State.startMvm
  dsimp only
  rw [if_neg (by simp [hfree]), if_neg (by omega), State.tile_congr (hdrops _ _)]
  simp only [State.tile_congr State.eventP_dies, State.tile_updTile, hread, State.tile_updRead, htile, if_neg hst]

/-- A tile ready or reading on a running die, not quiesced, starts the next MVM of its oldest read (R79). -/
theorem State.mvmStart_runs {r : TileRead} (hr : s.nextRead p n = some r) (hst : (s.tile p n).st = .ready ∨ (s.tile p n).st = .read)
    (hrun : (s.die p).state = .run) (hq : s.quiesced p = false) (hf : s.failSafe = false) (hfence : (s.tile p n).fence = false)
    (hbanks : (s.tile p n).banks.length < 2) : s.mvmStart p n = s.startMvm p n r := by
  rcases hst with hst | hst <;> simp [State.mvmStart, hr, hst, hrun, hq, hf, hfence, hbanks]

/-! The MVMs of a tile and the packets of its die, which the end of an MVM moves on (R74, R76, R77). -/

/-- The packets in the result buffer of a die, and the chains of the MVMs in the banks of one of its tiles. -/
def State.mvmView (s : State) (p n : Nat) : List Packet × List Nat := ((s.die p).packets, (s.tile p n).banks)

theorem State.mvmView_congr (h : s.dies = t.dies) : s.mvmView p n = t.mvmView p n := by
  unfold State.mvmView; rw [State.die_congr h, State.tile_congr h]

theorem State.mvmView_updDie {f : Die → Die} (hp : ∀ x, (f x).packets = x.packets) (ht : ∀ x, (f x).tiles = x.tiles) :
    (s.updDie q f).mvmView p n = s.mvmView p n := by
  unfold State.mvmView
  rw [State.tile_updDie ht]
  by_cases e : p = q
  · subst e; simp [hp]
  · simp [e]

theorem State.mvmView_updTile {f : Tile → Tile} (h : ∀ x, (f x).banks = x.banks) : (s.updTile q m f).mvmView p n = s.mvmView p n := by
  unfold State.mvmView
  by_cases e : p = q
  · subst e
    have hp : ((s.updTile p m f).die p).packets = (s.die p).packets := by simp [State.updTile]
    by_cases e : n = m
    · subst e; simp [hp, h]
    · simp [hp, e]
  · simp [State.tile, State.updTile, e]

@[simp] theorem State.mvmView_takePlaceOf : (s.takePlaceOf q m).mvmView p n = s.mvmView p n :=
  State.mvmView_updDie (fun _ => rfl) fun _ => rfl

@[simp] theorem State.mvmView_updRead {f : TileRead → TileRead} : (s.updRead q key m f).mvmView p n = s.mvmView p n :=
  State.mvmView_updDie (fun _ => rfl) fun _ => rfl

@[simp] theorem State.mvmView_updMus {f : Mus → Mus} : (s.updMus q f).mvmView p n = s.mvmView p n :=
  State.mvmView_updDie (fun _ => rfl) fun _ => rfl

@[simp] theorem State.mvmView_updChain {f : AChain → AChain} : (s.updChain key f).mvmView p n = s.mvmView p n :=
  State.mvmView_congr rfl

@[simp] theorem State.mvmView_setBit : (s.setBit o i).mvmView p n = s.mvmView p n := State.mvmView_congr rfl

@[simp] theorem State.mvmView_event : (s.event d src inst k).mvmView p n = s.mvmView p n := State.mvmView_congr State.event_dies

@[simp] theorem State.mvmView_eventP : (s.eventP q src m k).mvmView p n = s.mvmView p n := State.mvmView_event

@[simp] theorem State.mvmView_waitPlace : (s.waitPlace q m).mvmView p n = s.mvmView p n := by
  unfold State.waitPlace
  rw [State.mvmView_setBit, State.mvmView_event]
  exact State.mvmView_updDie (fun _ => rfl) fun _ => rfl

/-- A muster that takes a tile touches no MVM and no packet. -/
@[simp] theorem State.mvmView_takeTile {r : MRun} : (s.takeTile q r m).1.mvmView p n = s.mvmView p n := by
  unfold State.takeTile
  split
  · rfl
  · split
    · dsimp only
      rw [State.mvmView_updTile, State.mvmView_takePlaceOf]
      exact fun _ => rfl
    · dsimp only
      split <;> simp

@[simp] theorem State.mvmView_takeRuns {pick : Nat → Bool} : (s.takeRuns q pick).mvmView p n = s.mvmView p n := by
  unfold State.takeRuns
  rw [State.mvmView_updMus]
  refine foldl_inv (fun a : State × List MRun => a.1.mvmView p n) _ (fun a r => ?_) _ _
  exact foldl_inv (fun b : State × MRun => b.1.mvmView p n) _ (fun b m => State.mvmView_takeTile) _ _

/-- A tile that enters a state keeps its MVMs, and its die the packets. -/
@[simp] theorem State.mvmView_setTileState {st : TileState} : (s.setTileState q m st).mvmView p n = s.mvmView p n := by
  have htile := State.mvmView_updTile (s := s) (q := q) (m := m) (p := p) (n := n) (f := fun t =>
    if t.fence && (st = .ready || st = .hold || st = .fenced) then { t with st := .fenced, fence := false } else { t with st := st })
    fun x => by split <;> rfl
  unfold State.setTileState
  dsimp only
  split
  · rw [State.mvmView_takeRuns, htile]
  · exact htile

@[simp] theorem State.mvmView_leaveRead : (s.leaveRead q m).mvmView p n = s.mvmView p n := by
  unfold State.leaveRead
  dsimp only
  split <;> simp

/-- A packet joins the result buffer. -/
theorem State.mvmView_putPacket {x : Packet} {ps : List Packet} {bs : List Nat} (h : s.mvmView p n = (ps, bs)) :
    (s.updDie p fun d => { d with packets := d.packets ++ [x] }).mvmView p n = (ps ++ [x], bs) := by
  obtain ⟨hps, hbs⟩ := Prod.mk.inj h
  unfold State.mvmView
  rw [State.die_updDie, State.tile_updDie, hps, hbs]
  exact fun _ => rfl

/-- The oldest MVM leaves the banks of its tile. -/
theorem State.mvmView_dropBank : (s.updTile p n fun t => { t with banks := t.banks.tail }).mvmView p n =
    ((s.mvmView p n).1, (s.mvmView p n).2.tail) := by
  unfold State.mvmView
  rw [State.tile_updTile]
  simp [State.updTile]

/-- An MVM whose codes are final leaves the banks, and its packet, an overrange packet where it splits, joins the result buffer. -/
theorem State.finishMvm_packet (s : State) (p n : Nat) (r : TileRead) (err : List Int) : ∃ x : Packet,
    (s.finishMvm p n r err).mvmView p n = ((s.die p).packets ++ [x], (s.tile p n).banks.tail) ∧
    x.chain = r.chain ∧ x.tile = n ∧ x.leaf = r.busy.headD {} := by
  unfold State.finishMvm
  dsimp only
  split
  · refine ⟨_, State.mvmView_putPacket ?_, rfl, rfl, rfl⟩
    simp only [State.mvmView_setBit, State.mvmView_eventP, State.mvmView_updChain, State.mvmView_updRead, State.mvmView_dropBank]
    rfl
  · refine ⟨_, State.mvmView_putPacket ?_, rfl, rfl, rfl⟩
    split <;>
      simp only [State.mvmView_setBit, State.mvmView_eventP, State.mvmView_updRead, State.mvmView_dropBank] <;> rfl

/-- The oldest MVM of a tile with a read in progress ends, and the tile leaves READ where it was the last. -/
theorem State.mvmComplete_finishes {r : TileRead} {rest : List Nat} {err : List Int} (hbanks : (s.tile p n).banks = key :: rest)
    (hr : (s.die p).reads.find? (fun r => decide (r.chain = key) && decide (r.tile = n)) = some r) (hbusy : r.busy ≠ []) :
    s.mvmComplete p n err = (s.finishMvm p n r err).leaveRead p n := by
  simp [State.mvmComplete, hbanks, hr, hbusy]

/-! The oldest packet of a die and its oldest ready result move on (R80, R83, R242). -/

/-- An overrange packet leaves the buffer and adds nothing (R80). -/
theorem State.takePacket_overrange {x : Packet} {rest : List Packet} (hpk : (s.die p).packets = x :: rest)
    (hheld : s.resultHeld p = false) (hovr : x.ovr = true) :
    s.takePacket p = (s.seeRefs p x).updDie p fun d => { d with packets := rest } := by
  simp [State.takePacket, hpk, hheld, hovr]

/-- A packet whose records are read leaves the buffer, and its parts are added into its chain (R83). -/
theorem State.takePacket_adds {x : Packet} {rest : List Packet} {c : AChain} {bs : List Byte} (hpk : (s.die p).packets = x :: rest)
    (hheld : s.resultHeld p = false) (hovr : x.ovr = false)
    (hc : ((s.seeRefs p x).updDie p fun d => { d with packets := rest }).findChain x.chain = some c)
    (hread : ((s.seeRefs p x).updDie p fun d => { d with packets := rest }).fetch baMaster (recAddr p x.tile 0) 2048 = (some bs, t)) :
    s.takePacket p = ((t.addPacket p x).chainSettle 65536).finishWork c.own := by
  simp [State.takePacket, hpk, hheld, hovr, hc, hread]

/-- The oldest ready result whose records are read joins the queue of its engine, and its chain is done (R242). -/
theorem State.deliver_joins {c : AChain}
    (hc : s.chains.find? (fun c => c.die = p && c.kernel != 0 && s.chainReady c && decide ((s.drv c.engine).aq.length < 64)) = some c)
    (hread : (s.readRecords c).1 = true) : s.deliver p =
      (((s.readRecords c).2.resultOf c).2.2.updDrv c.engine fun d => { d with aq := d.aq ++
        [c.entry ((s.readRecords c).2.resultOf c).1 ((s.readRecords c).2.resultOf c).2.1] }).dropChains (·.key = c.key) := by
  simp [State.deliver, hc, hread]

/-! Quiescing a die (R98). -/

/-- The maintenance window that a change of QUIESCE opens or ends changes no register. -/
theorem State.afterQuiesce_regs {was : Bool} : (s.afterQuiesce p was).regs = s.regs := by
  have hnote : (s.noteWindow p).regs = s.regs := by
    unfold State.noteWindow
    split
    · rfl
    · exact foldl_inv (fun t : State => t.regs) _ (fun t b => State.pdUpd_regs t 3 b _) _ _
  unfold State.afterQuiesce
  split
  · exact hnote
  · rfl

theorem State.quiesced_setDieQuiesce (on : Bool) : (s.setDieQuiesce p on).quiesced p = on := by
  have hbit : (s.setDieQuiesce p on).quiesced p = (s.setFld (pst p + 0x10) 12 12 (b2n on)).quiesced p := by
    unfold State.quiesced State.bit State.reg State.setDieQuiesce
    rw [State.afterQuiesce_regs]
  rw [hbit]
  unfold State.quiesced
  rw [State.bit_setFld_self _ _ _ _ _ _ (by decide) (by decide)]
  cases on <;> rfl

end

/-- Settles O29: a started MVM is seen in its tile, one that ends in its die's packets and its tile's banks; packets, results and
QUIESCE take the one branch that their conditions leave. -/
theorem arrayCommandsComplete : Obligations.ArrayCommandsComplete := by
  intro s p n hp hn
  refine ⟨?start, ?complete, ?packet, ?deliver, ?quiesce⟩
  case start =>
    intro r hr hst hrun hq hf hfence hbanks hfree hroom
    have hnf : (s.tile p n).st ≠ .fenced := by rcases hst with h | h <;> rw [h] <;> decide
    have ht := State.tile_startMvm (r := r) hnf hfree hroom
    rw [← State.mvmStart_runs hr hst hrun hq hf hfence hbanks] at ht
    exact ⟨_, onUnit_tile hp hn _, by rw [ht], by rw [ht], by rw [ht]⟩
  case complete =>
    intro key rest r err hbanks hr hbusy
    have hkey : r.chain = key := by
      have hfound := List.find?_some hr
      simp only [Bool.and_eq_true, decide_eq_true_eq] at hfound
      obtain ⟨hkey, -⟩ := hfound
      exact hkey
    obtain ⟨x, hview, hchain, htile, hleaf⟩ := s.finishMvm_packet p n r err
    rw [← State.mvmView_leaveRead (q := p) (m := n), ← State.mvmComplete_finishes hbanks hr hbusy, hbanks] at hview
    obtain ⟨hpk, hbk⟩ := Prod.ext_iff.mp hview
    exact ⟨_, x, onUnit_tile hp hn _, hbk, hpk, hchain.trans hkey, htile, hleaf⟩
  case packet =>
    intro x rest hf hpk hheld
    have hexec : exec (.codePacket p) s = .next (s.takePacket p) :=
      (onUnit_die hp _).trans (congrArg _ (if_neg (by rw [hf]; decide)))
    rw [hexec]
    exact ⟨fun hovr => congrArg _ (State.takePacket_overrange hpk hheld hovr),
      fun c bs s2 hovr hc hread => congrArg _ (State.takePacket_adds hpk hheld hovr hc hread)⟩
  case deliver => exact fun c hc hread => (onUnit_die hp _).trans (congrArg _ (State.deliver_joins hc hread))
  case quiesce =>
    intro master on hl
    exact ⟨(onUnit_die hp _).trans (congrArg _ (lets_guard hl _)), State.quiesced_setDieQuiesce on⟩

end Sys2Proof.Machine

/-! PROOFS. Array writes: whole-column writes, the sequences of the engines on their port, and the program descriptors. -/

namespace Sys2Proof.Machine

/-! Whole-column writes (R101, R103). -/

section
variable {s : State} {p q pt pt' row row' pcol pcol' copy n : Nat} {c : Cells} {w : Int}

@[simp] theorem State.cells_setCells_self : (s.setCells p pt row pcol c).cells p pt row pcol = c := by
  simp [State.cells, State.setCells]

/-- Cells of another die, or under another key, stay. -/
theorem State.cells_setCells_ne (h : q ≠ p ∨ cellKey pt' row' pcol' ≠ cellKey pt row pcol) :
    (s.setCells p pt row pcol c).cells q pt' row' pcol' = s.cells q pt' row' pcol' := by
  unfold State.cells State.setCells
  by_cases hq : q = p
  · subst hq
    rw [State.die_updDie, mapGet_mapSet_ne _ _ _ (h.resolve_left (· rfl))]
  · rw [State.die_updDie_ne _ _ _ _ hq]

/-- A row without failing cells takes its target cells. -/
theorem State.writeRow_whole :
    (s.writeRow p pt pcol row copy w [] n).2 = s.setCells p pt row pcol ((Aim.canon w).target (s.cells p pt row pcol)) := rfl

/-- The level of a canonical pair that a target takes, the found one where the difference does not change (R101). -/
def pairLevel (d found : Int) (a : Nat) (canon : Int) : Nat := if d = found then a else canon.toNat

/-- The target of a whole-column write, level by level. -/
theorem Aim.target_canon (f : Cells) : (Aim.canon w).target f =
    ⟨pairLevel (wholePair w).1 (f.mp - f.mm) f.mp (wholePair w).1,
      pairLevel (wholePair w).1 (f.mp - f.mm) f.mm (-(wholePair w).1),
      pairLevel (wholePair w).2 (f.np - f.nm) f.np (wholePair w).2,
      pairLevel (wholePair w).2 (f.np - f.nm) f.nm (-(wholePair w).2)⟩ := rfl

/-- A pair takes a difference within the range of a cell: it is left alone where it has it already, and canonical elsewhere. -/
theorem pairLevel_takes {d : Int} (a b : Nat) (hlo : -15 ≤ d) (hhi : d ≤ 15) :
    let x := pairLevel d (a - b) a d
    let y := pairLevel d (a - b) b (-d)
    (x : Int) - y = d ∧
      if (a : Int) - b = d then x = a ∧ y = b else (x : Int) = max d 0 ∧ (y : Int) = max (-d) 0 ∧ x ≤ 15 ∧ y ≤ 15 := by
  unfold pairLevel
  by_cases h : (a : Int) - b = d
  · simp [h]
  · simp only [if_neg h, if_neg (Ne.symm h)]
    omega

/-- The differences of a whole-column write stay within the cells' range, and together make the code. -/
theorem wholePair_spec (hlo : -135 ≤ w) (hhi : w ≤ 135) :
    (-15 ≤ (wholePair w).1 ∧ (wholePair w).1 ≤ 15) ∧ (-15 ≤ (wholePair w).2 ∧ (wholePair w).2 ≤ 15) ∧
      8 * (wholePair w).1 + (wholePair w).2 = w ∧
      (-15 ≤ (w + 4) / 8 → (w + 4) / 8 ≤ 15 → -4 ≤ (wholePair w).2 ∧ (wholePair w).2 ≤ 3) := by
  unfold wholePair clampI
  dsimp only
  split
  · omega
  · split <;> omega

end

/-- Settles O58: each pair takes its difference by `pairLevel_takes`, the code is their sum, and `setCells` frames the rest. -/
theorem wholeColumnWritesPlaceTheCode : Obligations.WholeColumnWritesPlaceTheCode := by
  intro s p pt pcol row copy n w hlo hhi
  obtain ⟨⟨hM, hM'⟩, ⟨hm, hm'⟩, hsum, hminor⟩ := wholePair_spec hlo hhi
  obtain ⟨hmajor, hcanonM⟩ := pairLevel_takes (s.cells p pt row pcol).mp (s.cells p pt row pcol).mm hM hM'
  obtain ⟨hdiff, hcanonm⟩ := pairLevel_takes (s.cells p pt row pcol).np (s.cells p pt row pcol).nm hm hm'
  have hc : ((s.writeRow p pt pcol row copy w [] n).2).cells p pt row pcol =
      (Aim.canon w).target (s.cells p pt row pcol) := by
    rw [State.writeRow_whole, State.cells_setCells_self]
  dsimp only
  rw [hc, Aim.target_canon]
  refine ⟨hmajor, hdiff, ?_, hminor, hcanonM, hcanonm, fun p' pt' row' pcol' h => State.cells_setCells_ne h⟩
  unfold Cells.code
  rw [hmajor, hdiff, hsum]

/-! Rescale, remap, retirement and restore on the owned port (R121, R142, R143, R160). -/

section
variable {s : State} {p pt pcol n home sp retries : Nat} {bad : List BadCell}

/-- The column that takes over is the first free spare. -/
theorem State.remapColumn_spare (hn : s.servesIndex p pt = some n) (hu : s.colInUse p n pcol = true)
    (hs : (List.range 16).find? (fun i => s.fld (colMapOff p n i) 31 30 = 0) = some sp) :
    s.remapColumn p pt pcol bad retries =
      s.remapTo p n pt (if pcol < 512 then pcol else s.fld (colMapOff p n (pcol - 512)) 8 0) pcol sp bad retries := by
  unfold State.remapColumn
  rw [hn]
  dsimp only
  rw [if_neg (by rw [hu]; decide), hs]

/-- With no spare free, the column's tile is entered for retirement. -/
theorem State.remapColumn_retires (hn : s.servesIndex p pt = some n) (hu : s.colInUse p n pcol = true)
    (hs : (List.range 16).find? (fun i => s.fld (colMapOff p n i) 31 30 = 0) = none) :
    s.remapColumn p pt pcol bad retries =
      (s.updPort p fun q => { q with remaps := q.remaps.filter (· != (pt, pcol)) }).askRetire p n := by
  unfold State.remapColumn
  rw [hn]
  dsimp only
  rw [if_neg (by rw [hu]; decide), hs]

/-- The remap and rescale engine on its port runs the first rescale it may. -/
theorem exec_columnRescaleRun {j : RsJob} (hp : p < 8) (hmay : s.seqMay p 1 bad = true)
    (hj : ((s.port p).jobs.filter (·.unfence) ++ (s.port p).jobs).find? (s.jobMay p) = some j) :
    exec (.columnRescaleRun p bad retries) s = .next (s.rescaleColumn p j bad (s.retried p retries)) := by
  refine (onUnit_die hp _).trans (congrArg _ ?_)
  simp only [hmay, hj, if_true]

/-- The remap and rescale engine on its port moves the first column it may. -/
theorem exec_columnRemap (hp : p < 8) (hmay : s.seqMay p 1 bad = true) (hr : s.mayRemap p = true)
    (hx : (s.port p).remaps.find? (s.remapMay p) = some (pt, pcol)) :
    exec (.columnRemap p bad retries) s = .next ((s.remapColumn p pt pcol bad (s.retried p retries)).portSettle p) := by
  refine (onUnit_die hp _).trans (congrArg _ ?_)
  simp only [hmay, hr, hx, Bool.and_self, if_true]

theorem exec_tileRetire {cols : Nat} (hp : p < 8) (hn : n < 8192) (hmay : s.seqMay p 1 bad = true) (hr : s.mayRemap p = true)
    (hc : s.columnMay p n true = true) :
    exec (.tileRetire p n cols bad) s = .next ((s.retireTile p n cols bad).portSettle p) := by
  refine (onUnit_tile hp hn _).trans (congrArg _ ?_)
  simp only [hmay, hr, hc, Bool.and_self, if_true]

/-- The muster engine on its port restores the first reference column it may. -/
theorem exec_referenceRestore (hp : p < 8) (hmay : s.seqMay p 2 bad = true)
    (hx : (s.port p).restore.find? (s.restoreMay p) = some (pt, pcol)) (hn : s.servesIndex p pt = some n) :
    exec (.referenceRestore p bad retries) s = .next (s.restoreRef p pt pcol bad (s.retried p retries)) := by
  refine (onUnit_die hp _).trans (congrArg _ ?_)
  simp only [hmay, hx, hn, Option.isSome_some, if_true]

end

/-- Settles O32: an engine that owns its port runs its first sequence, and a remap goes to a spare or to the tile's retirement. -/
theorem maintenanceCommandsComplete : Obligations.MaintenanceCommandsComplete := by
  intro s p bad retries hp
  refine ⟨fun hmay => ⟨fun j hj => exec_columnRescaleRun hp hmay hj, ?remap, ?retire⟩, ?restore⟩
  case remap =>
    intro hr pt pcol n hx hn hu
    exact ⟨fun sp hs => (exec_columnRemap hp hmay hr hx).trans (by rw [State.remapColumn_spare hn hu hs]),
      fun hs => (exec_columnRemap hp hmay hr hx).trans (by rw [State.remapColumn_retires hn hu hs])⟩
  case retire => exact fun hr n cols hn hc => exec_tileRetire hp hn hmay hr hc
  case restore => exact fun hmay pt pcol n hx hn => exec_referenceRestore hp hmay hx hn

/-! The program descriptors (R144 to R146). -/

section
variable {s s1 : State} {c n : Nat} {d : Desc} {bs : List Byte}

/-- A PROGRAM_FLUSH that its check lets through starts on its dies, all in RUN and with no flush in hand. -/
theorem State.programFlush_starts (hne : dieList (d.u8 16) ≠ []) (hchk : (s.flushCheck c d).1 = stSuccess)
    (hdies : ∀ p ∈ dieList (d.u8 16), (s.die p).state = .run ∧ (s.port p).flush = none) :
    s.programFlush c d = (((dieList (d.u8 16)).foldl (fun t p => (t.newWindow p).updPort p fun q =>
      { q with flush := some { desc := some (c, d.ptr), lim := d.u16 18, rescale := (d.u8 17).testBit 0,
                               remap := (d.u8 17).testBit 1, waitRecon := (d.u8 17).testBit 2 } }) s).working c d.ptr).finishFlush
      c d := by
  have hfree : ((dieList (d.u8 16)).any fun p => (s.die p).state != .run || (s.port p).flush.isSome) = false := by
    rw [List.any_eq_false]
    intro p hp
    obtain ⟨hrun, hflush⟩ := hdies p hp
    simp [hrun, hflush]
  simp [State.programFlush, hne, hchk, hfree]

/-- No entry of a list lacks its right. -/
theorem find_denied_eq_none {es : List Nat} {f : Nat → Bool} (h : ∀ e ∈ es, f e = true) : (es.find? fun e => !f e) = none := by
  rw [List.find?_eq_none]
  intro e he
  simp [h e he]

/-- PROGRAM_DIRECT with its entries read and its rights in order waits at its port, which has no other in hand. -/
theorem State.programDirect_waits (hread : s.readRecord (s.ctxWho c) (d.u64 24) (8 * d.u16 18) = (.inr bs, s1))
    (hacl : ∀ e ∈ entriesOf bs (d.u16 18),
      s.aclAllows (10 + d.u8 16 % 8) rightProg (s.ctxMaster c) (reqTile e) (reqTile e) = true)
    (hstore : s.mayStore (s.ctxWho c) (d.u64 32) (2 * d.u16 18) = true) (hfree : (s.port (d.u8 16 % 8)).direct = none) :
    s.programDirect c d = (s1.updPort (d.u8 16 % 8) fun q =>
      { q with direct := some { ctx := c, ptr := d.ptr, master := d.u8 17 = 1, entries := entriesOf bs (d.u16 18) } }).working c
      d.ptr := by
  have hnone := find_denied_eq_none hacl
  have hmaster : (s.ctxWho c).master = s.ctxMaster c := rfl
  simp [State.programDirect, hfree, hread, hstore, hnone, hmaster]

/-- COLUMN_RESCALE with its entries read and its rights in order queues a job for each entry. -/
theorem State.columnRescale_queues (hread : s.readRecord (s.ctxWho c) (d.u64 24) (8 * d.u16 18) = (.inr bs, s1))
    (hacl : ∀ e ∈ entriesOf bs (d.u16 18),
      s.aclAllows (10 + d.u8 16 % 8) rightProg (s.ctxMaster c) (reqTile e) (reqTile e) = true)
    (hstore : s.mayStore (s.ctxWho c) (d.u64 32) (4 * d.u16 18) = true) :
    s.columnRescale c d = (s1.updPort (d.u8 16 % 8) fun q =>
      { q with jobs := q.jobs ++ rescaleJobs c d.ptr (d.u8 17) (entriesOf bs (d.u16 18)) }).working c d.ptr := by
  have hnone := find_denied_eq_none hacl
  have hmaster : (s.ctxWho c).master = s.ctxMaster c := rfl
  simp [State.columnRescale, hread, hstore, hnone, hmaster]

/-- A descriptor at hand is carried out by the command of its opcode. -/
theorem onUnit_runDesc {op : Nat} (h : s.atHand c n op = some d) (f : Desc → State → State) :
    onUnit (ctxOk c) (s.runDesc c n op f) = .next (f d s) := by
  obtain ⟨hc, -, hrun⟩ := atHand_spec h
  rw [hrun]
  exact if_pos hc

end

/-- Settles O11: each descriptor at hand is carried out, and with its rights in order hands its work to the ports. -/
theorem arrayDescriptorsComplete : Obligations.ArrayDescriptorsComplete := by
  intro s c n d
  refine ⟨?flush, ?lists⟩
  case flush =>
    intro h hne hchk hdies
    obtain ⟨-, rfl, -⟩ := atHand_spec h
    exact (onUnit_runDesc h _).trans (congrArg _ (State.programFlush_starts hne hchk hdies))
  case lists =>
    intro bs s1 hread
    dsimp only
    intro hacl
    refine ⟨fun hstore hfree => ⟨fun h hmode => ?_, fun h hmode => ?_⟩, fun hstore h => ?_⟩
    · obtain ⟨-, rfl, -⟩ := atHand_spec h
      refine (onUnit_runDesc h _).trans (congrArg _ ?_)
      rw [if_pos hmode, State.programDirect_waits hread hacl hstore hfree, hmode]
      rfl
    · obtain ⟨-, rfl, -⟩ := atHand_spec h
      refine (onUnit_runDesc h _).trans (congrArg _ ?_)
      rw [if_pos hmode, State.programDirect_waits hread hacl hstore hfree, hmode]
      rfl
    · obtain ⟨-, rfl, -⟩ := atHand_spec h
      have hq := State.columnRescale_queues hread hacl hstore
      have hrun : ∀ mode, d.u8 17 = mode → runRescale c d.ptr mode s = .next (s.columnRescale c d) := fun mode hmode =>
        (onUnit_runDesc h _).trans (congrArg _ (if_pos hmode))
      rw [hq] at hrun
      exact ⟨hrun 0, hrun 1, hrun 2⟩

end Sys2Proof.Machine

/-! PROOFS. Array writes: the program port, its arbiter, scopes and VPROG switch. -/

namespace Sys2Proof.Machine

/-! What an event, a fault record, a request to memory and a ring record leave of the dies: all of it. -/

section
variable {s : State} {a c d f i k n o p sev code subj row kind master sym unit_ t need right lo hi src dec l link func vec st : Nat}
  {m : Mark} {pl : Place} {es : Errs} {bs : List Byte} {rep : Bool} {chk : Chk} {who : Who} {ad : DAddr} {dt : List Nat}

@[simp] theorem State.satAdd_dies : (s.satAdd o hi lo n).dies = s.dies := rfl

@[simp] theorem State.eventF_dies : (s.eventF f src i n).dies = s.dies := State.event_dies

@[simp] theorem State.raiseFault_dies : (s.raiseFault sev code subj dt).dies = s.dies := by
  unfold State.raiseFault; dsimp only
  split
  · rfl
  · split <;> simp

@[simp] theorem State.drain_dies : (s.drain rep).dies = s.dies := by
  unfold State.drain; dsimp only
  split
  · split <;> simp
  · split <;> simp

@[simp] theorem State.moduleStrike_dies : (s.moduleStrike n).dies = s.dies := by
  unfold State.moduleStrike; dsimp only
  split <;> simp

@[simp] theorem State.threshold_dies : (s.threshold row subj n).2.dies = s.dies := by
  unfold State.threshold; dsimp only
  split <;> simp

@[simp] theorem State.deny_dies : (s.deny t need master unit_).dies = s.dies := by
  unfold State.deny; dsimp only
  split <;> simp

@[simp] theorem State.aclCheck_dies : (s.aclCheck t right master lo hi).2.dies = s.dies := by
  unfold State.aclCheck
  split <;> simp

@[simp] theorem State.refuse_dies : (s.refuse chk right master a).dies = s.dies := by
  cases chk <;> simp [State.refuse]

@[simp] theorem State.setErrsIn_dies : (s.setErrsIn es pl).dies = s.dies := by
  unfold State.setErrsIn; dsimp only
  split
  · rfl
  · split
    · split <;> rfl
    · rfl

@[simp] theorem State.setErrs_dies : (s.setErrs a es).dies = s.dies := State.setErrsIn_dies

@[simp] theorem State.setGood_dies : (s.setGood a).dies = s.dies := State.setErrs_dies

@[simp] theorem State.logUe_dies : (s.logUe kind master a).dies = s.dies := by
  unfold State.logUe; dsimp only
  split <;> simp

@[simp] theorem State.refreshStack_dies : (s.refreshStack k st).dies = s.dies := rfl

@[simp] theorem State.markRetired_dies : (s.markRetired k p).dies = s.dies := rfl

@[simp] theorem State.retireChannel_dies : (s.retireChannel k c).dies = s.dies := by
  unfold State.retireChannel; dsimp only
  split
  · rfl
  · split
    · rfl
    · split <;> simp

@[simp] theorem State.orderRetire_dies : (s.orderRetire k p).dies = s.dies := by
  unfold State.orderRetire; dsimp only
  split
  · rfl
  · split
    · split
      · rfl
      · split <;> simp
    · split <;> simp

@[simp] theorem State.correctedRead_dies : (s.correctedRead k p sym).dies = s.dies := by
  unfold State.correctedRead; dsimp only
  split <;> simp

@[simp] theorem State.correctedSram_dies : (s.correctedSram f n).dies = s.dies := by
  unfold State.correctedSram; dsimp only
  split <;> simp

@[simp] theorem State.noteRead_dies : (s.noteRead kind master a m pl).dies = s.dies := by
  unfold State.noteRead
  split
  · split <;> simp
  · split <;> simp
  · rfl

@[simp] theorem State.stackEvent_dies : (s.stackEvent src pl).dies = s.dies := by
  cases pl <;> simp [State.stackEvent]

@[simp] theorem State.poisonLine_dies : (s.poisonLine l).dies = s.dies := by
  unfold State.poisonLine
  split <;> simp

@[simp] theorem State.writeLine_dies : (s.writeLine master a bs).dies = s.dies := by
  unfold State.writeLine; dsimp only
  split
  · split <;> simp
  · split <;> simp

@[simp] theorem State.writeLines_dies : (s.writeLines master n a bs).dies = s.dies := by
  induction n generalizing s a bs with
  | zero => rfl
  | succ n ih =>
    unfold State.writeLines
    split
    · rfl
    · simp [ih]

@[simp] theorem State.writeMem_dies : (s.writeMem master a bs).dies = s.dies :=
  State.writeLines_dies

@[simp] theorem State.store_dies : (s.store who ad bs).2.dies = s.dies := by
  unfold State.store
  split
  · split <;> simp
  · dsimp only
    split
    · simp
    · split <;> simp
  · rfl

@[simp] theorem State.ringWrite_dies : (s.ringWrite kind dec).dies = s.dies := by
  have hclear : ∀ (mask : Nat) (g : Nat → Nat → Bool), (s.cntClear mask g).dies = s.dies := fun _ _ => rfl
  unfold State.ringWrite; dsimp only
  split <;> simp [hclear]

@[simp] theorem State.ringRecord_dies : (s.ringRecord kind dec).dies = s.dies := by
  have hfree : s.takeFree.2.dies = s.dies := rfl
  unfold State.ringRecord; dsimp only
  split
  · rfl
  · split
    · simp
    · split <;> simp [hfree]

@[simp] theorem State.ctxError_dies : (s.ctxError c code).dies = s.dies := by
  unfold State.ctxError; dsimp only
  split <;> simp

@[simp] theorem State.ctxIrq_dies : (s.ctxIrq c).dies = s.dies := by
  unfold State.ctxIrq; dsimp only
  split
  · rfl
  · split <;> simp

end

/-! The port of a die, as its tiles change state (R127). -/

section
variable {s t : State} {d p q m n k src i : Nat} {st : TileState} {r : MRun} {pick : Nat → Bool}

theorem State.port_congr (h : s.dies = t.dies) : s.port p = t.port p := by unfold State.port; rw [State.die_congr h]

/-- A change of a die that keeps its port keeps every port. -/
theorem State.port_updDie {f : Die → Die} (h : ∀ x, (f x).port = x.port) : (s.updDie q f).port p = s.port p := by
  by_cases e : p = q
  · subst e; simp [State.port, h]
  · simp [State.port, e]

@[simp] theorem State.port_event : (s.event d src i k).port p = s.port p := State.port_congr State.event_dies

@[simp] theorem State.port_takePlaceOf : (s.takePlaceOf q m).port p = s.port p := State.port_updDie fun _ => rfl

@[simp] theorem State.port_updMus {f : Mus → Mus} : (s.updMus q f).port p = s.port p := State.port_updDie fun _ => rfl

@[simp] theorem State.port_waitPlace : (s.waitPlace q m).port p = s.port p := by
  unfold State.waitPlace
  rw [State.port_congr (State.setBit_dies _ _ _), State.port_event]
  exact State.port_updDie fun _ => rfl

@[simp] theorem State.port_takeTile : (s.takeTile q r m).1.port p = s.port p := by
  unfold State.takeTile
  split
  · rfl
  · split
    · simp
    · dsimp only
      split <;> simp

@[simp] theorem State.port_takeRuns : (s.takeRuns q pick).port p = s.port p := by
  unfold State.takeRuns
  rw [State.port_updMus]
  refine foldl_inv (fun a : State × List MRun => a.1.port p) _ (fun a r => ?_) _ _
  exact foldl_inv (fun b : State × MRun => b.1.port p) _ (fun b m => State.port_takeTile) _ _

@[simp] theorem State.port_setTileState : (s.setTileState q m st).port p = s.port p := by
  unfold State.setTileState
  dsimp only
  split <;> simp

@[simp] theorem State.port_leaveProgram : (s.leaveProgram q m).port p = s.port p := by
  unfold State.leaveProgram
  dsimp only
  split <;> simp

end

/-! The arbiter and the scopes (R125 to R127). -/

section
variable {s : State} {p n i r o col ptr : Nat} {xs : List Nat} {kind : ScopeKind}

/-- What the arbiter picks is of the list it picks from. -/
theorem mem_of_firstFrom (h : firstFrom ptr xs = some i) : i ∈ xs := by
  unfold firstFrom at h
  obtain ⟨k, -, hk⟩ := List.exists_of_findSome?_eq_some h
  dsimp only at hk
  split at hk
  · rename_i hmem
    cases hk
    exact List.contains_iff_mem.mp hmem
  · cases hk

/-- The winner is eligible, and none of the eligible has a higher rank. -/
theorem State.winner_spec (h : s.winner p = some (i, r)) : i ∈ s.eligible p ∧ ∀ j ∈ s.eligible p, s.rank p j ≤ s.rank p i := by
  unfold State.winner at h
  dsimp only at h
  obtain ⟨i', hi, heq⟩ := Option.map_eq_some_iff.mp h
  cases heq
  have hmem := mem_of_firstFrom hi
  simp only [List.mem_filter, decide_eq_true_eq] at hmem
  obtain ⟨hel, hrank⟩ := hmem
  refine ⟨hel, fun j hj => ?_⟩
  rw [hrank, List.foldl_eq_foldr]
  exact List.le_max_of_le' 0 (List.mem_map_of_mem hj) (le_refl _)

/-- The winner owns the port. -/
theorem State.owner_arbitrate (h : s.winner p = some (i, r)) : ((s.arbitrate p).port p).owner = some i := by
  simp [State.arbitrate, h]

theorem exec_portArbitrate (hp : p < 8) (hfree : (s.port p).owner = none) (hrecon : (s.port p).toRecon = [])
    (h : s.winner p = some (i, r)) : ∃ t : State, exec (.portArbitrate p) s = .next t ∧ (t.port p).owner = some i := by
  refine ⟨_, onUnit_die hp _, ?_⟩
  have hgrant : ((s.port p).owner.isNone && !(s.port p).reconHeld) = true := by simp [Port.reconHeld, hfree, hrecon]
  rw [if_pos hgrant, foldl_inv (fun u : State => u.port p) _ fun _ _ => State.port_event, State.owner_arbitrate h]

/-- A port that a higher rank asks for, with no scope and no batch running, passes its grant (R120, R126). -/
theorem State.preempt_passes (hs : (s.port p).scopes = []) (hr : s.outranked p = true) (hi : (s.port p).idle = true)
    (hsl : s.sliceOnPort p = false) : s.preempt p = (s.passGrant p).arbitrate p := by
  simp [State.preempt, hs, hr, hi, hsl]

/-- With a batch running, its owner issues no further one (R126). -/
theorem State.preempt_yields (hs : (s.port p).scopes = []) (hr : s.outranked p = true) (hi : (s.port p).idle = false) :
    s.preempt p = s.updPort p fun q => { q with yielding := true } := by
  simp [State.preempt, hs, hr, hi]

theorem State.dropRequest_drops (ho : (s.port p).owner ≠ none) (hb : (s.port p).batches = []) (hs : (s.port p).scopes = [])
    (hsl : s.sliceOnPort p = false) :
    s.dropRequest p = s.updPort p fun q => { q with owner := none, issued := false, yielding := false } := by
  simp [State.dropRequest, Option.isSome_iff_ne_none.mpr ho, hb, hs, hsl]

/-- An owner with LOCKEN, below the tile limit, locks a tile that no scope holds (R127). -/
theorem State.lockSet_locks (ho : (s.port p).owner = some o) (hl : s.lockEn p o = true)
    (hfree : ∀ sc ∈ (s.port p).scopes, sc.tile ≠ n) (hlim : (s.port p).scopes.length < s.tileLim p) :
    s.lockSet p n col kind = s.updPort p fun q => { q with scopes := q.scopes ++ [⟨n, col, kind, o⟩] } := by
  have hnone : ((s.port p).scopes.any fun sc => decide (sc.tile = n)) = false := by
    rw [List.any_eq_false]
    intro sc hsc
    simp [hfree sc hsc]
  simp [State.lockSet, ho, hl, hnone, hlim]

theorem State.scopes_lockClear : ((s.lockClear p n).port p).scopes = (s.port p).scopes.filter (·.tile != n) := by
  simp [State.lockClear]

theorem exec_livenessRevoke (hp : p < 8) (ho : (s.port p).owner = some o) (hs : (s.port p).scopes ≠ []) :
    exec (.livenessRevoke p) s = .next (s.revoke p o) := by
  refine (onUnit_die hp _).trans (congrArg _ ?_)
  simp only [ho, hs, if_false]

/-- Out of its window the switch opens, and every batch in flight ends where it stands (R498). -/
theorem exec_vprogOutOfWindow (hp : p < 8) (h : (s.port p).vClosed = true) :
    exec (.vprogOutOfWindow p) s = .next (s.vprogOut p) :=
  (onUnit_die hp _).trans (congrArg _ (if_pos h))

end

/-- Settles O30: the winner of an arbitration is of the highest rank and stays owner, and each other command takes the branch that its
conditions leave. -/
theorem portCommandsComplete : Obligations.PortCommandsComplete := by
  intro s p hp
  refine ⟨?arbitrate, fun hs hr => ⟨?passes, ?yields⟩, ?drop, ?lock, ?clear, fun o ho hs => exec_livenessRevoke hp ho hs,
    ?close, ?window, ?out, ?outOne, ?idle⟩
  case arbitrate =>
    intro i r hfree hrecon h
    obtain ⟨t, ht, howner⟩ := exec_portArbitrate hp hfree hrecon h
    exact ⟨t, ht, howner, State.winner_spec h⟩
  case passes =>
    intro hi hsl i r h
    refine ⟨_, onUnit_die hp _, ?_⟩
    rw [State.preempt_passes hs hr hi hsl, State.owner_arbitrate h]
  case yields => exact fun hi => (onUnit_die hp _).trans (congrArg _ (State.preempt_yields hs hr hi))
  case drop => exact fun ho hb hs hsl => (onUnit_die hp _).trans (congrArg _ (State.dropRequest_drops ho hb hs hsl))
  case lock =>
    exact fun n col kind o hn ho hl hfree hlim => (onUnit_tile hp hn _).trans (congrArg _ (State.lockSet_locks ho hl hfree hlim))
  case clear => exact fun n hn => ⟨_, onUnit_tile hp hn _, State.scopes_lockClear⟩
  case close => exact fun h => (onUnit_die hp _).trans (congrArg _ (if_pos h))
  case window => exact fun h => (onUnit_die hp _).trans (congrArg _ (if_pos h))
  case out =>
    intro h hb
    rw [exec_vprogOutOfWindow hp h]
    simp [State.vprogOut, hb]
  case outOne =>
    intro h b hb
    rw [exec_vprogOutOfWindow hp h]
    simp [State.vprogOut, hb]
  case idle => exact fun h => (onUnit_die hp _).trans (congrArg _ (if_pos h))

end Sys2Proof.Machine

/-! PROOFS. Array writes: the batches of the port and the reconcile engine. -/

namespace Sys2Proof.Machine

/-! The batches of a port and a tile of its die, which the completion of a flush or of a PROGRAM_DIRECT leaves as they are. -/

/-- The batches of a die's port, and one of its tiles. -/
def State.batchView (s : State) (p n : Nat) : List Batch × Tile := ((s.port p).batches, s.tile p n)

section
variable {s t : State} {p q n m c k ptr status : Nat} {d : Desc}

theorem State.batchView_congr (h : s.dies = t.dies) : s.batchView p n = t.batchView p n := by
  unfold State.batchView; rw [State.port_congr h, State.tile_congr h]

theorem State.batchView_updDie {f : Die → Die} (hp : ∀ x, (f x).port = x.port) (ht : ∀ x, (f x).tiles = x.tiles) :
    (s.updDie q f).batchView p n = s.batchView p n := by
  unfold State.batchView; rw [State.port_updDie hp, State.tile_updDie ht]

/-- The same change, written out in the table of dies. -/
theorem State.batchView_mapUpd {f : Die → Die} (hp : ∀ x, (f x).port = x.port) (ht : ∀ x, (f x).tiles = x.tiles) :
    ({ s with dies := mapUpd {} s.dies q f } : State).batchView p n = s.batchView p n := State.batchView_updDie hp ht

theorem State.batchView_updPort {f : Port → Port} (h : ∀ x, (f x).batches = x.batches) :
    (s.updPort q f).batchView p n = s.batchView p n := by
  unfold State.batchView
  rw [State.tile_updPort]
  by_cases e : p = q
  · subst e; rw [State.port_updPort, h]
  · rw [State.port_updPort_ne _ _ _ _ e]

@[simp] theorem State.batchView_setCtx {x : Ctx} : (s.setCtx c x).batchView p n = s.batchView p n := State.batchView_congr rfl

@[simp] theorem State.batchView_store {w : Who} {a : DAddr} {bs : List Byte} : (s.store w a bs).2.batchView p n = s.batchView p n :=
  State.batchView_congr State.store_dies

@[simp] theorem State.batchView_ctxIrq : (s.ctxIrq c).batchView p n = s.batchView p n := State.batchView_congr State.ctxIrq_dies

@[simp] theorem State.batchView_ctxError : (s.ctxError c k).batchView p n = s.batchView p n :=
  State.batchView_congr State.ctxError_dies

/-- What each step of a fold leaves of the view, the fold leaves. -/
theorem batchView_foldl {α : Type} {f : State → α → State} (h : ∀ s a, (f s a).batchView p n = s.batchView p n) (l : List α)
    (s : State) : (l.foldl f s).batchView p n = s.batchView p n :=
  foldl_inv (·.batchView p n) f h l s

@[simp] theorem State.noteWindow_dies : (s.noteWindow q).dies = s.dies := by
  unfold State.noteWindow
  split <;> rfl

@[simp] theorem State.batchView_newWindows : s.newWindows.batchView p n = s.batchView p n := by
  refine batchView_foldl (fun t q => ?_) _ _
  have hnote : (if t.quiesced q then t else t.noteWindow q).batchView p n = t.batchView p n := by
    split
    · rfl
    · exact State.batchView_congr State.noteWindow_dies
  dsimp only
  refine (State.batchView_mapUpd ?_ ?_).trans hnote <;> exact fun _ => rfl

@[simp] theorem State.batchView_closeStep : s.closeStep.batchView p n = s.batchView p n :=
  calc s.closeStep.batchView p n = (s.ringRecord 0 s.trn.decision).newWindows.batchView p n := State.batchView_congr rfl
    _ = (s.ringRecord 0 s.trn.decision).batchView p n := State.batchView_newWindows
    _ = s.batchView p n := State.batchView_congr State.ringRecord_dies

@[simp] theorem State.batchView_abandon : (s.abandon c).batchView p n = s.batchView p n := by
  unfold State.abandon
  split
  · rfl
  · split
    · refine batchView_foldl (fun t k => State.batchView_congr ?_) _ _
      split
      · split <;> simp
      · rfl
    · rw [State.batchView_closeStep]
      exact State.batchView_congr State.eventF_dies

@[simp] theorem State.batchView_settle : (s.settle c).batchView p n = s.batchView p n := by
  unfold State.settle
  dsimp only
  split <;> simp

/-- A completion that may be the last of the step closes it. -/
theorem State.batchView_flushCloses : (if s.flushCloses c d then s.closeStep else s).batchView p n = s.batchView p n := by
  split <;> simp

@[simp] theorem State.batchView_retire : (s.retire c d status).batchView p n = s.batchView p n := by
  unfold State.retire
  dsimp only
  rw [State.batchView_settle, State.batchView_flushCloses]
  refine State.batchView_congr ?_
  split <;> simp

@[simp] theorem State.batchView_writeCompletion : (s.writeCompletion c d status).batchView p n = s.batchView p n := by
  unfold State.writeCompletion
  dsimp only
  split
  · simp
  · split
    · split <;> simp
    · simp

@[simp] theorem State.batchView_complete : (s.complete c ptr status).batchView p n = s.batchView p n := by
  unfold State.complete
  dsimp only
  split
  · rfl
  · split <;> simp

@[simp] theorem State.batchView_resetList : (s.resetList q).batchView p n = s.batchView p n := by
  unfold State.resetList
  split
  · exact State.batchView_updPort fun _ => rfl
  · rfl

@[simp] theorem State.batchView_endPhase : (s.endPhase q).batchView p n = s.batchView p n := by
  unfold State.endPhase
  exact State.batchView_updDie (fun _ => rfl) fun _ => rfl

/-- The flush of a die ends: its list is empty and its phase closed. -/
theorem State.batchView_endFlush :
    (((s.resetList q).updPort q fun x => { x with flush := none }).endPhase q).batchView p n = s.batchView p n := by
  rw [State.batchView_endPhase]
  refine (State.batchView_updPort ?_).trans State.batchView_resetList
  exact fun _ => rfl

@[simp] theorem State.batchView_finishFlush : (s.finishFlush c d).batchView p n = s.batchView p n := by
  unfold State.finishFlush
  dsimp only
  split
  · split
    · rw [State.batchView_complete]
      exact batchView_foldl (fun _ _ => State.batchView_endFlush) _ _
    · rw [State.batchView_complete, State.batchView_store]
      exact batchView_foldl (fun _ _ => State.batchView_endFlush) _ _
  · rfl

@[simp] theorem State.batchView_finishDirect : (s.finishDirect q).batchView p n = s.batchView p n := by
  have hdone : (s.updPort q fun x => { x with direct := none }).batchView p n = s.batchView p n :=
    State.batchView_updPort fun _ => rfl
  unfold State.finishDirect
  dsimp only
  split
  · rfl
  · split
    · rfl
    · split
      · exact hdone
      · split
        · rw [State.batchView_complete, hdone]
        · rw [State.batchView_complete, State.batchView_store, hdone]

@[simp] theorem State.batchView_portSettle : (s.portSettle q).batchView p n = s.batchView p n := by
  unfold State.portSettle
  dsimp only
  split
  · simp
  · split
    · split
      · simp
      · split
        · rw [State.batchView_endFlush, State.batchView_finishDirect]
        · simp
    · split
      · rw [State.batchView_endFlush, State.batchView_finishDirect]
      · simp

end

/-! The start of a batch (R112, R116, R145). -/

section
variable {s : State} {p n owner pt : Nat} {items : List Item} {r : MRun}

@[simp] theorem State.tile_updMus {f : Mus → Mus} : (s.updMus p f).tile p n = s.tile p n := State.tile_updDie fun _ => rfl

/-- A muster does not take a tile that the port is programming. -/
theorem State.takeTile_programming (h : (s.tile p n).st = .program) : s.takeTile p r n = (s, r) := by
  simp [State.takeTile, State.musterMay, h]

/-- Nor does a run that takes no other tile. -/
theorem State.foldl_takeTile_programming {l : List Nat} (h : (s.tile p n).st = .program) (hl : ∀ m ∈ l, m = n) :
    l.foldl (fun (b : State × MRun) m => b.1.takeTile p b.2 m) (s, r) = (s, r) := by
  refine List.foldlRecOn (motive := (· = (s, r))) l _ rfl fun b hb m hm => ?_
  rw [hb, hl m hm]
  exact State.takeTile_programming h

/-- The runs that take tiles leave one in PROGRAM as it is. -/
theorem State.tile_takeRuns_programming (h : (s.tile p n).st = .program) : (s.takeRuns p (· = n)).tile p n = s.tile p n := by
  unfold State.takeRuns
  dsimp only
  rw [State.tile_updMus]
  refine congrArg (fun t : State => t.tile p n) (a₂ := s) ?_
  refine List.foldlRecOn (motive := fun a : State × List MRun => a.1 = s) _ _ rfl fun a ha r _ => ?_
  rw [ha]
  exact congrArg Prod.fst (State.foldl_takeTile_programming h (by simp))

/-- A tile that the port takes is in PROGRAM. -/
theorem State.st_setTileState_program : ((s.setTileState p n .program).tile p n).st = .program := by
  unfold State.setTileState
  dsimp only
  split
  · rw [State.tile_takeRuns_programming] <;> simp
  · simp

/-- A batch launched is the newest of its port, and its tile is in PROGRAM. -/
theorem State.launch_spec : ((s.launch p owner n pt items).port p).batches =
      (s.port p).batches ++ [{ owner := owner, tile := n, ptile := pt, items := items }] ∧
    ((s.launch p owner n pt items).tile p n).st = .program := by
  unfold State.launch
  dsimp only
  rw [State.port_event, State.port_setTileState, State.port_updPort, State.tile_congr State.event_dies]
  exact ⟨rfl, State.st_setTileState_program⟩

end

/-- A run of PROGRAM_DIRECT in cell levels gives an item for each entry, and forming them changes nothing. -/
theorem State.directItems_levels (s : State) (p n pos : Nat) (run : List Nat) (acc : List Item) : ∃ items : List Item,
    run.foldl (fun (acc : List Item × State) x =>
      let a := acc.2.directAim p false x
      (acc.1 ++ [⟨reqRow x, reqCol x, s.pcols p n (reqCol x), a.1, none, pos + acc.1.length⟩], a.2)) (acc, s) = (items, s) ∧
    items.length = acc.length + run.length := by
  induction run generalizing acc with
  | nil => exact ⟨acc, rfl, rfl⟩
  | cons x run ih =>
    obtain ⟨items, hfold, hlen⟩ := ih (acc ++ [_])
    refine ⟨items, hfold, hlen.trans ?_⟩
    simp only [List.length_append, List.length_cons, List.length_nil]
    omega

section
variable {s : State} {p e pt : Nat} {es : List Nat} {d : Direct}

/-- The run of entries at the head of a PROGRAM_DIRECT in cell levels is launched as one batch (R112, R145). -/
theorem State.batchFromDirect_launches (hm : d.master = false) (hdrop : d.entries.drop d.pos = e :: es)
    (hpt : s.entryTile p e = some pt) (hmay : s.mayBatch p (reqTile e) (s.nextRun p (e :: es)) = true) :
    ∃ (x : Direct) (items : List Item), items.length = (s.nextRun p (e :: es)).length ∧
      s.batchFromDirect p d = (s.updPort p fun q => { q with direct := some x }).launch p 4 (reqTile e) pt items := by
  obtain ⟨items, hfold, hlen⟩ := s.directItems_levels p (reqTile e) d.pos (s.nextRun p (e :: es)) []
  refine ⟨{ d with pos := d.pos + (s.nextRun p (e :: es)).length }, items, by simpa using hlen, ?_⟩
  simp only [State.batchFromDirect, hdrop, hpt, if_pos hmay, hm, hfold]

/-- The port's owner of PROGRAM_DIRECT starts its next batch where it is permitted. -/
theorem State.batchStart_direct (ho : (s.port p).owner = some 4) (hd : (s.port p).direct = some d) (hperm : s.permitted p 4 = true) :
    s.batchStart p = s.batchFromDirect p d := by
  simp [State.batchStart, ho, hd, hperm]

end

/-! The reads of a batch (R116 to R118). -/

section
variable {s : State} {p : Nat} {b : Batch} {g : List Nat}

/-- The first level read of a batch without a carry derives the cells' targets and pulses those that differ. -/
theorem State.levelRead_pulses (hr : b.retry = false) (hc : (s.levelCells p b g).2.2 = none) :
    s.levelRead p b g = (s.event p 0x114 0 (s.levelCells p b g).2.1).nextPulse p { b with cells := (s.levelCells p b g).1 } false := by
  simp [State.levelRead, hr, hc]

/-- The cells of a batch as a verify read judges them: a cell that passed once stays done (R117). -/
def State.judged (s : State) (p : Nat) (b : Batch) (g : List Nat) : List BCell :=
  (List.range b.cells.length).map fun i =>
    let c := b.cells.getD i {}
    { c with g := readOr g i c.g, done := c.done || passes (s.vtol p) (readOr g i c.g) c.target }

/-- While cells fail and iterations are left the next pulse follows; where none fails `nextPulse` ends the batch. -/
theorem State.verifyRead_pulses (h : (s.judged p b g).filter (!·.done) = [] ∨ b.iter + 1 < 6) :
    s.verifyRead p b g = s.nextPulse p { b with cells := s.judged p b g, iter := b.iter + 1 } false :=
  if_pos ((Bool.decide_or _ _).symm.trans (decide_eq_true h))

/-- A retry whose sixth iteration leaves failing cells ends the batch. -/
theorem State.verifyRead_ends (hf : (s.judged p b g).filter (!·.done) ≠ []) (hi : b.iter = 5) (hr : b.retry = true) :
    s.verifyRead p b g = s.updPort p fun q => { q with batches := q.batches.map fun x =>
      if x.tile = b.tile then { b with cells := s.judged p b g, iter := 6, phase := .ended } else x } := by
  have hmore : ¬ ((s.judged p b g).filter (!·.done) = [] ∨ b.iter + 1 < 6) := by
    rintro (h | h)
    · exact hf h
    · omega
  refine (if_neg (fun h => hmore (of_decide_eq_true ((Bool.decide_or _ _).trans h)))).trans ?_
  simp [hr, hi, State.judged]

end

/-! The reconcile engine (R133, R134). -/

section
variable {s : State} {p q n row col k pt pcol : Nat} {c : Cells} {g : List Nat} {sc : Scope} {rest : List Scope}

@[simp] theorem State.port_setCells : (s.setCells q pt row pcol c).port p = s.port p := State.port_updDie fun _ => rfl

/-- The levels found go to the cells, not to the port. -/
@[simp] theorem State.port_storeFound : (s.storeFound q n row col k g).port p = s.port p := by
  unfold State.storeFound
  split
  · rfl
  · exact foldl_inv (fun t : State => t.port p) _ (fun _ _ => State.port_setCells) _ _

/-- Of the port the end of a revocation changes only what stands revoked. -/
theorem State.port_endRevoke_frame : (s.endRevoke p).port p = { s.port p with revoked := ((s.endRevoke p).port p).revoked } := by
  unfold State.endRevoke
  split
  · split
    · rfl
    · rw [State.port_congr State.raiseFault_dies, State.port_updPort]
  · rfl

/-- The entries that the read of a scope puts into the buffer, one for each of its rows. -/
def State.foundEntries (s : State) (p : Nat) (sc : Scope) (g : List Nat) : List Recon :=
  (List.range sc.rows.length).map fun i =>
    { tile := sc.tile, row := sc.rows.getD i 0, col := sc.col,
      w := s.foundCode p sc.tile (sc.rows.getD i 0) sc.col (4 * (s.pcols p sc.tile sc.col).length * i) g }

/-- The oldest revoked scope leaves the queue, and the buffer takes an entry for each of its rows. -/
theorem State.reconcileRead_enters (hsc : (s.port p).toRecon = sc :: rest) (hroom : (s.port p).recon.length + sc.rows.length ≤ 2048) :
    ((s.reconcileRead p g).port p).toRecon = rest ∧ ((s.reconcileRead p g).port p).recon = (s.port p).recon ++ s.foundEntries p sc g := by
  unfold State.reconcileRead
  simp only [hsc, if_pos hroom]
  rw [State.port_endRevoke_frame, State.port_updPort, foldl_inv (fun t : State => t.port p) _ fun _ _ => State.port_storeFound]
  exact ⟨rfl, rfl⟩

theorem State.recon_drainRecon : ((s.drainRecon p).port p).recon = [] := by
  simp [State.drainRecon]

end

/-- Settles O31: a batch launched survives what settles at its port; the reads take the branch of their conditions; the reconcile engine
moves the scope's rows into the buffer and empties it. -/
theorem batchCommandsComplete : Obligations.BatchCommandsComplete := by
  intro s p n hp hn
  refine ⟨?start, ?level, ?verify, ?ends, ?reconcile, ?drains⟩
  case start =>
    intro d e es pt ho hd hperm hm hdrop hpt hmay
    obtain ⟨x, items, hlen, hlaunch⟩ := State.batchFromDirect_launches hm hdrop hpt hmay
    obtain ⟨hbatches, hst⟩ := State.launch_spec (s := s.updPort p fun q => { q with direct := some x }) (p := p) (n := reqTile e)
      (owner := 4) (pt := pt) (items := items)
    rw [← hlaunch, ← State.batchStart_direct ho hd hperm] at hbatches hst
    obtain ⟨hkeepB, hkeepT⟩ := Prod.ext_iff.mp (State.batchView_portSettle (s := s.batchStart p) (p := p) (q := p) (n := reqTile e))
    rw [State.port_updPort] at hbatches
    exact ⟨_, onUnit_die hp _, (congrArg Tile.st hkeepT).trans hst, { owner := 4, tile := reqTile e, ptile := pt, items := items },
      hkeepB.trans hbatches, rfl, rfl, rfl, rfl, hlen⟩
  case level =>
    intro b g hb hr hc
    refine (onUnit_tile hp hn _).trans (congrArg _ ?_)
    rw [hb]
    exact (if_pos (congrArg not hr)).trans (State.levelRead_pulses hr hc)
  case verify =>
    intro b g hb hv
    have hexec : exec (.verifyReadDone p n g) s = .next (s.verifyRead p b g) := by
      refine (onUnit_tile hp hn _).trans (congrArg _ ?_)
      simp only [hb, hv, if_true]
    refine ⟨fun h => hexec.trans (congrArg _ (State.verifyRead_pulses h)), fun hf hi hr => ⟨_, hexec, ?_⟩⟩
    rw [State.verifyRead_ends hf hi hr, State.port_updPort]
    rfl
  case ends =>
    intro b hb
    refine (onUnit_tile hp hn _).trans (congrArg _ ?_)
    simp only [hb]
  case reconcile =>
    intro g sc rest hperm hsc hroom
    obtain ⟨hqueue, hrecon⟩ := State.reconcileRead_enters (g := g) hsc hroom
    refine ⟨_, (onUnit_die hp _).trans (congrArg _ (if_pos hperm)), hqueue, _, hrecon, by simp [State.foundEntries], fun e he => ?_⟩
    obtain ⟨i, -, rfl⟩ := List.mem_map.mp he
    exact ⟨rfl, rfl⟩
  case drains =>
    intro hf he
    refine ⟨(onUnit_die hp _).trans (congrArg _ (if_neg ?_)), State.recon_drainRecon⟩
    simp [hf, he]

end Sys2Proof.Machine

/-! PROOFS. Muster, monitors and in-field tests: the housekeeping converters. -/

namespace Sys2Proof.Machine

/-! What events, interrupts, denials and writes to memory leave of the converters: all of them. -/

section
variable {s t : State} {p d c i n a f src need master lo hi e func vec link : Nat} {es : Errs} {pl : Place} {who : Who}
  {bs : List Byte}

@[simp] theorem State.sendMsi_mons : (s.sendMsi link func vec).mons = s.mons := by rw [State.sendMsi_frame]

@[simp] theorem State.raiseIrq_mons : (s.raiseIrq src).mons = s.mons := by
  rcases s.raiseIrq_cases src with h | ⟨_, _, h⟩ <;> simp [h]

@[simp] theorem State.cntAdd_mons : (s.cntAdd d i n).mons = s.mons := by
  unfold State.cntAdd; dsimp only
  split
  · rfl
  · split <;> simp

@[simp] theorem State.event_mons : (s.event d src i n).mons = s.mons := by
  unfold State.event
  split
  · rfl
  · refine foldl_inv (fun t : State => t.mons) _ (fun t j => ?_) _ _
    split <;> simp

@[simp] theorem State.deny_mons : (s.deny d need master n).mons = s.mons := by
  unfold State.deny State.eventF; dsimp only
  split <;> simp

@[simp] theorem State.aclCheck_mons : (s.aclCheck d need master lo hi).2.mons = s.mons := by
  unfold State.aclCheck
  split <;> simp

/-- A write to host memory, denied or not. -/
@[simp] theorem State.store_host_mons : (s.store who (.host a) bs).2.mons = s.mons := by
  unfold State.store; dsimp only
  split
  · simp
  · split <;> simp

@[simp] theorem State.setErrsIn_mons : (s.setErrsIn es pl).mons = s.mons := by
  unfold State.setErrsIn; dsimp only
  split
  · rfl
  · split
    · split <;> rfl
    · rfl

@[simp] theorem State.setGood_mons : (s.setGood a).mons = s.mons := State.setErrsIn_mons

@[simp] theorem State.monBuffer_mons : (s.monBuffer d e).mons = s.mons := by
  -- Named, the ring's address is opaque to the kernel, which would compute the place of its line.
  obtain ⟨a, ha⟩ : ∃ a, monRing d (s.fld (monBase d + 8) 8 0) = a := ⟨_, rfl⟩
  have hline : ((s.poke a (leBytes 8 e)).setGood a).mons = s.mons := State.setGood_mons
  unfold State.monBuffer; dsimp only
  rw [ha]
  generalize (s.poke a (leBytes 8 e)).setGood a = t at hline
  split <;> exact hline

@[simp] theorem State.monWarn_mons : (s.monWarn d c).mons = s.mons := by simp [State.monWarn]

@[simp] theorem State.fieldDue_mons : (s.fieldDue p f).mons = s.mons := rfl

@[simp] theorem State.tempTrigger_mons {users : List Nat} : (s.tempTrigger p c users).mons = s.mons := by
  unfold State.tempTrigger; dsimp only
  rw [foldl_inv fun t : State => t.mons]
  · split <;> simp
  · simp only [apply_ite State.mons, State.fieldDue_mons, ite_self, implies_true]

/-! The scan of a converter (R165). -/

@[simp] theorem State.mon_updMon {g : Mon → Mon} : (s.updMon d g).mon d = g (s.mon d) := by simp [State.updMon, State.mon, mapUpd]

/-- The next channel of a converter, and the codes of each. -/
def State.scan (s : State) (d : Nat) : Nat × Map (List Nat) := ((s.mon d).next, (s.mon d).codes)

theorem State.scan_congr (h : s.mons = t.mons) : s.scan d = t.scan d := by unfold State.scan State.mon; rw [h]

/-- A change that keeps the converters, made or not, keeps the scan. -/
theorem State.scan_ite {x : Prop} [Decidable x] (h : t.mons = s.mons) : (if x then t else s).scan d = s.scan d := by
  split
  · exact State.scan_congr h
  · rfl

/-- A change of a converter's run of bad conversions, or of its burst. -/
theorem State.scan_updMon {g : Mon → Mon} (h : ∀ m, ((g m).next, (g m).codes) = (m.next, m.codes)) : (s.updMon d g).scan d = s.scan d := by
  unfold State.scan; rw [State.mon_updMon, h]

/-- The mirror changes only the burst it gathers (R168). -/
@[simp] theorem State.scan_monMirror : (s.monMirror d e).scan d = s.scan d := by
  have hburst : ∀ l, (s.updMon d fun m => { m with burst := l }).scan d = s.scan d := fun l => State.scan_updMon fun _ => rfl
  unfold State.monMirror; dsimp only
  split
  · rfl
  · split
    · exact hburst _
    · split <;> exact (State.scan_congr (by simp)).trans (hburst [])

/-- The fail comparator at a code inside its window starts the count again, and asserts nothing (R170). -/
theorem State.scan_monFail_inside {low : Bool} : (s.monFail d c false low).scan d = s.scan d := by
  have hcount : s.monFail d c false low = s.updMon d fun m => { m with run := mapSet 0 m.run c (min 0 16) } := by
    simp [State.monFail]
  rw [hcount]
  exact State.scan_updMon fun _ => rfl

/-- A conversion inside the fail window takes its channel's code in, and the next channel follows. -/
theorem State.scan_convert {code : Nat} (h : outside code
      (s.fld (monBase d + 0x300 + 4 * c) 11 0, s.fld (monBase d + 0x300 + 4 * c) 27 16) = false) :
    (s.convert d c code).scan d =
      ((c + 1) % 16, mapSet [] (s.mon d).codes c ((code :: mapGet [] (s.mon d).codes c).take 64)) := by
  unfold State.convert; dsimp only
  rw [h, State.scan_monFail_inside, State.scan_ite State.tempTrigger_mons, State.scan_ite State.monWarn_mons, State.scan_monMirror,
    State.scan_congr State.monBuffer_mons, State.scan_congr (State.setReg_mons _ _ _)]
  unfold State.scan
  rw [State.mon_updMon]

end

/-! The commands of a converter. -/

theorem onUnit_converter {d : Nat} (hd : d < 10) (t : State) : onUnit (d < 10) t = .next t := if_pos (decide_eq_true hd)

section
variable {s : State} {d c code : Nat}

/-- The code that the conversion of a channel gives: channel 15 of a fold die reads 0 (Table 5-4). -/
def channelCode (d c code : Nat) : Nat := if 8 ≤ d ∧ c = 15 then 0 else code % 4096

/-- A conversion of a converter in the powered module is of the channel that is next. -/
theorem exec_hkConversion (hd : d < 10) (hs : s.pwr.standby = true) (hc : s.nextChannel d = some c) :
    exec (.hkConversion d code) s = .next (s.convert d c (channelCode d c code)) := by
  refine (onUnit_converter hd _).trans (congrArg _ ?_)
  simp [hs, hc, channelCode]

/-- A field of one bit is that bit. -/
theorem State.testBit_fld_bit {o i : Nat} : (s.fld o i i).testBit 0 = s.bit o i := by
  unfold State.fld wfld
  rw [testBit_fld]
  simp [State.bit, BitVec.getLsbD]

/-- Turning the mirror on clears its write count (R168). -/
theorem State.setMirror_spec (w : Word) : (s.setMirror d w).reg (monBase d + 0x10) = w &&& 0xFFFFF00F#32 ∧
    (w.getLsbD 0 = true → s.bit (monBase d + 0x10) 0 = false → (s.setMirror d w).reg (monBase d + 0x18) = 0) := by
  unfold State.setMirror; dsimp only
  refine ⟨?_, fun hw hb => ?_⟩
  · split <;> simp
  · simp [hw, hb]

end

/-- Settles O33: a conversion inside its window changes the converter's scan as `scan_convert` says; the writes reach their register. -/
theorem monitorCommandsComplete : Obligations.MonitorCommandsComplete := by
  intro s d hd
  refine ⟨?conversion, ?lowPower, ?lock, ?mirror⟩
  case conversion =>
    intro c code hs hc hin
    obtain ⟨hnext, hcodes⟩ := Prod.mk.inj (State.scan_convert (code := channelCode d c code) hin)
    refine ⟨_, exec_hkConversion hd hs hc, hnext, ?_⟩
    rw [hcodes, mapGet_mapSet_self]
    rfl
  case lowPower =>
    refine ⟨_, onUnit_converter hd _, ?_, fun i hi => ?_⟩
    · rw [State.bit_setFld_self _ _ _ _ _ _ (by decide) (by decide), if_pos ⟨le_refl _, le_refl _⟩]
      exact State.testBit_fld_bit
    · rw [State.bit_setFld_self _ _ _ _ _ _ (by decide) (by decide), if_neg (by omega)]
  case lock =>
    intro master w hl
    have hexec : exec (.monLock master d w) s = .next (if w.getLsbD 0 then s.setBit (monBase d + 0xC) 0 else s) :=
      (onUnit_converter hd _).trans (congrArg _ (lets_guard hl _))
    exact ⟨fun hw => hexec.trans (congrArg _ (if_pos hw)), fun hw => hexec.trans (congrArg _ (if_neg (by rw [hw]; decide)))⟩
  case mirror =>
    intro master w hl
    exact ⟨_, (onUnit_converter hd _).trans (congrArg _ (lets_guard hl _)), State.setMirror_spec w⟩

end Sys2Proof.Machine

/-! PROOFS. Muster, monitors and in-field tests: fields and tiles due for muster, and the application of their values. -/

namespace Sys2Proof.Machine

/-! The muster engine of a die, and what the drift tracker leaves of it (R152, R157). -/

section
variable {s : State} {p q f n : Nat} {g : Mus → Mus}

@[simp] theorem State.mus_updMus : (s.updMus p g).mus p = g (s.mus p) := by simp [State.updMus, State.mus]

/-- A field that falls due joins the fields due, once. -/
theorem State.mem_due_fieldDue {a : Nat} : a ∈ ((s.fieldDue p f).mus p).due ↔ a ∈ (s.mus p).due ∨ a = f := by
  rw [State.fieldDue, State.mus_updMus]
  dsimp only
  split
  · rename_i h
    exact ⟨.inl, fun ha => ha.elim id fun e => e ▸ List.contains_iff_mem.mp h⟩
  · simp

/-- The counts and sums of the ratios that the drift tracker has taken. -/
def State.ratios (s : State) (p : Nat) : Map Nat × Map Nat := ((s.mus p).ratioN, (s.mus p).ratioSum)

theorem State.ratios_updMus (h : ∀ m, ((g m).ratioN, (g m).ratioSum) = (m.ratioN, m.ratioSum)) : (s.updMus p g).ratios p = s.ratios p := by
  unfold State.ratios; rw [State.mus_updMus, h]

@[simp] theorem State.ratios_fieldDue : (s.fieldDue p f).ratios p = s.ratios p := State.ratios_updMus fun _ => rfl

@[simp] theorem State.ratios_pendSlots : (s.pendSlots p n).ratios p = s.ratios p := by
  unfold State.pendSlots
  split
  · rfl
  · exact State.ratios_updMus fun _ => rfl

@[simp] theorem State.ratios_followDrift : (s.followDrift p f).ratios p = s.ratios p := by
  unfold State.followDrift
  exact foldl_inv (fun t : State => t.ratios p) _ (fun _ _ => State.ratios_pendSlots) _ _

/-- The drift tracker begins its ratios of a field again. -/
def State.restartRatios (s : State) (p f : Nat) : State :=
  s.updMus p fun u => { u with ratioN := mapSet 0 u.ratioN f 0, ratioSum := mapSet 0 u.ratioSum f 0 }

theorem State.ratios_restartRatios : (s.restartRatios p f).ratios p = (mapSet 0 (s.mus p).ratioN f 0, mapSet 0 (s.mus p).ratioSum f 0) := by
  unfold State.ratios State.restartRatios; rw [State.mus_updMus]

/-- Whatever the tracker makes of 16,384 ratios, it begins them again. -/
theorem State.ratios_trackDrift (h : 16384 ≤ mapGet 0 (s.mus p).ratioN f) :
    (s.trackDrift p f).ratios p = (s.restartRatios p f).ratios p := by
  unfold State.trackDrift; dsimp only
  rw [if_neg (by omega)]
  split
  · exact State.ratios_fieldDue
  · split
    · rfl
    · rw [State.ratios_followDrift]
      exact State.ratios_updMus fun _ => rfl

/-- A mean ratio more than 3 % from 1 makes the field due. -/
theorem State.trackDrift_far (h : 16384 ≤ mapGet 0 (s.mus p).ratioN f)
    (hfar : mapGet 0 (s.mus p).ratioSum f * 100 < 2 ^ 20 * (97 * mapGet 0 (s.mus p).ratioN f) ∨
      2 ^ 20 * (103 * mapGet 0 (s.mus p).ratioN f) < mapGet 0 (s.mus p).ratioSum f * 100) :
    s.trackDrift p f = (s.restartRatios p f).fieldDue p f := by
  unfold State.trackDrift; dsimp only
  rw [if_neg (by omega)]
  exact if_pos ((Bool.decide_or _ _).symm.trans (decide_eq_true hfar))

/-! Musters that begin (R153, R154, R161). -/

theorem onUnit_field (hp : p < 8) (hf : f < 64) (t : State) : onUnit (dieOk p && f < 64) t = .next t :=
  if_pos (by simp [dieOk, hp, hf])

/-- No run of the die has the tile in hand. -/
theorem runs_any_inHand_eq_false {runs : List MRun} (h : ∀ r ∈ runs, n ∉ r.want ∧ (∀ b ∈ r.busy, b.1 ≠ n) ∧ ∀ l ∈ r.later, n ∉ l) :
    (runs.any fun r => r.want.contains n || r.busy.any (·.1 = n) || r.later.any (·.contains n)) = false := by
  rw [List.any_eq_false]
  intro r hr
  obtain ⟨hwant, hbusy, hlater⟩ := h r hr
  simpa [hwant] using ⟨fun k hk => hbusy (n, k) hk rfl, hlater⟩

theorem exec_musterRetry (hp : p < 8) (hn : n < 8192)
    (hask : n ∈ (s.mus p).asked ∨
      (s.fld (musTileOff p n) 13 12 = 2 ∧ 0 < s.fld (musTileOff p n) 15 14 ∧ s.fld (musTileOff p n) 15 14 < 3))
    (hpt : (s.ptile p n).isSome = true)
    (hfree : ∀ r ∈ (s.mus p).runs, n ∉ r.want ∧ (∀ b ∈ r.busy, b.1 ≠ n) ∧ ∀ l ∈ r.later, n ∉ l)
    (hidle : s.arrayIdle p = true ∨ (s.die p).state = .hold) : exec (.musterRetry p n) s =
      .next ((s.updMus p fun m => { m with asked := m.asked.filter (· != n) }).beginRun p { want := [n] }) := by
  have hwanted : (s.toRetry p n || (s.mus p).asked.contains n) = true := by
    rcases hask with hask | ⟨hlast, hlo, hhi⟩
    · simp [hask]
    · have hrej : s.fld (musTileOff p n) 15 14 = 1 ∨ s.fld (musTileOff p n) 15 14 = 2 := by omega
      simp [State.toRetry, hpt, hlast, hrej]
  refine (onUnit_tile hp hn _).trans (congrArg _ (if_pos ?_))
  simp only [hwanted, runs_any_inHand_eq_false hfree, hpt]
  simpa using hidle

end

/-! The muster of a tile that ends (R158, R159). -/

section
variable {s : State} {p n pt i : Nat} {r : MRun} {m : Measure}

/-! A rejection counts as such, and leaves the other counts and tiles of its run. -/

@[simp] theorem State.mustered_rejectTile : (s.rejectTile p r n pt).2.mustered = r.mustered := by
  unfold State.rejectTile; dsimp only
  split <;> rfl

@[simp] theorem State.busy_rejectTile : (s.rejectTile p r n pt).2.busy = r.busy := by
  unfold State.rejectTile; dsimp only
  split <;> rfl

/-- The state a mustered tile returns to: the one its run took it from (Table 5-2). -/
def MRun.back (r : MRun) (n : Nat) : TileState :=
  if ((r.busy.find? (·.1 = n)).map (·.2)).getD 1 = 0 then .hold
  else if ((r.busy.find? (·.1 = n)).map (·.2)).getD 1 = 6 then .fenced else .ready

/-- A mapped tile's muster ends: the tile returns, its unusable reference columns are noted, and its result is judged. -/
theorem State.musterTile_mapped (hpt : s.ptile p n = some pt) :
    let s2 := ((s.setTileState p n (r.back n)).event p 0x120 (fieldOf pt) 1).enterRestore p pt m.unusable
    let r1 := { r with busy := r.busy.filter (·.1 != n), mustered := r.mustered + 1 }
    s.musterTile p n r m = if s2.rejects p n pt m then s2.rejectTile p r1 n pt else (s2, { r1 with acc := r1.acc ++ [(n, m)] }) := by
  unfold State.musterTile MRun.back
  rw [hpt]
  cases r.busy.find? (·.1 = n) <;> rfl

/-- The tile is counted in its run, which has it in hand no longer. -/
theorem State.musterTile_run : (s.musterTile p n r m).2.mustered = r.mustered + 1 ∧
    (s.musterTile p n r m).2.busy = r.busy.filter (·.1 != n) := by
  cases hpt : s.ptile p n with
  | none =>
    unfold State.musterTile
    rw [hpt]
    exact ⟨rfl, rfl⟩
  | some pt =>
    rw [State.musterTile_mapped hpt]
    dsimp only
    split <;> simp

/-- Where nothing rejects its result, the run accepts it. -/
theorem State.musterTile_accepts (hpt : s.ptile p n = some pt)
    (hrej : (((s.setTileState p n (r.back n)).event p 0x120 (fieldOf pt) 1).enterRestore p pt m.unusable).rejects p n pt m = false) :
    (s.musterTile p n r m).2.acc = r.acc ++ [(n, m)] ∧ (s.musterTile p n r m).2.rejected = r.rejected := by
  rw [State.musterTile_mapped hpt, hrej]
  exact ⟨rfl, rfl⟩

theorem exec_musterComplete (hp : p < 8) (hn : n < 8192)
    (hi : ((s.mus p).runs.findIdx? fun r => r.busy.any (·.1 = n)) = some i) :
    let q := s.musterTile p n ((s.mus p).runs.getD i {}) m
    exec (.musterComplete p n m) s =
      .next (((q.1.updMus p fun u => { u with runs := u.runs.set i q.2 }).endRun p i).musterTake p) := by
  refine (onUnit_tile hp hn _).trans (congrArg _ ?_)
  simp only [State.musterDone, hi]

end

/-- Settles O34: what falls due joins the fields due, the tracker begins its ratios again, and each muster that begins or ends takes the
branch of its conditions. -/
theorem musterCommandsComplete : Obligations.MusterCommandsComplete := by
  intro s p hp
  refine ⟨fun f hf => ⟨?timer, ?drift, ?due⟩, fun n hn => ⟨?retry, ?complete⟩, ?gradual, ?step⟩
  case timer =>
    intro hint
    refine ⟨_, (onUnit_field hp hf _).trans (congrArg _ (if_neg hint)), State.mem_due_fieldDue.mpr (.inr rfl), fun g hg => ?_⟩
    rw [State.mem_due_fieldDue, or_iff_left hg]
  case drift =>
    intro hn
    obtain ⟨hcount, hsum⟩ := Prod.mk.inj ((State.ratios_trackDrift hn).trans State.ratios_restartRatios)
    refine ⟨_, onUnit_field hp hf _, ?_, ?_, fun hfar => ?_⟩
    · rw [hcount, mapGet_mapSet_self]
    · rw [hsum, mapGet_mapSet_self]
    · rw [State.trackDrift_far hn hfar]
      exact State.mem_due_fieldDue.mpr (.inr rfl)
  case due =>
    intro hdue hauto
    refine ⟨fun hidle => ?_, fun hrun => ?_⟩
    · exact (onUnit_field hp hf _).trans (congrArg _ (if_pos (by simp [hdue, hauto, hidle])))
    · exact (onUnit_field hp hf _).trans (congrArg _ (if_pos (by simp [hdue, hauto, hrun])))
  case retry => exact fun hask hpt hfree hidle => exec_musterRetry hp hn hask hpt hfree hidle
  case complete =>
    intro m i hi
    obtain ⟨hmustered, hbusy⟩ := State.musterTile_run (s := s) (p := p) (n := n) (r := (s.mus p).runs.getD i {}) (m := m)
    exact ⟨exec_musterComplete hp hn hi, hmustered, hbusy, fun pt hpt hrej => State.musterTile_accepts hpt hrej⟩
  case gradual =>
    intro hpend hen hrun
    exact (onUnit_die hp _).trans (congrArg _ (if_pos (by simp [hpend, hen, hrun])))
  case step =>
    intro n field hn hgrad hrun
    exact (onUnit_tile hp hn _).trans (congrArg _ (if_pos (by simp [hgrad, hrun])))

end Sys2Proof.Machine

/-! PROOFS. Muster, monitors and in-field tests: the test scheduler, and the descriptors MUSTER and TILE_TEST. -/

namespace Sys2Proof.Machine

/-! Tests that fall due, start and run overdue (R173 to R175). -/

section
variable {s : State} {cls u i fail p n : Nat} {cols : List Nat} {t : Test}

theorem onUnit_test (h : testOk cls u = true) (t : State) : onUnit (testOk cls u) t = .next t := if_pos h

/-- A test of a unit that is there falls due where its class is scheduled and no periodic test of the unit waits. -/
theorem State.testDue_joins (hen : s.bit oTestCtl 31 = true) (hper : s.fld (oTestPer cls) 15 0 ≠ 0) (hthere : s.testable cls u = true)
    (hfirst : ∀ t ∈ s.tests, t.cls = cls → t.unit_ = u → t.desc ≠ none) :
    s.testDue cls u = { s with tests := s.tests ++ [newTest cls u] } := by
  have hnone : (s.tests.any fun t => t.cls = cls && t.unit_ = u && t.desc.isNone) = false := by
    rw [List.any_eq_false]
    intro t ht
    simpa using hfirst t ht
  refine if_pos ?_
  simp only [hen, hthere, hnone]
  simpa using hper

/-- With no slice of the unit or of its tile running, the first of its tests that may run starts where it finds its place, or waits for
one. -/
theorem State.sliceStart_takes (hfree : ∀ t ∈ s.tests, t.running = true → (t.cls ≠ cls ∨ t.unit_ ≠ u) ∧
      (t.cls < 3 → cls < 3 → s.testTile t ≠ s.testTile (newTest cls u) ∨ s.testTile t = none))
    (hi : s.tests.findIdx? (fun t => t.cls = cls && t.unit_ = u && s.mayTest t) = some i) :
    s.sliceStart cls u = if s.testPlace (s.tests.getD i {}) then
        ((s.testTakes (s.tests.getD i {}) true).setTest i
          { s.tests.getD i {} with running := true, from_ := s.testFrom (s.tests.getD i {}) }).enterTest (s.tests.getD i {}) true
      else s.testTakes (s.tests.getD i {}) false := by
  have hnone : (s.tests.any fun t => t.running && ((t.cls = cls && t.unit_ = u) ||
      (t.cls < 3 && cls < 3 && s.testTile t = s.testTile (newTest cls u) && (s.testTile t).isSome))) = false := by
    rw [List.any_eq_false]
    intro t ht hbusy
    simp only [Bool.and_eq_true, Bool.or_eq_true, decide_eq_true_eq] at hbusy
    obtain ⟨hrun, ⟨hcls, hunit⟩ | ⟨⟨⟨hlt, hlt'⟩, htile⟩, hsome⟩⟩ := hbusy
    · exact (hfree t ht hrun).1.elim (· hcls) (· hunit)
    · rcases (hfree t ht hrun).2 hlt hlt' with hne | hno
      · exact hne htile
      · rw [hno] at hsome; cases hsome
  unfold State.sliceStart; dsimp only
  rw [if_neg (by rw [hnone]; decide), hi]

/-- A verdict of a self-test is one bit, and names no failing column. -/
theorem selfTest_word (w first : Nat) : w ||| fail % 2 * 2 ||| (if (fail % 2).testBit 2 && !w.testBit 3 then first else 0) =
    w ||| fail % 2 * 2 := by
  have hbit : (fail % 2).testBit 2 = false := Nat.testBit_lt_two_pow (by omega)
  simp [hbit]

/-- The slice of a self-test, its only one, ends in the unit's pass or failure (R173, R208). -/
theorem State.sliceEnd_selfTest (hcls : 3 ≤ cls)
    (hi : s.tests.findIdx? (fun t => t.cls = cls && t.unit_ = u && t.running) = some i) (ht : s.tests.getD i {} = t) :
    let s1 := (s.setTest i { t with running := false, slices := t.slices - 1, word := t.word ||| (fail % 2 * 2) }).enterTest t false
    let s2 : State := { s1 with tests := s1.tests.eraseIdx i }
    s.sliceEnd cls u fail cols = if fail % 2 = 0 then s2.passUnit t else s2.failUnit t := by
  unfold State.sliceEnd
  simp only [hi, ht, if_pos hcls, selfTest_word]

/-- A test of a tile deferred too long fences the tile, and is forced from then on. -/
theorem State.testOverdue_fences
    (hi : s.tests.findIdx? (fun t => t.cls = cls && t.unit_ = u && !t.running && !t.overdue && !t.forced) = some i)
    (htile : (s.setTest i { s.tests.getD i {} with overdue := true, forced := true }).testTile (s.tests.getD i {}) = some (p, n)) :
    let s1 := s.setTest i { s.tests.getD i {} with overdue := true, forced := true }
    s.testOverdue cls u = (s1.fenceTile p n).raiseFault 0 0x0306 (p * 2 ^ 14 + (s1.ptile p n).getD 0) [] := by
  simp only [State.testOverdue, hi, htile]

end

/-- Settles O35: no test of the unit stands in the way, so each command takes the branch of its conditions. -/
theorem testCommandsComplete : Obligations.TestCommandsComplete := by
  intro s cls u hu
  refine ⟨?due, ?start, ?selfTest, fun i fail cols _ _ => ⟨_, onUnit_test hu _⟩, ?overdue⟩
  case due =>
    exact fun hen hper hthere hfirst => (onUnit_test hu _).trans (congrArg _ (State.testDue_joins hen hper hthere hfirst))
  case start =>
    intro i hfree hi
    have hexec : exec (.testSliceStart cls u) s = .next _ := (onUnit_test hu _).trans (congrArg _ (State.sliceStart_takes hfree hi))
    exact ⟨fun hp => hexec.trans (congrArg _ (if_pos hp)), fun hp => hexec.trans (congrArg _ (if_neg (by rw [hp]; decide)))⟩
  case selfTest => exact fun i fail cols hcls hi => (onUnit_test hu _).trans (congrArg _ (State.sliceEnd_selfTest hcls hi rfl))
  case overdue => exact fun i p n hi htile => (onUnit_test hu _).trans (congrArg _ (State.testOverdue_fences hi htile))

/-! The descriptors (R179, R180). -/

section
variable {s s1 : State} {c : Nat} {d : Desc} {bs : List Byte}

/-- A MUSTER of whole dies, its rights in order and no die in fail-safe, begins a run on each die, and goes on with those that have no
tile to wait for. -/
theorem State.musterDesc_begins (hne : dieList (d.u8 16) ≠ []) (hscope : d.u8 17 = 0)
    (hdies : ∀ p ∈ dieList (d.u8 16), s.aclAllows 32 rightCfg (s.ctxMaster c) (p * 0x400) (p * 0x400 + 0x3FF) = true ∧
      (s.die p).state ≠ .failSafe)
    (hstore : s.mayStore (s.ctxWho c) (d.u64 32) (16 * (dieList (d.u8 16)).length) = true) :
    s.musterDesc c d = (dieList (d.u8 16)).foldl (fun t p => t.endRun p ((t.mus p).runs.length - 1))
      ((dieList (d.u8 16)).foldl (fun t p => t.beginRun p ((s.working c d.ptr).musterRun p d c [])) (s.working c d.ptr)) := by
  have hcfg := find_denied_eq_none fun p hp => (hdies p hp).1
  have hserve : ((dieList (d.u8 16)).any fun p => (s.die p).state = .failSafe) = false := by
    rw [List.any_eq_false]
    intro p hp
    simpa using (hdies p hp).2
  have hmaster : (s.ctxWho c).master = s.ctxMaster c := rfl
  unfold State.musterDesc
  simp only [hmaster, hcfg, hserve, hstore, hscope, if_true, if_neg hne]
  rfl

/-- A TILE_TEST with its entries read and its rights in order hands its tests to the scheduler. -/
theorem State.tileTest_begins (hcfg : (s.dieCfg (d.u8 16 % 8) (s.ctxMaster c)).1 = true) (hkinds : d.u8 17 % 16 ≠ 0)
    (hserve : (s.die (d.u8 16 % 8)).state ≠ .failSafe) (hstore : s.mayStore (s.ctxWho c) (d.u64 32) (4 * d.u16 18) = true)
    (hread : s.readRecord (s.ctxWho c) (d.u64 24) (8 * d.u16 18) = (.inr bs, s1)) :
    let ts := s1.entryTests (d.u8 16 % 8) (d.u8 17 % 16) c d.ptr (entriesOf bs (d.u16 18))
    s.tileTest c d = (({ s1 with tests := s1.tests ++ ts } : State).working c d.ptr).finishTests c d.ptr := by
  have hmaster : (s.ctxWho c).master = s.ctxMaster c := rfl
  simp [State.tileTest, hmaster, hcfg, hkinds, hserve, hstore, hread]

end

/-- Settles O12: a descriptor at hand is carried out by the command of its opcode, and with its rights in order begins its work. -/
theorem careDescriptorsComplete : Obligations.CareDescriptorsComplete := by
  refine fun s c n d => ⟨fun h hne hscope hdies hstore => ?_, fun h hcfg hkinds hserve hstore bs s1 hread => ?_⟩
  · obtain ⟨-, rfl, -⟩ := atHand_spec h
    exact (onUnit_runDesc h _).trans (congrArg _ (State.musterDesc_begins hne hscope hdies hstore))
  · obtain ⟨-, rfl, -⟩ := atHand_spec h
    exact (onUnit_runDesc h _).trans (congrArg _ (State.tileTest_begins hcfg hkinds hserve hstore hread))

end Sys2Proof.Machine

/-! PROOFS. The matrix units: what fetching operands and ending a chain leave of the module, and the commands of the units. -/

namespace Sys2Proof.Machine

/-! What events, interrupts, fault records and reads of memory leave of the module (R345 to R352, R397, R480, R543): everything but its
registers, messages, counters, memory, alerts and fault log. It is shown operation by operation, for all that is left at once. -/

/-- The state without all that an event, an interrupt, a fault record or a read of memory changes. -/
def State.sansAccess (s : State) : State :=
  { s with
    out := [], regs := [], mem := {}, cnt := {}
    host := { s.host with msix := [] }
    mgmt := { s.mgmt with alert := 0 }
    flt := { s.flt with log := [], lost := 0, thrCnt := [] } }

section
variable {s t : State} {a d f i k n o p sev code subj row kind master sym unit_ need right src l hi lo v r0 i0 len pitch link func vec
  c u : Nat} {cd : Cond} {m : Mark} {pl : Place} {rep : Bool} {chk : Chk} {dt : List Nat} {w : Word} {fm : Fmt} {x : Consumed} {pr : Product}

@[simp] theorem State.setReg_sansAccess : (s.setReg o w).sansAccess = s.sansAccess := rfl
@[simp] theorem State.setFld_sansAccess : (s.setFld o hi lo v).sansAccess = s.sansAccess := rfl
@[simp] theorem State.setBit_sansAccess : (s.setBit o i).sansAccess = s.sansAccess := rfl
@[simp] theorem State.satAdd_sansAccess : (s.satAdd o hi lo n).sansAccess = s.sansAccess := rfl
@[simp] theorem State.setThr_sansAccess : (s.setThr row subj n).sansAccess = s.sansAccess := rfl
@[simp] theorem State.noteTag_sansAccess : (s.noteTag f).sansAccess = s.sansAccess := rfl

@[simp] theorem State.sendMsi_sansAccess : (s.sendMsi link func vec).sansAccess = s.sansAccess := by
  rw [State.sendMsi_frame]; rfl

@[simp] theorem State.raiseIrq_sansAccess : (s.raiseIrq src).sansAccess = s.sansAccess := by
  rcases s.raiseIrq_cases src with h | ⟨_, _, h⟩ <;> simp [h]

@[simp] theorem State.cntAdd_sansAccess : (s.cntAdd d i n).sansAccess = s.sansAccess := by
  unfold State.cntAdd; dsimp only
  split
  · rfl
  · split
    · exact State.raiseIrq_sansAccess
    · rfl

@[simp] theorem State.event_sansAccess : (s.event d src i n).sansAccess = s.sansAccess := by
  unfold State.event
  split
  · rfl
  · refine foldl_inv State.sansAccess _ (fun t i => ?_) _ _
    split <;> simp

@[simp] theorem State.eventF_sansAccess : (s.eventF f src i n).sansAccess = s.sansAccess := State.event_sansAccess

@[simp] theorem State.raiseFault_sansAccess : (s.raiseFault sev code subj dt).sansAccess = s.sansAccess := by
  unfold State.raiseFault; dsimp only
  split
  · rfl
  · split
    · rfl
    · exact State.eventF_sansAccess

@[simp] theorem State.drain_sansAccess : (s.drain rep).sansAccess = s.sansAccess := by
  unfold State.drain; dsimp only
  split
  · split
    · rfl
    · exact State.raiseFault_sansAccess
  · split
    · rfl
    · exact State.raiseFault_sansAccess

@[simp] theorem State.moduleStrike_sansAccess : (s.moduleStrike n).sansAccess = s.sansAccess := by
  unfold State.moduleStrike; dsimp only
  split <;> simp

@[simp] theorem State.threshold_sansAccess : (s.threshold row subj n).2.sansAccess = s.sansAccess := by
  unfold State.threshold; dsimp only
  split <;> simp

@[simp] theorem State.deny_sansAccess : (s.deny i need master unit_).sansAccess = s.sansAccess := by
  unfold State.deny; dsimp only
  split <;> simp

@[simp] theorem State.refuse_sansAccess : (s.refuse chk right master a).sansAccess = s.sansAccess := by
  cases chk <;> simp [State.refuse]

@[simp] theorem State.logUe_sansAccess : (s.logUe kind master a).sansAccess = s.sansAccess := by
  unfold State.logUe; dsimp only
  split <;> simp

@[simp] theorem State.refreshStack_sansAccess : (s.refreshStack k n).sansAccess = s.sansAccess := rfl

@[simp] theorem State.markRetired_sansAccess : (s.markRetired k p).sansAccess = s.sansAccess := rfl

@[simp] theorem State.retireChannel_sansAccess : (s.retireChannel k c).sansAccess = s.sansAccess := by
  unfold State.retireChannel; dsimp only
  split
  · rfl
  · split
    · rfl
    · rw [State.drain_sansAccess, State.raiseFault_sansAccess, State.refreshStack_sansAccess]
      split <;> rfl

@[simp] theorem State.orderRetire_sansAccess : (s.orderRetire k p).sansAccess = s.sansAccess := by
  unfold State.orderRetire; dsimp only
  split
  · rfl
  · split
    · split
      · rfl
      · split
        · rfl
        · exact State.retireChannel_sansAccess
    · split <;> rfl

@[simp] theorem State.correctedRead_sansAccess : (s.correctedRead k p sym).sansAccess = s.sansAccess := by
  unfold State.correctedRead; dsimp only
  split <;> simp

@[simp] theorem State.correctedSram_sansAccess : (s.correctedSram f n).sansAccess = s.sansAccess := by
  unfold State.correctedSram; dsimp only
  split <;> simp

@[simp] theorem State.noteRead_sansAccess : (s.noteRead kind master a m pl).sansAccess = s.sansAccess := by
  unfold State.noteRead
  split
  · split <;> simp
  · split <;> simp
  · rfl

@[simp] theorem State.stackEvent_sansAccess : (s.stackEvent src pl).sansAccess = s.sansAccess := by
  cases pl <;> simp [State.stackEvent]

@[simp] theorem State.readLine_sansAccess : (s.readLine kind master a).sansAccess = s.sansAccess := by
  simp [State.readLine, State.readLineIn]

@[simp] theorem State.readMem_sansAccess : (s.readMem kind master a n).2.2.sansAccess = s.sansAccess :=
  foldl_inv State.sansAccess _ (fun _ _ => State.readLine_sansAccess) _ _

@[simp] theorem State.consume_sansAccess : (s.consume x).sansAccess = s.sansAccess := by
  unfold State.consume
  split <;> rfl

@[simp] theorem State.fetch_sansAccess : (s.fetch master a n).2.sansAccess = s.sansAccess := by
  unfold State.fetch
  split
  · dsimp only
    split <;> simp
  · simp

@[simp] theorem State.fetchOperand_sansAccess : (s.fetchOperand master a pitch fm r0 n i0 len).2.sansAccess = s.sansAccess :=
  foldl_inv (fun q : Fetched × State => q.2.sansAccess) _ (fun _ _ => State.fetch_sansAccess) _ _

@[simp] theorem State.fetchChain_sansAccess : (s.fetchChain pr i).2.sansAccess = s.sansAccess := by
  unfold State.fetchChain
  cases pr.sub <;> dsimp only
  case none => split <;> split <;> simp
  case some => split <;> simp

@[simp] theorem State.raiseCond_sansAccess : (s.raiseCond a o n).sansAccess = s.sansAccess := by
  unfold State.raiseCond; dsimp only
  split <;> simp

@[simp] theorem State.eventMu_sansAccess : (s.eventMu u src n).sansAccess = s.sansAccess := State.eventF_sansAccess

@[simp] theorem State.chainCounts_sansAccess : (s.chainCounts u pr i cd).sansAccess = s.sansAccess := by
  simp [State.chainCounts, State.tileCounts]

/-- The recounts in hand are among what is left. -/
theorem State.recounts_congr (h : s.sansAccess = t.sansAccess) : s.flt.recounts = t.flt.recounts :=
  congrArg (fun u : State => u.flt.recounts) (a₁ := s.sansAccess) (a₂ := t.sansAccess) h

end

/-! A chain's end up to its report: the operands fetched, the words formed, the unit's counts and conditions (R189, R197, R202). -/

section
variable {s : State} {u i dr k src n : Nat} {p : Product} {j : Job} {r : Recount} {e : TileEnt} {rest : List TileEnt}
  {err : List (Nat × Nat)} {f : Fetched} {c : Cond}

theorem State.tileOf_flt : (s.tileOf p i err f).2.flt = s.flt := by cases f <;> rfl

theorem State.recounts_operandStall : (s.operandStall u).flt.recounts = s.flt.recounts := by
  unfold State.operandStall; dsimp only
  split
  · rfl
  · exact State.recounts_congr (t := s.takeFree.2) (by simp)

/-- None of it changes the recounts in hand. -/
theorem State.recounts_chainReport :
    (((((s.fetchChain p i).2.tileOf p i err f).2.operandStall u).chainCounts u p i c).eventMu u src n).flt.recounts =
      s.flt.recounts := by
  rw [State.recounts_congr State.eventMu_sansAccess, State.recounts_congr State.chainCounts_sansAccess,
    State.recounts_operandStall, State.tileOf_flt, State.recounts_congr State.fetchChain_sansAccess]

/-! The commands of the units (R191, R202, R206, R207, R212, R470). -/

theorem onUnit_mu (hu : u < 80) (t : State) : onUnit (muOk u) t = .next t := if_pos (decide_eq_true hu)

/-- A product's next chain goes to the unit, and no further: it ends its tile, so it takes no slot of the partial store, and the draw does
not select it, so it gets no recount. -/
theorem State.assign_gives (hp : s.trn.prods[i]? = some p) (hmay : s.mayAssign p = true) (hfree : s.muFree u = true)
    (hahead : (s.mu u).ahead = []) (hq : s.muQuiesced = false) (hfold : u / 40 ∈ p.folds) (hpool : u ∈ s.pool (u / 40) p.part)
    (hlast : p.partNo p.next + 1 = p.info.parts)
    (hdraw : s.bit 0x300 31 = false ∨ min (if p.eval then s.fld 0x300 12 0 else s.trn.frac) 4096 ≤ dr % 65536) :
    s.assign i u dr = (s.updMu u fun m => { m with cur := some { key := p.key, idx := p.next } }).updTrn fun t =>
      { t with prods := t.prods.map fun q => if q.key = p.key then { q with next := p.next + 1 } else q } := by
  have hgo : (s.mayAssign p && s.muFree u && (s.mu u).ahead = [] && !s.muQuiesced && p.folds.contains (u / 40) &&
      (s.pool (u / 40) p.part).contains u && (p.partNo p.next + 1 = p.info.parts || s.pstoreFree (u / 40))) = true := by
    simp [hmay, hfree, hahead, hq, hfold, hpool, hlast]
  have hnodraw : ¬(s.bit 0x300 31 && decide (dr % 65536 < min (if p.eval then s.fld 0x300 12 0 else s.trn.frac) 4096)) = true := by
    rw [Bool.and_eq_true, decide_eq_true_eq, not_and, not_lt]
    exact fun hbit => hdraw.resolve_left (by rw [hbit]; decide)
  unfold State.assign
  simp only [hp]
  rw [if_neg (by rw [hgo]; decide), if_neg hnodraw, if_pos hlast]

theorem State.not_selected (h : ∀ r ∈ s.flt.recounts, r.key ≠ k) : ∀ r ∈ s.flt.recounts, ¬(r.key = k && r.idx = i) = true :=
  fun r hr => by simp [h r hr]

/-- A chain's CRC, noted for its recount, which is judged with it (R469, R470): the last step of `State.chainDone`. -/
def State.reportCrc (s : State) (k i crc : Nat) : State :=
  let t := s.setFlt fun y =>
    { y with recounts := y.recounts.map fun r => if r.key = k && r.idx = i then { r with origCrc := some crc } else r }
  match t.flt.recounts.find? fun r => r.key = k && r.idx = i with
  | some r => t.judge r
  | none => t

/-- The CRC of a chain that is not selected is noted nowhere. -/
theorem State.reportCrc_unselected (h : ∀ r ∈ s.flt.recounts, r.key ≠ k) : s.reportCrc k i n = s := by
  have hmap : s.flt.recounts.map (fun r => if r.key = k && r.idx = i then { r with origCrc := some n } else r) = s.flt.recounts :=
    (List.map_congr_left fun r hr => if_neg (State.not_selected h r hr)).trans (List.map_id' _)
  have hfind : (s.flt.recounts.find? fun r => r.key = k && r.idx = i) = none := List.find?_eq_none.mpr (State.not_selected h)
  simp only [State.reportCrc, State.setFlt, hmap, hfind]

/-- A chain that is not selected for recount, ending with a free buffer and its operands there, fills a buffer of its unit. -/
theorem State.chainDone_fills (hcur : (s.mu u).cur = some j) (hprod : s.findProd j.key = some p) (hfull : (s.mu u).full = [])
    (hlost : (s.fetchChain p j.idx).1 ≠ .lost) (hdrop : s.trn.dropped = []) (hsel : ∀ r ∈ s.flt.recounts, r.key ≠ j.key)
    (h1 : j.kind ≠ 1) (h2 : j.kind ≠ 2) :
    let q := (s.fetchChain p j.idx).2.tileOf p j.idx err (s.fetchChain p j.idx).1
    let s1 := ((q.2.operandStall u).chainCounts u p j.idx q.1.2).eventMu u 0x19 (b2n (p.sub.isSome && j.idx = 0 && j.kind = 0))
    s.chainDone u err = ((s1.updMu u fun m =>
      { m with cur := none, full := m.full ++ [p.entry j.idx q.1.1 q.1.2 false] }).muNext u).finishWork p.own := by
  intro q s1
  have hkind : ¬(j.kind = 1 || j.kind = 2) = true := by simp [h1, h2]
  have hany : (s.flt.recounts.any fun r => r.key = j.key && r.idx = j.idx) = false :=
    List.any_eq_false.mpr (State.not_selected hsel)
  have hreport : (s1.updMu u fun m => { m with cur := none, full := m.full ++ [p.entry j.idx q.1.1 q.1.2 false] }).reportCrc j.key
      j.idx (tileCrc q.1.1) = _ := State.reportCrc_unselected fun r hr => hsel r (State.recounts_chainReport ▸ hr)
  unfold State.chainDone
  simp only [hcur, hprod, hdrop, hany]
  rw [if_neg hkind, if_neg (by simp [hfull]), if_neg hlost]
  exact congrArg (fun t : State => (t.muNext u).finishWork p.own) hreport

/-- The finished tile at the head of a unit's buffers goes into its engine's queue (R202). -/
theorem State.drainTile_queues (hfull : (s.mu u).full = e :: rest) (hsub : e.sub = none) (hwhole : e.split = false ∨ e.last = true)
    (hroom : (if u % 2 = 0 then (s.drv (u / 2)).qa else (s.drv (u / 2)).qb).length < 4) :
    s.drainTile u = ((s.updMu u fun m => { m with full := rest }).updDrv (u / 2) fun d =>
      if u % 2 = 0 then { d with qa := d.qa ++ [e] } else { d with qb := d.qb ++ [e] }).muNext u := by
  have hlast : (e.split && !e.last) = false := by rcases hwhole with h | h <;> simp [h]
  simp only [State.drainTile, hfull, hsub, hlast, if_pos hroom]
  rfl

/-- A third execution that ends reports its CRC and conditions, and decides the recount (R470). -/
theorem State.recountDone_third (hcur : (s.mu u).cur = some j) (hprod : s.findProd j.key = some p) (hkind : j.kind = 2)
    (hr : (s.flt.recounts.find? fun r => r.key = j.key && r.idx = j.idx) = some r) (hlost : (s.fetchChain p j.idx).1 ≠ .lost) :
    let q := (s.fetchChain p j.idx).2.tileOf p j.idx err (s.fetchChain p j.idx).1
    let s1 := ((q.2.operandStall u).chainCounts u p j.idx q.1.2).eventMu u 0x18 1
    let r1 := { r with cond := r.cond ||| q.1.2.bits }
    let s2 := (s1.updMu u fun m => { m with cur := none }).setFlt fun y =>
      { y with recounts := y.recounts.map fun x => if x.key = j.key && x.idx = j.idx then r1 else x }
    s.recountDone u err = ((s2.judgeThird r1 p u (tileCrc q.1.1)).muNext u).finishWork p.own := by
  simp only [State.recountDone, hcur, hprod, hr, hkind, if_neg hlost]
  rfl

@[simp] theorem State.regs_muNext : (s.muNext u).regs = s.regs := by
  unfold State.muNext
  split
  · rfl
  · split <;> rfl

theorem State.bit_congr {t : State} (h : s.regs = t.regs) : s.bit k i = t.bit k i := by
  unfold State.bit State.reg; rw [h]

/-- Of the registers the change of QUIESCE changes the bit itself. -/
theorem State.regs_setQuiesce (on : Bool) : (s.setQuiesce on).regs = (s.setFld oMuCtl 0 0 (b2n on)).regs := by
  unfold State.setQuiesce; dsimp only
  split
  · rfl
  · split
    · exact foldl_inv State.regs _ (fun _ _ => State.regs_muNext) _ _
    · rfl

theorem State.bit_setQuiesce (on : Bool) : (s.setQuiesce on).bit oMuCtl 0 = on := by
  rw [State.bit_congr (State.regs_setQuiesce on), State.bit_setFld_self _ _ _ _ _ _ (by omega) (by omega)]
  cases on <;> rfl

end

/-- Settles O36: each command takes the branch of its conditions, and fetching operands and counting a chain leave the recounts in hand. -/
theorem matrixUnitCommandsComplete : Obligations.MatrixUnitCommandsComplete := by
  refine fun s u hu => ⟨?assign, ?complete, ?drain, ?recount, ?quiesce⟩
  case assign =>
    exact fun i dr p hp hmay hfree hahead hq hfold hpool hlast hdraw =>
      (onUnit_mu hu _).trans (congrArg _ (State.assign_gives hp hmay hfree hahead hq hfold hpool hlast hdraw))
  case complete =>
    exact fun j p err hcur hprod hfull hlost hdrop hsel h1 h2 =>
      (onUnit_mu hu _).trans (congrArg _ (State.chainDone_fills hcur hprod hfull hlost hdrop hsel h1 h2))
  case drain =>
    exact fun e rest hfs hfull hsub hwhole hroom => (onUnit_mu hu _).trans
      (congrArg _ ((if_neg (by rw [hfs]; decide)).trans (State.drainTile_queues hfull hsub hwhole hroom)))
  case recount =>
    exact fun j p r err hcur hprod hkind hr hlost =>
      (onUnit_mu hu _).trans (congrArg _ (State.recountDone_third hcur hprod hkind hr hlost))
  case quiesce =>
    exact fun master on hlets => ⟨congrArg _ (lets_guard hlets _), State.bit_setQuiesce on⟩

end Sys2Proof.Machine

/-! PROOFS. The drover engines: what an instruction leaves of its engine's course, and the vector, lane, predicate and scalar
instructions. -/

namespace Sys2Proof.Machine

/-! Where an engine goes after an instruction (R228, R247, R352). -/

/-- What an instruction says of its engine's way: whether it waits, ends the invocation or branches, and where the invocation stands in
its kernel. -/
def Kx.course (x : Kx) : Bool × Bool × Option Int × Nat × List Nat := (x.wait, x.ended, x.nxt, x.i.pc, x.i.code)

/-- The course of an instruction, with its fault and the lost line it met. -/
def Kx.flow (x : Kx) : (Bool × Bool × Option Int × Nat × List Nat) × Nat × Option Consumed :=
  (x.course, x.fault, x.s.mem.consumed)

section
variable {s : State} {e w op fn k v ty vd pg a c pc : Nat} {x y : Kx} {i : Inv} {f : Nat → Kx → Kx} {g g' : Nat → Nat × Nat}
  {cd : Cond} {st : State} {xs : List Nat}

@[simp] theorem Inv.setPred_pc : (i.setPred k v).pc = i.pc := by unfold Inv.setPred; split <;> rfl
@[simp] theorem Inv.setPred_code : (i.setPred k v).code = i.code := by unfold Inv.setPred; split <;> rfl
@[simp] theorem Inv.setPred_v : (i.setPred k v).v = i.v := by unfold Inv.setPred; split <;> rfl

@[simp] theorem Kx.setS_flow : (x.setS k v).flow = x.flow := rfl
@[simp] theorem Kx.raise_flow : (x.raise cd).flow = x.flow := rfl
@[simp] theorem Kx.mapV_flow : (x.mapV ty vd pg g).flow = x.flow := rfl
@[simp] theorem Kx.setLanes_flow : ({ x with i := x.i.setLanes ty vd xs } : Kx).flow = x.flow := rfl
@[simp] theorem Kx.setPred_flow : ({ x with i := x.i.setPred k v } : Kx).flow = x.flow := by simp [Kx.flow, Kx.course]

/-- The flow of an instruction about to be executed, and of every one that keeps it. -/
theorem flow_spec (h : s.atWord e w = some x) (hf : y.flow = x.flow) :
    y.fault = 0 ∧ y.wait = false ∧ y.ended = false ∧ y.s.mem.consumed = none ∧ y.nxt = none ∧ y.i.pc = x.i.pc ∧
      y.i.code = x.i.code := by
  obtain ⟨-, hfault, hwait, hended, rfl, hnxt, hcons⟩ := atWord_ix h
  simp only [Kx.flow, Kx.course, Prod.mk.injEq] at hf
  obtain ⟨⟨hw, hen, hn, hpc, hcode⟩, hf, hm⟩ := hf
  exact ⟨hf.trans hfault, hw.trans hwait, hen.trans hended, hm.trans hcons, hn.trans hnxt, hpc, hcode⟩

/-- An instruction that keeps the flow moves its engine on, whatever else it does. -/
theorem execKernelOp_gives (h : s.atWord e w = some x) (hp : x.i.pc + 1 < x.i.code.length) (ho : wOp w = op) (hy : f w x = y)
    (hf : y.flow = x.flow) : execKernelOp op e f s = .next (y.moved (x.i.pc + 1)) := by
  subst hy
  obtain ⟨hfault, hwait, hended, hcons, hnxt, hpc, hcode⟩ := flow_spec h hf
  exact execKernelOp_moves h hp ho hfault hwait hended hcons hnxt hpc hcode

theorem execKernelFn_gives (h : s.atWord e w = some x) (hp : x.i.pc + 1 < x.i.code.length) (ho : wOp w = op) (hn : wFN w = fn)
    (hy : f w x = y) (hf : y.flow = x.flow) : execKernelFn op fn e f s = .next (y.moved (x.i.pc + 1)) := by
  subst hy
  obtain ⟨hfault, hwait, hended, hcons, hnxt, hpc, hcode⟩ := flow_spec h hf
  exact execKernelFn_moves h hp ho hn hfault hwait hended hcons hnxt hpc hcode

end

/-! The vector and lane instructions (R224 to R226, R229, R230, R233, R236, R237). -/

section
variable {s : State} {e w r k v : Nat} {x : Kx} {i : Inv} {ty vd : Nat} {xs : List Nat}

/-- A write of a register's lanes changes no other register. -/
theorem Inv.vreg_setLanes_ne (h : r ≠ vd) : (i.setLanes ty vd xs).vreg r = i.vreg r := mapGet_mapSet_ne _ _ _ h _

theorem kVcmp_flow : (kVcmp w x).flow = x.flow := by simp [kVcmp, Kx.flow, Kx.course]

theorem kVcmp_vregs : (kVcmp w x).i.v = x.i.v := by simp [kVcmp]

theorem kVcvt_flow : (kVcvt w x).flow = x.flow := rfl

/-- VBCAST BL within the effective length puts the lane's value everywhere. -/
theorem kBcastBl_near (h : x.i.sreg (wVB w % 16) < x.i.eff (wTY w)) :
    kBcastBl w x = x.mapV (wTY w) (wVD w) (wPG w) fun _ => ((x.i.lanes (wTY w) (wVA w)).getD (x.i.sreg (wVB w % 16)) 0, 0) := by
  simp [kBcastBl, Nat.not_le.mpr h]

/-- VBCAST BL beyond it puts +0 everywhere and raises PERM_RANGE. -/
theorem kBcastBl_far (h : x.i.eff (wTY w) ≤ x.i.sreg (wVB w % 16)) :
    let y := x.mapV (wTY w) (wVD w) (wPG w) fun _ => (0, 0)
    kBcastBl w x = { y with cond := y.cond ||| 32 } := by
  simp [kBcastBl, h, cPerm]

/-- VBCAST IOTA on an integer type. -/
theorem kBcastIota_int (h : tyFloat (wTY w) = false) : kBcastIota w x = x.mapV (wTY w) (wVD w) (wPG w) fun k =>
    (ofInt (tyWidth (wTY w)) (k + sext 32 (x.i.sreg (wVB w % 16))), 0) := by
  simp [kBcastIota, h]

/-- VBCAST IOTA on a floating type. -/
theorem kBcastIota_float (h : tyFloat (wTY w) = true) : kBcastIota w x = x.mapV (wTY w) (wVD w) (wPG w) fun k =>
    outBits ((kFmt (wTY w)).round .rne (.ofInt (k + sext 32 (x.i.sreg (wVB w % 16))))) := by
  simp [kBcastIota, h]

theorem kVsmx_fn (h : wFN w = k) : kVsmx w x = x.mapV (wTY w) (wVD w) (wPG w) fun j =>
    smxLane (wTY w) k ((x.i.lanes (wTY w) (wVA w)).getD j 0) ((x.i.srcB (wTY w) w).getD j 0) := by
  subst h; rfl

end

/-- Settles O38: each instruction writes its destination lane by lane and keeps its engine's flow. -/
theorem vectorInstructionsComplete : Obligations.VectorInstructionsComplete := by
  intro s e w x h hp
  refine ⟨?varith, ?vfma, ?vun1, ?vun2, ?vcmp, ?vsel⟩
  case varith => exact fun ho => execKernelOp_gives (f := kVarith) h hp ho rfl Kx.mapV_flow
  case vfma => exact fun ho => execKernelOp_gives (f := kVfma) h hp ho rfl Kx.mapV_flow
  case vun1 => exact fun ho => execKernelOp_gives (f := kVun1) h hp ho rfl Kx.mapV_flow
  case vun2 => exact fun ho => execKernelOp_gives (f := kVun2) h hp ho rfl Kx.mapV_flow
  case vcmp => exact fun ho => ⟨execKernelOp_gives h hp ho rfl kVcmp_flow, kVcmp_vregs⟩
  case vsel => exact fun ho => execKernelOp_gives (f := kVsel) h hp ho rfl Kx.mapV_flow

/-- Settles O39: each instruction writes its destination lane by lane, as its function code and type say, and keeps its engine's flow. -/
theorem laneInstructionsComplete : Obligations.LaneInstructionsComplete := by
  intro s e w x h hp
  refine ⟨?sexp, ?snorm, ?vcvt, ?bs, ?bl, ?iotaInt, ?iotaFloat, ?idx, ?rot⟩
  case sexp => exact fun ho hn => execKernelFn_gives h hp ho hn (kVsmx_fn hn) Kx.mapV_flow
  case snorm => exact fun ho hn => execKernelFn_gives h hp ho hn (kVsmx_fn hn) Kx.mapV_flow
  case vcvt => exact fun ho => ⟨execKernelOp_gives h hp ho rfl kVcvt_flow, fun r hr => Inv.vreg_setLanes_ne hr⟩
  case bs => exact fun ho hn => execKernelFn_gives (f := kBcastBs) h hp ho hn rfl Kx.mapV_flow
  case bl => exact fun ho hn => ⟨fun hk => execKernelFn_gives h hp ho hn (kBcastBl_near hk) Kx.mapV_flow,
      fun hk => execKernelFn_gives h hp ho hn (kBcastBl_far hk) rfl⟩
  case iotaInt => exact fun ho hn ht => execKernelFn_gives h hp ho hn (kBcastIota_int ht) Kx.mapV_flow
  case iotaFloat => exact fun ho hn ht => execKernelFn_gives h hp ho hn (kBcastIota_float ht) Kx.mapV_flow
  case idx => exact fun ho hn => execKernelFn_gives (f := kPermIdx) h hp ho hn rfl Kx.mapV_flow
  case rot => exact fun ho hn => execKernelFn_gives (f := kPermRot) h hp ho hn rfl Kx.mapV_flow

/-! The predicate and scalar instructions (R224, R226, R228, R232). -/

section
variable {s : State} {e w pc : Nat} {x : Kx}

theorem kPred_flow : (kPred w x).flow = x.flow := by
  unfold kPred; dsimp only
  split <;> simp

theorem kPred_vregs : (kPred w x).i.v = x.i.v := by
  unfold kPred; dsimp only
  split <;> simp [Kx.setS, Inv.setS]

theorem kVred_int (h : tyFloat (wTY w) = false) : kVred w x = x.setS (wVD w % 16)
    (redInt (wTY w) (wFN w) (x.i.lanes (wTY w) (wVA w)) (x.i.active (wTY w) (wPG w))) := by
  simp [kVred, h]

theorem kVred_float (h : tyFloat (wTY w) = true) :
    let r := redFloat (wTY w) (wFN w) (x.i.lanes (wTY w) (wVA w)) (x.i.active (wTY w) (wPG w))
    kVred w x = (x.raise r.2).setS (wVD w % 16) r.1 := by
  simp [kVred, h]

/-- A value held between two bounds lies between them. -/
theorem clampI_bounds {a lo hi : Int} (h : lo ≤ hi) : lo ≤ clampI a lo hi ∧ clampI a lo hi ≤ hi := by
  unfold clampI
  split
  · exact ⟨le_refl _, h⟩
  · split <;> omega

/-- SLI writes the half of its register that bit 21 names. -/
theorem kSli_half : kSli w x = x.setS (wSD w) (if fld w 21 21 = 0 then Machine.setFld (x.i.sreg (wSD w)) 15 0 (fld w 15 0)
    else Machine.setFld (x.i.sreg (wSD w)) 31 16 (fld w 15 0)) := by
  have hbit : fld w 21 21 < 2 := Nat.mod_lt _ (by decide)
  unfold kSli
  split
  · next h0 => rw [h0]
  · next h0 => rw [show fld w 21 21 = 1 by omega]

theorem kScond_read (h : wFN w = 0) : kScond w x = x.setS (wSD w) x.i.cond := by simp [kScond, h]

theorem kScond_clear (h : wFN w = 1) : kScond w x = { x with i := { x.i.setS (wSD w) x.i.cond with cond := 0 } } := by
  simp [kScond, h, Kx.setS]

theorem kBr_stays (h : brTaken (fld w 17 15) (x.i.sreg (wSD w)) (x.i.sreg (wSA w)) = false) : kBr w x = x := by simp [kBr, h]

/-- A branch that is taken sets the next program counter. -/
theorem kBr_taken (h : brTaken (fld w 17 15) (x.i.sreg (wSD w)) (x.i.sreg (wSA w)) = true) :
    kBr w x = { x with nxt := some ((x.i.pc : Int) + sext 15 (fld w 14 0)) } := by simp [kBr, h]

/-- A branch that is taken to a word of the kernel goes there. -/
theorem exec_br_taken (h : s.atWord e w = some x) (ho : wOp w = 0x28)
    (ht : brTaken (fld w 17 15) (x.i.sreg (wSD w)) (x.i.sreg (wSA w)) = true)
    (hpc : (x.i.pc : Int) + sext 15 (fld w 14 0) = pc) (hin : pc < x.i.code.length) : exec (.br e) s = .next (x.moved pc) := by
  obtain ⟨he, -⟩ := atWord_ix h
  obtain ⟨hfault, hwait, hended, hcons, -⟩ := flow_spec h (y := x) rfl
  have hclear : (kBr w x).clear pc = true := by simp [kBr_taken ht, Kx.clear, hfault, hwait, hended, hcons, hpc, hin]
  have hstep : s.kstep e (fun w => wOp w = 0x28) kBr = (kBr w x).moved pc := kstep_move h (by simp [ho]) hclear
  calc exec (.br e) s = .next (s.kstep e (fun w => wOp w = 0x28) kBr) := if_pos he
    _ = .next ((kBr w x).moved pc) := by rw [hstep]
    _ = .next (x.moved pc) := by rw [kBr_taken ht]; rfl

end

/-- Settles O40: each instruction writes a predicate or scalar register and keeps its engine's flow, but for the branch that is taken. -/
theorem scalarInstructionsComplete : Obligations.ScalarInstructionsComplete := by
  intro s e w x h
  refine ⟨fun hp => ⟨?vredInt, ?vredFloat, ?pred, ?setvl, ?salu, ?saddi, ?sli, ?slane, ?scondRead, ?scondClear, ?br, ?nop⟩, ?taken⟩
  case vredInt => exact fun ho ht => execKernelOp_gives h hp ho (kVred_int ht) Kx.setS_flow
  case vredFloat => exact fun ho ht => execKernelOp_gives h hp ho (kVred_float ht) (Kx.setS_flow.trans Kx.raise_flow)
  case pred =>
    exact fun ho => ⟨execKernelOp_gives h hp ho rfl kPred_flow, kPred_vregs, fun hn => by simp [kPred, hn],
      fun hn => by simp [kPred, hn, Kx.setS]⟩
  case setvl =>
    intro ho
    obtain ⟨h0, h256⟩ := clampI_bounds (a := sext 32 (x.i.sreg (wSA w)) + imm18 w) (show (0 : Int) ≤ 256 by decide)
    exact ⟨(clampI (sext 32 (x.i.sreg (wSA w)) + imm18 w) 0 256).toNat, by omega, Int.toNat_of_nonneg h0,
      execKernelOp_gives (f := kSetvl) h hp ho rfl rfl⟩
  case salu => exact fun ho => execKernelOp_gives (f := kSalu) h hp ho rfl (Kx.setS_flow.trans Kx.raise_flow)
  case saddi => exact fun ho => execKernelOp_gives (f := kSaddi) h hp ho rfl Kx.setS_flow
  case sli => exact fun ho => execKernelOp_gives h hp ho kSli_half Kx.setS_flow
  case slane => exact fun ho => execKernelOp_gives (f := kSlane) h hp ho rfl Kx.setS_flow
  case scondRead => exact fun ho hn => execKernelOp_gives h hp ho (kScond_read hn) Kx.setS_flow
  case scondClear => exact fun ho hn => execKernelOp_gives h hp ho (kScond_clear hn) rfl
  case br => exact fun ho ht => execKernelOp_gives h hp ho (kBr_stays ht) rfl
  case nop => exact fun ho hn => execKernelFn_gives (f := fun _ x => x) h hp ho hn rfl rfl
  case taken => exact fun ho ht pc hpc hin => exec_br_taken h ho ht hpc hin

end Sys2Proof.Machine

/-! PROOFS. The drover engines: instructions on local memory and tiles, copies, and the tensor writer. -/

namespace Sys2Proof.Machine

/-! Local memory with no copy in flight and no lost line (R234, R239, R349). -/

/-- The engine has no copy in flight and no lost line in its local memory. -/
def Kx.Idle (x : Kx) : Prop := (x.s.drv x.e).copies = [] ∧ (x.s.drv x.e).bad = []

/-- The instruction without the conditions it has raised. -/
def Kx.sansCond (x : Kx) : Kx := { x with cond := 0 }

section
variable {s : State} {e w a n al t r ty vd pg ge sa sb : Nat} {x y : Kx} {act : List Nat} {val : Nat → Nat} {g g' : Nat → Nat × Nat}
  {va : List Nat} {lim : Int} {p : List Nat × Kx} {h : Nat} {b : Hold} {d : Drv}

theorem atWord_state (h : s.atWord e w = some x) : x.s = s := by
  obtain ⟨-, -, -, -, hs, -⟩ := atWord_ix h
  exact hs

@[simp] theorem Drv.setHold_copies : (d.setHold h b).copies = d.copies := by unfold Drv.setHold; split <;> rfl
@[simp] theorem Drv.setHold_bad : (d.setHold h b).bad = d.bad := by unfold Drv.setHold; split <;> rfl

/-- An access that does not fault ends within the local memory. -/
theorem localFault_inBounds (hf : localFault a n al = 0) : a + n ≤ 524288 := by
  by_contra hn
  simp [localFault, localSize, Nat.lt_of_not_le hn] at hf

theorem Kx.flow_of_sansCond (h : y.sansCond = x.sansCond) : y.flow = x.flow :=
  congrArg Kx.flow (a₁ := y.sansCond) (a₂ := x.sansCond) h

theorem Kx.Idle.of_sansCond (hi : x.Idle) (h : y.sansCond = x.sansCond) : y.Idle := by
  have hs : y.s = x.s := congrArg Kx.s (a₁ := y.sansCond) (a₂ := x.sansCond) h
  have he : y.e = x.e := congrArg Kx.e (a₁ := y.sansCond) (a₂ := x.sansCond) h
  unfold Kx.Idle
  rwa [hs, he]

/-- Raising the conditions of every result in turn changes the conditions only. -/
theorem Kx.raises_sansCond {α : Type} (os : List (α × Cond)) (x : Kx) :
    (os.foldl (fun (k : Kx) o => k.raise o.2) x).sansCond = x.sansCond :=
  foldl_inv Kx.sansCond (fun (k : Kx) (o : α × Cond) => k.raise o.2) (fun _ _ => rfl) os x

theorem Kx.writeLocal_flow (hi : x.Idle) : (x.writeLocal a act val).flow = x.flow := by
  simp only [Kx.writeLocal, touchLines_idle _ hi.1]
  rfl

theorem Kx.Idle.writeLocal (hi : x.Idle) : (x.writeLocal a act val).Idle := by
  obtain ⟨hcopies, hbad⟩ := hi
  simp [Kx.Idle, Kx.writeLocal, touchLines_idle _ hcopies, hcopies, hbad]

/-- Reading a row of a tile changes nothing. -/
theorem Kx.tileRow_keeps (hi : x.Idle) : (x.tileRow t r act).2 = x := by
  unfold Kx.tileRow; dsimp only
  split
  · rfl
  · rfl
  · rfl
  · rw [readLocal_idle hi.1 hi.2]

theorem Kx.setTileRow_flow (hi : x.Idle) : (x.setTileRow t r act val).flow = x.flow := by
  unfold Kx.setTileRow; dsimp only
  split
  · split <;> rfl
  · rfl
  · rfl
  · exact Kx.writeLocal_flow hi

theorem Kx.Idle.setTileRow (hi : x.Idle) : (x.setTileRow t r act val).Idle := by
  unfold Kx.setTileRow; dsimp only
  split
  · split
    · simpa [Kx.Idle] using hi
    · exact hi
  · exact hi
  · exact hi
  · exact hi.writeLocal

/-- What an instruction writes depends on its function at the active lanes only. -/
theorem Kx.mapV_congr (hg : ∀ k, k < laneCount ty → x.i.active ty pg k = true → g k = g' k) :
    x.mapV ty vd pg g = x.mapV ty vd pg g' := by
  have hlanes : ((List.range (laneCount ty)).map fun k => if x.i.active ty pg k then g k else ((x.i.lanes ty vd).getD k 0, 0)) =
      (List.range (laneCount ty)).map fun k => if x.i.active ty pg k then g' k else ((x.i.lanes ty vd).getD k 0, 0) := by
    refine List.map_congr_left fun k hk => ?_
    split
    · next ha => exact hg k (List.mem_range.mp hk) ha
    · rfl
  simp only [Kx.mapV, hlanes]

/-! The instructions, each with the words it reads and writes. -/

theorem kVld_words (hi : x.Idle) (hf : localFault (mAddr w x.i) 512 64 = 0) :
    kVld w x = x.mapV 0 (fld w 25 21) (fld w 16 14) fun k =>
      (leNat (memReadAt (x.s.drv x.e).loc (mAddr w x.i + 4 * k) 4), 0) := by
  simp only [kVld, hf, readLocal_idle hi.1 hi.2]
  refine Kx.mapV_congr fun k hk hact => ?_
  have hmem : k ∈ x.i.actives 0 (fld w 16 14) := List.mem_filter.mpr ⟨List.mem_range.mpr hk, hact⟩
  have hlt : k < 128 := hk
  simp [hlt, hmem]

theorem kVst_writes (hf : localFault (mAddr w x.i) 512 64 = 0) : kVst w x =
    x.writeLocal (mAddr w x.i) (x.i.actives 0 (fld w 16 14)) fun k => (x.i.vreg (fld w 25 21)).getD k 0 := by
  simp [kVst, hf]

theorem kVldt_flow (hi : x.Idle) (ht : x.hasTile (fld w 20 17) = true) : (kVldt w x).flow = x.flow := by
  simp [kVldt, ht, Kx.tileRow_keeps hi]

theorem kVldt_state (hi : x.Idle) (ht : x.hasTile (fld w 20 17) = true) : (kVldt w x).s = x.s := by
  simp [kVldt, ht, Kx.tileRow_keeps hi, Kx.mapV]

theorem kVstt_writes (ht : x.hasTile (fld w 20 17) = true) : kVstt w x = x.setTileRow (fld w 20 17) (rRow w x.i)
    (x.i.actives 0 (fld w 12 10)) fun k => (x.i.vreg (fld w 25 21)).getD k 0 := by
  simp [kVstt, ht]

theorem kSld_word (hi : x.Idle) (ha : slAddr w x.i = a) (hf : localFault a 4 4 = 0) :
    kSld w x = x.setS (wSD w) (leNat (memReadAt (x.s.drv x.e).loc a 4)) := by
  simp [kSld, ha, hf, readBytes_idle hi.1 hi.2]

theorem kSst_writes (ha : slAddr w x.i = a) (hf : localFault a 4 4 = 0) :
    kSst w x = x.writeLocal a [0] fun _ => x.i.sreg (wSD w) := by
  simp [kSst, ha, hf]

/-- One row of TOP keeps the flow, and the engine idle for the next. -/
theorem topRow_steady (hi : x.Idle) : (topRow w va act lim x r).flow = x.flow ∧ (topRow w va act lim x r).Idle := by
  simp only [topRow, Kx.tileRow_keeps hi]
  exact ⟨Kx.setTileRow_flow hi, hi.setTileRow⟩

theorem topRows_flow (hi : x.Idle) (rows : List Nat) : (rows.foldl (topRow w va act lim) x).flow = x.flow :=
  (List.foldlRecOn (motive := fun y : Kx => y.flow = x.flow ∧ y.Idle) rows _ ⟨rfl, hi⟩ fun _ ⟨hflow, hidle⟩ r _ =>
    have ⟨hrow, hidle'⟩ := topRow_steady (r := r) hidle
    ⟨hrow.trans hflow, hidle'⟩).1

theorem kTop_flow (hi : x.Idle) (ht : x.hasTile (fld w 16 13) = true) (hu : x.hasTile (fld w 20 17) = true) :
    (kTop w x).flow = x.flow := by
  simp only [kTop, ht, hu]
  exact topRows_flow hi _

/-- Reading row after row of a tile changes nothing. -/
theorem Kx.tileRows_keeps (hi : x.Idle) (rows : List Nat) (ws : List (List Nat)) :
    (rows.foldl (fun (p : List (List Nat) × Kx) r => (p.1 ++ [(p.2.tileRow t r act).1], (p.2.tileRow t r act).2)) (ws, x)).2 = x := by
  induction rows generalizing ws with
  | nil => rfl
  | cons r rows ih =>
    simp only [List.foldl_cons, Kx.tileRow_keeps hi]
    exact ih _

/-- TRED reads every row of its tile, and then writes a register and conditions. -/
theorem kTred_flow (hi : x.Idle) (ht : x.hasTile (fld w 16 13) = true) : (kTred w x).flow = x.flow := by
  simp only [kTred, ht, Kx.tileRows_keeps hi, Bool.not_true, Bool.false_eq_true, if_false]
  split
  · exact (Kx.flow_of_sansCond (Kx.raises_sansCond _ _)).trans Kx.setLanes_flow
  · exact Kx.mapV_flow

/-- A slot of VOUTL whose index and row lie in local memory changes conditions only. -/
theorem voutlSlot_sansCond (hi : p.2.Idle) (hx : sa + 2 * ge + 2 ≤ 524288) (hr : sb + 1024 * ge + 1024 ≤ 524288) :
    (voutlSlot sa sb p ge).2.sansCond = p.2.sansCond := by
  simp only [voutlSlot, localSize, readBytes_idle hi.1 hi.2]
  rw [if_neg (show ¬ 524288 < sa + 2 * ge + 2 by omega), if_neg (show ¬ 524288 < sb + 1024 * ge + 1024 by omega)]
  split
  · rfl
  · split
    · rfl
    · rw [Kx.raises_sansCond]

theorem kVoutl_flow (hi : x.Idle) (hx : x.i.sreg (fld w 20 17) + 16 * x.i.sreg (fld w 12 9) ≤ 524288)
    (hr : x.i.sreg (fld w 16 13) + 8192 * x.i.sreg (fld w 12 9) ≤ 524288) : (kVoutl w x).flow = x.flow := by
  have hslots : ((List.range (min (8 * x.i.sreg (fld w 12 9)) (localSize + 1))).foldl
      (voutlSlot (x.i.sreg (fld w 20 17)) (x.i.sreg (fld w 16 13))) (List.replicate 512 0, x)).2.sansCond = x.sansCond :=
    List.foldlRecOn (motive := fun p : List Nat × Kx => p.2.sansCond = x.sansCond) _ _ rfl fun p hp ge hge => by
      have hlt : ge < 8 * x.i.sreg (fld w 12 9) := (lt_min_iff.mp (List.mem_range.mp hge)).1
      exact (voutlSlot_sansCond (hi.of_sansCond hp) (by omega) (by omega)).trans hp
  exact (foldl_inv Kx.flow _ (fun _ _ => Kx.setLanes_flow) _ _).trans (Kx.flow_of_sansCond hslots)

end

/-- Settles O41: with its local memory idle and its operands in bounds, each instruction reads or writes what it names and keeps its
engine's flow. -/
theorem localMemoryInstructionsComplete : Obligations.LocalMemoryInstructionsComplete := by
  intro s e w x h hp hcopies hbad
  obtain rfl := atWord_engine h
  obtain rfl := atWord_state h
  have hi : x.Idle := ⟨hcopies, hbad⟩
  refine ⟨?vld, ?vst, ?vldt, ?vstt, ?sld, ?sst, ?top, ?tred, ?voutl⟩
  case vld => exact fun ho hf => execKernelOp_gives h hp ho (kVld_words hi hf) Kx.mapV_flow
  case vst =>
    exact fun ho hf => ⟨execKernelOp_gives h hp ho (kVst_writes hf) (Kx.writeLocal_flow hi), (writeLocal_idle hcopies).2⟩
  case vldt => exact fun ho ht => ⟨execKernelOp_gives h hp ho rfl (kVldt_flow hi ht), fun _ => kVldt_state hi ht⟩
  case vstt => exact fun ho ht => execKernelOp_gives h hp ho (kVstt_writes ht) (Kx.setTileRow_flow hi)
  case sld => exact fun ho a ha hf => execKernelOp_gives h hp ho (kSld_word hi ha hf) Kx.setS_flow
  case sst => exact fun ho a ha hf => execKernelOp_gives h hp ho (kSst_writes ha hf) (Kx.writeLocal_flow hi)
  case top => exact fun ho ht hu => execKernelOp_gives h hp ho rfl (kTop_flow hi ht hu)
  case tred => exact fun ho ht => execKernelOp_gives h hp ho rfl (kTred_flow hi ht)
  case voutl => exact fun ho hx hr => execKernelOp_gives h hp ho rfl (kVoutl_flow hi hx hr)

/-! Copies and the tensor writer (R239 to R241). -/

section
variable {s : State} {e w k a v key n : Nat} {x y : Kx} {t : WSlot} {q : WSlot × WOut} {sel : WSlot → Nat}

theorem Kx.flow_of_course (hc : y.course = x.course) (hf : y.fault = x.fault) (hm : y.s.mem.consumed = x.s.mem.consumed) :
    y.flow = x.flow := by simp [Kx.flow, hc, hf, hm]

theorem Kx.course_of_flow (h : y.flow = x.flow) : y.course = x.course := congrArg Prod.fst h

@[simp] theorem Kx.fail_course : (x.fail n).course = x.course := by unfold Kx.fail; split <;> rfl

@[simp] theorem Kx.setSlot_flow {o : Option WSlot} : (x.setSlot k o).flow = x.flow := rfl

@[simp] theorem Kx.push_flow : (x.push v key).flow = x.flow := by unfold Kx.push; dsimp only; split <;> rfl

@[simp] theorem Kx.wrote_course : (x.wrote k q).course = x.course := by
  unfold Kx.wrote
  dsimp only
  split
  · exact Kx.fail_course
  · rfl

/-- XCOPY with its operands in order, a place free and the access allowed puts the copy in flight. -/
theorem kXcopy_issues (hm : fld w 21 18 % 2 = 0) (hn : x.i.sreg (fld w 17 14) % 64 = 0) (h0 : 0 < x.i.sreg (fld w 17 14))
    (hl : localFault (x.i.sreg (fld w 25 22)) (x.i.sreg (fld w 17 14)) 64 = 0)
    (hal : (x.i.sreg (fld w 21 18) + 2 ^ 32 * x.i.sreg (fld w 21 18 + 1)) % 64 = 0) (hfree : (x.s.drv x.e).copies.length < 16)
    (had : daddr (x.i.sreg (fld w 21 18) + 2 ^ 32 * x.i.sreg (fld w 21 18 + 1)) = .mod a)
    (hacc : x.s.memCheck (drvMaster x.e) (if w.testBit 13 then rightW else rightR) a (x.i.sreg (fld w 17 14)) = .ok) :
    kXcopy w x = { x with s := x.s.updDrv x.e fun d => { d with copies := d.copies ++
      [{ loc := x.i.sreg (fld w 25 22), addr := a, len := x.i.sreg (fld w 17 14), out := w.testBit 13, tag := fld w 3 0,
         drop := x.s.discards x.i.work.own, own := x.i.work.own }] } } := by
  have hroom := localFault_inBounds hl
  have hops : ¬(fld w 21 18 % 2 = 1 || x.i.sreg (fld w 17 14) % 64 != 0 || x.i.sreg (fld w 17 14) = 0 ||
      localSize < x.i.sreg (fld w 17 14)) = true := by
    have hsize : ¬ localSize < x.i.sreg (fld w 17 14) := by unfold localSize; omega
    simp [hm, hn, hsize]; omega
  simp only [kXcopy]
  rw [if_neg hops, if_neg (by simp [hl]), if_neg (by rw [hal]; decide), if_neg (by omega), had]
  simp only [hacc]

theorem kXwait_passes (hw : ((x.s.drv x.e).copies.any fun c => w.testBit 4 || decide (c.tag = fld w 3 0)) = false) :
    kXwait w x = x := if_neg (by rw [hw]; decide)

theorem Kx.closeSlot_closed (hs : (x.s.drv x.e).slot k = none) : x.closeSlot k = x := by simp [Kx.closeSlot, hs]

/-- CLOSE of an open slot, with room for its summaries, keeps the course. -/
theorem Kx.closeSlot_course (hs : (x.s.drv x.e).slot k = some t) (hroom : t.autosum = true → (x.s.drv x.e).fifo.length ≤ 61) :
    (x.closeSlot k).course = x.course := by
  have hgo : ¬(t.autosum && decide (61 < (x.s.drv x.e).fifo.length)) = true := by
    rw [Bool.and_eq_true, decide_eq_true_eq]
    exact fun ⟨ha, hlt⟩ => absurd (hroom ha) (by omega)
  simp only [Kx.closeSlot, hs]
  rw [if_neg hgo]
  split
  · exact Kx.wrote_course
  · split
    · exact Kx.wrote_course
    · rw [Kx.course_of_flow Kx.setSlot_flow]
      split
      · rw [Kx.course_of_flow ((Kx.push_flow.trans Kx.push_flow).trans Kx.push_flow), Kx.wrote_course]
      · exact Kx.wrote_course

/-- OPEN of a closed slot takes the descriptor it reads. -/
theorem kWrOpen_opens (hi : x.Idle) (hw : x.wait = false) (hf : x.fault = 0) (hs : (x.s.drv x.e).slot (wSlotNo w) = none)
    (ha : x.i.sreg (fld w 20 17) + 64 ≤ 524288)
    (ht : (parseTensor (memReadAt (x.s.drv x.e).loc (x.i.sreg (fld w 20 17)) 64)).status = 0) :
    kWrOpen w x = x.setSlot (wSlotNo w) (some (parseTensor (memReadAt (x.s.drv x.e).loc (x.i.sreg (fld w 20 17)) 64))) := by
  have hin : ¬ localSize < x.i.sreg (fld w 20 17) + 64 := by unfold localSize; omega
  simp [kWrOpen, Kx.closeSlot_closed hs, hw, hf, hin, readBytes_idle hi.1 hi.2, ht]

/-- ROW of an open slot, with its columns in order, keeps the course. -/
theorem kWrRow_course : (kWrRow w x).course = x.course := by
  unfold kWrRow; dsimp only
  cases (x.s.drv x.e).slot (wSlotNo w) with
  | none => exact Kx.fail_course
  | some t =>
    dsimp only
    rw [apply_ite Kx.course, Kx.fail_course, Kx.wrote_course, ite_self]

theorem kWrCount_open (hs : (x.s.drv x.e).slot (wSlotNo w) = some t) : kWrCount sel w x = x.setS (fld w 7 4) (sel t) := by
  simp [kWrCount, hs]

theorem kWrCount_closed (hs : (x.s.drv x.e).slot (wSlotNo w) = none) :
    kWrCount sel w x = ({ x with s := x.s.takeFree.2 } : Kx).setS (fld w 7 4) x.s.takeFree.1 := by
  simp [kWrCount, hs]

end

/-- Settles O42: each instruction takes the branch of its conditions; a row or a close that meets no fault and no lost line keeps its
engine's flow. -/
theorem copyAndWriterInstructionsComplete : Obligations.CopyAndWriterInstructionsComplete := by
  intro s e w x h hp
  obtain rfl := atWord_engine h
  obtain rfl := atWord_state h
  obtain ⟨hfault, hwait, -, hcons, -⟩ := flow_spec h (y := x) rfl
  have flow {y : Kx} (hc : y.course = x.course) (hf : y.fault = 0) (hm : y.s.mem.consumed = none) : y.flow = x.flow :=
    Kx.flow_of_course hc (hf.trans hfault.symm) (hm.trans hcons.symm)
  refine ⟨?xcopy, ?xwait, fun ho => ⟨?wrOpen, ?row, ?closeClosed, ?closeOpen, ?countOpen, ?countClosed⟩⟩
  case xcopy =>
    exact fun ho a hm hn h0 hl hal hfree had hacc =>
      execKernelOp_gives h hp ho (kXcopy_issues hm hn h0 hl hal hfree had hacc) rfl
  case xwait => exact fun ho hw => execKernelOp_gives h hp ho (kXwait_passes hw) rfl
  case wrOpen =>
    exact fun hn hs hcopies hbad ha ht =>
      execKernelFn_gives h hp ho hn (kWrOpen_opens ⟨hcopies, hbad⟩ hwait hfault hs ha ht) Kx.setSlot_flow
  case row => exact fun hn t hs hc hf hm => execKernelFn_gives h hp ho hn rfl (flow kWrRow_course hf hm)
  case closeClosed => exact fun hn hs => execKernelFn_gives (f := kWrClose) h hp ho hn (Kx.closeSlot_closed hs) rfl
  case closeOpen =>
    exact fun hn t hs hroom hf hm =>
      execKernelFn_gives (f := kWrClose) h hp ho hn rfl (flow (Kx.closeSlot_course hs hroom) hf hm)
  case countOpen =>
    exact fun t hs => ⟨fun hn => execKernelFn_gives h hp ho hn (kWrCount_open hs) Kx.setS_flow,
      fun hn => execKernelFn_gives h hp ho hn (kWrCount_open hs) Kx.setS_flow⟩
  case countClosed =>
    exact fun hs => ⟨_, _, rfl, fun hn => execKernelFn_gives h hp ho hn (kWrCount_closed hs) rfl,
      fun hn => execKernelFn_gives h hp ho hn (kWrCount_closed hs) rfl⟩

end Sys2Proof.Machine

/-! PROOFS. The drover engines: the work queues, the summary FIFO, and the ends of an invocation. -/

namespace Sys2Proof.Machine

/-! The queues and the FIFO (R217, R223, R244; Table 7-3). -/

section
variable {s : State} {e w h : Nat} {x : Kx} {b : Nat × Bool}

theorem kTqHdr_word (hk : x.i.sreg (wSA w) < 8) :
    kTqHdr w x = x.setS (wSD w) (leAt x.i.work.header (4 * x.i.sreg (wSA w)) 4) := if_pos hk

theorem kTqHdr_beyond (hk : 8 ≤ x.i.sreg (wSA w)) :
    kTqHdr w x = ({ x with s := x.s.takeFree.2 } : Kx).setS (wSD w) x.s.takeFree.1 := if_neg (Nat.not_lt.mpr hk)

theorem kTqHbind_filling (hf : (x.s.drv x.e).findHold 1 (some (x.i.sreg (wSA w))) = some h) :
    kTqHbind w x = { x with i := { x.i with bound := some (h, false) } } := by
  simp only [kTqHbind, hf]

theorem kTqHbind_free (hn : (x.s.drv x.e).findHold 1 (some (x.i.sreg (wSA w))) = none)
    (hf : (x.s.drv x.e).findHold 0 none = some h) : kTqHbind w x = { x with
      s := x.s.updDrv x.e fun d => d.setHold h { d.hold h with st := 1, key := x.i.sreg (wSA w),
                                                               target := x.i.sreg (wSB w) % 65536, fill := 0 }
      i := { x.i with bound := some (h, false) } } := by
  simp only [kTqHbind, hn, hf]

theorem kTqHtake_ready (hf : (x.s.drv x.e).findHold 2 (some (x.i.sreg (wSA w))) = some h) :
    kTqHtake w x = { x with i := { x.i with bound := some (h, true) } } := by
  simp only [kTqHtake, hf]

/-- HDONE fills the bound entry once more, as it stands, and unbinds it. -/
theorem kTqHdone_fills (hb : x.i.bound = some b) : kTqHdone w x = { x with
    s := x.s.updDrv x.e fun d => d.setHold b.1 { d.hold b.1 with
      fill := (d.hold b.1).fill + 1
      st := if (d.hold b.1).target ≤ (d.hold b.1).fill + 1 then 2 else (d.hold b.1).st }
    i := { x.i with bound := none } } := by
  simp only [kTqHdone, hb]

theorem kTqHrel_frees (hb : x.i.bound = some b) : kTqHrel w x = { x with
    s := x.s.updDrv x.e fun d => d.setHold b.1 { d.hold b.1 with st := 0, fill := 0 }
    i := { x.i with bound := none } } := by
  simp only [kTqHrel, hb]

theorem kSpush_pushes (hr : (x.s.drv x.e).fifo.length < 64) : kSpush w x = x.push (x.i.sreg (wSA w)) (x.i.sreg (wSB w)) :=
  if_neg (Nat.not_le.mpr hr)

theorem Kx.note_work : x.note.i.work = x.i.work := rfl

@[simp] theorem Kx.push_i {v key : Nat} : (x.push v key).i = x.i := by unfold Kx.push; dsimp only; split <;> rfl
@[simp] theorem Kx.push_e {v key : Nat} : (x.push v key).e = x.e := by unfold Kx.push; dsimp only; split <;> rfl

end

/-! What ends an invocation (R217, R228, R247). -/

section
variable {s : State} {e w fn : Nat} {x y : Kx} {i : Inv} {sel : Nat → Bool} {f : Nat → Kx → Kx}

/-- An executed word that does not wait and meets no lost line closes, whether it faults, ends or moves on. -/
theorem kstep_closes (h : s.atWord e w = some x) (hs : sel w = true) (hw : (f w x).wait = false)
    (hm : (f w x).s.mem.consumed = none) : s.kstep e sel f = (f w x).note.close := by
  unfold State.atWord at h
  split at h
  · next i hi =>
    split at h
    · next hb =>
      cases h
      simp only [Bool.and_eq_true, Bool.not_eq_true', decide_eq_true_eq, Option.isNone_iff_eq_none] at hb
      obtain ⟨⟨⟨⟨⟨-, hfs⟩, hcons⟩, hbad⟩, hword⟩, hlegal⟩ := hb
      simp only [State.kstep, hi, hfs, hcons, hbad, hword, hs, hlegal, hw, hm]
      rfl
    · cases h
  · cases h

theorem execKernelFn_closes (h : s.atWord e w = some x) (ho : wOp w = 0x3F) (hn : wFN w = fn) (hy : f w x = y)
    (hw : y.wait = false) (hm : y.s.mem.consumed = none) : execKernelFn 0x3F fn e f s = .next y.note.close := by
  subst hy
  obtain ⟨he, -⟩ := atWord_ix h
  exact (if_pos he).trans (congrArg _ (kstep_closes h (by simp [ho, hn]) hw hm))

theorem Kx.close_fault (hf : x.fault ≠ 0) : x.close = x.s.kfault x.e x.i x.fault := if_pos (by simpa using hf)

theorem Kx.close_ended (hf : x.fault = 0) (he : x.ended = true) : x.close = (x.s.endInv x.e x.i).finishWork x.i.work.own := by
  simp [Kx.close, hf, he]

/-- END with a place for its ASAT record ends the invocation, and neither faults nor waits nor meets a lost line. -/
theorem kEnd_spec (hfault : x.fault = 0) (hwait : x.wait = false) (hcons : x.s.mem.consumed = none)
    (hr : x.i.asat ≠ none → (x.s.drv x.e).fifo.length < 64) :
    (kEnd w x).ended = true ∧ (kEnd w x).fault = 0 ∧ (kEnd w x).wait = false ∧ (kEnd w x).s.mem.consumed = none ∧
      (kEnd w x).e = x.e ∧ (kEnd w x).i = x.i := by
  unfold kEnd
  cases ha : x.i.asat with
  | none => exact ⟨rfl, hfault, hwait, hcons, rfl, rfl⟩
  | some l =>
    have hflow : (x.push 1 (0xC6 * 65536 + l)).flow = x.flow := Kx.push_flow
    simp only [Kx.flow, Kx.course, Prod.mk.injEq] at hflow
    obtain ⟨⟨hw, -⟩, hf, hm⟩ := hflow
    dsimp only
    rw [if_neg (Nat.not_le.mpr (hr (by rw [ha]; exact Option.some_ne_none l)))]
    exact ⟨rfl, hf.trans hfault, hw.trans hwait, hm.trans hcons, Kx.push_e, Kx.push_i⟩

theorem exec_ctlEnd (h : s.atWord e w = some x) (ho : wOp w = 0x3F) (hn : wFN w = 1)
    (hr : x.i.asat ≠ none → (x.s.drv x.e).fifo.length < 64) :
    exec (.ctlEnd e) s = .next (((kEnd w x).note.s.endInv x.e (kEnd w x).note.i).finishWork x.i.work.own) := by
  obtain ⟨hfault, hwait, -, hcons, -⟩ := flow_spec h (y := x) rfl
  obtain ⟨hended, hf, hw, hm, he, hi⟩ := kEnd_spec (w := w) hfault hwait hcons hr
  have hown : (kEnd w x).note.i.work.own = x.i.work.own := by rw [Kx.note_work, hi]
  have hclose : (kEnd w x).note.close = _ := Kx.close_ended hf hended
  rw [hown, show (kEnd w x).note.e = x.e from he] at hclose
  exact (execKernelFn_closes h ho hn rfl hw hm).trans (congrArg _ hclose)

theorem exec_ctlFault (h : s.atWord e w = some x) (ho : wOp w = 0x3F) (hn : wFN w = 2) :
    exec (.ctlFault e) s = .next (x.note.s.kfault x.e x.note.i 11) := by
  obtain ⟨hfault, hwait, -, hcons, -⟩ := flow_spec h (y := x) rfl
  have hfail : x.fail 11 = { x with fault := 11 } := if_pos hfault
  have hclose : ({ x with fault := 11 } : Kx).note.close = _ := Kx.close_fault nofun
  exact (execKernelFn_closes (f := fun _ y => y.fail 11) h ho hn hfail hwait hcons).trans (congrArg _ hclose)

/-- A word that an uncorrectable error has hit faults with code 10, whatever the command is about. -/
theorem kstep_hit (hi : (s.drv e).inv = some i) (hfs : s.failSafe = false) (hm : s.mem.consumed = none)
    (hb : (s.drv e).ibad.contains (i.ofs + i.pc) = true) : s.kstep e sel f = s.kfault e i 10 := by
  simp only [State.kstep, hi, hfs, hm, hb]
  rfl

/-- A word that is no legal instruction faults with code 1. -/
theorem kstep_illegal (hi : (s.drv e).inv = some i) (hfs : s.failSafe = false) (hm : s.mem.consumed = none)
    (hb : (s.drv e).ibad.contains (i.ofs + i.pc) = false) (hs : sel (i.code.getD i.pc 0) = true)
    (hl : kLegal (i.code.getD i.pc 0) = false) :
    s.kstep e sel f = ({ s := s, i := i, e := e } : Kx).note.s.kfault e ({ s := s, i := i, e := e } : Kx).note.i 1 := by
  have hclose : ({ s := s, i := i, e := e, fault := 1 } : Kx).note.close = _ := Kx.close_fault nofun
  simp only [State.kstep, hi, hfs, hm, hb, hs, hl]
  exact hclose

theorem onUnit_drv (he : e < 40) (t : State) : onUnit (drvOk e) t = .next t := if_pos (decide_eq_true he)

end

/-- Settles O43: the queue instructions keep their engine's flow; END and the faults close the instruction and end the invocation. -/
theorem queueAndEndInstructionsComplete : Obligations.QueueAndEndInstructionsComplete := by
  refine ⟨fun s e w x h => ?word, fun s e i he hfs hm hi => ⟨fun hb hl => ?illegal, fun hb => ⟨?hit, ?hitIllegal⟩⟩⟩
  case word =>
    obtain rfl := atWord_engine h
    obtain rfl := atWord_state h
    refine ⟨fun hp => ⟨fun ho => ⟨?hdr, ?hdrBeyond, ?hbindFilling, ?hbindFree, ?hdone, ?htake, ?hrel⟩, ?spush⟩, ?fin, ?fault⟩
    case hdr => exact fun hn hk => execKernelFn_gives h hp ho hn (kTqHdr_word hk) Kx.setS_flow
    case hdrBeyond => exact fun hn hk => ⟨_, _, rfl, execKernelFn_gives h hp ho hn (kTqHdr_beyond hk) rfl⟩
    case hbindFilling => exact fun hn b hf => execKernelFn_gives h hp ho hn (kTqHbind_filling hf) rfl
    case hbindFree => exact fun hn hnone b hf => execKernelFn_gives h hp ho hn (kTqHbind_free hnone hf) rfl
    case hdone => exact fun hn b hb => execKernelFn_gives h hp ho hn (kTqHdone_fills hb) rfl
    case htake => exact fun hn b hf => execKernelFn_gives h hp ho hn (kTqHtake_ready hf) rfl
    case hrel => exact fun hn b hb => execKernelFn_gives h hp ho hn (kTqHrel_frees hb) rfl
    case spush => exact fun ho hr => execKernelOp_gives h hp ho (kSpush_pushes hr) Kx.push_flow
    case fin => exact fun ho hn hr => exec_ctlEnd h ho hn hr
    case fault => exact fun ho hn => exec_ctlFault h ho hn
  case illegal => exact (onUnit_drv he _).trans (congrArg _ (kstep_illegal hi hfs hm hb (by rw [hl]; rfl) hl))
  case hit => exact (onUnit_drv he _).trans (congrArg _ (kstep_hit hi hfs hm hb))
  case hitIllegal => exact (onUnit_drv he _).trans (congrArg _ (kstep_hit hi hfs hm hb))

end Sys2Proof.Machine

/-! PROOFS. The drover engines between instructions: the next unit of work, time limits, copies and the summary FIFO; and VEC_KERNEL. -/

namespace Sys2Proof.Machine

/-! A free engine's next work (R215, R216, R221). -/

section
variable {s : State} {e : Nat} {t : TileEnt} {a : ArrEnt} {r : RunReq} {k : Resident} {split : Bool}

theorem State.beginWork_tile {rest : List TileEnt} (hf : s.drvFree e = true) (hsrc : s.nextSource e = some 0)
    (hq : (s.drv e).qa = t :: rest) (hs : (t.split && t.last) = split) : s.beginWork e split =
      if split then (s.combine e t).2.startTile e 0 (s.combine e t).1 else s.startTile e 0 t := by
  simp [State.beginWork, hf, hsrc, hq, hs]

theorem State.beginWork_arr {rest : List ArrEnt} (hf : s.drvFree e = true) (hsrc : s.nextSource e = some 2)
    (hq : (s.drv e).aq = a :: rest) : s.beginWork e false = s.startArr e a := by
  simp [State.beginWork, hf, hsrc, hq]

theorem State.beginWork_run {rest : List RunReq} (hf : s.drvFree e = true) (hsrc : s.nextSource e = some 3)
    (hq : (s.drv e).runs = r :: rest) : s.beginWork e false = s.startRun e r := by
  simp [State.beginWork, hf, hsrc, hq]

/-- A run request on a resident kernel starts it with the scalars of Table 7-2, at its entry. -/
theorem State.startRun_starts (hk : (s.drv e).find r.kernel = some k) : ∃ i, ((s.startRun e r).drv e).inv = some i ∧
    i.work = .run r ∧ i.pc = k.entry ∧ i.kernel = r.kernel ∧ i.sreg 0 = r.karg % 2 ^ 32 ∧ i.sreg 2 = r.arg0 ∧
    i.sreg 3 = r.arg1 ∧ i.sreg 4 = e := by
  simp only [State.startRun, State.startInv, hk, State.drv_updDrv]
  exact ⟨_, rfl, rfl, rfl, rfl, rfl, rfl, rfl, rfl⟩

end

/-! A copy that ends (R239, R349): moving its lines leaves the engine's copies in number. -/

section
variable {s t : State} {a n l k e m master o st i : Nat} {bs : List Byte} {own : Owner} {c : CopyJob} {es : Errs}

@[simp] theorem State.poke_sansAccess : (s.poke a bs).sansAccess = s.sansAccess := rfl

@[simp] theorem State.setErrs_sansAccess : (s.setErrs a es).sansAccess = s.sansAccess := by
  unfold State.setErrs State.setErrsIn; dsimp only
  split
  · rfl
  · split
    · split <;> rfl
    · rfl

@[simp] theorem State.setGood_sansAccess : (s.setGood a).sansAccess = s.sansAccess := State.setErrs_sansAccess

@[simp] theorem State.poisonLine_sansAccess : (s.poisonLine l).sansAccess = s.sansAccess := by
  unfold State.poisonLine
  split <;> simp

@[simp] theorem State.poisonLines_sansAccess : (s.poisonLines a n).sansAccess = s.sansAccess :=
  foldl_inv State.sansAccess _ (fun _ _ => State.poisonLine_sansAccess) _ _

@[simp] theorem State.writeLine_sansAccess : (s.writeLine master a bs).sansAccess = s.sansAccess := by
  unfold State.writeLine; dsimp only
  split
  · split <;> simp
  · split <;> simp

@[simp] theorem State.writeLines_sansAccess : (s.writeLines master n a bs).sansAccess = s.sansAccess := by
  induction n generalizing s a bs with
  | zero => rfl
  | succ n ih =>
    unfold State.writeLines
    split
    · rfl
    · simp [ih]

@[simp] theorem State.writeMem_sansAccess : (s.writeMem master a bs).sansAccess = s.sansAccess :=
  State.writeLines_sansAccess.trans State.noteTag_sansAccess

/-- The engines are among what memory accesses leave. -/
theorem State.drv_congr (h : s.sansAccess = t.sansAccess) : s.drv e = t.drv e :=
  congrArg (fun u : State => u.drv e) (a₁ := s.sansAccess) (a₂ := t.sansAccess) h

@[simp] theorem State.failWork_drv : (s.failWork own st).drv e = s.drv e := rfl

theorem State.moveLine_copies : ((s.moveLine e k l).drv e).copies.length = (s.drv e).copies.length := by
  unfold State.moveLine
  split
  · rfl
  · next c _ =>
    have hmark : ((s.updDrv e fun d => { d with copies := listSet d.copies k { c with moved := l :: c.moved } }).drv e).copies.length =
        (s.drv e).copies.length := by simp [listSet]
    dsimp only
    split
    · split
      · exact hmark
      · split
        · rw [State.failWork_drv, State.drv_congr State.poisonLines_sansAccess, hmark]
        · rw [State.drv_congr State.writeMem_sansAccess, hmark]
    · rw [State.drv_updDrv]
      split
      · dsimp only
        rw [State.failWork_drv, State.drv_congr State.readMem_sansAccess, hmark]
      · dsimp only
        rw [State.drv_congr State.readMem_sansAccess, hmark]

/-- A line of the i-th copy moves, unless it has moved before: one step of `State.copyDone`. -/
def State.moveRest (s : State) (e i l : Nat) : State :=
  match (s.drv e).copies[i]? with
  | some k => if k.moved.contains l then s else s.moveLine e i l
  | none => s

theorem State.moveRest_copies : ((s.moveRest e i l).drv e).copies.length = (s.drv e).copies.length := by
  unfold State.moveRest
  split
  · split
    · rfl
    · exact State.moveLine_copies
  · rfl

theorem State.copyDone_moves (hc : (s.drv e).copies[i]? = some c) (hfs : s.failSafe = false) : s.copyDone e i =
    ((linesOf c.loc c.len).foldl (fun t l => t.moveRest e i l) s).updDrv e fun d => { d with copies := d.copies.eraseIdx i } := by
  simp only [State.copyDone, hc, hfs]
  rfl

/-- A copy that ends is one less in flight. -/
theorem State.copyDone_copies (hc : (s.drv e).copies[i]? = some c) (hfs : s.failSafe = false) :
    ((s.copyDone e i).drv e).copies.length + 1 = (s.drv e).copies.length := by
  have hi : i < (s.drv e).copies.length := (List.getElem?_eq_some_iff.mp hc).1
  have hlen : (((linesOf c.loc c.len).foldl (fun t l => t.moveRest e i l) s).drv e).copies.length = (s.drv e).copies.length :=
    foldl_inv (fun t : State => (t.drv e).copies.length) _ (fun _ _ => State.moveRest_copies) _ _
  rw [State.copyDone_moves hc hfs, State.drv_updDrv, List.length_eraseIdx_of_lt (by rw [hlen]; exact hi), hlen]
  omega

end

section
variable {s : State} {e : Nat} {r : Summ} {rest : List Summ}

theorem State.drainSummary_joins (hq : (s.drv e).fifo = r :: rest)
    (hroom : (s.trn.summ.map fun x => (x.layer, x.kind)).eraseDups.length < 4096) : s.drainSummary e =
      (s.updDrv e fun d => { d with fifo := rest }).updTrn fun t => { t with summ := t.summ ++ [r] } := by
  simp only [State.drainSummary, hq]
  rw [if_pos (by simp [hroom])]

theorem State.bit_drvQuiesce (on : Bool) : (s.setFld oDrvCtl 0 0 (b2n on)).bit oDrvCtl 0 = on := by
  rw [State.bit_setFld_self _ _ _ _ _ _ (by omega) (by omega)]
  cases on <;> rfl

end

/-- Settles O37: each command takes the branch of its conditions; a run request starts with its scalars, and a copy that ends leaves the
others. -/
theorem droverCommandsComplete : Obligations.DroverCommandsComplete := by
  refine fun s e he => ⟨fun hf => ⟨?run, ?tile, ?arr, ?combine⟩, ?limits, ?copy, ?drain, ?quiesce⟩
  case run =>
    exact fun r rest k hsrc hq hk => ⟨s.startRun e r,
      (onUnit_drv he _).trans (congrArg _ (State.beginWork_run hf hsrc hq)), State.startRun_starts hk⟩
  case tile =>
    exact fun t rest hsrc hq hs => (onUnit_drv he _).trans (congrArg _ (State.beginWork_tile hf hsrc hq hs))
  case arr => exact fun a rest hsrc hq => (onUnit_drv he _).trans (congrArg _ (State.beginWork_arr hf hsrc hq))
  case combine =>
    exact fun t rest hsrc hq hs hl =>
      (onUnit_drv he _).trans (congrArg _ (State.beginWork_tile hf hsrc hq (by rw [hs, hl]; rfl)))
  case limits =>
    intro i hi
    refine ⟨(onUnit_drv he _).trans ?_, fun hw => (onUnit_drv he _).trans ?_⟩
    · simp only [hi]
    · simp only [hi, hw, if_true]
  case copy => exact fun i c hc hfs => ⟨s.copyDone e i, onUnit_drv he _, State.copyDone_copies hc hfs⟩
  case drain =>
    exact fun r rest hfs hq hroom =>
      (onUnit_drv he _).trans (congrArg _ ((if_neg (by rw [hfs]; decide)).trans (State.drainSummary_joins hq hroom)))
  case quiesce => exact fun master on hl => ⟨congrArg _ (lets_guard hl _), State.bit_drvQuiesce on⟩

/-! VEC_KERNEL (R252 to R255). -/

section
variable {s u : State} {c n op : Nat} {d : Desc} {k : KImage} {run : Bool}

/-- A VEC_KERNEL at hand is carried out by the command of its operation. -/
theorem onUnit_runKop (h : s.atHand c n 0x20 = some d) (hk : d.kop = op) (f : Desc → State → State) :
    onUnit (ctxOk c) (s.runKop c n op f) = .next (f d s) :=
  (onUnit_runDesc h _).trans (congrArg _ (if_pos hk))

/-- A sound image goes to every named engine, with its run request where the operation asks for one. -/
theorem State.loadKernel_loads (hes : d.engines ≠ []) (hr : s.readImage c d = (.inr k, u)) : s.loadKernel run c d =
    (((List.range d.engines.length).foldl (fun t r => t.loadEngine (d.engines.getD r 0)
      { own := ⟨c, d.ptr⟩, res := k.res, code := k.code,
        run := if run then some (runReq ⟨c, d.ptr⟩ d d.engines.length r) else none })
      (u.addWork { own := ⟨c, d.ptr⟩, op := 0x20, eval := d.pass })).keepImages d.engines k).finishWork ⟨c, d.ptr⟩ := by
  simp only [State.loadKernel, hr]
  exact if_neg hes

/-- With every named engine holding the kernel, each gets its run request. -/
theorem State.runKernel_requests (hres : ∀ e ∈ d.engines, ((s.drv e).find (d.u32 28)).isSome = true) :
    s.runKernel c d d.engines = (List.range d.engines.length).foldl (fun t r => t.updDrv (d.engines.getD r 0) fun q =>
      { q with runs := q.runs ++ [runReq ⟨c, d.ptr⟩ d d.engines.length r] })
      (s.addWork { own := ⟨c, d.ptr⟩, op := 0x20, eval := d.pass }) := by
  have hall : ¬(d.engines.any fun e => ((s.drv e).find (d.u32 28)).isNone) = true := by
    rw [List.any_eq_true]
    rintro ⟨e, he, hnone⟩
    rw [Option.isNone_iff_eq_none] at hnone
    exact absurd (hres e he) (by rw [hnone]; decide)
  exact if_neg hall

end

/-- Settles O9: each operation is carried out by its command, with a sound image or the kernel resident on the engines it names. -/
theorem kernelDescriptorsComplete : Obligations.KernelDescriptorsComplete := by
  intro s c n d h hes
  obtain ⟨-, rfl, -⟩ := atHand_spec h
  refine ⟨fun k u hr => ⟨fun hk => ?load, fun hk => ?loadRun⟩, fun hk hres => ?run, fun hk => ?unload⟩
  case load => exact (onUnit_runKop h hk _).trans (congrArg _ (State.loadKernel_loads hes hr))
  case loadRun => exact (onUnit_runKop h hk _).trans (congrArg _ (State.loadKernel_loads hes hr))
  case run => exact (onUnit_runKop h hk _).trans (congrArg _ ((if_neg hes).trans (State.runKernel_requests hres)))
  case unload => exact onUnit_runKop h hk _

end Sys2Proof.Machine

/-! PROOFS. The training step: the descriptors STEP_BEGIN, BRANCH, STEP_END, EVAL_BEGIN and EVAL_END. -/

namespace Sys2Proof.Machine

/-! The step registers, and what opening a step sets in them and in the record of the step (R262, R263, R270). -/

section
variable {s t u : State} {c o ph : Nat} {d : Desc} {bs : List Byte}

/-- Registers that agree read alike. -/
theorem State.reg_congr (h : s.regs = t.regs) : s.reg o = t.reg o := by unfold State.reg; rw [h]

/-- The step number of a descriptor fits a register. -/
theorem Desc.epoch_lt : d.epoch < 2 ^ 32 := leAt_lt d.bytes 4 4

theorem State.phase_setPhase (h : ph < 16) : (s.setPhase ph).phase = ph := by
  rw [State.phase, State.setPhase, State.fld_setFld_self _ _ _ _ _ (by decide) (by decide)]
  exact Nat.mod_eq_of_lt h

theorem State.reg_setPhase_ne (h : o ≠ oStepStat) : (s.setPhase ph).reg o = s.reg o := State.reg_setFld_ne _ _ _ _ _ _ h

theorem State.lend_reg : s.lend.reg o = s.reg o := State.reg_congr (congrArg Prod.fst (lend_keeps s))

theorem State.lend_trn : (s.lend.trn.opened, s.lend.trn.ctx, s.lend.trn.share) = (s.trn.opened, s.trn.ctx, s.trn.share) :=
  congrArg Prod.snd (lend_keeps s)

/-- Items 5 to 7 of R270 leave a step of the context and shares of its STEP_BEGIN. -/
theorem State.openStep_trn : (s.openStep c d bs).trn.opened = true ∧ (s.openStep c d bs).trn.ctx = c ∧
    (s.openStep c d bs).trn.share = d.shares := by
  simp only [← Prod.mk.injEq]
  exact State.lend_trn

/-- Apart from the step status, a register reads as it does once the step number is written and then the causes are cleared. -/
theorem State.openStep_reg (h : o ≠ oStepStat) : ∃ x : State,
    (s.openStep c d bs).reg o = ((x.setReg oStepNum (BitVec.ofNat 32 d.epoch)).setReg oStepCause 0).reg o := by
  rw [State.openStep, State.reg_setPhase_ne h, State.lend_reg, State.reg_updTrn, reg_clearAttempt]
  exact ⟨_, rfl⟩

theorem State.openStep_stepNo : (s.openStep c d bs).stepNo = d.epoch := by
  obtain ⟨x, hx⟩ := State.openStep_reg (s := s) (c := c) (d := d) (bs := bs) (o := oStepNum) (by decide)
  rw [State.stepNo, hx, State.reg_setReg_ne _ _ _ _ (by decide), State.reg_setReg_self, toNat_ofNat32 _ Desc.epoch_lt]

theorem State.openStep_cause : (s.openStep c d bs).reg oStepCause = 0 := by
  obtain ⟨x, hx⟩ := State.openStep_reg (s := s) (c := c) (d := d) (bs := bs) (o := oStepCause) (by decide)
  rw [hx, State.reg_setReg_self]

/-- The step enters FORWARD, in a spare BACKWARD (R483). -/
theorem State.openStep_phase : (s.openStep c d bs).phase = if s.fld 0x310 31 30 = 1 then 3 else 1 :=
  State.phase_setPhase (by split <;> decide)

/-- A STEP_BEGIN not yet at its boundary work opens a step of its context in state 1. -/
theorem State.beginStep_status (hb : s.atBoundary = false) (hc : c < 4096) :
    (s.beginStep c).fld oStepStat 31 28 = 1 ∧ (s.beginStep c).fld oStepStat 11 0 = c := by
  simp only [State.beginStep, hb, Bool.false_eq_true, if_false]
  constructor
  · rw [State.fld_setFld_apart, State.setPhase, State.fld_setFld_apart, State.setStepState, State.fld_setFld_self] <;> decide
  · rw [State.fld_setFld_self _ _ _ _ _ (by decide) (by decide)]
    exact Nat.mod_eq_of_lt hc

/-! The five descriptors (R270, R286, R287, R293, R300, R301). -/

/-- With no test to wait for and no request list left over, the boundary work ends with muster results, ring data and outlier lists. -/
theorem State.boundaryWork_done (ht : s.takeovers.unfenceDue.testsBefore = false)
    (hf : s.takeovers.unfenceDue.flushLeft.flushPending = false) :
    let s3 := (List.range 8).foldl (fun t p => t.applyPending p) s.takeovers.unfenceDue.flushLeft
    s.boundaryWork d = (true, (if s.replays d then s3.dropRingData else s3).rechoose d.epoch (s.replays d)) := by
  simp [State.boundaryWork, ht, hf]

/-- A STEP_BEGIN with its rights in order and its watch table read opens its step once the work of the boundary is done. -/
theorem State.stepBegin_opens (hmay : s.mayBegin = true)
    (hr : d.u32 28 ≠ 0 → s.mayUse (s.ctxWho c) rightW (d.u64 32) (16 * d.u32 28) = true ∧
      (d.first = true → s.mayUse (s.ctxWho c) rightR (d.u64 32) (16 * d.u32 28) = true))
    (hread : (if d.u32 28 = 0 ∨ d.first = true then (.inr [], s) else s.readRecord (s.ctxWho c) (d.u64 32) (16 * d.u32 28)) =
      (.inr bs, u))
    (hdone : (u.beginStep c).boundaryWork d = (true, t)) :
    s.stepBegin c d = (t.openStep c d bs).complete c d.ptr stSuccess := by
  have hwrite : ¬(d.u32 28 != 0 && !s.mayUse (s.ctxWho c) rightW (d.u64 32) (16 * d.u32 28)) = true := by
    simpa using fun h => (hr h).1
  have hfirst : ¬(d.first && d.u32 28 != 0 && !s.mayUse (s.ctxWho c) rightR (d.u64 32) (16 * d.u32 28)) = true := by
    simpa using fun h1 h2 => (hr h2).2 h1
  simp only [State.stepBegin, hmay, Bool.not_true, Bool.false_eq_true, if_false]
  rw [if_neg hwrite, if_neg hfirst]
  simp [hread, hdone]

/-- A value that is there decides the branch by its comparison, and one that is not leaves the skip count alone (R287). -/
theorem State.branchOn_any (v : Option Nat) : s.branchOn c d v =
    (if v.any fun v => branchHolds (d.u8 19) (d.u8 18) v (d.u32 20) then s.setCtx c { s.ctx c with skip := d.u16 24 } else s).complete
      c d.ptr stSuccess := by
  cases v <;> rfl

/-- A BRANCH of this module alone is decided by the value that has become final. -/
theorem State.branch_decides (hfinal : s.summaryFinal c d = true) (hlocal : (d.u8 26).testBit 0 = false) :
    s.branch c d = s.branchOn c d (s.summary (d.u16 16) (d.u8 18)) := by
  simp [State.branch, hfinal, hlocal]

/-- A STEP_END of a module that is no spare, its context at hand, enters the barrier with its cause bits. -/
theorem State.stepEnd_enters (hdec : s.undecided = false) (hopen : s.trn.opened = true) (hctx : s.trn.lostCtx = false)
    (hrole : s.role ≠ 1) :
    let s1 := if s.stepPartials (s.stepNo + 1) = [] then s.setNorm 0 else s
    s.stepEnd c d = ((((s1.updTrn fun t =>
      { t with barrier := some { own := ⟨c, d.ptr⟩, bits := s1.causeBits } }).setStepState 2).working c d.ptr).beginColl finExchange
        { own := ⟨c, d.ptr⟩, kind := .barrier, group := s.trn.group, vals := [s1.causeBits, 1] }) := by
  simp [State.stepEnd, hdec, hopen, hctx, hrole]

/-- An evaluation pass opens while no step or pass is open and no batch or LOCK is left on a port. -/
theorem State.evalBegin_opens (hstep : s.trn.opened = false) (hpass : s.trn.evalOpen = false)
    (hports : (List.range 8).any (fun p => (s.port p).batches != [] || (s.port p).scopes != []) = false) :
    s.evalBegin c d = (((s.newWindows.drainAll.updTrn fun t =>
      { t with evalOpen := true, evalCtx := c, summ := [], prodNext := 0 }).setStepState 5).setPhase 0 |>.setFld oStepStat 11 0
        c).complete c d.ptr stSuccess := by
  simp only [State.evalBegin, hstep, hpass, hports, Bool.or_self, Bool.false_eq_true, if_false]

/-- The pass of a context closes once no earlier descriptor of it is left. -/
theorem State.evalEnd_closes (hpass : s.trn.evalOpen = true) (hctx : s.trn.evalCtx = c)
    (hdone : ((s.ctx c).infl.takeWhile (·.ptr != d.ptr)).any (·.pass) = false) :
    let s2 := (s.ringRecord 1 0xFF).newWindows.updTrn fun t => { t with evalOpen := false, dropped := [] }
    s.evalEnd c d = (s2.setReg oStepStat (BitVec.ofNat 32 (s2.fld oStepStat 23 12 * 4096))).complete c d.ptr stSuccess := by
  simp only [State.evalEnd, hpass, hctx, hdone, Bool.not_true, bne_self_eq_false, Bool.or_self, Bool.false_eq_true, if_false]

end

/-- Settles O7: each descriptor at hand is carried out by its command and takes the branch of its conditions. -/
theorem stepDescriptorsComplete : Obligations.StepDescriptorsComplete := by
  intro s c n d
  refine ⟨fun h hmay hr bs u hread => ?begin, fun h hfinal hlocal => ?branch, fun h hdec hopen hctx hrole => ?barrier,
    fun h hop hstep hpass hports => ?evalBegin, fun h hop hpass hctx hdone => ?evalEnd⟩
  all_goals obtain ⟨hc, rfl, -⟩ := atHand_spec h
  case begin =>
    intro s1 s2 ht hf s3 replay t
    have hopens : s.stepBegin c d = t.complete c d.ptr stSuccess := State.stepBegin_opens hmay hr hread (State.boundaryWork_done ht hf)
    obtain ⟨hopened, hctx, hshare⟩ := State.openStep_trn (s := (if replay then s3.dropRingData else s3).rechoose d.epoch replay)
      (c := c) (d := d) (bs := bs)
    exact ⟨(onUnit_runDesc h _).trans (congrArg _ hopens), hopened, hctx, hshare, State.openStep_stepNo, State.openStep_cause,
      State.openStep_phase ▸ (ite_eq_or_eq _ 3 1).symm, fun hb => State.beginStep_status hb (of_decide_eq_true hc)⟩
  case branch => exact (onUnit_runDesc h _).trans (congrArg _ ((State.branch_decides hfinal hlocal).trans (State.branchOn_any _)))
  case barrier => exact (onUnit_runDesc h _).trans (congrArg _ (State.stepEnd_enters hdec hopen hctx hrole))
  case evalBegin => exact (onUnit_runDesc h _).trans (congrArg _ ((if_pos hop).trans (State.evalBegin_opens hstep hpass hports)))
  case evalEnd => exact (onUnit_runDesc h _).trans (congrArg _ ((if_pos hop).trans (State.evalEnd_closes hpass hctx hdone)))

end Sys2Proof.Machine

/-! PROOFS. The training step: the descriptors that put the work of layers, attention lists and the loss in hand. -/

namespace Sys2Proof.Machine

section
variable {s s1 u u0 u1 u2 u3 : State} {c : Nat} {d : Desc} {l : LRec} {b bi bo ts : List Byte} {i x : WSlot} {p px pw : Prec}
  {ps : List Prec}

/-- A descriptor of a layer goes on with its record once the record is read and in order and its partition is in service. -/
theorem State.withLayer_runs (hread : s.readRec64 (s.ctxWho c) (d.u64 16) = (.inr b, s1))
    (hok : (parseLRec b).ok s.trn.npart = true) (hheld : s.unitsHeld (parseLRec b).part = false) (f : LRec → State → State) :
    s.withLayer c d f = f (parseLRec b) (if d.pass then s1 else s1.observe (parseLRec b)) := by
  simp [State.withLayer, hread, hok, hheld]

/-- The reads of an array layer with no outlier rows are put in hand (R276). -/
theorem State.fwdStart_reads (hplain : l.outl = false) {chains : List (List Nat)} :
    let o : Owner := ⟨c, d.ptr⟩
    let r := (s.addWork { own := o, op := 0x11, recomp := (d.u8 40).testBit 0, eval := d.pass, layer := l.layer }).makeReads
      (s.ctxWho c) { own := o, prod := d.prod, l := l, out := x, recomp := (d.u8 40).testBit 0, eval := d.pass,
                     master := s.ctxMaster c } i (d.u32 32) (d.u32 36) chains
    r.1 = 0 → s.fwdStart c d l i x chains = (r.2.chainSettle 65536).finishWork o := by
  intro o r hr
  have hlist : s.useList l = s := by simp [State.useList, hplain]
  have hw : (s.ctxWho c).master = s.ctxMaster c := rfl
  simp only [State.fwdStart, hlist, hplain, hw, Bool.false_eq_true, if_false, bne_self_eq_false]
  exact if_neg fun h => bne_iff_ne.mp h hr

/-- An array layer whose tensors, tiles and dies are in order starts its forward pass. -/
theorem State.fwdArray_starts (hkernel : l.outKernel = 0) (hplain : l.outl = false)
    (hin : s.readRec64 (s.ctxWho c) (d.u64 24) = (.inr bi, u1)) (hout : u1.readRec64 (s.ctxWho c) (d.u64 48) = (.inr bo, u2))
    (htiles : u2.readRecord (s.ctxWho c) l.tileList (2 * l.rb * l.cb) = (.inr ts, u3)) (htensors : layerTensors l bi bo = .inr (i, x))
    (hstatus : u3.tilesStatus l.rb (tileChains l.rb l.cb ts) = 0)
    (hdies : (((tileChains l.rb l.cb ts).map fun ts => ts.headD 0 / 8192).eraseDups.any fun p => (s.die p).state != .run) = false) :
    s.fwdArray c d l = u3.fwdStart c d l i x (tileChains l.rb l.cb ts) := by
  simp only [State.fwdArray, hin, hkernel, hout, htiles, htensors, hstatus, hplain, hdies, if_true, if_false, bne_self_eq_false,
    Bool.false_and, Bool.false_eq_true]

/-- A digital layer whose product record is in order puts its product in hand (R274). -/
theorem State.fwdDigital_product (hread : s.readPrec (s.ctxWho c) (d.u64 24) l.part true = (.inr p, u1)) :
    let rc := (d.u8 40).testBit 0
    s.fwdDigital c d l = (u1.addWork { own := ⟨c, d.ptr⟩, op := 0x11, recomp := rc, eval := d.pass, layer := l.layer }).addProduct
      { own := ⟨c, d.ptr⟩, prod := d.prod, info := p, part := l.part, master := s.ctxMaster c, recomp := rc, eval := d.pass } := by
  simp only [State.fwdDigital, hread]

/-- A LAYER_BWD that leaves out neither product puts dX and dW in hand (R274, R291). -/
theorem State.layerBwd_products (hdx : (d.u8 48).testBit 0 = false) (hdw : (d.u8 48).testBit 1 = false)
    (hlist : s.listStatus (s.ctxWho c) l = (0, u0)) (hx : u0.readPrec (s.ctxWho c) (d.u64 24) l.part (l.kind = 1) = (.inr px, u1))
    (hw : u1.readDw (s.ctxWho c) d l = (.inr pw, u2)) :
    let mk (q : Prec) (k : Nat) : Product :=
      { own := ⟨c, d.ptr⟩, prod := d.prod + k, info := q, part := l.part, master := (s.ctxWho c).master }
    s.layerBwd c d l = (((u2.addWork { own := ⟨c, d.ptr⟩, op := 0x12, layer := l.layer }).addProduct (mk px 0)).addProduct
      (mk pw 1)).finishWork ⟨c, d.ptr⟩ := by
  simp only [State.layerBwd, hdx, hdw, hlist, hx, hw, Bool.false_eq_true, if_false, bne_self_eq_false]

/-- An attention list without a ring stream, every record of it in order, is put in hand record by record (R282). -/
theorem State.attn_lists (hpart : d.u8 30 < s.trn.npart) (hheld : s.unitsHeld (d.u8 30) = false) (hring : (d.u8 31).testBit 1 = false)
    (hlist : s.readList c d = (ps, 0, s1)) :
    let work : Work := { own := ⟨c, d.ptr⟩, op := d.op, recomp := (d.u8 31).testBit 0, eval := d.pass, layer := d.u16 28 }
    s.attn c d = ((s1.addWork work).addRecords c d none ps).finishWork ⟨c, d.ptr⟩ := by
  have hfound : 0 ≠ stNotResident := by decide
  simp only [State.attn, if_neg (Nat.not_le.mpr hpart), hheld, hring, hlist, hfound, Bool.false_eq_true, if_true, if_false,
    bne_self_eq_false]

/-- The loss kernel, resident on its engines, gets a run request on each of them (R283). -/
theorem State.lossRun_requests (hheld : s.unitsHeld 0 = false) (hres : s.residentOn (s.lossEngines d) (d.u32 24) = true) :
    let es := s.lossEngines d
    s.lossRun c d = ((List.range es.length).foldl (fun t r => t.updDrv (es.getD r 0) fun q =>
      { q with runs := q.runs ++ [{ own := ⟨c, d.ptr⟩, kernel := d.u32 24, karg := d.u64 32, arg0 := d.u32 28, count := es.length,
                                    rank := r, eval := d.pass }] })
      (s.addWork { own := ⟨c, d.ptr⟩, op := 0x15, eval := d.pass })).finishWork ⟨c, d.ptr⟩ := by
  simp only [State.lossRun, hheld, hres, Bool.not_true, Bool.false_eq_true, if_false]

end

/-- Settles O8: each descriptor at hand is carried out by its command, and its records and checks let it to its work. -/
theorem layerDescriptorsComplete : Obligations.LayerDescriptorsComplete := by
  intro s c n d
  refine ⟨?layers, fun hpart hheld hring ps s1 hlist => ?attention, fun h hheld hres => ?loss⟩
  case layers =>
    intro b s1 hread hok hheld l u w o
    have hrun (f : LRec → State → State) : s.withLayer c d f = f l u := State.withLayer_runs hread hok hheld f
    refine ⟨fun h hkind hkernel hplain bi u1 bo u2 ts u3 i x hin hout htiles htensors hstatus hdies hr => ?array,
      fun h hkind p u1 hp => ?digital, fun h hdx hdw u0 hlist px u1 pw u2 hx hw => ?backward⟩
    all_goals
      obtain ⟨-, rfl, -⟩ := atHand_spec h
      refine (onUnit_runDesc h _).trans (congrArg _ ((hrun _).trans ?_))
    case array =>
      exact (if_pos hkind).trans ((State.fwdArray_starts hkernel hplain hin hout htiles htensors hstatus hdies).trans
        (State.fwdStart_reads hplain hr))
    case digital => exact (if_neg hkind).trans (State.fwdDigital_product hp)
    case backward => exact State.layerBwd_products hdx hdw hlist hx hw
  case attention =>
    refine ⟨fun h => ?_, fun h => ?_⟩
    all_goals
      obtain ⟨-, rfl, -⟩ := atHand_spec h
      exact (onUnit_runDesc h _).trans (congrArg _ (State.attn_lists hpart hheld hring hlist))
  case loss =>
    obtain ⟨-, rfl, -⟩ := atHand_spec h
    exact (onUnit_runDesc h _).trans (congrArg _ (State.lossRun_requests hheld hres))

end Sys2Proof.Machine

/-! PROOFS. The shearer units: the four descriptors of the parameter update, and the rounds of their passes. -/

namespace Sys2Proof.Machine

section
variable {s s1 : State} {c : Nat} {d : Desc} {units : List (Nat × List Nat)} {table : List Byte} {r : ShrPass}

/-- A descriptor that asks for no record needs no right to write one (R331). -/
theorem State.mayStore_zero (s : State) (w : Who) (n : Nat) : s.mayStore w 0 n = true := rfl

/-- Two tests that no entry of a list meets: no entry meets either. -/
theorem any_or_eq_false {α : Type} {l : List α} {f g : α → Bool} (hf : l.any f = false) (hg : l.any g = false) :
    (l.any fun a => f a || g a) = false := by
  rw [List.any_eq_false] at *
  intro a ha
  simp [hf a ha, hg a ha]

/-! The rounds of a pass (R337). -/

section
variable {f : Nat → Nat → List Nat → List Nat → Pass → SpanOut} {fin : ShrPass → State → State}

/-- Under QUIESCE a pass stands where it is. -/
theorem State.goOn_quiesced (hq : s.bit 0x1000010 0 = true) : s.goOn r f fin = s.putPass r := if_pos hq

/-- A pass none of whose units stopped or has a span left ends. -/
theorem State.goOn_ends {us : List PassUnit} {share : List Nat} {x : Pass} (hq : s.bit 0x1000010 0 = false)
    (hround : spanRound f r.units r.share s = (us, share, x)) (hstop : x.stop = false) (hrights : x.denied = false)
    (hdone : us.all (·.left = []) = true) :
    s.goOn r f fin = fin { r with units := us, share := share } (x.s.dropPass r.c r.ptr) := by
  simp only [State.goOn, hq, hround, hstop, hrights, hdone, Bool.not_false, Bool.and_self, Bool.false_eq_true, if_false, if_true]

end

/-- The norm pass of a step without a result record leaves the sum and its norm in the registers (R312). -/
theorem State.normEnd_step (haddr : d.u64 24 = 0) (hstep : r.step = true) :
    State.normEnd d r s = (s.setNorm (sum64 (s.stepPartials (s.stepNo + 1)))).complete r.c r.ptr stSuccess := by
  simp only [State.normEnd, State.endRecord, haddr, hstep, if_true]

/-! A pass in hand goes on. -/

theorem State.updateNorm_goesOn (h : s.shrPass c d.ptr = some r) : s.updateNorm c d = s.goNorm d r := by
  simp only [State.updateNorm, h]

theorem State.updateApply_goesOn (h : s.shrPass c d.ptr = some r) : s.updateApply c d = s.goApply d r := by
  simp only [State.updateApply, h]

theorem State.precond_goesOn {clipOf : State → Nat × State} {f : ShrPass → Nat → Nat → List Nat → List Nat → Pass → SpanOut}
    (h : s.shrPass c d.ptr = some r) : s.precond c d clipOf f = s.goOn r (f r) (State.precondEnd d) := by
  simp only [State.precond, h]

/-! A descriptor with no pass in hand, its spans named and its units ready, starts one (R331 to R334). -/

section
variable (hne : units ≠ []) (hnone : s.shrPass c d.ptr = none) (hnamed : s.namedAll (d.u8 16) (d.u16 18) (d.u16 20) = some units)
  (hready : (units.any fun u => !s.shrReady u.1) = false)
include hne hnone hnamed hready

/-- UPDATE_NORM starts its pass (R332). -/
theorem State.updateNorm_starts (haddr : d.u64 24 = 0) : s.updateNorm c d = s.goNorm d (newPass c d units) := by
  have hcheck : s.normCheck c d = (stSuccess, s) := by
    simp [State.normCheck, hnamed, haddr, State.mayStore_zero]
  simp only [State.updateNorm, hnone, hcheck, hnamed, hne, hready, Option.getD_some, bne_self_eq_false, Bool.false_eq_true, if_false]

variable (hstep : d.step = true) (htorn : (units.any fun u => s.torn u.1) = false)
  (hread : s.readRecord (s.ctxWho c) (d.u64 24) 1024 = (.inr table, s1)) (haddr : d.u64 40 = 0)
include hstep htorn hread haddr

/-- UPDATE_APPLY with usable rules and no reconcile buffer in its way starts its pass with the clip factor in SHR_CLIP (R315, R321,
R333). -/
theorem State.updateApply_starts (hrules : s1.ruleBad table units = false)
    (hrecon : (units.any fun u => (s.port u.1).recon != [] && !s.fenced u.1 1) = false) :
    let clip := clipFactor (d.u32 32) (s1.reg 0x1000028).toNat
    s.updateApply c d = (s1.setReg 0x100002C (BitVec.ofNat 32 clip)).goApply d { newPass c d units with rules := table, clip := clip } := by
  have hwait := any_or_eq_false hready hrecon
  simp only [State.updateApply, hnone, hstep, hnamed, hne, haddr, State.mayStore_zero, htorn, hwait, hread, hrules, Bool.not_true,
    Bool.false_eq_true, if_false]

/-- PRECOND_STAT and PRECOND_ROOT, the engines of their partition between invocations, load their routine and start their pass (R330,
R334). -/
theorem State.precond_starts {clipOf : State → Nat × State} {f : ShrPass → Nat → Nat → List Nat → List Nat → Pass → SpanOut}
    (hpart : d.u8 17 < s.trn.npart) (hidle : (s.partEngines (d.u8 17)).all (fun e => (s.drv e).inv.isNone) = true) :
    let p : ShrPass := { newPass c d units with
      rules := table, clip := (clipOf s1).1, part := d.u8 17, tbase := d.u16 22, force := (d.u8 34).testBit 0 }
    s.precond c d clipOf f =
      ((clipOf s1).2.loadRoutine (d.u8 17) (d.u16 32) (routineWords d.op)).goOn p (f p) (State.precondEnd d) := by
  have hfree : ((s.partEngines (d.u8 17)).any fun e => (s.drv e).inv.isSome) = false := by
    rw [List.any_eq_false]
    intro e he
    simpa using List.all_eq_true.mp hidle e he
  simp only [State.precond, hnone, hstep, hnamed, hne, if_neg (Nat.not_le.mpr hpart), haddr, State.mayStore_zero, htorn, hready, hfree,
    hread, Bool.not_true, Bool.or_self, Bool.false_eq_true, if_false]

end

end

/-- Settles O10: each descriptor at hand is carried out by its command, which starts a pass or goes on with the one in hand, and a round
of the pass takes the branch of its conditions. -/
theorem shearerDescriptorsComplete : Obligations.ShearerDescriptorsComplete := by
  intro s c n d
  refine ⟨fun units hne hnone hnamed hready => ⟨fun h haddr _ => ?norm, fun hstep htorn table s1 hread haddr =>
      ⟨fun h hrules hrecon => ?apply, fun hpart hidle => ⟨fun h => ?stat, fun h => ?root⟩⟩⟩,
    fun r hr => ⟨fun h => ?normOn, fun h => ?applyOn, fun h => ?statOn, fun h => ?rootOn⟩,
    fun r f fin => State.goOn_quiesced, fun r f fin us share x => State.goOn_ends, fun r => State.normEnd_step⟩
  all_goals
    obtain ⟨-, rfl, -⟩ := atHand_spec h
    refine (onUnit_runDesc h _).trans (congrArg _ ?_)
  case norm => exact State.updateNorm_starts hne hnone hnamed hready haddr
  case apply => exact State.updateApply_starts hne hnone hnamed hready hstep htorn hread haddr hrules hrecon
  case stat | root => exact State.precond_starts hne hnone hnamed hready hstep htorn hread haddr hpart hidle
  case normOn => exact State.updateNorm_goesOn hr
  case applyOn => exact State.updateApply_goesOn hr
  case statOn | rootOn => exact State.precond_goesOn hr

end Sys2Proof.Machine

/-! PROOFS. The memory and the queue: what every step keeps of them. -/

namespace Sys2Proof.Machine

theorem kept_iff {q : List Instr} {s : State} : Kept q s ↔ s.pending = q ∧ s.memOk = true := by unfold Kept; rfl

theorem KeptR.next {q : List Instr} {s : State} (h : KeptR q (.next s)) : Kept q s := by unfold KeptR at h; exact h

/-- Settles O2: a cycle of SVC_CLK and every command keep the memories canonical and the queue they run with, which for a command is the
queue's rest. -/
theorem stepKeepsMemoriesCanonicalAndTheQueueInOrder : Obligations.StepKeepsMemoriesCanonicalAndTheQueueInOrder := by
  intro s t hmem hstep
  have hkept : Kept s.pending.tail t := by
    unfold step at hstep
    split at hstep
    next hnone =>
      cases hstep
      exact State.tick_kept (kept_iff.mpr ⟨by rw [hnone]; rfl, hmem⟩)
    next c rest hqueue =>
      have hexec := exec_kept (s := { s with pending := rest }) c (kept_iff.mpr ⟨rfl, hmem⟩)
      rw [hstep] at hexec
      rw [hqueue]
      exact hexec.next
  exact (kept_iff.mp hkept).symm

end Sys2Proof.Machine

/-! PROOFS. The memory: the places of addresses. -/

namespace Sys2Proof.Machine

/-! The windows and the place of an address (R340, R341), region by region. -/

section
variable {z a k o f j : Nat}

theorem windowBase_succ : windowBase z (k + 1) = windowBase z k + gib * (120 - z) := by
  simp only [windowBase]; ring

/-- The windows lie one after the other (R340). -/
theorem windowBase_mono {i : Nat} (h : k ≤ i) : windowBase z k ≤ windowBase z i := by
  induction h with
  | refl => exact le_rfl
  | step _ ih => rw [windowBase_succ]; omega

/-- The first window follows the pool, and the last one ends at 960 GiB (R340). -/
theorem windowBase_zero : windowBase z 0 = gib * (8 * z) := by simp [windowBase]

theorem windowBase_eight (hz : z ≤ 120) : windowBase z 8 = 960 * gib := by
  simp only [windowBase, gib]; omega

theorem windowBase_aligned : windowBase z k % 64 = 0 := by
  have h : windowBase z k = 64 * (2 ^ 24 * (8 * z) + k * (2 ^ 24 * (120 - z))) := by
    simp only [windowBase, gib]; ring
  rw [h, Nat.mul_mod_right]

/-- An address of the striped pool (R341). -/
theorem placeOf_pool (h : a < gib * (8 * z)) : placeOf z a = .stack (a / 4096 % 8) (4096 * (a / 32768) + a % 4096) := by
  simp [placeOf, h, Nat.shiftRight_eq_div_pow]

/-- An address of a stack-local window (R341). -/
theorem placeOf_window (hz : z ≤ 120) (hk : k < 8) (hlo : windowBase z k ≤ a) (hhi : a < windowBase z k + gib * (120 - z)) :
    placeOf z a = .stack k (gib * z + (a - windowBase z k)) := by
  have hpool : ¬ a < gib * (8 * z) := by
    have := windowBase_mono (z := z) k.zero_le
    rw [windowBase_zero] at this; omega
  have htop : a < 960 * gib := by
    have := windowBase_mono (z := z) (show k + 1 ≤ 8 by omega)
    rw [windowBase_eight hz, windowBase_succ] at this; omega
  obtain ⟨r, rfl⟩ := Nat.exists_eq_add_of_le hlo
  have hr : r < gib * (120 - z) := by omega
  have hdist : windowBase z k + r - gib * (8 * z) = r + gib * (120 - z) * k := by
    simp only [windowBase]; rw [Nat.mul_comm k]; omega
  simp only [placeOf, if_neg hpool, if_pos htop, hdist, Nat.add_mul_div_left _ _ (Nat.zero_lt_of_lt hr), Nat.div_eq_of_lt hr,
    Nat.zero_add, Nat.add_mul_mod_self_left, Nat.mod_eq_of_lt hr, Nat.add_sub_cancel_left]

/-- An address of fold SRAM (R340). -/
theorem placeOf_sramBase (hz : z ≤ 120) (hf : f < 2) (ho : o < sramSize) : placeOf z (sramBase f + o) = .sram f o := by
  have hpool : ¬ sramBase f + o < gib * (8 * z) := by simp only [sramBase, gib]; omega
  have htop : ¬ sramBase f + o < 960 * gib := by simp only [sramBase, gib]; omega
  rw [placeOf, if_neg hpool, if_neg htop]
  obtain rfl | rfl : f = 0 ∨ f = 1 := by omega
  · rw [if_pos (by omega), Nat.add_sub_cancel_left]
  · rw [if_neg (by simp only [sramBase, sramSize]; omega), if_pos (by omega), Nat.add_sub_cancel_left]

/-- The place of a module-local address that holds a byte of memory: a stack offset below 120 GiB, or an offset of fold SRAM. -/
def Place.Backed : Place → Prop
  | .stack k o => k < 8 ∧ o < 120 * gib
  | .sram f o => f < 2 ∧ o < sramSize
  | _ => False

/-- The address of a backed place, which undoes `placeOf`. -/
def Place.addr (z : Nat) : Place → Nat
  | .stack k o => stackAddr z k o
  | .sram f o => sramBase f + o
  | _ => 0

/-- A stack offset below 120 GiB has the one address `stackAddr` (R341). -/
theorem placeOf_stackAddr (hz : z ≤ 120) (hk : k < 8) (ho : o < 120 * gib) : placeOf z (stackAddr z k o) = .stack k o := by
  unfold stackAddr
  split
  case isTrue h =>
    rw [placeOf_pool (by simp only [gib] at *; omega)]
    congr 1 <;> omega
  case isFalse h =>
    rw [placeOf_window hz hk (by omega) (by simp only [gib] at *; omega)]
    congr 1; omega

theorem placeOf_addr {p : Place} (hz : z ≤ 120) (hp : p.Backed) : placeOf z (p.addr z) = p := by
  cases p with
  | stack k o => exact placeOf_stackAddr hz hp.1 hp.2
  | sram f o => exact placeOf_sramBase hz hp.1 hp.2
  | regs off => exact hp.elim
  | unbacked => exact hp.elim

/-- An address between the pool and 960 GiB lies in the window of one stack (R340). -/
theorem exists_window (hz : z ≤ 120) (hpool : ¬ a < gib * (8 * z)) (htop : a < 960 * gib) :
    ∃ k, k < 8 ∧ windowBase z k ≤ a ∧ a < windowBase z k + gib * (120 - z) := by
  have hw : 0 < gib * (120 - z) := by simp only [gib] at *; omega
  have hbase (k : Nat) : windowBase z k = gib * (8 * z) + gib * (120 - z) * k := by simp only [windowBase]; ring
  refine ⟨(a - gib * (8 * z)) / (gib * (120 - z)), (Nat.div_lt_iff_lt_mul hw).mpr (by simp only [gib] at *; omega), ?_⟩
  have h1 := Nat.div_add_mod (a - gib * (8 * z)) (gib * (120 - z))
  have h2 := Nat.mod_lt (a - gib * (8 * z)) hw
  rw [hbase]; omega

/-- What `placeOf` gives where it gives a key: a backed place, whose address is the one it was given (R340 to R342). -/
theorem placeOf_key {key : Nat} (hz : z ≤ 120) (h : (placeOf z a).key = some key) :
    (placeOf z a).Backed ∧ (placeOf z a).addr z = a := by
  by_cases hpool : a < gib * (8 * z)
  · rw [placeOf_pool hpool]
    have hoff : 4096 * (a / 32768) + a % 4096 < gib * z := by simp only [gib] at *; omega
    refine ⟨⟨Nat.mod_lt _ (by decide), hoff.trans_le (by simp only [gib]; omega)⟩, ?_⟩
    simp only [Place.addr, stackAddr, if_pos hoff]; omega
  by_cases htop : a < 960 * gib
  · obtain ⟨k, hk, hlo, hhi⟩ := exists_window hz hpool htop
    rw [placeOf_window hz hk hlo hhi]
    simp only [Place.Backed, Place.addr, stackAddr]
    refine ⟨⟨hk, by simp only [gib] at *; omega⟩, ?_⟩
    rw [if_neg (by omega)]; omega
  by_cases hs0 : sramBase 0 ≤ a ∧ a < sramBase 0 + sramSize
  · obtain ⟨o, rfl⟩ := Nat.exists_eq_add_of_le hs0.1
    rw [placeOf_sramBase hz (by decide) (by omega)]
    exact ⟨⟨by decide, by omega⟩, rfl⟩
  by_cases hs1 : sramBase 1 ≤ a ∧ a < sramBase 1 + sramSize
  · obtain ⟨o, rfl⟩ := Nat.exists_eq_add_of_le hs1.1
    rw [placeOf_sramBase hz (by decide) (by omega)]
    exact ⟨⟨by decide, by omega⟩, rfl⟩
  · exfalso
    rw [placeOf, if_neg hpool, if_neg htop, if_neg hs0, if_neg hs1] at h
    split at h <;> cases h

/-- Two backed places with one key are the same. -/
theorem Place.key_inj {p q : Place} (hp : p.Backed) (hq : q.Backed) (h : p.key = q.key) : p = q := by
  cases p <;> cases q <;> simp only [Place.Backed, Place.key, Option.some.injEq, gib, sramSize] at *
  case stack.stack => congr 1 <;> omega
  case stack.sram => omega
  case sram.stack => omega
  case sram.sram => congr 1 <;> omega

/-- No two addresses share a byte (R340 to R342). -/
theorem eq_of_key_eq {b key : Nat} (hz : z ≤ 120) (ha : (placeOf z a).key = some key) (hb : (placeOf z b).key = some key) : a = b := by
  obtain ⟨hp, hpa⟩ := placeOf_key hz ha
  obtain ⟨hq, hqb⟩ := placeOf_key hz hb
  rw [← hpa, ← hqb, Place.key_inj hp hq (ha.trans hb.symm)]

end

/-- A run of 7,680 bytes from a 256-byte boundary visits each of the 30 channels in one piece of 256 bytes (R342). -/
theorem channelOf_run {a c : Nat} (hc : c < 30) (ha : a % 256 = 0) :
    ∃ j, j < 30 ∧ ∀ b, b < 256 → (channelOf (a + 256 * j + b)).1 = c := by
  refine ⟨(c + 30 - a / 256 % 30) % 30, by omega, fun b hb => ?_⟩
  simp only [channelOf]; omega

/-- Settles O56: the three regions of the map of R340, each by the lemma of its place. -/
theorem poolAndWindowAddressesLieAsStated : Obligations.PoolAndWindowAddressesLieAsStated := by
  intro z a hz
  refine ⟨fun h => ⟨?pool, fun hnext => ?next⟩, fun k hk hlo hhi => placeOf_window hz hk hlo hhi, rfl, fun c hc ha => channelOf_run hc ha⟩
  case pool =>
    have hand8 : (a >>> 12) &&& 7 = a / 4096 % 8 := by rw [Nat.and_two_pow_sub_one_eq_mod _ 3, Nat.shiftRight_eq_div_pow]
    have hoff : ((a >>> 15) <<< 12) ||| (a &&& 0xFFF) = 4096 * (a / 32768) + a % 4096 := by
      rw [Nat.and_two_pow_sub_one_eq_mod _ 12, ← Nat.shiftLeft_add_eq_or_of_lt (Nat.mod_lt _ (by decide)), Nat.shiftLeft_eq,
        Nat.shiftRight_eq_div_pow]
      omega
    rw [placeOf_pool h, hand8, hoff]
  case next =>
    rw [placeOf_pool hnext, Nat.and_two_pow_sub_one_eq_mod _ 3, Nat.shiftRight_eq_div_pow]
    simp only [Place.stackOf, Option.some.injEq]; omega

end Sys2Proof.Machine

/-! PROOFS. The memory: the errors of lines, and what a read returns after a write. -/

namespace Sys2Proof.Machine

/-! What events, interrupts and fault records leave of memory (R397, R480, R543): the memory itself, and the registers it is read by, which
hold the stripe and the channel maps. It is shown operation by operation, for all of these at once. -/

/-- The registers of the stripe and of the channel maps (R338, R340, Table 10-5). -/
def memMapReg (o : Nat) : Bool := o = 0x1400010 || (0x1401000 ≤ o && o < 0x1402000)

theorem memMapReg_eq_false {o : Nat} : memMapReg o = false ↔ o ≠ 0x1400010 ∧ (o < 0x1401000 ∨ 0x1402000 ≤ o) := by
  simp only [memMapReg, Bool.or_eq_false_iff, Bool.and_eq_false_iff, decide_eq_false_iff_not]; omega

/-- The memory and the registers it is read by. -/
def State.memView (s : State) : Mem × (Nat → Word) := (s.mem, fun o => if memMapReg o then s.reg o else 0)

section
variable {s t : State} {a b d f i k n o p c sev code subj row kind master sym src hi lo v link func vec l : Nat} {rep : Bool} {dt : List Nat}
  {w : Word} {pl : Place} {m : Mark} {g : Mig}

theorem State.mem_of_memView (h : t.memView = s.memView) : t.mem = s.mem := congrArg Prod.fst h

theorem State.reg_of_memView (h : t.memView = s.memView) (ho : memMapReg o = true) : t.reg o = s.reg o := by
  simpa only [State.memView, ho, if_true] using congrFun (congrArg Prod.snd h) o

theorem State.stripe_of_memView (h : t.memView = s.memView) : t.stripe = s.stripe := by
  unfold State.stripe State.fld; rw [State.reg_of_memView h rfl]

theorem memMapReg_channel (hk : k < 8) (hc : c < 30) : memMapReg (0x1401000 + 128 * k + 4 * c) = true := by
  simp only [memMapReg, Bool.or_eq_true, Bool.and_eq_true, decide_eq_true_eq]; omega

theorem State.pch_of_memView (h : t.memView = s.memView) (hk : k < 8) (hc : c < 30) : t.pch k c = s.pch k c := by
  unfold State.pch State.fld; rw [State.reg_of_memView h (memMapReg_channel hk hc)]

theorem State.setReg_memView (h : memMapReg o = false) : (s.setReg o w).memView = s.memView := by
  unfold State.memView
  congr 1
  funext o'
  split
  next ho => rw [State.reg_setReg_ne]; rintro rfl; simp [h] at ho
  · rfl

theorem State.setFld_memView (h : memMapReg o = false) : (s.setFld o hi lo v).memView = s.memView := State.setReg_memView h

theorem State.setBit_memView (h : memMapReg o = false) : (s.setBit o i).memView = s.memView := State.setReg_memView h

theorem State.satAdd_memView (h : memMapReg o = false) : (s.satAdd o hi lo n).memView = s.memView := State.setReg_memView h

@[simp] theorem State.setThr_memView : (s.setThr row subj n).memView = s.memView := rfl

@[simp] theorem State.sendMsi_memView : (s.sendMsi link func vec).memView = s.memView := by rw [State.sendMsi_frame]; rfl

@[simp] theorem State.raiseIrq_memView : (s.raiseIrq src).memView = s.memView := by
  have hset : (s.setBit oIrqStat src).memView = s.memView := State.setBit_memView rfl
  rcases s.raiseIrq_cases src with h | ⟨_, _, h⟩ <;> simp [h, hset]

@[simp] theorem State.cntAdd_memView : (s.cntAdd d i n).memView = s.memView := by
  unfold State.cntAdd; dsimp only
  have hoff : memMapReg (cntBase d + 4 * (i / 32)) = false := memMapReg_eq_false.mpr (by simp only [cntBase]; omega)
  split
  · rfl
  · split
    · rw [State.raiseIrq_memView, State.setBit_memView hoff]; rfl
    · rw [State.setBit_memView hoff]; rfl

@[simp] theorem State.event_memView : (s.event d src i n).memView = s.memView := by
  unfold State.event
  split
  · rfl
  · refine foldl_inv State.memView _ (fun t i => ?_) _ _
    split <;> simp

@[simp] theorem State.eventF_memView : (s.eventF f src i n).memView = s.memView := State.event_memView

@[simp] theorem State.raiseFault_memView : (s.raiseFault sev code subj dt).memView = s.memView := by
  unfold State.raiseFault; dsimp only
  split
  · rfl
  · split
    · rfl
    · exact State.eventF_memView

@[simp] theorem State.drain_memView : (s.drain rep).memView = s.memView := by
  have hflag (u : State) (j : Nat) : (u.setBit oFltStat j).memView = u.memView := State.setBit_memView rfl
  unfold State.drain; dsimp only
  split
  · split
    · exact hflag _ _
    · exact State.raiseFault_memView.trans ((hflag _ _).trans (hflag _ _))
  · split
    · rfl
    · exact State.raiseFault_memView.trans (hflag _ _)

@[simp] theorem State.moduleStrike_memView : (s.moduleStrike n).memView = s.memView := by
  unfold State.moduleStrike; dsimp only
  split <;> simp [State.setFld_memView (o := oFltStat) rfl]

@[simp] theorem State.threshold_memView : (s.threshold row subj n).2.memView = s.memView := by
  unfold State.threshold; dsimp only
  split <;> simp

@[simp] theorem State.logUe_memView : (s.logUe kind master a).memView = s.memView := by
  unfold State.logUe; dsimp only
  split
  · rfl
  · rw [State.raiseIrq_memView, State.setReg_memView rfl, State.setReg_memView rfl, State.setReg_memView rfl]

@[simp] theorem State.stackEvent_memView : (s.stackEvent src pl).memView = s.memView := by
  cases pl <;> simp [State.stackEvent]

theorem State.refreshStack_memView (hk : k < 8) : (s.refreshStack k n).memView = s.memView :=
  State.setReg_memView (memMapReg_eq_false.mpr (by omega))

/-- A master's requests originate on one of the two fold dies (R17). -/
theorem masterDie_lt : masterDie master < 2 := by
  unfold masterDie; dsimp only
  split <;> omega

@[simp] theorem State.noteTag_memView : (s.noteTag (masterDie master)).memView = s.memView := by
  have := masterDie_lt (master := master)
  exact State.setFld_memView (memMapReg_eq_false.mpr (by omega))

@[simp] theorem State.correctedSram_memView : (s.correctedSram f n).memView = s.memView := by
  unfold State.correctedSram; dsimp only
  split <;> simp

/-! What `sansAccess` leaves out, these leave of memory alone. -/

@[simp] theorem State.eventF_mem : (s.eventF f src i n).mem = s.mem := State.mem_of_memView State.eventF_memView
@[simp] theorem State.raiseFault_mem : (s.raiseFault sev code subj dt).mem = s.mem := State.mem_of_memView State.raiseFault_memView
@[simp] theorem State.drain_mem : (s.drain rep).mem = s.mem := State.mem_of_memView State.drain_memView
@[simp] theorem State.threshold_mem : (s.threshold row subj n).2.mem = s.mem := State.mem_of_memView State.threshold_memView
@[simp] theorem State.logUe_mem : (s.logUe kind master a).mem = s.mem := State.mem_of_memView State.logUe_memView
@[simp] theorem State.correctedSram_mem : (s.correctedSram f n).mem = s.mem := State.mem_of_memView State.correctedSram_memView
@[simp] theorem State.stackEvent_mem : (s.stackEvent src pl).mem = s.mem := State.mem_of_memView State.stackEvent_memView
@[simp] theorem State.refreshStack_mem : (s.refreshStack k n).mem = s.mem := rfl

end

/-! The line of a place, and what a read makes of it (R345 to R348). -/

section
variable {s t : State} {z a j k o f key key' line : Nat} {p q : Place} {es : Errs}

theorem State.stripe_le : s.stripe ≤ 120 := Nat.min_le_right _ _

theorem Place.key_of_backed (h : p.Backed) : ∃ key, p.key = some key := by
  cases p with
  | stack k o => exact ⟨_, rfl⟩
  | sram f o => exact ⟨_, rfl⟩
  | regs off => exact h.elim
  | unbacked => exact h.elim

/-- Errors are read by their table and by the lines that a migration left poisoned. -/
theorem State.errsIn_congr (he : t.mem.errs = s.mem.errs) (hb : t.mem.blank = s.mem.blank) (p : Place) : t.errsIn p = s.errsIn p := by
  have hd : t.errDefault p = s.errDefault p := by cases p <;> simp only [State.errDefault, hb]
  simp only [State.errsIn, hd, he]

/-- The byte of a place's line at an offset of the line. -/
def Place.inLine (j : Nat) : Place → Place
  | .stack k o => .stack k (o / 64 * 64 + j)
  | .sram f o => .sram f (o / 64 * 64 + j)
  | p => p

/-- A line lies whole in its stack or in fold SRAM. -/
theorem Place.inLine_backed (hp : p.Backed) (hj : j < 64) : (p.inLine j).Backed := by
  cases p <;> simp only [Place.Backed, Place.inLine, gib, sramSize] at * <;> omega

theorem Place.inLine_key (hk : p.key = some key) : (p.inLine j).key = some (key / 64 * 64 + j) := by
  cases p <;> simp only [Place.key, Place.inLine, Option.some.injEq, reduceCtorEq] at * <;> omega

/-- The bytes of a line lie at the 64 addresses from a multiple of 64. -/
theorem placeOf_inLine (hz : z ≤ 120) (hk : (placeOf z a).key = some key) (hj : j < 64) :
    placeOf z (a / 64 * 64 + j) = (placeOf z a).inLine j := by
  obtain ⟨hp, ha⟩ := placeOf_key hz hk
  rw [← placeOf_addr hz (Place.inLine_backed hp hj)]
  congr 1
  generalize placeOf z a = p at *
  cases p <;> simp only [Place.Backed, Place.addr, Place.inLine, stackAddr, sramBase] at *
  case stack k o =>
    have := windowBase_aligned (z := z) (k := k)
    have hsplit : o / 64 * 64 + j < gib * z ↔ o < gib * z := by simp only [gib]; omega
    simp only [hsplit]
    split at ha
    next h => rw [if_pos h]; omega
    next h => rw [if_neg h]; simp only [gib] at *; omega
  case sram f o => omega

/-- Two bytes of one line lie in one stack or in one fold SRAM. -/
theorem Place.sameLine_cases (hp : p.Backed) (hq : q.Backed) (ha : p.key = some key) (hb : q.key = some key') (h : key / 64 = key' / 64) :
    (∃ k o o', p = .stack k o ∧ q = .stack k o' ∧ o / 64 = o' / 64) ∨ ∃ f o o', p = .sram f o ∧ q = .sram f o' := by
  cases p <;> cases q <;> simp only [Place.Backed, Place.key, Option.some.injEq, gib, sramSize] at *
  case stack.stack k o k' o' => exact .inl ⟨k, o, o', rfl, by congr 1; omega, by omega⟩
  case stack.sram => omega
  case sram.stack => omega
  case sram.sram f o f' o' => exact .inr ⟨f, o, o', rfl, by congr 1; omega⟩

/-- The bytes of a line lie in one channel, in one line of it. -/
theorem channelOf_line {o o' : Nat} (h : o / 64 = o' / 64) : (channelOf o).1 = (channelOf o').1 ∧ channelLine o = channelLine o' := by
  simp only [channelLine, channelOf]; omega

theorem channelOf_lt : (channelOf o).1 < 30 := Nat.mod_lt _ (by decide)

/-- Bytes of one line have the same errors. -/
theorem State.errsIn_line (hp : p.Backed) (hq : q.Backed) (ha : p.key = some key) (hb : q.key = some key') (h : key / 64 = key' / 64) :
    s.errsIn p = s.errsIn q := by
  have hd : s.errDefault p = s.errDefault q := by
    obtain ⟨k, o, o', rfl, rfl, ho⟩ | ⟨f, o, o', rfl, rfl⟩ := Place.sameLine_cases hp hq ha hb h
    · obtain ⟨hch, hline⟩ := channelOf_line ho
      simp only [State.errDefault, hch, hline]
    · rfl
  simp only [State.errsIn, ha, hb, hd, h]

/-- A read makes the same of each byte of a line. -/
theorem State.markIn_line (hp : p.Backed) (hq : q.Backed) (ha : p.key = some key) (hb : q.key = some key') (h : key / 64 = key' / 64) :
    s.markIn p = s.markIn q := by
  have he := s.errsIn_line hp hq ha hb h
  obtain ⟨k, o, o', rfl, rfl, ho⟩ | ⟨f, o, o', rfl, rfl⟩ := Place.sameLine_cases hp hq ha hb h
  all_goals
    simp only [Place.key, Option.some.injEq] at ha hb
    subst ha hb
  · simp only [State.markIn, he, h, (channelOf_line ho).1]
  · simp only [State.markIn, he, h]

/-- Beyond its guarantee a decoder takes no line for good (R345). -/
theorem beyond_ne_good : beyond line es ≠ .good := by
  unfold beyond
  split <;> exact nofun

/-- Of the codes of a line only the valid codeword reads as good (R345, R347). -/
theorem stackMark_eq_good {zero : Bool} : stackMark line zero es = .good ↔ es = [] := by
  cases es with
  | nil => exact iff_of_true rfl rfl
  | cons e es =>
    simp only [stackMark, List.length_cons, Nat.succ_ne_zero, if_false, reduceCtorEq, iff_false]
    split_ifs <;> simp [beyond_ne_good]

theorem sramMark_eq_good : sramMark line es = .good ↔ es = [] := by
  cases es with
  | nil => exact iff_of_true rfl rfl
  | cons e es =>
    simp only [sramMark, List.length_cons, Nat.succ_ne_zero, if_false, reduceCtorEq, iff_false]
    split_ifs <;> simp [beyond_ne_good]

end

/-! Lines that two states read alike: the same map, the same losses and the same errors. -/

section
variable {s t u : State} {a k o f i j n l key master : Nat} {p q : Place} {es : Errs} {bs : List Byte}

/-- The lines of memory are where they were and have the errors they had. -/
structure State.SameLines (s t : State) : Prop where
  stripe : t.stripe = s.stripe
  pch : ∀ k c, k < 8 → c < 30 → t.pch k c = s.pch k c
  unmapped : t.mem.unmapped = s.mem.unmapped
  silent : t.mem.silent = s.mem.silent
  errs : ∀ p, p.Backed → t.errsIn p = s.errsIn p

theorem State.SameLines.trans (h : s.SameLines t) (h' : t.SameLines u) : s.SameLines u where
  stripe := h'.stripe.trans h.stripe
  pch k c hk hc := (h'.pch k c hk hc).trans (h.pch k c hk hc)
  unmapped := h'.unmapped.trans h.unmapped
  silent := h'.silent.trans h.silent
  errs p hp := (h'.errs p hp).trans (h.errs p hp)

/-- What leaves memory and its registers leaves the lines. -/
theorem State.sameLines_of_memView (h : t.memView = s.memView) : s.SameLines t where
  stripe := State.stripe_of_memView h
  pch _ _ hk hc := State.pch_of_memView h hk hc
  unmapped := by rw [State.mem_of_memView h]
  silent := by rw [State.mem_of_memView h]
  errs p _ := State.errsIn_congr (by rw [State.mem_of_memView h]) (by rw [State.mem_of_memView h]) p

theorem State.SameLines.poke (s : State) (a : Nat) (bs : List Byte) : s.SameLines (s.poke a bs) where
  stripe := rfl
  pch _ _ _ _ := rfl
  unmapped := rfl
  silent := rfl
  errs p _ := State.errsIn_congr rfl rfl p

/-! What a codeword written in a line changes: the errors of this line. -/

@[simp] theorem State.setErrsIn_regs : (s.setErrsIn es p).regs = s.regs := by
  unfold State.setErrsIn; dsimp only
  split
  · rfl
  · split
    · split <;> rfl
    · rfl

@[simp] theorem State.reg_setErrsIn : (s.setErrsIn es p).reg o = s.reg o := by simp only [State.reg, State.setErrsIn_regs]

theorem State.stripe_setErrsIn : (s.setErrsIn es p).stripe = s.stripe := by simp only [State.stripe, State.fld, State.reg_setErrsIn]

theorem State.pch_setErrsIn : (s.setErrsIn es p).pch k l = s.pch k l := by simp only [State.pch, State.fld, State.reg_setErrsIn]

/-- Of memory a codeword changes the errors of its line, there and on the spare of a migration (R359). -/
theorem State.setErrsIn_frame : (s.setErrsIn es p).mem =
    { s.mem with errs := (s.setErrsIn es p).mem.errs, spare := (s.setErrsIn es p).mem.spare } := by
  unfold State.setErrsIn; dsimp only
  split
  · rfl
  · split
    · split <;> rfl
    · rfl

@[simp] theorem State.setErrsIn_cells : (s.setErrsIn es p).mem.cells = s.mem.cells := by rw [State.setErrsIn_frame]
@[simp] theorem State.setErrsIn_unmapped : (s.setErrsIn es p).mem.unmapped = s.mem.unmapped := by rw [State.setErrsIn_frame]
@[simp] theorem State.setErrsIn_silent : (s.setErrsIn es p).mem.silent = s.mem.silent := by rw [State.setErrsIn_frame]
@[simp] theorem State.setErrsIn_blank : (s.setErrsIn es p).mem.blank = s.mem.blank := by rw [State.setErrsIn_frame]
@[simp] theorem State.setErrsIn_migs : (s.setErrsIn es p).mem.migs = s.mem.migs := by rw [State.setErrsIn_frame]
@[simp] theorem State.setErrsIn_retireWait : (s.setErrsIn es p).mem.retireWait = s.mem.retireWait := by rw [State.setErrsIn_frame]

theorem State.errDefault_setErrsIn : (s.setErrsIn es p).errDefault q = s.errDefault q := by
  cases q <;> simp only [State.errDefault, State.setErrsIn_blank]

theorem State.setErrsIn_errs (hk : p.key = some key) :
    (s.setErrsIn es p).mem.errs = mapSet (s.errDefault p) s.mem.errs (key / 64) es := by
  unfold State.setErrsIn; rw [hk]; dsimp only
  split
  · split <;> rfl
  · rfl

/-- The line reads with the errors it was written with. -/
theorem State.errsIn_setErrsIn (hp : p.Backed) : (s.setErrsIn es p).errsIn p = es := by
  obtain ⟨key, hk⟩ := Place.key_of_backed hp
  simp only [State.errsIn, hk, State.errDefault_setErrsIn, State.setErrsIn_errs hk, mapGet_mapSet_self]

/-- A line of no errors, written with none, leaves every line as it was. -/
theorem State.SameLines.setErrsIn_nil (hp : p.Backed) (hgood : s.errsIn p = []) : s.SameLines (s.setErrsIn [] p) where
  stripe := State.stripe_setErrsIn
  pch _ _ _ _ := State.pch_setErrsIn
  unmapped := State.setErrsIn_unmapped
  silent := State.setErrsIn_silent
  errs q hq := by
    obtain ⟨a, ha⟩ := Place.key_of_backed hp
    obtain ⟨b, hb⟩ := Place.key_of_backed hq
    by_cases hline : b / 64 = a / 64
    · rw [State.errsIn_line hq hp hb ha hline, State.errsIn_line hq hp hb ha hline, State.errsIn_setErrsIn hp, hgood]
    · simp only [State.errsIn, hb, State.errDefault_setErrsIn, State.setErrsIn_errs ha, mapGet_mapSet_ne _ _ _ hline]

theorem State.SameLines.silent_channel (h : s.SameLines t) (hk : k < 8) :
    t.silent k (t.pch k (channelOf o).1) = s.silent k (s.pch k (channelOf o).1) := by
  rw [h.pch _ _ hk channelOf_lt]
  simp only [State.silent, h.silent]

/-- A good line stays good. -/
theorem State.SameLines.good (h : s.SameLines t) (hp : p.Backed) (hg : s.markIn p = .good) : t.markIn p = .good := by
  cases p <;> simp only [State.markIn, h.unmapped, h.errs _ hp, sramMark_eq_good] at *
  case stack k o =>
    rw [h.silent_channel hp.1]
    split at hg
    · cases hg
    next hmap =>
      split at hg
      · cases hg
      next hthere => rw [if_neg hmap, if_neg hthere]; exact stackMark_eq_good.mpr (stackMark_eq_good.mp hg)
  case sram => exact hg

/-- A good line holds a valid codeword and lies in a mapped channel. -/
theorem State.errsIn_of_good (hp : p.Backed) (hg : s.markIn p = .good) : s.errsIn p = [] ∧ s.unmappedIn p = false := by
  cases p <;> simp only [State.markIn, sramMark_eq_good] at hg
  case stack k o =>
    split at hg
    · cases hg
    next hmap =>
      split at hg
      · cases hg
      · exact ⟨stackMark_eq_good.mp hg, by simpa [State.unmappedIn] using hmap⟩
  case sram => exact ⟨hg, rfl⟩
  all_goals exact hp.elim

/-- A line reads alike while its data do. -/
theorem State.SameLines.markIn (h : s.SameLines t) (hp : p.Backed) (hk : p.key = some key)
    (hd : ∀ i, i < 64 → memByte t.mem.cells (64 * (key / 64) + i) = memByte s.mem.cells (64 * (key / 64) + i)) :
    t.markIn p = s.markIn p := by
  have hzero : t.zeroLine (key / 64) = s.zeroLine (key / 64) := by
    rw [Bool.eq_iff_iff]
    simp only [State.zeroLine, List.all_eq_true, List.mem_range, decide_eq_true_eq]
    exact forall₂_congr fun i hi => by rw [hd i hi]
  cases p <;> simp only [Place.key, Option.some.injEq, reduceCtorEq] at hk <;> subst hk
  case stack k o => simp only [State.markIn, h.unmapped, h.errs _ hp, h.silent_channel hp.1, hzero]
  case sram => simp only [State.markIn, h.errs _ hp]

/-! The bytes of memory after a write at an address and those after it. -/

/-- Writing one run of bytes after another. -/
theorem pokeCells_append {z : Nat} {m : List Host.Cell} {xs ys : List Byte} :
    pokeCells z m a (xs ++ ys) = pokeCells z (pokeCells z m a xs) (a + xs.length) ys := by
  induction xs generalizing m a with
  | nil => rfl
  | cons x xs ih => simp only [List.cons_append, pokeCells, ih, List.length_cons, Nat.add_assoc, Nat.add_comm 1]

/-- A byte at none of the addresses written is as before. -/
theorem memByte_pokeCells_ne {z : Nat} {m : List Host.Cell} (h : ∀ i, i < bs.length → (placeOf z (a + i)).key ≠ some key) :
    memByte (pokeCells z m a bs) key = memByte m key := by
  induction bs generalizing m a with
  | nil => rfl
  | cons b bs ih =>
    have hhead : memByte (putByteAt m b (placeOf z a).key) key = memByte m key := by
      have hne := h 0 (Nat.succ_pos _)
      rw [Nat.add_zero] at hne
      cases hk : (placeOf z a).key with
      | none => rfl
      | some k =>
        rw [hk] at hne
        exact mapGet_mapSet_ne _ _ _ (fun e => hne (by rw [e])) _
    rw [pokeCells, ih fun i hi => ?_, hhead]
    have := h (i + 1) (Nat.succ_lt_succ hi)
    rwa [Nat.add_comm i, ← Nat.add_assoc] at this

/-- A byte written is as it was written: no other address of the run is its own. -/
theorem memByte_pokeCells_at {z : Nat} {m : List Host.Cell} (hz : z ≤ 120) (hi : i < bs.length) (hk : (placeOf z (a + i)).key = some key) :
    memByte (pokeCells z m a bs) key = bs[i] := by
  induction bs generalizing m a i with
  | nil => cases hi
  | cons b bs ih =>
    cases i with
    | zero =>
      rw [Nat.add_zero] at hk
      rw [pokeCells, memByte_pokeCells_ne, hk]
      · exact mapGet_mapSet_self _ _ _ _
      · intro j _ hj
        have := eq_of_key_eq hz hk hj
        omega
    | succ i =>
      rw [pokeCells]
      exact ih (Nat.lt_of_succ_lt_succ hi) (by rwa [Nat.add_comm i, ← Nat.add_assoc] at hk)

/-! Writes where every line is good (R350). -/

/-- The line of an address, by its first address, is the line of the address's place. -/
theorem placeOf_lineStart {z : Nat} (hz : z ≤ 120) (hk : (placeOf z a).key = some key) :
    (placeOf z (a / 64 * 64)).Backed ∧ (placeOf z (a / 64 * 64)).key = some (key / 64 * 64) := by
  have h := placeOf_inLine (j := 0) hz hk (by decide)
  rw [Nat.add_zero] at h
  have hkey := Place.inLine_key (j := 0) hk
  rw [Nat.add_zero] at hkey
  rw [h]
  exact ⟨Place.inLine_backed (placeOf_key hz hk).1 (by decide), hkey⟩

theorem State.mark_lineStart (hk : (placeOf s.stripe a).key = some key) : s.mark (a / 64 * 64) = s.mark a := by
  obtain ⟨hp, hl⟩ := placeOf_lineStart State.stripe_le hk
  exact State.markIn_line hp (placeOf_key State.stripe_le hk).1 hl hk (by omega)

/-- A read of a good line takes no account of anything. -/
@[simp] theorem State.noteRead_good {kind : Nat} : s.noteRead kind master a .good p = s := by
  cases p <;> rfl

/-- A write within a good line stores its bytes and leaves the line good, whole line or part (R350). -/
theorem State.writeLine_good (hk : (placeOf s.stripe a).key = some key) (hg : s.mark a = .good) :
    s.writeLine master a bs = ((s.stackEvent 0x41 (placeOf s.stripe a)).poke a bs).setGood (a / 64 * 64) := by
  have hmap := (State.errsIn_of_good (placeOf_key State.stripe_le hk).1 hg).2
  simp only [State.writeLine, hmap, State.mark_lineStart hk, hg, State.noteRead_good, Bool.false_eq_true, if_false, ite_self]

/-- Such a write leaves the lines as they were and stores its bytes. -/
theorem State.writeLine_effect (hk : (placeOf s.stripe a).key = some key) (hg : s.mark a = .good) :
    s.SameLines (s.writeLine master a bs) ∧ (s.writeLine master a bs).mem.cells = pokeCells s.stripe s.mem.cells a bs := by
  rw [State.writeLine_good hk hg]
  have hevent : s.SameLines (s.stackEvent 0x41 (placeOf s.stripe a)) := State.sameLines_of_memView State.stackEvent_memView
  have hstore := hevent.trans (State.SameLines.poke _ a bs)
  obtain ⟨hp, hl⟩ := placeOf_lineStart State.stripe_le hk
  have hline : s.errsIn (placeOf s.stripe (a / 64 * 64)) = [] :=
    (State.errsIn_of_good hp ((State.mark_lineStart hk).trans hg)).1
  unfold State.setGood State.setErrs
  rw [hstore.stripe]
  refine ⟨hstore.trans (State.SameLines.setErrsIn_nil hp ((hstore.errs _ hp).trans hline)), ?_⟩
  rw [State.setErrsIn_cells]
  simp only [State.poke, hevent.stripe, State.stackEvent_mem]

/-- Writing a run of bytes in two parts, of which the first is `n` bytes long or all there is. -/
theorem pokeCells_split {z : Nat} {m : List Host.Cell} :
    pokeCells z (pokeCells z m a (bs.take n)) (a + n) (bs.drop n) = pokeCells z m a bs := by
  rcases Nat.le_total n bs.length with h | h
  · conv_rhs => rw [← List.take_append_drop n bs, pokeCells_append, List.length_take_of_le h]
  · rw [List.drop_eq_nil_of_le h, List.take_of_length_le h, pokeCells]

/-- A write of a range that touches good lines only, with fuel for its lines, line by line: the lines stay as they were, the bytes are
stored. -/
theorem State.writeLines_effect (hfuel : a % 64 + bs.length ≤ 64 * n)
    (hgood : ∀ i, i < bs.length → (placeOf s.stripe (a + i)).key.isSome = true ∧ s.mark (a + i) = .good) :
    s.SameLines (s.writeLines master n a bs) ∧ (s.writeLines master n a bs).mem.cells = pokeCells s.stripe s.mem.cells a bs := by
  induction n generalizing s a bs with
  | zero =>
    obtain rfl : bs = [] := List.eq_nil_of_length_eq_zero (by omega)
    exact ⟨State.sameLines_of_memView rfl, rfl⟩
  | succ n ih =>
    unfold State.writeLines
    split
    next hnil =>
      obtain rfl := List.isEmpty_iff.mp hnil
      exact ⟨State.sameLines_of_memView rfl, rfl⟩
    next hne =>
      dsimp only
      have hlen : 0 < bs.length := List.length_pos_iff.mpr (by simpa using hne)
      have hhead := hgood 0 hlen
      rw [Nat.add_zero] at hhead
      obtain ⟨key, hk⟩ := Option.isSome_iff_exists.mp hhead.1
      obtain ⟨hline, hcells⟩ := State.writeLine_effect (master := master) (bs := bs.take (64 - a % 64)) hk hhead.2
      generalize s.writeLine master a (bs.take (64 - a % 64)) = t at *
      obtain ⟨hrest, hall⟩ := ih (s := t) (a := a + (64 - a % 64)) (bs := bs.drop (64 - a % 64))
        (by rw [List.length_drop]; omega) (fun i hi => by
          rw [List.length_drop] at hi
          rw [hline.stripe, Nat.add_assoc]
          have hi := hgood (64 - a % 64 + i) (by omega)
          obtain ⟨key, hk⟩ := Option.isSome_iff_exists.mp hi.1
          refine ⟨hi.1, ?_⟩
          unfold State.mark
          rw [hline.stripe]
          exact hline.good (placeOf_key State.stripe_le hk).1 hi.2)
      exact ⟨hline.trans hrest, by rw [hall, hline.stripe, hcells, pokeCells_split]⟩

/-- A write to module memory where every line is good. -/
theorem State.writeMem_effect
    (hgood : ∀ i, i < bs.length → (placeOf s.stripe (a + i)).key.isSome = true ∧ s.mark (a + i) = .good) :
    s.SameLines (s.writeMem master a bs) ∧ (s.writeMem master a bs).mem.cells = pokeCells s.stripe s.mem.cells a bs := by
  have hview : (s.noteTag (masterDie master)).memView = s.memView := State.noteTag_memView
  have htag := State.sameLines_of_memView hview
  obtain ⟨hlines, hcells⟩ := State.writeLines_effect (s := s.noteTag (masterDie master)) (master := master) (a := a) (bs := bs)
    (n := bs.length / 64 + 2) (by omega) (fun i hi => by
      have h := hgood i hi
      obtain ⟨key, hk⟩ := Option.isSome_iff_exists.mp h.1
      unfold State.mark
      rw [htag.stripe]
      exact ⟨h.1, htag.good (placeOf_key State.stripe_le hk).1 h.2⟩)
  exact ⟨htag.trans hlines, by rw [State.writeMem, hcells, htag.stripe, State.mem_of_memView hview]⟩

/-! What a read returns. -/

/-- The byte of a good line is the byte of memory. -/
theorem State.byteIn_good (hk : p.key = some key) (hg : s.markIn p = .good) : s.byteIn p = memByte s.mem.cells key := by
  simp only [State.byteIn, hk, hg]

theorem State.byteIn_congr (hm : t.markIn p = s.markIn p) (hc : ∀ key, p.key = some key → memByte t.mem.cells key = memByte s.mem.cells key) :
    t.byteIn p = s.byteIn p := by
  cases hk : p.key with
  | none => simp only [State.byteIn, hk]
  | some key => simp only [State.byteIn, hk, hm, hc key hk]

/-- A byte outside the range written reads as before: where its line is not good no byte of the line was written, and where it is good
the line stays so. -/
theorem State.byteIn_writeMem_outside {x : Nat}
    (hgood : ∀ i, i < bs.length → (placeOf s.stripe (a + i)).key.isSome = true ∧ s.mark (a + i) = .good)
    (hx : x < a ∨ a + bs.length ≤ x) : (s.writeMem master a bs).byteIn (placeOf s.stripe x) = s.byteIn (placeOf s.stripe x) := by
  obtain ⟨hlines, hcells⟩ := State.writeMem_effect (master := master) hgood
  have hbyte (key : Nat) (hkey : ∀ i, i < bs.length → (placeOf s.stripe (a + i)).key ≠ some key) :
      memByte (s.writeMem master a bs).mem.cells key = memByte s.mem.cells key := by
    rw [hcells, memByte_pokeCells_ne hkey]
  cases hk : (placeOf s.stripe x).key with
  | none => simp only [State.byteIn, hk]
  | some key =>
    have hp := (placeOf_key State.stripe_le hk).1
    have hapart (i : Nat) (hi : i < bs.length) : (placeOf s.stripe (a + i)).key ≠ some key := by
      intro he
      have := eq_of_key_eq State.stripe_le he hk
      omega
    refine State.byteIn_congr ?_ (fun key' hk' => by obtain rfl := Option.some.inj (hk.symm.trans hk'); exact hbyte key hapart)
    by_cases hg : s.markIn (placeOf s.stripe x) = .good
    · rw [hg]; exact hlines.good hp hg
    · refine hlines.markIn hp hk fun j hj => hbyte _ fun i hi he => hg ?_
      obtain ⟨hq, -⟩ := placeOf_key State.stripe_le he
      rw [s.markIn_line hp hq hk he (by omega)]
      exact (hgood i hi).2

end

/-- Settles O57: `placeOf` has an inverse on the places that hold bytes, and a write to good lines stores its bytes and leaves every line
with the errors it had. -/
theorem memoryReadsWhatWasWrittenAndSharesNoByte : Obligations.MemoryReadsWhatWasWrittenAndSharesNoByte := by
  refine ⟨fun z a b hz hsome hkeys => ?_, fun s master a bs hgood => ?_⟩
  · obtain ⟨key, hk⟩ := Option.isSome_iff_exists.mp hsome
    exact eq_of_key_eq hz hk (hkeys ▸ hk)
  · obtain ⟨hlines, hcells⟩ := State.writeMem_effect (master := master) hgood
    have hmark (i : Nat) (hi : i < bs.length) : (s.writeMem master a bs).markIn (placeOf s.stripe (a + i)) = .good := by
      obtain ⟨key, hk⟩ := Option.isSome_iff_exists.mp (hgood i hi).1
      exact hlines.good (placeOf_key State.stripe_le hk).1 (hgood i hi).2
    refine ⟨?_, fun i hi => ?_, fun x hx => ?_⟩
    · refine List.ext_getElem (by simp [State.peek]) fun i h hi => ?_
      obtain ⟨key, hk⟩ := Option.isSome_iff_exists.mp (hgood i hi).1
      simp only [State.peek, List.getElem_map, List.getElem_range, hlines.stripe]
      rw [State.byteIn_good hk (hmark i hi), hcells, memByte_pokeCells_at State.stripe_le hi hk]
    · unfold State.mark; rw [hlines.stripe]; exact hmark i hi
    · simp only [State.peek, hlines.stripe, List.map_cons, List.map_nil, List.range_one, Nat.add_zero]
      rw [State.byteIn_writeMem_outside hgood hx]

end Sys2Proof.Machine

/-! PROOFS. The memory: what the line codes make of a line. -/

namespace Sys2Proof.Machine

/-! The data of a line that is good or corrected. -/

section
variable {s t : State} {z a k o f i j n key line p c sym kind master : Nat} {pl : Place} {es : Errs} {m : Mark} {zero : Bool}

/-- A read makes of a line the data it was written with: a good line, or a corrected one. -/
def Mark.sound (m : Mark) : Prop := m = .good ∨ ∃ n, m = .fixed n

theorem Mark.sound.lost_eq (h : m.sound) : m.lost = false := by
  obtain rfl | ⟨n, rfl⟩ := h <;> rfl

/-- Up to three symbols in error are corrected (R345). -/
theorem stackMark_sound (h : es.length ≤ 3) : (stackMark line zero es).sound := by
  unfold stackMark
  split
  · exact .inl rfl
  · exact .inr ⟨_, rfl⟩

/-- Four or five symbols in error are uncorrectable; a poisoned line has eight (R345, R348). -/
theorem stackMark_bad (h : es.length = 4 ∨ es.length = 5) : stackMark line zero es = .bad := by
  have hpoison : es ≠ poisonErrs := by rintro rfl; revert h; decide
  simp only [stackMark, hpoison, decide_false, Bool.false_and, Bool.false_eq_true, if_false]
  rw [if_neg (by omega), if_neg (by omega), if_pos (by omega)]

/-- One bit of each word is corrected in fold SRAM (R347). -/
theorem sramMark_sound (h : ∀ e ∈ es, e.1 ≠ 8 ∧ popcount 72 e.2 = 1) : (sramMark line es).sound := by
  have hpoison : (es.any fun e => e.1 = 8) = false := List.any_eq_false.mpr fun e he => by simpa using (h e he).1
  have htwo : (es.any fun e => popcount 72 e.2 = 2) = false := List.any_eq_false.mpr fun e he => by simp [(h e he).2]
  have hmore : (es.any fun e => decide (2 < popcount 72 e.2)) = false := List.any_eq_false.mpr fun e he => by simp [(h e he).2]
  simp only [sramMark, hpoison, htwo, hmore, Bool.false_eq_true, if_false]
  split
  · exact .inl rfl
  · exact .inr ⟨_, rfl⟩

/-- Two bits of one word are uncorrectable (R347). -/
theorem sramMark_bad (h8 : ∀ e ∈ es, e.1 ≠ 8) (h2 : ∃ e ∈ es, popcount 72 e.2 = 2) : sramMark line es = .bad := by
  obtain ⟨e, he, hbits⟩ := h2
  have hpoison : (es.any fun e => e.1 = 8) = false := List.any_eq_false.mpr fun e he => by simpa using h8 e he
  have htwo : (es.any fun e => popcount 72 e.2 = 2) = true := List.any_eq_true.mpr ⟨e, he, by simpa using hbits⟩
  have hne : es.length ≠ 0 := (List.length_pos_of_mem he).ne'
  simp only [sramMark, hne, hpoison, htwo, Bool.false_eq_true, if_false, if_true]

/-- The bytes of a line from its first address on lie under keys from a multiple of 64 on. -/
theorem placeOf_add (hz : z ≤ 120) (ha : a % 64 = 0) (hk : (placeOf z a).key = some key) (hi : i < 64) :
    (placeOf z (a + i)).Backed ∧ (placeOf z (a + i)).key = some (key + i) ∧ key % 64 = 0 := by
  have hline : a / 64 * 64 = a := by omega
  have hfirst := (placeOf_lineStart hz hk).2
  rw [hline, hk, Option.some.injEq] at hfirst
  have hplace := placeOf_inLine hz hk hi
  rw [hline] at hplace
  rw [hplace, Place.inLine_key hk, ← hfirst]
  exact ⟨Place.inLine_backed (placeOf_key hz hk).1 hi, rfl, by omega⟩

/-- The bytes of a sound line are those of memory. -/
theorem State.peek_line (ha : a % 64 = 0) (hk : (placeOf s.stripe a).key = some key) (hm : (s.mark a).sound) :
    s.peek a 64 = (List.range 64).map fun i => memByte s.mem.cells (key + i) := by
  refine List.map_congr_left fun i hi => ?_
  obtain ⟨hp, hkey, hal⟩ := placeOf_add State.stripe_le ha hk (List.mem_range.mp hi)
  have hi := List.mem_range.mp hi
  have hmark : s.markIn (placeOf s.stripe (a + i)) = s.mark a :=
    State.markIn_line hp (placeOf_key State.stripe_le hk).1 hkey hk (by omega)
  obtain hg | ⟨n, hg⟩ := hm <;> simp only [State.byteIn, hkey, hmark, hg]

/-! A read changes the errors of no line, whatever channel its corrections retire (R346, R351). -/

@[simp] theorem State.retireChannel_errs : (s.retireChannel k c).mem.errs = s.mem.errs ∧ (s.retireChannel k c).mem.blank = s.mem.blank := by
  unfold State.retireChannel; dsimp only
  split
  · exact ⟨rfl, rfl⟩
  · split
    · exact ⟨rfl, rfl⟩
    · rw [State.drain_mem, State.raiseFault_mem, State.refreshStack_mem]
      split <;> exact ⟨rfl, rfl⟩

@[simp] theorem State.orderRetire_errs : (s.orderRetire k p).mem.errs = s.mem.errs ∧ (s.orderRetire k p).mem.blank = s.mem.blank := by
  unfold State.orderRetire; dsimp only
  split
  · exact ⟨rfl, rfl⟩
  · split
    · split
      · exact ⟨rfl, rfl⟩
      · split
        · exact ⟨rfl, rfl⟩
        · exact State.retireChannel_errs
    · split <;> exact ⟨rfl, rfl⟩

/-- A correction is counted (R346), and at its limit the physical channel is to be retired. -/
theorem State.correctedRead_cases (s : State) (k p sym : Nat) : ∃ u : State, u.memView = s.memView ∧
    (s.correctedRead k p sym = u.orderRetire k p ∨ s.correctedRead k p sym = u) := by
  have hreg : memMapReg (0x1402000 + 128 * k + 4 * p) = false := memMapReg_eq_false.mpr (by omega)
  unfold State.correctedRead; dsimp only
  generalize hr : State.threshold _ _ _ _ = r
  have hview : r.2.memView = s.memView := by
    rw [← hr, State.threshold_memView, State.eventF_memView, State.setFld_memView hreg, State.satAdd_memView hreg]
  refine ⟨r.2, hview, ?_⟩
  split
  · exact .inl rfl
  · exact .inr rfl

@[simp] theorem State.correctedRead_errs :
    (s.correctedRead k p sym).mem.errs = s.mem.errs ∧ (s.correctedRead k p sym).mem.blank = s.mem.blank := by
  obtain ⟨u, hu, h | h⟩ := s.correctedRead_cases k p sym <;> simp [h, State.mem_of_memView hu]

@[simp] theorem State.noteRead_errs :
    (s.noteRead kind master a m pl).mem.errs = s.mem.errs ∧ (s.noteRead kind master a m pl).mem.blank = s.mem.blank := by
  unfold State.noteRead
  split
  · split <;> simp
  · split <;> simp
  · exact ⟨rfl, rfl⟩

theorem State.readLine_errsIn : (s.readLine kind master a).errsIn pl = s.errsIn pl := by
  unfold State.readLine State.readLineIn
  exact State.errsIn_congr (by simp) (by simp) pl

/-! A line that is written poisoned (R348). -/

/-- A codeword written in a line of a mapped channel that answers. -/
theorem State.markIn_setErrsIn_stack (hb : (Place.stack k o).Backed) (hmap : s.unmappedIn (.stack k o) = false)
    (hthere : s.silent k (s.pch k (channelOf o).1) = false) : (s.setErrsIn es (.stack k o)).markIn (.stack k o) =
      stackMark ((2 ^ 37 * k + o) / 64) (s.zeroLine ((2 ^ 37 * k + o) / 64)) es := by
  unfold State.unmappedIn at hmap
  unfold State.silent at hthere
  simp only [State.markIn, State.errsIn_setErrsIn hb, State.pch_setErrsIn, State.silent, State.setErrsIn_silent, State.setErrsIn_unmapped,
    State.zeroLine, State.setErrsIn_cells, hmap, hthere, Bool.false_eq_true, if_false]

/-- Zeros stored over a line. -/
theorem State.zeroLine_poke (hal : a % 64 = 0) (hk : (placeOf s.stripe a).key = some key) :
    (s.poke a (List.replicate 64 0)).zeroLine (key / 64) = true := by
  simp only [State.zeroLine, List.all_eq_true, List.mem_range, decide_eq_true_eq]
  intro i hi
  obtain ⟨-, hkey, hfirst⟩ := placeOf_add State.stripe_le hal hk hi
  rw [State.poke, show 64 * (key / 64) + i = key + i by omega,
    memByte_pokeCells_at State.stripe_le (by rwa [List.length_replicate]) hkey, List.getElem_replicate]

/-- A stack line then holds zeros under check symbols of its own. -/
theorem State.poisonLine_stack (hal : a % 64 = 0) (hp : placeOf s.stripe a = .stack k o) (hmap : s.unmappedIn (.stack k o) = false)
    (hthere : s.silent k (s.pch k (channelOf o).1) = false) : (s.poisonLine a).mark a = .poison := by
  have hk : (placeOf s.stripe a).key = some (2 ^ 37 * k + o) := by rw [hp]; rfl
  have hb : (Place.stack k o).Backed := hp ▸ (placeOf_key State.stripe_le hk).1
  have hstripe : (s.poke a (List.replicate 64 0)).stripe = s.stripe := rfl
  have heq : s.poisonLine a = (s.poke a (List.replicate 64 0)).setErrsIn poisonErrs (.stack k o) := by
    simp only [State.poisonLine, hp, Place.onStack, Place.stackOf, Option.isSome_some, if_true, State.setErrs, hstripe]
  have hmark := State.markIn_setErrsIn_stack (s := s.poke a (List.replicate 64 0)) (es := poisonErrs) hb hmap hthere
  rw [heq, State.mark, State.stripe_setErrsIn, hstripe, hp, hmark, State.zeroLine_poke hal hk]
  rfl

/-- In fold SRAM a bit of its own says so. -/
theorem State.poisonLine_sram (hp : placeOf s.stripe a = .sram f o) : (s.poisonLine a).mark a = .poison := by
  have hb : (Place.sram f o).Backed := hp ▸ (placeOf_key State.stripe_le (by rw [hp]; rfl)).1
  have heq : s.poisonLine a = s.setErrsIn sramPoison (.sram f o) := by
    simp only [State.poisonLine, hp, Place.onStack, Place.stackOf, Option.isSome_none, Bool.false_eq_true, if_false, State.setErrs]
  rw [heq]
  simp only [State.mark, State.stripe_setErrsIn, hp, State.markIn, State.errsIn_setErrsIn hb]
  rfl

end

/-- Settles O45: each code by the number of its symbols or bits in error, and a poisoned line by the errors it was written with. -/
theorem lineCodesDecodeAsStated : Obligations.LineCodesDecodeAsStated := by
  intro s master a hal
  refine ⟨fun k o hp hmap hthere => ?_, fun f o hp => ?_⟩
  · have hk : (placeOf s.stripe a).key = some (2 ^ 37 * k + o) := by rw [hp]; rfl
    have hmark : s.mark a = stackMark ((2 ^ 37 * k + o) / 64) (s.zeroLine ((2 ^ 37 * k + o) / 64)) (s.errsIn (.stack k o)) := by
      simp only [State.mark, hp, State.markIn, hthere]
      rw [if_neg (by simpa [State.unmappedIn] using hmap), if_neg Bool.false_ne_true]
    refine ⟨fun h3 => ?_, fun h45 => hmark ▸ stackMark_bad h45, State.poisonLine_stack hal hp hmap hthere⟩
    have hsound : (s.mark a).sound := hmark ▸ stackMark_sound h3
    exact ⟨hsound.lost_eq, State.peek_line hal hk hsound, State.readLine_errsIn⟩
  · have hk : (placeOf s.stripe a).key = some (2 ^ 40 + 2 ^ 28 * f + o) := by rw [hp]; rfl
    have hmark : s.mark a = sramMark ((2 ^ 40 + 2 ^ 28 * f + o) / 64) (s.errsIn (.sram f o)) := by simp only [State.mark, hp, State.markIn]
    refine ⟨fun h1 => ?_, fun h8 h2 => hmark ▸ sramMark_bad h8 h2, State.poisonLine_sram hp⟩
    have hsound : (s.mark a).sound := hmark ▸ sramMark_sound h1
    exact ⟨hsound.lost_eq, State.peek_line hal hk hsound⟩

end Sys2Proof.Machine

/-! PROOFS. The memory: requests, errors in control memory, scrub and migration. -/

namespace Sys2Proof.Machine

/-! Requests (R362, R364, R366, R451): served where they need not wait. -/

section
variable {s : State} {q l : MemReq} {master a n off : Nat} {bs : List Byte}

theorem State.submit_serves (h : s.reqWaits q = false) : s.submit q = s.serveReq q := by
  simp only [State.submit, h, Bool.not_false, if_true]

/-- A request without a tag joins those that wait, and its stall is counted (R362). -/
theorem State.submit_tagWait (h : s.tagWait q = true) :
    s.submit q = (s.setWaiting (s.mem.waiting ++ [q])).eventF (masterDie q.master) 0x48 0 1 := by
  simp only [State.submit, State.reqWaits, h, Bool.or_true, Bool.true_or, Bool.not_true, Bool.false_eq_true, if_false, if_true]

theorem noneWaits_eq_false (h : ∀ r ∈ s.mem.waiting, r.master ≠ master) : (s.mem.waiting.any fun r => r.master = master) = false :=
  List.any_eq_false.mpr fun r hr => by simpa using h r hr

/-- A request of memory whose master has no earlier one, a tag, and stacks that answer. -/
theorem State.submit_memory (hpen : (q.pen && !q.hasPen) = false) (hl : s.asLocal q = some l)
    (hplace : ∀ off, placeOf s.stripe l.a ≠ .regs off) (hfirst : ∀ r ∈ s.mem.waiting, r.master ≠ q.master)
    (htag : s.localTag l.master = true) (hreach : s.reachable l.a l.n = true) : s.submit q = s.memRequest l.master l.a l.n l.write := by
  have hwait : s.tagWait q = false := by simp only [State.tagWait, hl, htag, Bool.not_true]
  rw [State.submit_serves (by simp only [State.reqWaits, noneWaits_eq_false hfirst, hwait, hl, hreach]; rfl)]
  simp only [State.serveReq, hpen, hl, Bool.false_eq_true, if_false]

/-- A request of the register space, which takes no tag (R339). -/
theorem State.submit_register (hpen : (q.pen && !q.hasPen) = false) (hl : s.asLocal q = some l) (hplace : placeOf s.stripe l.a = .regs off)
    (hfirst : ∀ r ∈ s.mem.waiting, r.master ≠ q.master) (hreach : s.reachable l.a l.n = true) : s.submit q = s.regSpace l off := by
  have hwait : s.tagWait q = false := by simp only [State.tagWait, hl, hplace]
  rw [State.submit_serves (by simp only [State.reqWaits, noneWaits_eq_false hfirst, hwait, hl, hreach]; rfl)]
  simp only [State.serveReq, hpen, hl, hplace, Bool.false_eq_true, if_false]

/-- A request of another module's memory (R451). -/
theorem State.submit_pen (hpen : (q.pen && !q.hasPen) = false) (hl : s.asLocal q = none)
    (hfirst : ∀ r ∈ s.mem.waiting, r.master ≠ q.master) (htag : s.fabTag (masterDie q.master) = true) :
    s.submit q = s.penAccess q.master (q.a % 2 ^ 42) q.n q.write := by
  have hwait : s.tagWait q = false := by simp only [State.tagWait, hl, htag]; rfl
  rw [State.submit_serves (by simp only [State.reqWaits, noneWaits_eq_false hfirst, hwait, hl]; rfl)]
  simp only [State.serveReq, hpen, hl, Bool.false_eq_true, if_false]

theorem State.memRequest_write (hne : n ≠ 0) (hok : s.memCheck master rightW a n = .ok) :
    s.memRequest master a n (some bs) = s.writeMem master a bs := by
  simp only [State.memRequest, hne, Option.isSome_some, hok, if_false, if_true]

theorem State.memRequest_read (hne : n ≠ 0) (hok : s.memCheck master rightR a n = .ok) (hbad : s.rangeBad a n = false) :
    s.memRequest master a n none = (((linesOf a n).foldl (fun t l => t.readLine 0 master l) (s.noteTag (masterDie master))).emit
      (.memData (s.peek a n))) := by
  simp only [State.memRequest, hne, Option.isSome_none, hok, State.readMem, hbad, Bool.false_eq_true, if_false]

/-- A pen-window address of the module's own slot is one of its own memory (R451). -/
theorem State.asLocal_own {pen : Bool} {w : Option (List Byte)} (hself : pen = true → Machine.fld a 41 40 = s.self % 4) :
    s.asLocal { pen := pen, master := master, a := a, n := n, write := w } =
      some { pen := false, master := master, a := if pen then a % 2 ^ 40 else a, n := n, write := w } := by
  cases pen
  · rfl
  · simp only [State.asLocal, hself rfl, Bool.not_true, Bool.false_eq_true, if_false, if_true]

theorem State.asLocal_other {w : Option (List Byte)} (hother : Machine.fld a 41 40 ≠ s.self % 4) :
    s.asLocal { pen := true, master := master, a := a, n := n, write := w } = none := by
  simp only [State.asLocal, hother, Bool.not_true, Bool.false_eq_true, if_false]

/-- Shepherd cores and the DMA engines have a pen window (R451). -/
theorem MemReq.hasPen_of_class (h : q.pen = true → masterClass q.master = .shepherd ∨ masterClass q.master = .dma) :
    (q.pen && !q.hasPen) = false := by
  cases hp : q.pen
  · rfl
  · rcases h hp with h | h <;> simp [MemReq.hasPen, h]

end

/-! Patrol scrub (R356). -/

section
variable {s : State} {k p o c a : Nat}

theorem State.scrub_spare (hon : s.bit 0x1400014 31 = true) (hup : s.stackUp k = true) (h : s.channelServed k p = none) :
    s.scrub k p o = s.scrubSpare k p (o / 64) := by
  simp only [State.scrub, hon, hup, h, Bool.not_true, Bool.or_self, Bool.false_eq_true, if_false]

theorem exec_scrubRead (hk : k < 8) (hp : p < 32) (ho : o < 2 ^ 32) : exec (.scrubRead k p o) s = .next (s.scrub k p o) :=
  if_pos (by simp only [hk, hp, ho, decide_true, Bool.and_self])

/-- The line that a channel offset lies in is read, and written back as what the read made of it. -/
theorem State.scrub_line (hon : s.bit 0x1400014 31 = true) (hup : s.stackUp k = true) (h : s.channelServed k p = some c)
    (ha : stackAddr s.stripe k (stackOffset c (o / 64 * 64)) = a) :
    (s.mark a = .good → s.scrub k p o = s.readLine 2 0 a) ∧
    (∀ m, s.mark a = .fixed m → s.scrub k p o = (s.readLine 2 0 a).setGood a) ∧
    (s.mark a = .bad → s.scrub k p o = (s.readLine 2 0 a).poisonLine a) := by
  simp only [State.scrub, hon, hup, h, ha, Bool.not_true, Bool.or_self, Bool.false_eq_true, if_false]
  exact ⟨fun hm => by rw [hm], fun m hm => by rw [hm], fun hm => by rw [hm]⟩

end

/-! The end of a migration (R358, R359). While its lines are copied the channel map stands, and the channel under migration, which alone is
served by its physical channel, is not retired a second time. -/

section
variable {s t u : State} {k p c i n o st sym kind master a : Nat} {m : Mig} {es : Errs} {mk : Mark}

/-- What the copying of a stack's lines leaves of its migration: the channel map, the migration's channels, and the retirements that wait. -/
structure State.Copying (k : Nat) (m : Mig) (s t : State) : Prop where
  pch : ∀ c, c < 30 → t.pch k c = s.pch k c
  mig : ∃ m', mapGet none t.mem.migs k = some m' ∧ m'.lch = m.lch ∧ m'.pch = m.pch
  wait : t.mem.retireWait = s.mem.retireWait

/-- What leaves memory and its registers leaves the migration. -/
theorem State.Copying.of_memView (h : State.Copying k m s t) (hk : k < 8) (hv : u.memView = t.memView) : State.Copying k m s u where
  pch c hc := (State.pch_of_memView hv hk hc).trans (h.pch c hc)
  mig := State.mem_of_memView hv ▸ h.mig
  wait := (congrArg Mem.retireWait (State.mem_of_memView hv)).trans h.wait

/-- The count of lines copied goes on. -/
theorem State.Copying.goesOn (h : State.Copying k m s t) {m' : Mig} {sp : Map Errs} (hl : m'.lch = m.lch) (hp : m'.pch = m.pch) :
    State.Copying k m s { t with mem := { t.mem with spare := sp, migs := mapSet none t.mem.migs k (some m') } } :=
  ⟨h.pch, ⟨m', mapGet_mapSet_self none t.mem.migs k (some m'), hl, hp⟩, h.wait⟩

/-- A line of a spare is none of this. -/
theorem State.Copying.setSpare (h : State.Copying k m s t) : State.Copying k m s (t.setSpare n p i es) :=
  ⟨h.pch, h.mig, h.wait⟩

/-- The channel that serves one logical channel alone is found to serve it. -/
theorem State.channelServed_eq (hc : c < 30) (hp : s.pch k c = p) (huniq : ∀ c', c' < 30 → s.pch k c' = p → c' = c) :
    s.channelServed k p = some c := by
  unfold State.channelServed
  cases hf : (List.range 30).find? fun c => s.pch k c = p with
  | none => simpa [hp] using List.find?_eq_none.mp hf c (List.mem_range.mpr hc)
  | some c' =>
    rw [huniq c' (List.mem_range.mp (List.mem_of_find?_eq_some hf)) (by simpa using List.find?_some hf)]

/-- A channel under migration is not retired again. -/
theorem State.orderRetire_migrating (hm : mapGet none s.mem.migs k = some m) (hs : s.channelServed k p = some m.lch) :
    s.orderRetire k p = s := by
  unfold State.orderRetire; dsimp only
  split
  · rfl
  · simp only [hs, hm, Option.any_some, decide_true, if_true]

/-- The correction of a line of the channel under migration is counted (R346) and retires nothing. -/
theorem State.Copying.correctedRead (h : State.Copying k m s t) (hk : k < 8) (hlch : m.lch < 30)
    (huniq : ∀ c, c < 30 → s.pch k c = s.pch k m.lch → c = m.lch) : State.Copying k m s (t.correctedRead k (t.pch k m.lch) sym) := by
  obtain ⟨u, hv, hr | hr⟩ := t.correctedRead_cases k (t.pch k m.lch) sym
  · have hu := h.of_memView hk hv
    obtain ⟨m', hm', hl, -⟩ := hu.mig
    have hserved : u.channelServed k (t.pch k m.lch) = some m'.lch := by
      rw [hl]
      refine State.channelServed_eq hlch (State.pch_of_memView hv hk hlch) fun c hc hcp => huniq c hc ?_
      rw [← hu.pch c hc, hcp, h.pch _ hlch]
    rw [hr, State.orderRetire_migrating hm' hserved]
    exact hu
  · exact hr ▸ h.of_memView hk hv

/-- The read of a line of the channel under migration. -/
theorem State.Copying.noteRead (h : State.Copying k m s t) (hk : k < 8) (hlch : m.lch < 30)
    (huniq : ∀ c, c < 30 → s.pch k c = s.pch k m.lch → c = m.lch) (ho : (channelOf o).1 = m.lch) :
    State.Copying k m s (t.noteRead kind master a mk (.stack k o)) := by
  unfold State.noteRead; dsimp only
  rw [ho]
  split
  · exact h
  · exact h.correctedRead hk hlch huniq
  · exact h.correctedRead hk hlch huniq
  · exact h
  · exact h.of_memView hk State.eventF_memView
  · exact h.of_memView hk (State.logUe_memView.trans State.eventF_memView)

/-- A channel offset below 4 GiB has a stack offset below 120 GiB, in its channel (R342). -/
theorem channelOf_stackOffset (hc : c < 30) : (channelOf (stackOffset c i)).1 = c := by
  simp only [channelOf, stackOffset]; omega

theorem stackOffset_lt (hc : c < 30) (hi : i < channelLines) : stackOffset c (64 * i) < 120 * gib := by
  simp only [stackOffset, channelLines, gib] at *; omega

/-- The copy of one line reads a line of the channel under migration and writes the spare. -/
theorem State.Copying.copyLine (h : State.Copying k m s t) (hk : k < 8) (hlch : m.lch < 30)
    (huniq : ∀ c, c < 30 → s.pch k c = s.pch k m.lch → c = m.lch) (hi : i < channelLines) : State.Copying k m s (t.copyLine k m i) := by
  unfold State.copyLine; dsimp only
  rw [placeOf_stackAddr State.stripe_le hk (stackOffset_lt hlch hi)]
  exact (h.noteRead hk hlch huniq (channelOf_stackOffset hlch)).setSpare

/-- A migration that copies lines keeps what it was ordered to: every line it reads lies in the channel under migration (R359). -/
theorem State.copyLines_copying (hm : mapGet none s.mem.migs k = some m) (hk : k < 8) (hlch : m.lch < 30)
    (huniq : ∀ c, c < 30 → s.pch k c = s.pch k m.lch → c = m.lch) : State.Copying k m s (s.copyLines k n) := by
  have hself : State.Copying k m s s := ⟨fun _ _ => rfl, ⟨m, hm, rfl, rfl⟩, rfl⟩
  unfold State.copyLines
  simp only [hm]
  refine State.Copying.of_memView (t := List.foldl _ _ _) ?_ hk (State.refreshStack_memView hk)
  refine List.foldlRecOn _ _ ?start fun t h i _ => ?line
  case line =>
    split
    next hit =>
      simp only [Bool.and_eq_true, decide_eq_true_eq] at hit
      exact h.copyLine hk hlch huniq (by omega)
    · exact h
  case start =>
    refine State.Copying.goesOn ?_ rfl rfl
    split
    · split <;> exact hself.of_memView hk (by simp only [State.eventF_memView])
    · exact hself.of_memView hk (by simp only [State.eventF_memView])

/-- The lines of the spare become those of the logical channel: no migration and no retirement that waits changes. -/
theorem State.takeCopy_keeps : ((s.takeCopy k m).mem.migs, (s.takeCopy k m).mem.retireWait) = (s.mem.migs, s.mem.retireWait) := by
  refine foldl_inv (fun t : State => (t.mem.migs, t.mem.retireWait)) _ (fun t e => ?_) _ _
  dsimp only
  split <;> simp [State.poke]

/-- The channel map, and its persistent copy, switched to a physical channel, and another marked retired (R359, R360). -/
def State.switchChannel (s : State) (k c p old : Nat) : State :=
  let s1 := (s.setReg (0x1401000 + 128 * k + 4 * c) (BitVec.ofNat 32 (2 ^ 31 + p))).markRetired k old
  { s1 with mem := { s1.mem with chmap := mapSet c s1.mem.chmap (32 * k + c) p } }

/-- The logical channel is served by the physical channel switched to. -/
theorem State.pch_switchChannel (hk : k < 8) (hc : c < 30) (hp : p < 32) : (s.switchChannel k c p n).pch k c = p := by
  have hmark (u : State) : (u.markRetired k n).pch k c = u.pch k c := State.pch_of_memView (t := u.setBit (0x1402000 + 128 * k + 4 * n) 31)
    (State.setBit_memView (memMapReg_eq_false.mpr (by omega))) hk hc
  refine (hmark _).trans ?_
  rw [State.pch, State.fld_setReg_self, wfld, toNat_ofNat32 _ (by omega)]
  simp only [Machine.fld, Nat.shiftRight_zero]; omega

theorem State.retired_switchChannel : mapGet false (s.switchChannel k c p n).mem.retired (32 * k + n) = true :=
  mapGet_mapSet_self false s.mem.retired (32 * k + n) true

/-- What is left of a migration that ended: its stack's state, a fault record, and the retirements that waited for it. -/
def State.closeMigration (s : State) (k st old : Nat) : State := ((s.refreshStack k st).raiseFault 2 0x0202 (k * 32 + old) []).retireWaiting k

/-- Where no retirement waits for the stack, none follows the migration: the channel map and what of it lies in memory stand. -/
theorem State.closeMigration_keeps (hk : k < 8) (h : ∀ x ∈ s.mem.retireWait, x / 32 ≠ k) :
    (c < 30 → (s.closeMigration k st n).pch k c = s.pch k c) ∧ (s.closeMigration k st n).mem.migs = s.mem.migs ∧
      (s.closeMigration k st n).mem.retired = s.mem.retired := by
  unfold State.closeMigration
  have hv : ((s.refreshStack k st).raiseFault 2 0x0202 (k * 32 + n) []).memView = s.memView :=
    State.raiseFault_memView.trans (State.refreshStack_memView hk)
  generalize (s.refreshStack k st).raiseFault 2 0x0202 (k * 32 + n) [] = u at *
  have hmem := State.mem_of_memView hv
  have hnone : (u.mem.retireWait.filter fun x => x / 32 = k) = [] := List.filter_eq_nil_iff.mpr fun x hx => by simpa using h x (hmem ▸ hx)
  simp only [State.retireWaiting, hnone, List.foldl_nil]
  exact ⟨fun hc => State.pch_of_memView (t := u) hv hk hc, congrArg Mem.migs hmem, congrArg Mem.retired hmem⟩

/-- The end of a migration in its steps: the last lines, the spare's lines, which change no migration, the switch, and what follows. -/
theorem State.migrationDone_eq {m' : Mig} (hm : mapGet none s.mem.migs k = some m) (hoff : m.off = false) (hfs : s.failSafe = false)
    (ht : s.copyLines k channelLines = t) (hm' : mapGet none t.mem.migs k = some m') :
    ∃ (u : State) (st : Nat), u.mem.migs = mapSet none t.mem.migs k none ∧ u.mem.retireWait = t.mem.retireWait ∧
      s.migrationDone k = (u.switchChannel k m'.lch m'.pch (t.pch k m'.lch)).closeMigration k st (t.pch k m'.lch) := by
  simp only [State.migrationDone, hm, hoff, hfs, ht, hm', Option.getD_some, Bool.or_self, Bool.false_eq_true, if_false]
  refine ⟨_, _, ?_, ?_, rfl⟩
  · exact (Prod.mk.inj State.takeCopy_keeps).1
  · exact (Prod.mk.inj State.takeCopy_keeps).2

/-- A migration that ends: its spare serves the logical channel, and the channel that did is retired for good (R359, R360). -/
theorem State.migrationDone_switches (hm : mapGet none s.mem.migs k = some m) (hoff : m.off = false) (hfs : s.failSafe = false) (hk : k < 8)
    (hlch : m.lch < 30) (hp : m.pch < 32) (hwait : ∀ x ∈ s.mem.retireWait, x / 32 ≠ k)
    (huniq : ∀ c, c < 30 → s.pch k c = s.pch k m.lch → c = m.lch) :
    (s.migrationDone k).pch k m.lch = m.pch ∧ mapGet none (s.migrationDone k).mem.migs k = none ∧
      mapGet false (s.migrationDone k).mem.retired (32 * k + s.pch k m.lch) = true := by
  obtain ⟨hpch, ⟨m', hm', hl, hd⟩, hw⟩ := State.copyLines_copying (n := channelLines) hm hk hlch huniq
  obtain ⟨u, st, hmigs, hretire, hdone⟩ := State.migrationDone_eq hm hoff hfs rfl hm'
  rw [hl, hd, hpch _ hlch] at hdone
  have hnone : ∀ x ∈ (u.switchChannel k m.lch m.pch (s.pch k m.lch)).mem.retireWait, x / 32 ≠ k :=
    fun x hx => hwait x (hw ▸ hretire ▸ hx)
  obtain ⟨hmap, hleft, hgone⟩ := State.closeMigration_keeps (c := m.lch) (st := st) (n := s.pch k m.lch) hk hnone
  rw [hdone, hmap hlch, hleft, hgone]
  exact ⟨State.pch_switchChannel hk hlch hp, (congrArg (mapGet none · k) hmigs).trans (mapGet_mapSet_self none _ k none),
    State.retired_switchChannel⟩

end

/-- Settles O44: a request by the wait it meets or does not meet (the list of waiting requests is log entry 144, a stall counted once per
command log entry 8), the scrub by what the read makes of its line, and a migration by its last copy, which leaves its channels as they
were ordered, and the switch. -/
theorem memoryCommandsComplete : Obligations.MemoryCommandsComplete := by
  intro s
  refine ⟨fun master a n data pen hclass hself => ⟨fun hplace hfirst htag => ⟨fun hne hok hreach => ?write, fun hn hok hreach hbad => ?read⟩,
      fun off hplace hfirst hreach => ?register, fun hplace htag => ?tagless⟩,
    fun master a n data hclass hother hfirst htag => ⟨?penRead, ?penWrite⟩, fun f off master => ⟨rfl, fun hf hreg => ?control⟩,
    fun k p o hk hp ho hon hup => ⟨fun c hc => ?line, fun hnone => ?spare⟩, fun master w hlets hgo hc => ?migrate,
    fun k m hk hm hoff hlch hp hfs hwait huniq => ?done, fun master on hlets => ⟨?quiesce, ?quiesced⟩⟩
  case write =>
    have hne : data.length ≠ 0 := by simpa using hne
    have h := State.submit_memory (q := { pen := pen, master := master, a := a, n := data.length, write := some data })
      (MemReq.hasPen_of_class hclass) (State.asLocal_own hself) hplace hfirst htag hreach
    exact congrArg _ (h.trans (State.memRequest_write hne hok))
  case read =>
    have h := State.submit_memory (q := { pen := pen, master := master, a := a, n := n, write := none })
      (MemReq.hasPen_of_class hclass) (State.asLocal_own hself) hplace hfirst htag hreach
    exact congrArg _ (h.trans (State.memRequest_read hn.ne' hok hbad))
  case register =>
    exact congrArg _ (State.submit_register (q := { pen := pen, master := master, a := a, n := n, write := none })
      (MemReq.hasPen_of_class hclass) (State.asLocal_own hself) hplace hfirst hreach)
  case tagless =>
    refine congrArg _ (State.submit_tagWait (q := { pen := pen, master := master, a := a, n := n, write := none }) ?_)
    simp only [State.tagWait, State.asLocal_own hself, htag, Bool.not_false]
  case penRead =>
    exact congrArg _ (State.submit_pen (q := { pen := true, master := master, a := a, n := n, write := none })
      (MemReq.hasPen_of_class fun _ => hclass) (State.asLocal_other hother) hfirst htag)
  case penWrite =>
    exact congrArg _ (State.submit_pen (q := { pen := true, master := master, a := a, n := data.length, write := some data })
      (MemReq.hasPen_of_class fun _ => hclass) (State.asLocal_other hother) hfirst htag)
  case control => simp [exec, execControlMemoryUe, onUnit, hf, hreg]
  case line =>
    have hx := exec_scrubRead (s := s) hk hp ho
    obtain ⟨hgood, hfixed, hbad⟩ := State.scrub_line hon hup hc rfl
    exact ⟨fun h => hx.trans (congrArg _ (hgood h)), fun m h => hx.trans (congrArg _ (hfixed m h)), fun h => hx.trans (congrArg _ (hbad h))⟩
  case spare =>
    have hx := exec_scrubRead (s := s) hk hp ho
    exact hx.trans (congrArg _ (State.scrub_spare hon hup hnone))
  case migrate =>
    refine congrArg _ ((lets_guard hlets _).trans ?_)
    simp only [State.writeMig, hgo, hc, decide_true, Bool.and_self, if_true]
  case done =>
    refine ⟨s.migrationDone k, ?_, State.migrationDone_switches hm hoff hfs hk hlch hp hwait huniq⟩
    simp [exec, execMigrationDone, onUnit, hk]
  case quiesce => exact congrArg _ (lets_guard hlets _)
  case quiesced => cases on <;> simp [State.bit_setFld_self, b2n]

end Sys2Proof.Machine

/-! PROOFS. The host interface: the common descriptors, rings, contexts and interrupts. -/

namespace Sys2Proof.Machine

/-! The common descriptors (R9, R389). -/

section
variable {s : State} {c n t right master lo hi src dst fuel : Nat} {d : Desc}

theorem onUnit_ctx (hc : c < 4096) (t : State) : onUnit (ctxOk c) t = .next t := if_pos (decide_eq_true hc)

@[simp] theorem DAddr.plus_zero (a : DAddr) : a.plus 0 = a := by cases a <;> rfl

/-- A request that its table allows passes without effect. -/
theorem State.aclCheck_allowed (h : s.aclAllows t right master lo hi = true) : s.aclCheck t right master lo hi = (true, s) := if_pos h

@[simp] theorem chunks_zero : chunks src dst fuel 0 = [] := by cases fuel <;> simp [chunks]

/-- A run that crosses no page on either side is one request. -/
theorem chunks_one (hn : 0 < n) (hsrc : src % 4096 + n ≤ 4096) (hdst : dst % 4096 + n ≤ 4096) :
    chunks src dst (fuel + 1) n = [(0, n)] := by
  have hmin : min n (min (4096 - src % 4096) (4096 - dst % 4096)) = n := by omega
  simp [chunks, hmin, Nat.ne_of_gt hn]

/-- A FILL of one row within a page is one write of the repeated pattern. -/
theorem State.fill_one (hrows : d.u32 36 % 2 ^ 24 = 1) (hlen : 0 < d.u32 32) (hpage : (daddr (d.u64 24)).off % 4096 + d.u32 32 ≤ 4096)
    {q : State} (hstore : s.store (s.ctxWho c) (daddr (d.u64 24))
      ((List.range (d.u32 32)).map fun i => ((d.bytes.drop 16).take 8).getD (i % 8) 0) = (.data [] false, q)) :
    s.fill c d = q.complete c d.ptr stSuccess := by
  have hone := chunks_one (fuel := d.u32 32 / 2048 + 3) hlen hpage hpage
  simp only [State.fill, hrows, List.range_one, List.foldl_cons, List.foldl_nil, Nat.zero_mul, DAddr.plus_zero, hone, fillChunk,
    Nat.zero_add, hstore, Bool.false_eq_true, if_false]
  rfl

/-- A MAILBOX_POST that the bank's table allows posts its word. -/
theorem State.mailboxPost_allowed
    (h : s.aclAllows (18 + d.u8 16 % 2) rightW (s.ctxMaster c) (d.u8 17) (d.u8 17) = true) :
    s.mailboxPost c d = ((s.postMbx 0 (d.u8 16 % 2) (d.u8 17) (BitVec.ofNat 32 (d.u32 20))).serveMbx (d.u8 16 % 2)
      (d.u8 17)).complete c d.ptr stSuccess := by
  simp only [State.mailboxPost, State.aclCheck_allowed h, if_true]

/-- A COUNTER_SNAPSHOT of allowed dies, without CLEAR, stores the record of Table 11-11. -/
theorem State.snapshot_allowed (hmask : d.u16 16 % 1024 ≠ 0) (hclear : d.u8 18 % 2 = 0)
    (h : s.aclAllows 30 rightR (s.ctxMaster c) ((diesOf (d.u16 16 % 1024)).headD 0) ((diesOf (d.u16 16 % 1024)).getLastD 0) = true) :
    s.snapshot c d =
      let ws := s.cntWords (d.u16 16 % 1024)
      let r := s.store (s.ctxWho c) (daddr (d.u64 24)) (leBytes 8 s.ts ++ leBytes 4 s.stepNo ++ leBytes 2 (d.u16 16 % 1024) ++
        leBytes 2 ws.length ++ leBytes 16 0 ++ ws.flatMap (leBytes 8))
      r.2.complete c d.ptr r.1.status := by
  have hcheck : s.aclCheck 30 rightR (s.ctxWho c).master _ _ = (true, s) := State.aclCheck_allowed h
  simp only [State.snapshot, if_neg hmask, hcheck, hclear]
  rfl

end

/-- Settles O6: each descriptor at hand is carried out by the command of its opcode, and completes with the status of its requests. -/
theorem commonDescriptorsComplete : Obligations.CommonDescriptorsComplete := by
  intro s c n d
  refine ⟨fun h => ?nop, fun h => ?copy, fun h => ?fill, fun h hlink => ?fence, fun h hacl => ?post, fun h hmask => ?none,
    fun h hmask hclear hacl => ?snapshot, fun hc hd hop hdiag => ?reserved⟩
  case reserved =>
    have hrefuse : ¬ (ctxOk c && diagOpcode d.op && s.boot.diag) = true := by simp [Bool.and_assoc, hdiag]
    change execReservedOpcode c n s = _
    simp only [execReservedOpcode, hd, if_neg hrefuse, hop, onUnit_ctx hc, Bool.false_eq_true, if_false]
  all_goals obtain ⟨-, rfl, -⟩ := atHand_spec h
  case nop => exact onUnit_runDesc h _
  case copy =>
    dsimp only
    intro hdenied hcut hlost
    refine (onUnit_runDesc h _).trans (congrArg _ ?_)
    simp only [State.copy, Move.status, hdenied, hcut, hlost, Bool.false_eq_true, if_false]
  case fill =>
    intro hrows hlen hpage
    dsimp only
    intro hstore
    exact (onUnit_runDesc h _).trans (congrArg _ (State.fill_one hrows hlen hpage (Prod.ext hstore rfl)))
  case fence =>
    have hup : ¬ (d.u8 16 = 2 && !s.linkUp (s.ctxLink c)) = true := by
      by_cases h2 : d.u8 16 = 2
      · simp [hlink h2]
      · simp [h2]
    exact (onUnit_runDesc h _).trans (congrArg _ (congrArg _ (if_neg hup)))
  case post => exact (onUnit_runDesc h _).trans (congrArg _ (State.mailboxPost_allowed hacl))
  case none => exact (onUnit_runDesc h _).trans (congrArg _ (if_pos hmask))
  case snapshot => exact (onUnit_runDesc h _).trans (congrArg _ (State.snapshot_allowed hmask hclear hacl))

/-! Doorbells and descriptor fetch (R379, R382, R383). -/

section
variable {s s1 : State} {link func page c v t : Nat} {bs : List Byte} {f : State → Nat → State}

theorem onUnit_func (hl : link < 2) (hf : func < 64) (t : State) : onUnit (link < 2 && func < 64) t = .next t :=
  if_pos (by simp [hl, hf])

/-- A doorbell outside READY or in the fail-safe state is dropped. -/
theorem State.doorbell_dropped (h : s.doorbells = false) : s.doorbell link func page f = s := by
  simp [State.doorbell, h]

/-- A doorbell on a page of the function rings its context. -/
theorem State.doorbell_rings (hr : s.ready = true) (hf : s.failSafe = false) (hp : s.pageCtx link func page = some c) :
    s.doorbell link func page f = f s c := by
  simp [State.doorbell, State.doorbells, hr, hf, hp]

/-- A tail within the free slots and not behind the announced ones is taken. -/
theorem State.tailDoor_moves (hst : (s.ctx c).state = .run ∨ (s.ctx c).state = .suspended) (ht : doorPtr (s.sqSize c) v = some t)
    (hfree : (t + 2 * s.sqSize c - (s.ctx c).fetch) % (2 * s.sqSize c) ≤ s.sqSize c)
    (hahead : ((s.ctx c).tail + 2 * s.sqSize c - (s.ctx c).fetch) % (2 * s.sqSize c) ≤
      (t + 2 * s.sqSize c - (s.ctx c).fetch) % (2 * s.sqSize c)) :
    s.tailDoor c v = s.setCtx c { s.ctx c with tail := t } := by
  simp only [State.tailDoor, if_pos hst, ht, if_neg (Nat.not_lt.mpr hfree), if_neg (Nat.not_lt.mpr hahead)]

/-- A head within the unread entries is taken, and held completions go out. -/
theorem State.headDoor_moves (hst : (s.ctx c).state ≠ .disabled) (ht : doorPtr (s.cqSize c) v = some t)
    (hunread : (t + 2 * s.cqSize c - (s.ctx c).cqHead) % (2 * s.cqSize c) ≤
      ((s.ctx c).cqTail + 2 * s.cqSize c - (s.ctx c).cqHead) % (2 * s.cqSize c)) :
    s.headDoor c v = (s.setCtx c { s.ctx c with cqHead := t }).releaseHeld c 256 := by
  simp only [State.headDoor, if_neg hst, ht, if_pos hunread]

/-- A fetch whose ring read succeeds takes the descriptor and goes on. -/
theorem State.fetchOne_takes (hm : s.mayFetch c = true)
    (hr : s.request (s.ctxWho c) 1 ((s.sqAddr c).plus (64 * ((s.ctx c).fetch % s.sqSize c))) 64 = (.data bs false, s1)) :
    s.fetchOne c = (true, s1.takeDesc c bs) := by
  simp [State.fetchOne, hm, hr]

theorem State.fetchRing_goesOn {n : Nat} (h : s.fetchOne c = (true, s1)) : s.fetchRing c (n + 1) = s1.fetchRing c n := by
  rw [State.fetchRing, h]
  rfl

end

/-- Settles O15: each doorbell meets its bounds, and a fetch that reads its descriptor goes on with the next. -/
theorem ringCommandsComplete : Obligations.RingCommandsComplete := by
  intro s link func page c v t hl hf hfs
  refine ⟨fun hr hp => ⟨fun hst ht hfree hahead => ?tail, fun hst ht hunread => ?head⟩, fun hc hm bs s1 hread => ⟨?fetch, ?joins⟩⟩
  case tail =>
    exact (onUnit_func hl hf _).trans (congrArg _ ((State.doorbell_rings hr hfs hp).trans (State.tailDoor_moves hst ht hfree hahead)))
  case head =>
    exact (onUnit_func hl hf _).trans (congrArg _ ((State.doorbell_rings hr hfs hp).trans (State.headDoor_moves hst ht hunread)))
  case fetch =>
    have hgo : s.fetchRing c (255 + 1) = _ := State.fetchRing_goesOn (State.fetchOne_takes hm hread)
    exact (onUnit_ctx hc _).trans (congrArg _ ((if_neg (by simp [hfs])).trans hgo))
  case joins => simp [State.takeDesc]

/-! Contexts (R378, R400), and the messages of completions and of unmasked vectors (R396, R397). -/

section
variable {s : State} {master c link func vec : Nat} {w : Word}

/-- The owner's valid configuration takes a DISABLED context into RUN. -/
theorem State.enableCtx_valid (hd : (s.ctx c).state = .disabled) (ho : (s.putCtl c w).ownsCtx master c = true)
    (he : (s.putCtl c w).enableErr c = 0) :
    s.enableCtx master c w = ((s.putCtl c w).setBit (ctxBase c + 16) 31).setCtx c { state := .run } := by
  simp [State.enableCtx, hd, ho, he]

/-- The owner's EN = 0 lets a context drain. -/
theorem State.disableCtx_drains (hd : (s.ctx c).state ≠ .disabled) (ho : s.ownsCtx master c = true) :
    s.disableCtx master c w =
      (((s.clrBit (ctxBase c + 16) 31).setCtx c { s.ctx c with state := .draining }).abortWaiting c).settle c := by
  simp [State.disableCtx, State.drainCtx, hd, ho]

/-- The vector is unmasked, whether or not a message was pending. -/
theorem State.msixOpen_open : (mapGet {} (s.msixOpen link func vec).host.msix (link * 64 + func)).open_ =
    (mapGet {} s.host.msix (link * 64 + func)).open_ ||| 2 ^ vec := by
  unfold State.msixOpen
  dsimp only
  split <;> simp

/-- A pending message is sent. -/
theorem State.msixOpen_sends (hp : (mapGet {} s.host.msix (link * 64 + func)).pend.testBit vec = true) (hf : s.failSafe = false) :
    (s.msixOpen link func vec).out = .msi link func vec :: s.out ∧
    (mapGet {} (s.msixOpen link func vec).host.msix (link * 64 + func)).pend =
      (mapGet {} s.host.msix (link * 64 + func)).pend - 2 ^ vec := by
  simp [State.msixOpen, State.emit, hp, hf]

/-- With nothing pending, or in the fail-safe state, no message is sent. -/
theorem State.msixOpen_quiet (h : (mapGet {} s.host.msix (link * 64 + func)).pend.testBit vec = false ∨ s.failSafe = true) :
    (s.msixOpen link func vec).out = s.out ∧
    (mapGet {} (s.msixOpen link func vec).host.msix (link * 64 + func)).pend = (mapGet {} s.host.msix (link * 64 + func)).pend := by
  have hno : ((mapGet {} s.host.msix (link * 64 + func)).pend.testBit vec && !s.failSafe) = false := by
    rcases h with h | h <;> simp [h]
  simp [State.msixOpen, hno]

end

/-- Settles O16: the writes of CTX_CTL pass their check and come to the context's state, the gap and the vector to their messages. -/
theorem contextAndInterruptCommandsComplete : Obligations.ContextAndInterruptCommandsComplete := by
  refine ⟨fun s master c w hc hl => ⟨fun hr hf hd ho he => ?enable, fun hd ho => ?disable, fun hm hst hfn hlk hup => ?rebind⟩,
    fun s c link func vec => ⟨fun hc hg hp => ?gapEnds, fun hc hg hp => ?gapSends, fun hl hf hv => ?unmask⟩⟩
  case enable =>
    refine (onUnit_ctx hc _).trans (congrArg _ ?_)
    have hready : (s.ready && !s.failSafe) = true := by simp [hr, hf]
    rw [State.writeEnable, if_pos hready, lets_guard hl]
    exact State.enableCtx_valid hd ho he
  case disable =>
    exact (onUnit_ctx hc _).trans (congrArg _ ((lets_guard hl _).trans (State.disableCtx_drains hd ho)))
  case rebind =>
    have hunit : (ctxOk c && master < 2) = true := by simp [ctxOk, hc, hm]
    refine (if_pos hunit).trans (congrArg _ ((lets_guard hl _).trans ?_))
    exact if_pos ⟨hst, hfn, hlk, hup⟩
  case gapEnds =>
    refine (onUnit_ctx hc _).trans (congrArg _ ?_)
    simp [hg, hp]
  case gapSends =>
    refine (onUnit_ctx hc _).trans (congrArg _ ?_)
    simp [hg, hp]
  case unmask =>
    have hunit : (decide (link < 2) && decide (func < 64) && decide (vec < 32)) = true := by simp [hl, hf, hv]
    exact ⟨s.msixOpen link func vec, if_pos hunit, State.msixOpen_open, State.msixOpen_sends, State.msixOpen_quiet⟩

end Sys2Proof.Machine

/-! PROOFS. The host interface: mailboxes, access tables, host links, and the writes that the operating state ignores. -/

namespace Sys2Proof.Machine

/-! Mailbox words (R394, R481). -/

section
variable {s : State} {dir dir' f f' n n' src link func vec : Nat} {w : Word} {m : Mbx}

theorem State.mbx_sansAccess : s.sansAccess.mbx dir f n = s.mbx dir f n := rfl

@[simp] theorem State.mbx_raiseIrq : (s.raiseIrq src).mbx dir f n = s.mbx dir f n := by
  rw [← State.mbx_sansAccess, State.raiseIrq_sansAccess, State.mbx_sansAccess]

@[simp] theorem State.mbx_emit {y : Out} : (s.emit y).mbx dir f n = s.mbx dir f n := rfl

@[simp] theorem State.mbx_setMbx : (s.setMbx 1 f n m).mbx 1 f n = m := by simp [State.mbx, State.setMbx]

theorem State.mbx_setMbx_ne (h : 64 * f' + n' ≠ 64 * f + n) : (s.setMbx 1 f n m).mbx 1 f' n' = s.mbx 1 f' n' := by
  simp [State.mbx, State.setMbx, mapGet_mapSet_ne _ _ _ h]

/-- A post to an empty firmware-to-host word stores it, and may interrupt. -/
theorem State.postMbx_empty (h : (s.mbx 1 f n).full = false) : s.postMbx 1 f n w = s.setMbx 1 f n ⟨w, true⟩ ∨
    s.postMbx 1 f n w = (s.setMbx 1 f n ⟨w, true⟩).raiseIrq f := by
  by_cases hb : s.bit (0x400204 + 0x10000 * f) n = true
  · simp [State.postMbx, h, hb]
  · simp [State.postMbx, h, hb]

/-- A post to a full word leaves every word. -/
theorem State.mbx_postMbx_full (h : (s.mbx dir f n).full = true) : (s.postMbx dir f n w).mbx dir' f' n' = s.mbx dir' f' n' := by
  simp only [State.postMbx, h, if_true]
  split
  · rfl
  · split <;> rfl

/-- The FAULT word that waits is stored in the empty word 0 of F0, and may interrupt; or nothing happens. -/
theorem State.postFault_cases (s : State) : s.postFault = s ∨ ∃ (u : State) (m : Mbx), u.host = s.host ∧ u.out = s.out ∧
    (s.postFault = u.setMbx 1 0 0 m ∨ s.postFault = (u.setMbx 1 0 0 m).raiseIrq 0) := by
  unfold State.postFault
  split
  next h =>
    simp only [Bool.and_eq_true, Bool.not_eq_true'] at h
    obtain ⟨⟨-, hempty⟩, -⟩ := h
    exact .inr ⟨{ s with flt := { s.flt with wordPend := false } }, _, rfl, rfl, State.postMbx_empty hempty⟩
  · exact .inl rfl

/-- The FAULT word goes to word 0 of F0 and leaves every other word. -/
theorem State.mbx_postFault (h : 64 * f + n ≠ 0) : s.postFault.mbx 1 f n = s.mbx 1 f n := by
  rcases s.postFault_cases with hs | ⟨u, m, hhost, -, hs⟩
  · rw [hs]
  · have hset : (u.setMbx 1 0 0 m).mbx 1 f n = s.mbx 1 f n := by
      rw [State.mbx_setMbx_ne (by omega), State.mbx, hhost]
      rfl
    rcases hs with hs | hs <;> simp only [hs, State.mbx_raiseIrq, hset]

/-! What these send goes ahead of what was sent before. -/

theorem State.sendMsi_out : s.out <:+ (s.sendMsi link func vec).out := by
  unfold State.sendMsi
  dsimp only
  split
  · exact List.suffix_rfl
  · split
    · exact List.suffix_cons _ _
    · exact List.suffix_rfl

theorem State.raiseIrq_out : s.out <:+ (s.raiseIrq src).out := by
  rcases s.raiseIrq_cases src with h | ⟨_, _, h⟩ <;> rw [h]
  · exact List.suffix_rfl
  · exact State.sendMsi_out (s := s.setBit oIrqStat src)

theorem State.setMbx_out : (s.setMbx dir f n m).out = s.out := by
  unfold State.setMbx
  dsimp only
  split
  · rfl
  · split <;> rfl

theorem State.postFault_out : s.out <:+ s.postFault.out := by
  rcases s.postFault_cases with hs | ⟨u, m, -, hout, hs⟩
  · rw [hs]
  · rw [← hout, ← State.setMbx_out (dir := 1) (f := 0) (n := 0) (m := m)]
    rcases hs with hs | hs <;> rw [hs]
    exact State.raiseIrq_out

/-- A firmware-to-host word that is read reports its data, and is empty unless the FAULT word takes its place. -/
theorem State.readMbx_reports (hn : 64 * f + n ≠ 0) : (∃ us, (s.readMbx 1 f n).out = us ++ .readData (s.mbx 1 f n).data :: s.out) ∧
    ((s.readMbx 1 f n).mbx 1 f n).full = false := by
  refine ⟨?_, ?_⟩
  · have hout : ((s.setMbx 1 f n { s.mbx 1 f n with full := false }).emit (.readData (s.mbx 1 f n).data)).out =
        .readData (s.mbx 1 f n).data :: s.out := congrArg (_ :: ·) State.setMbx_out
    obtain ⟨us, hus⟩ := State.postFault_out
      (s := (s.setMbx 1 f n { s.mbx 1 f n with full := false }).emit (.readData (s.mbx 1 f n).data))
    rw [hout] at hus
    exact ⟨us, hus.symm⟩
  · unfold State.readMbx
    simp only [State.mbx_postFault hn, State.mbx_emit, State.mbx_setMbx]

theorem mbxOk_f2h (hf : f < 2) (hn : n < 32) : mbxOk 1 f n = true := by simp [mbxOk, hf, hn]

end

/-! Access tables (R392). -/

section
variable {s : State} {t e k : Nat} {w : Word}

/-- The entry put in force, with its shadowed words. -/
theorem State.aclEnt_putAcl : (s.putAcl (64 * t + e) w).aclEnt t e =
    { valid := w.getLsbD 31, anyidx := w.getLsbD 30, rights := wfld w 20 16, master := wfld w 15 0
      base := 2 ^ 32 * (s.aclWord (64 * t + e) 3 % 65536) + s.aclWord (64 * t + e) 1
      limit := 2 ^ 32 * (s.aclWord (64 * t + e) 3 / 65536) + s.aclWord (64 * t + e) 2 } := by
  simp only [State.aclEnt, State.putAcl, mapGet_mapSet_self]

end

/-- Settles O18: a firmware-to-host word by its FULL bit, an access-table entry by its shadow and word 0, and the drain by its bit. -/
theorem mailboxAndAclCommandsComplete : Obligations.MailboxAndAclCommandsComplete := by
  refine ⟨fun s master f n w hf hn => ?mailbox, fun s master t e w ht he => ?acl⟩
  case mailbox =>
    have hok (t : State) : onUnit (mbxOk 1 f n) t = .next t := if_pos (mbxOk_f2h hf hn)
    refine ⟨fun hfw hempty => ⟨_, hok _, ?stored⟩, fun hfw hfull => ⟨_, hok _, ?dropped⟩, fun hfw hne hcheck => ⟨_, hok _, ?read⟩⟩
    case stored =>
      have hpost : s.writeMbx master 1 f n w = s.postMbx 1 f n w := if_pos hfw
      rw [hpost]
      rcases State.postMbx_empty (w := w) hempty with hp | hp <;> simp [hp]
    case dropped =>
      have hpost : s.writeMbx master 1 f n w = s.postMbx 1 f n w := if_pos hfw
      rw [hpost, State.mbx_postMbx_full hfull]
    case read =>
      have hread : s.hostReadMbx master 1 f n = s.readMbx 1 f n := by
        simp [State.hostReadMbx, hfw, regCheck_ok hcheck]
      rw [hread]
      exact State.readMbx_reports (by omega)
  case acl =>
    have hwritable : aclWritable t e = true := by simp [aclWritable, ht, he]
    refine ⟨fun hl => ⟨fun word h1 h3 => ?shadow, ?entry, State.aclEnt_putAcl⟩, fun hl => ?sync, rfl, by simp⟩
    case shadow =>
      have hunit : (decide (t < 64) && decide (e < 64) && decide (1 ≤ word) && decide (word ≤ 3)) = true := by
        simp only [Bool.and_eq_true, decide_eq_true_eq]; omega
      exact (if_pos hunit).trans (congrArg _ ((lets_guard hl _).trans (if_pos hwritable)))
    case entry =>
      have hunit : (decide (t < 64) && decide (e < 64)) = true := by
        simp only [Bool.and_eq_true, decide_eq_true_eq]; omega
      exact (if_pos hunit).trans (congrArg _ ((lets_guard hl _).trans (if_pos hwritable)))
    case sync => exact congrArg _ (lets_guard hl _)

/-! Host links and function resets (R398, R399, R402). -/

/-- A key that reads as other than the default is listed. -/
theorem exists_mem_of_mapGet_ne {α : Type} {d : α} {m : Map α} {i : Nat} (h : mapGet d m i ≠ d) : ∃ v, (i, v) ∈ m := by
  induction m with
  | nil => exact absurd rfl h
  | cons kv m ih =>
    obtain ⟨k, v⟩ := kv
    by_cases hk : i = k
    · exact ⟨v, by simp [hk]⟩
    · rw [mapGet, if_neg hk] at h
      obtain ⟨v', hv⟩ := ih h
      exact ⟨v', List.mem_cons_of_mem _ hv⟩

/-- A key that a filter leaves out reads as the default. -/
theorem mapGet_filter_out {α : Type} (d : α) (m : Map α) {i : Nat} {p : Nat × α → Bool} (h : ∀ v, p (i, v) = false) :
    mapGet d (m.filter p) i = d := by
  induction m with
  | nil => rfl
  | cons kv m ih =>
    obtain ⟨k, v⟩ := kv
    simp only [List.filter_cons]
    split
    next hp =>
      have hk : i ≠ k := by rintro rfl; simp [h] at hp
      rw [mapGet, if_neg hk]; exact ih
    · exact ih

/-- A context in RUN is SUSPENDED. -/
def State.suspend (s : State) (c : Nat) : State :=
  if (s.ctx c).state = .run then s.setCtx c { s.ctx c with state := .suspended } else s

section
variable {s : State} {link l c c' : Nat} {f : Nat → Bool} {cs : List Nat}

theorem State.suspend_frame : s.suspend c = { s with host := { s.host with ctxs := (s.suspend c).host.ctxs } } := by
  unfold State.suspend; split <;> rfl

theorem State.ctxState_suspend : ((s.suspend c').ctx c).state =
    if c = c' ∧ (s.ctx c).state = .run then .suspended else (s.ctx c).state := by
  unfold State.suspend
  by_cases hc : c = c'
  · subst hc
    by_cases hr : (s.ctx c).state = .run <;> simp [hr]
  · split <;> simp [hc]

/-- Of the contexts of a list, those in RUN are SUSPENDED; the others keep their state. -/
theorem State.ctxState_suspendAll : ((cs.foldl State.suspend s).ctx c).state =
    if c ∈ cs ∧ (s.ctx c).state = .run then .suspended else (s.ctx c).state := by
  induction cs generalizing s with
  | nil => simp
  | cons c' cs ih =>
    rw [List.foldl_cons, ih, State.ctxState_suspend]
    by_cases hc : c = c'
    · subst hc
      by_cases hr : (s.ctx c).state = .run <;> simp [hr]
    · simp [hc]

theorem State.linkUp_suspendAll : (cs.foldl State.suspend s).linkUp l = s.linkUp l :=
  foldl_inv (·.linkUp l) _ (fun t c => by rw [State.suspend_frame]; rfl) cs s

/-- A context of a link in service is among the link's. -/
theorem State.mem_linkContexts (hl : s.ctxLink c = link) (hf : f (s.ctxFunc c) = true) (hst : (s.ctx c).state ≠ .disabled) :
    c ∈ s.linkContexts link f := by
  have hne : s.ctx c ≠ {} := by intro h; rw [h] at hst; exact hst rfl
  obtain ⟨x, hx⟩ := exists_mem_of_mapGet_ne hne
  exact List.mem_filterMap.mpr ⟨(c, x), hx, by simp [hl, hf]⟩

theorem State.linkUp_setLink {up : Bool} : (s.setLink link up).linkUp link = up := by
  unfold State.setLink State.linkUp
  by_cases h : link = 0 <;> simp [h]

theorem State.ctx_setLink {up : Bool} : (s.setLink link up).ctx c = s.ctx c := by
  unfold State.setLink; split <;> rfl

theorem State.ctxLink_setLink {up : Bool} : (s.setLink link up).ctxLink c = s.ctxLink c := by
  unfold State.setLink; split <;> rfl

/-- Interrupts routed to a link that falls move to the other PF, where its MSI-X is enabled. -/
def State.routeAway (s : State) (link : Nat) : State :=
  if s.fld oIrqRoute 0 0 = link && (mapGet {} s.host.msix ((1 - link) * 64)).open_ != 0 then s.setFld oIrqRoute 0 0 (1 - link) else s

theorem State.routeAway_host : (s.routeAway link).host = s.host := by unfold State.routeAway; split <;> rfl

/-- A link that falls suspends its contexts, moves its interrupts and raises source 9. -/
theorem State.linkFalls_eq (h : s.linkUp link = true) : s.linkFalls link =
    ((((s.setLink link false).linkContexts link fun _ => true).foldl State.suspend (s.setLink link false)).routeAway link).raiseIrq 9 :=
  if_neg (by simp [h])

/-- The state of a link's contexts once it has fallen. -/
theorem State.ctxState_suspendLink (hl : s.ctxLink c = link) :
    ((((s.setLink link false).linkContexts link fun _ => true).foldl State.suspend (s.setLink link false)).ctx c).state =
      if (s.ctx c).state = .run then .suspended else (s.ctx c).state := by
  rw [State.ctxState_suspendAll, State.ctx_setLink]
  by_cases hr : (s.ctx c).state = .run
  · have hmem : c ∈ (s.setLink link false).linkContexts link fun _ => true :=
      State.mem_linkContexts (State.ctxLink_setLink.trans hl) rfl (by rw [State.ctx_setLink, hr]; decide)
    simp [hmem, hr]
  · simp [hr]

@[simp] theorem State.holdPerst_host {perst : Bool} : (s.holdPerst link perst).host = s.host := by
  unfold State.holdPerst; split <;> rfl

theorem State.linkUp_holdPerst {perst : Bool} : (s.holdPerst link perst).linkUp l = s.linkUp l := by
  unfold State.linkUp; rw [State.holdPerst_host]

/-- A fundamental reset holds the link's pin low. -/
theorem State.perst_holdPerst : (if link = 0 then (s.holdPerst link true).pwr.perst0 else (s.holdPerst link true).pwr.perst1) = true := by
  by_cases h : link = 0 <;> simp [State.holdPerst, h]

/-- The vectors of the functions reset are closed, with nothing pending. -/
theorem State.msix_resetFunctions {k : Nat} (hk : k / 64 = link) (hf : f (k % 64) = true) :
    mapGet {} (s.resetFunctions link f).host.msix k = {} :=
  mapGet_filter_out _ _ fun v => by simp [hk, hf]

/-- Out of module reset, a link that answers again is up, with its pin released. -/
theorem State.linkAnswers_up (hb : s.bootState ≠ 0) : (s.linkAnswers link).linkUp link = true ∧ (s.linkAnswers link).regs = s.regs := by
  have hup : s.linkAnswers link = State.setLink { s with pwr := if link = 0 then { s.pwr with perst0 := false } else
    { s.pwr with perst1 := false } } link true := if_neg hb
  rw [hup]
  refine ⟨State.linkUp_setLink, ?_⟩
  unfold State.setLink; split <;> rfl

end

/-- Settles O19: a link by the contexts of its functions, and a reset by the functions it names. -/
theorem linkCommandsComplete : Obligations.LinkCommandsComplete := by
  intro s link hl
  have hunit (t : State) : onUnit (link < 2) t = .next t := if_pos (decide_eq_true hl)
  refine ⟨fun hup => ⟨_, (hunit _).trans (congrArg _ (State.linkFalls_eq hup)), ?down, fun c hc => ?suspended⟩, fun hdown => ?rises,
    fun hb => ⟨_, hunit _, State.linkAnswers_up hb⟩, fun perst => ⟨_, hunit _, ?reset, fun hp => ?pin⟩, hunit _, fun vf h1 h2 => ?vf,
    fun f k => State.msix_resetFunctions⟩
  case down =>
    rw [State.linkUp, State.routeAway_host]
    exact State.linkUp_suspendAll.trans State.linkUp_setLink
  case suspended =>
    rw [State.ctx, State.routeAway_host]
    exact State.ctxState_suspendLink hc
  case rises => exact (hunit _).trans (congrArg _ (if_neg (by simp [hdown])))
  case reset => rw [State.linkUp_holdPerst, State.linkUp_setLink]
  case pin => subst hp; exact State.perst_holdPerst
  case vf =>
    have hfunc : (decide (link < 2) && decide (1 ≤ vf) && decide (vf < 64)) = true := by simp [hl, h1, h2]
    exact if_pos hfunc

/-! Host writes that the operating state ignores (R404, R405). -/

section
variable {s : State} {master off : Nat} {w : Word} {f : State → State}

/-- In the fail-safe state only GLB_CTL and GLB_IRQ_STAT take host writes. -/
theorem State.hostWritable_failSafe (hf : s.failSafe = true) (h14 : off ≠ 0x14) (h20 : off ≠ 0x20) : s.hostWritable off = false := by
  simp [State.hostWritable, hf, h14, h20]

/-- Before READY only the global, power, mailbox and monitor blocks take host writes. -/
theorem State.hostWritable_booting (hf : s.failSafe = false) (hb : s.bootState ≠ 5) (h0 : (regBlock off).1 ≠ 0) (h1 : (regBlock off).1 ≠ 1)
    (h3 : (regBlock off).1 ≠ 3) (h11 : (regBlock off).1 ≠ 11) : s.hostWritable off = false := by
  simp [State.hostWritable, hf, hb, h0, h1, h3, h11]

/-- A host write to a register that takes none changes nothing. -/
theorem State.guardedWrite_ignored (hm : firmwareMaster master = false) (h : s.hostWritable off = false) :
    s.guardedWrite master off f = s := by
  simp [State.guardedWrite, hm, h]

theorem State.writeReg_ignored (hm : firmwareMaster master = false) (h : s.hostWritable off = false) (hmbx : mbxWordAt off = none)
    (hctl : ctxCtlAt off = none) : s.writeReg master off w = s := by
  unfold State.writeReg
  split
  · rfl
  · rw [hmbx, hctl]
    exact State.guardedWrite_ignored hm h

end

/-- Settles O60: no register outside those of R404 and R405 takes a host write, and doorbells need READY. -/
theorem hostWritesAreIgnoredOutsideTheirStates : Obligations.HostWritesAreIgnoredOutsideTheirStates := by
  intro s master hm
  refine ⟨fun hst link func page v hl hf => ?doorbells, fun off w hoff hmbx hctl => ?registers, fun hf w => ?named⟩
  case doorbells =>
    have hdrop : s.doorbells = false := by rcases hst with h | h <;> simp [State.doorbells, h]
    exact ⟨(onUnit_func hl hf _).trans (congrArg _ (State.doorbell_dropped hdrop)),
      (onUnit_func hl hf _).trans (congrArg _ (State.doorbell_dropped hdrop))⟩
  case registers =>
    have hno : s.hostWritable off = false := by
      rcases hoff with ⟨hf, h14, h20⟩ | ⟨hf, hb, h0, h1, h3, h11⟩
      · exact State.hostWritable_failSafe hf h14 h20
      · exact State.hostWritable_booting hf hb h0 h1 h3 h11
    have hw := State.writeReg_ignored (w := w) hm hno hmbx hctl
    have hstaged : (if stagedMask off = 0 then s else s.writeReg master off w) = s := by rw [hw, ite_self]
    exact ⟨congrArg _ hw, congrArg Host.Outcome.next hstaged⟩
  case named =>
    have hdrop (off : Nat) (f : State → State) (h14 : off ≠ 0x14) (h20 : off ≠ 0x20) : s.guardedWrite master off f = s :=
      State.guardedWrite_ignored hm (State.hostWritable_failSafe hf h14 h20)
    exact ⟨congrArg _ (hdrop oCap _ (by decide) (by decide)), congrArg _ (hdrop oWdt _ (by decide) (by decide)),
      congrArg _ (hdrop 0x510000 _ (by decide) (by decide))⟩

end Sys2Proof.Machine

/-! PROOFS. The host interface: the boot chain, and the entry into the fail-safe state. -/

namespace Sys2Proof.Machine

/-! The boot chain (R404, R523; Table 16-7). -/

section
variable {s q : State} {bad failed : Nat}

/-- With a good image the MSP starts, and FW_LOAD begins. -/
theorem State.mspBoot_starts (hb : s.bootState = 1) (hm : s.boot.msp = .rom) (hgood : (s.takeRecs.startType 1).1 = true) :
    s.mspBoot = (((s.takeRecs.startType 1).2.setMsp .running).setBoot 2).postFault := by
  simp [State.mspBoot, hb, hm, hgood]

/-- The state in which FW_LOAD has checked its images, and finds the persistent data as `bad` says. -/
def State.imagesLoaded (s : State) (bad : Nat) : State :=
  ((((s.startType 2).2.startTypes bootTypes).2.reportSlot 8).setReg 0x410 (BitVec.ofNat 32 s.boot.fused)).pdSpoil bad

/-- FW_LOAD with good images ends by what the persistent data are. -/
theorem State.fwLoad_imagesLoaded (hb : s.bootState = 2) (hm : s.mspUp = true) (hgood : (s.startType 2).1 = true)
    (htypes : ((s.startType 2).2.startTypes bootTypes).1 = 0) : s.fwLoad bad failed =
      if (s.imagesLoaded bad).pdError failed != 0 then (s.imagesLoaded bad).announce 6 ((s.imagesLoaded bad).pdError failed)
      else ((List.range 8).foldl (fun (t : State) k => t.setShr k { t.shr k with state := .ready })
        ((((s.imagesLoaded bad).holdItems failed).pdTake.commitProfile).loadUnits)).setBoot 3 := by
  simp only [State.fwLoad, hb, hm, hgood, htypes, State.imagesLoaded, bne_self_eq_false, Bool.not_true, Bool.or_self, Bool.false_eq_true,
    if_false]
  rfl

/-- MEM_INIT with all stacks good loads the dies and begins their musters. -/
theorem State.memInit_loads (hb : s.bootState = 3) (hbad : bad % 256 = 0) (hmap : s.mem.unmapped.any (·.2) = false) :
    s.memInit bad =
      let u := (List.range 8).foldl (fun (t : State) p => t.loadDie p)
        ((List.range 8).foldl (fun (t : State) k => (t.initStack k).retireWaiting k) s)
      (List.range 8).foldl (fun (t : State) p => t.dieMuster p) (({ u with save := { u.save with live := true } } : State).setBoot 4) := by
  simp only [State.memInit, hb, hbad, hmap, bne_self_eq_false, Bool.or_self, Bool.false_eq_true, if_false]

/-- With every die in RUN the module becomes READY. -/
theorem State.arrayInit_ready (hb : s.bootState = 4) (hdies : ∀ p, p < 8 → (s.die p).state = .run) :
    s.arrayInit = (s.endTrials.announce 5 0).serveAllMbx := by
  have hall : ((List.range 8).any fun p => (s.die p).state != .run) = false := by
    rw [List.any_eq_false]
    intro p hp
    simp [hdies p (List.mem_range.mp hp)]
  simp [State.arrayInit, hb, hall]

end

/-- Settles O21: each part of the chain ends in the next, and the time limit in FAILED. -/
theorem bootChainAdvances : Obligations.BootChainAdvances := by
  refine fun s => ⟨fun hb hm hgood => congrArg _ (State.mspBoot_starts hb hm hgood), fun bad failed hb hm hgood htypes => ?load,
    fun bad hb hbad hmap => ?mem, fun hb hdies => congrArg _ (State.arrayInit_ready hb hdies),
    fun h1 h4 => congrArg _ (if_pos (by simp [h1, h4]))⟩
  case load =>
    have h := State.fwLoad_imagesLoaded (bad := bad) (failed := failed) hb hm hgood htypes
    refine ⟨fun herr => congrArg _ (h.trans (if_pos (bne_iff_ne.mpr herr))), fun hok => congrArg _ (h.trans (if_neg ?_))⟩
    exact fun hne => bne_iff_ne.mp hne hok
  case mem =>
    change Host.Outcome.next (s.memInit bad) = _
    rw [State.memInit_loads hb hbad hmap]

/-! The registers that an interrupt, an event and a fault record leave: all but GLB_IRQ_STAT and the overflow bits of the counters. -/

section
variable {s : State} {o d src inst i n f sev code subj st : Nat} {dt : List Nat}

@[simp] theorem State.reg_raiseIrq_ne (h : o ≠ oIrqStat) : (s.raiseIrq src).reg o = s.reg o := by
  rw [State.reg, State.raiseIrq_regs]
  exact State.reg_setBit_ne _ _ _ _ h

theorem State.reg_setBoot_ne (h : o ≠ oIrqStat) (hb : o ≠ oBoot) : (s.setBoot st).reg o = s.reg o := by
  unfold State.setBoot; split
  · rfl
  · rw [State.reg_raiseIrq_ne h, State.reg_setFld_ne _ _ _ _ _ _ hb]

theorem State.reg_cntAdd (h : o ≠ oIrqStat) (ho : o < 0x1C00000) : (s.cntAdd d i n).reg o = s.reg o := by
  have hoff : o ≠ cntBase d + 4 * (i / 32) := by simp only [cntBase]; omega
  unfold State.cntAdd; dsimp only
  split
  · rfl
  · split
    · rw [State.reg_raiseIrq_ne h, State.reg_setBit_ne _ _ _ _ hoff]; rfl
    · rw [State.reg_setBit_ne _ _ _ _ hoff]; rfl

theorem State.reg_event (h : o ≠ oIrqStat) (ho : o < 0x1C00000) : (s.event d src inst n).reg o = s.reg o := by
  unfold State.event
  split
  · rfl
  · refine foldl_inv (fun t : State => t.reg o) _ (fun t i => ?_) _ _
    split
    · exact State.reg_cntAdd h ho
    · rfl

theorem State.reg_raiseFault (h : o ≠ oIrqStat) (ho : o < 0x1C00000) : (s.raiseFault sev code subj dt).reg o = s.reg o := by
  unfold State.raiseFault; dsimp only
  split
  · rfl
  · split
    · rfl
    · exact State.reg_event h ho

end

/-! The fail-safe state (R405, R508, R510, R512). -/

/-- PWR_FS_STAT as an entry leaves it: ACTIVE, the first cause, the count of entries, and the causes recorded (Table 15-13). -/
def fsEntry (i n : Nat) : Nat := 2 ^ 31 + 2 ^ 24 * (i + 1) + 2 ^ 16 * n + 2 ^ i

section
variable {s : State} {i n : Nat}

theorem fsCause_le (hi : i < 7) : 2 ^ i ≤ 2 ^ 6 := Nat.pow_le_pow_right (by decide) (by omega)

theorem fsEntry_lt (hi : i < 7) (hn : n < 256) : fsEntry i n < 2 ^ 32 := by
  have hcause := fsCause_le hi
  unfold fsEntry
  generalize 2 ^ i = x at *
  omega

theorem fsEntry_active (hi : i < 7) (hn : n < 256) : (fsEntry i n).testBit 31 = true := by
  have hcause := fsCause_le hi
  rw [Nat.testBit_eq_decide_div_mod_eq, decide_eq_true_eq]
  unfold fsEntry
  generalize 2 ^ i = x at *
  omega

theorem fsEntry_cause (hi : i < 7) : (fsEntry i n).testBit i = true := by
  have hsplit : fsEntry i n = 2 ^ 16 * (2 ^ 15 + 2 ^ 8 * (i + 1) + n) + 2 ^ i := by unfold fsEntry; ring
  rw [hsplit, Nat.testBit_two_pow_mul_add _ (Nat.pow_lt_pow_right (by decide) (by omega)), if_pos (by omega)]
  exact Nat.testBit_two_pow_self

theorem fsEntry_first (hi : i < 7) (hn : n < 256) : fld (fsEntry i n) 30 24 = i + 1 := by
  have hcause := fsCause_le hi
  simp only [fld, Nat.shiftRight_eq_div_pow]
  unfold fsEntry
  generalize 2 ^ i = x at *
  omega

/-- PWR_FS_STAT is left as the entry wrote it. -/
theorem State.reg_enterFs : ∃ n, n < 256 ∧ (s.enterFs i).reg oFsStat = BitVec.ofNat 32 (fsEntry i n) := by
  unfold State.enterFs
  generalize (s.raiseIrq 10).stopUnits.fencePorts = t
  refine ⟨min (t.fld oFsStat 23 16 + 1) 255, by omega, ?_⟩
  rw [State.reg_alert, State.reg_raiseFault (by decide) (by decide), State.reg_setBoot_ne (by decide) (by decide), State.reg_setReg_self,
    fsEntry]

theorem State.bootState_enterFs : (s.enterFs i).bootState = 7 := by
  unfold State.enterFs
  dsimp only
  generalize State.setReg _ _ _ = t
  have hreg : (((t.setBoot 7).raiseFault 3 0x0602 0 [2 ^ i]).alert 0).reg oBoot = (t.setBoot 7).reg oBoot := by
    rw [State.reg_alert, State.reg_raiseFault (by decide) (by decide)]
  have hboot := State.bootState_setBoot (s := t) (st := 7) (by decide)
  unfold State.bootState State.fld at hboot ⊢
  rw [hreg, hboot]

theorem State.alert_enterFs : (s.enterFs i).mgmt.alert.testBit 0 = true := by
  unfold State.enterFs State.alert
  simp

end

/-- Settles O25: the entry's last steps leave PWR_FS_STAT and GLB_BOOT as it wrote them. -/
theorem failSafeEntryAndExit : Obligations.FailSafeEntryAndExit := by
  refine fun s => ⟨fun i hi hf hb => ⟨s.enterFs i, ?enters, ?active, State.bootState_enterFs, ?cause, ?first, State.alert_enterFs⟩,
    fun i hf => if_pos hf, fun hf hauto hleft => congrArg _ (if_pos (by simp [hf, hauto, hleft]))⟩
  case enters => simp only [State.assertFs, hf, if_neg hb, Bool.false_eq_true, if_false]
  all_goals
    obtain ⟨n, hn, hreg⟩ := s.reg_enterFs (i := i)
    have hword := toNat_ofNat32 _ (fsEntry_lt hi hn)
  case active => rw [State.failSafe, State.bit, hreg, BitVec.getLsbD, hword]; exact fsEntry_active hi hn
  case cause => rw [State.bit, hreg, BitVec.getLsbD, hword]; exact fsEntry_cause hi
  case first => rw [State.fld, hreg, wfld, hword]; exact fsEntry_first hi hn

end Sys2Proof.Machine

/-! PROOFS. The Cleyn ports: what memory accesses, completions and ring streams leave of them, the bring-up of a port, and a port that is
up. -/

namespace Sys2Proof.Machine

/-! What events, memory accesses, completions and the end of a ring stream leave of the ports (R383, R407, R456): what the ports hold beside
their registers, and the registers FAB_PORT and FAB_LANE. It is shown operation by operation, for all of these at once. -/

/-- The registers of the twelve ports (Table 12-8). -/
def linkReg (o : Nat) : Bool := 0x1801000 ≤ o && o < 0x1801C00

theorem linkReg_eq_true {o : Nat} : linkReg o = true ↔ 0x1801000 ≤ o ∧ o < 0x1801C00 := by simp [linkReg]

theorem linkReg_eq_false {o : Nat} : linkReg o = false ↔ o < 0x1801000 ∨ 0x1801C00 ≤ o := by
  rw [← Bool.not_eq_true, linkReg_eq_true]; omega

/-- The ports and their registers. -/
def State.linkView (s : State) : Map Lport × (Nat → Word) := (s.fab.ports, fun o => if linkReg o then s.reg o else 0)

section
variable {s t : State} {a c d f i k n o p st sev code subj row hi lo src kind master unit_ need right l ptr status : Nat}
  {dt : List Nat} {w : Word} {rep : Bool} {chk : Chk} {pl : Place} {m : Mark} {es : Errs} {bs : List Byte} {who : Who} {ad : DAddr}
  {desc : Desc} {x : Ctx} {own : Owner}

theorem State.linkView_ext (hp : t.fab.ports = s.fab.ports) (hr : ∀ o, linkReg o = true → t.reg o = s.reg o) :
    t.linkView = s.linkView := by
  unfold State.linkView
  rw [hp]
  congr 1
  funext o
  split
  next ho => exact hr o ho
  · rfl

theorem State.lport_of_linkView (h : t.linkView = s.linkView) : t.lport p = s.lport p := by
  have hports : t.fab.ports = s.fab.ports := congrArg Prod.fst h
  unfold State.lport; rw [hports]

theorem State.reg_of_linkView (h : t.linkView = s.linkView) (ho : linkReg o = true) : t.reg o = s.reg o := by
  simpa only [State.linkView, ho, if_true] using congrFun (congrArg Prod.snd h) o

/-- What an event or a memory access leaves, shown by `sansAccess`, holds the ports. -/
theorem State.ports_of_sansAccess (h : t.sansAccess = s.sansAccess) : t.fab.ports = s.fab.ports :=
  congrArg (fun u : State => u.fab.ports) (a₁ := t.sansAccess) (a₂ := s.sansAccess) h

theorem linkReg_plain (h : linkReg o = true) : o ≠ oIrqStat ∧ o < 0x1C00000 := by
  rw [linkReg_eq_true] at h; unfold oIrqStat; omega

theorem State.setReg_linkView (h : linkReg o = false) : (s.setReg o w).linkView = s.linkView :=
  State.linkView_ext rfl fun o' ho => State.reg_setReg_ne _ _ _ _ (by rintro rfl; simp [h] at ho)

theorem State.withMem_linkView {g : Mem} : ({ s with mem := g } : State).linkView = s.linkView := rfl

theorem State.withTrn_linkView {g : Trn} : ({ s with trn := g } : State).linkView = s.linkView := rfl

theorem State.setFld_linkView (h : linkReg o = false) : (s.setFld o hi lo n).linkView = s.linkView := State.setReg_linkView h
theorem State.setBit_linkView (h : linkReg o = false) : (s.setBit o i).linkView = s.linkView := State.setReg_linkView h
theorem State.clrBit_linkView (h : linkReg o = false) : (s.clrBit o i).linkView = s.linkView := State.setReg_linkView h

@[simp] theorem State.sendMsi_linkView {func vec : Nat} : (s.sendMsi l func vec).linkView = s.linkView := by rw [State.sendMsi_frame]; rfl

@[simp] theorem State.raiseIrq_linkView : (s.raiseIrq src).linkView = s.linkView :=
  State.linkView_ext (State.ports_of_sansAccess State.raiseIrq_sansAccess) fun _ ho => State.reg_raiseIrq_ne (linkReg_plain ho).1

@[simp] theorem State.eventF_linkView : (s.eventF f src i n).linkView = s.linkView :=
  State.linkView_ext (State.ports_of_sansAccess State.eventF_sansAccess)
    fun _ ho => State.reg_event (linkReg_plain ho).1 (linkReg_plain ho).2

@[simp] theorem State.raiseFault_linkView : (s.raiseFault sev code subj dt).linkView = s.linkView :=
  State.linkView_ext (State.ports_of_sansAccess State.raiseFault_sansAccess)
    fun _ ho => State.reg_raiseFault (linkReg_plain ho).1 (linkReg_plain ho).2

@[simp] theorem State.drain_linkView : (s.drain rep).linkView = s.linkView := by
  have hflag (u : State) (j : Nat) : (u.setBit oFltStat j).linkView = u.linkView := State.setBit_linkView rfl
  unfold State.drain; dsimp only
  split
  · split
    · exact hflag _ _
    · exact State.raiseFault_linkView.trans ((hflag _ _).trans (hflag _ _))
  · split
    · rfl
    · exact State.raiseFault_linkView.trans (hflag _ _)

@[simp] theorem State.setThr_linkView : (s.setThr row subj n).linkView = s.linkView := rfl

@[simp] theorem State.threshold_linkView : (s.threshold row subj n).2.linkView = s.linkView := by
  have hstrike (u : State) (j : Nat) : (u.moduleStrike j).linkView = u.linkView := by
    unfold State.moduleStrike; dsimp only
    split <;> simp [State.setFld_linkView (o := oFltStat) rfl]
  unfold State.threshold; dsimp only
  split
  · exact hstrike _ _
  · rfl

@[simp] theorem State.deny_linkView : (s.deny i need master unit_).linkView = s.linkView := by
  unfold State.deny; dsimp only
  split
  · exact State.eventF_linkView
  · rw [State.raiseIrq_linkView, State.setReg_linkView rfl, State.setReg_linkView rfl, State.eventF_linkView]

@[simp] theorem State.refuse_linkView : (s.refuse chk right master a).linkView = s.linkView := by
  cases chk <;> simp [State.refuse]

@[simp] theorem State.aclCheck_linkView : (s.aclCheck i right master lo hi).2.linkView = s.linkView := by
  unfold State.aclCheck
  split <;> simp

@[simp] theorem State.logUe_linkView : (s.logUe kind master a).linkView = s.linkView := by
  unfold State.logUe; dsimp only
  split
  · rfl
  · rw [State.raiseIrq_linkView, State.setReg_linkView rfl, State.setReg_linkView rfl, State.setReg_linkView rfl]

/-! Retiring a channel writes registers of the memory, which end below those of the ports (R358, Table 10-7). -/

theorem State.refreshStack_linkView (hk : k < 8) : (s.refreshStack k st).linkView = s.linkView :=
  State.setReg_linkView (linkReg_eq_false.mpr (by omega))

theorem State.retireChannel_linkView (hk : k < 8) (hc : c < 30) : (s.retireChannel k c).linkView = s.linkView := by
  have hreg : linkReg (0x1401000 + 128 * k + 4 * c) = false := linkReg_eq_false.mpr (by omega)
  unfold State.retireChannel; dsimp only
  split
  · rfl
  · split
    · rw [State.refreshStack_linkView hk, State.setBit_linkView hreg, State.setFld_linkView hreg]; rfl
    · rw [State.drain_linkView, State.raiseFault_linkView, State.refreshStack_linkView hk, State.withMem_linkView]
      split
      · rfl
      · exact State.clrBit_linkView hreg

theorem State.channelServed_lt (h : s.channelServed k p = some c) : c < 30 := List.mem_range.mp (List.mem_of_find?_eq_some h)

theorem State.orderRetire_linkView (hk : k < 8) (hp : p < 32) : (s.orderRetire k p).linkView = s.linkView := by
  have hreg : linkReg (0x1402000 + 128 * k + 4 * p) = false := linkReg_eq_false.mpr (by omega)
  unfold State.orderRetire; dsimp only
  split
  · rfl
  · split
    next c hc =>
      split
      · rfl
      · split
        · rfl
        · exact State.retireChannel_linkView hk (State.channelServed_lt hc)
    · split
      · rfl
      · rw [State.refreshStack_linkView hk]
        unfold State.markRetired; dsimp only
        rw [State.withMem_linkView, State.setBit_linkView hreg]

theorem State.correctedRead_linkView (hk : k < 8) (hp : p < 32) : (s.correctedRead k p n).linkView = s.linkView := by
  have hreg : linkReg (0x1402000 + 128 * k + 4 * p) = false := linkReg_eq_false.mpr (by omega)
  have hcount (u : State) (v : Nat) : (u.satAdd (0x1402000 + 128 * k + 4 * p) 23 0 v).linkView = u.linkView := State.setFld_linkView hreg
  unfold State.correctedRead; dsimp only
  split
  · rw [State.orderRetire_linkView hk hp, State.threshold_linkView, State.eventF_linkView, State.setFld_linkView hreg, hcount]
  · rw [State.threshold_linkView, State.eventF_linkView, State.setFld_linkView hreg, hcount]

theorem State.pch_lt : s.pch k c < 32 := Nat.mod_lt _ (by decide)

@[simp] theorem State.correctedSram_linkView : (s.correctedSram f n).linkView = s.linkView := by
  unfold State.correctedSram; dsimp only
  split <;> simp

/-! Memory accesses (R345 to R351, R362). -/

@[simp] theorem State.noteRead_linkView {u : State} : (s.noteRead kind master a m (placeOf u.stripe l)).linkView = s.linkView := by
  cases hpl : placeOf u.stripe l with
  | stack k o =>
    have hk : k < 8 := (hpl ▸ placeOf_key u.stripe_le (by rw [hpl]; rfl) : (Place.stack k o).Backed ∧ _).1.1
    cases m with
    | wrong g _ => cases g <;> simp [State.noteRead, State.correctedRead_linkView hk State.pch_lt]
    | _ => simp [State.noteRead, State.correctedRead_linkView hk State.pch_lt]
  | sram f o =>
    cases m with
    | wrong g _ => cases g <;> simp [State.noteRead]
    | _ => simp [State.noteRead]
  | _ => rfl

@[simp] theorem State.stackEvent_linkView : (s.stackEvent src pl).linkView = s.linkView := by
  cases pl <;> simp [State.stackEvent]

@[simp] theorem State.poke_linkView : (s.poke a bs).linkView = s.linkView := rfl

@[simp] theorem State.setErrs_linkView : (s.setErrs a es).linkView = s.linkView :=
  State.linkView_ext (State.ports_of_sansAccess State.setErrs_sansAccess) fun _ _ => State.reg_setErrsIn

@[simp] theorem State.setGood_linkView : (s.setGood a).linkView = s.linkView := State.setErrs_linkView

@[simp] theorem State.poisonLine_linkView : (s.poisonLine l).linkView = s.linkView := by
  unfold State.poisonLine
  split <;> simp

@[simp] theorem State.writeLine_linkView : (s.writeLine master a bs).linkView = s.linkView := by
  unfold State.writeLine; dsimp only
  split
  · split <;> simp
  · split <;> simp

@[simp] theorem State.writeMem_linkView : (s.writeMem master a bs).linkView = s.linkView := by
  have hlines (j : Nat) : ∀ (u : State) (b : Nat) (cs : List Byte), (u.writeLines master j b cs).linkView = u.linkView := by
    induction j with
    | zero => intros; rfl
    | succ j ih =>
      intro u b cs
      unfold State.writeLines
      split
      · rfl
      · simp [ih]
  have hdie := masterDie_lt (master := master)
  exact (hlines _ _ _ _).trans (State.setFld_linkView (linkReg_eq_false.mpr (by omega)))

@[simp] theorem State.store_linkView : (s.store who ad bs).2.linkView = s.linkView := by
  unfold State.store
  split
  · split <;> simp
  · dsimp only
    split
    · simp
    · split
      · simp
      · exact State.aclCheck_linkView
  · rfl

/-! The close of a step and the completion of a descriptor (R263, R383, R545). -/

@[simp] theorem State.ringRecord_linkView : (s.ringRecord kind d).linkView = s.linkView := by
  have hwrite (u : State) : (u.ringWrite kind d).linkView = u.linkView := by
    unfold State.ringWrite; dsimp only
    split
    · rw [State.setReg_linkView rfl, State.store_linkView]; rfl
    · rw [State.setBit_linkView rfl, State.clrBit_linkView rfl, State.store_linkView]; rfl
  unfold State.ringRecord; dsimp only
  split
  · rfl
  · split
    · exact hwrite s
    · split
      · exact State.setFld_linkView rfl
      · exact hwrite _

@[simp] theorem State.newWindows_linkView : s.newWindows.linkView = s.linkView := by
  have hnote (u : State) (q : Nat) : (u.noteWindow q).linkView = u.linkView := by
    unfold State.noteWindow
    split
    · rfl
    · rfl
  refine foldl_inv State.linkView _ (fun t p => ?_) _ _
  dsimp only
  split
  · rfl
  · exact hnote t p

@[simp] theorem State.closeStep_linkView : s.closeStep.linkView = s.linkView := by
  unfold State.closeStep; dsimp only
  rw [State.withTrn_linkView, State.setReg_linkView rfl, State.newWindows_linkView, State.ringRecord_linkView]

@[simp] theorem State.setCtx_linkView : (s.setCtx c x).linkView = s.linkView := rfl

@[simp] theorem State.abandon_linkView : (s.abandon c).linkView = s.linkView := by
  unfold State.abandon
  split
  · rfl
  · split
    · refine List.foldlRecOn (motive := fun t : State => t.linkView = s.linkView) _ _ rfl fun t ht k hk => ?_
      have hreg : linkReg (0x1001018 + 64 * k) = false := linkReg_eq_false.mpr (by have := List.mem_range.mp hk; omega)
      split
      · split
        · exact ht
        · rw [State.raiseFault_linkView, State.setFld_linkView hreg, State.setBit_linkView hreg, ht]
      · exact ht
    · rw [State.closeStep_linkView, State.eventF_linkView]; rfl

@[simp] theorem State.settle_linkView : (s.settle c).linkView = s.linkView := by
  unfold State.settle; dsimp only
  split <;> simp

@[simp] theorem State.ctxError_linkView : (s.ctxError c n).linkView = s.linkView := by
  unfold State.ctxError; dsimp only
  split <;> simp

@[simp] theorem State.ctxIrq_linkView : (s.ctxIrq c).linkView = s.linkView := by
  unfold State.ctxIrq; dsimp only
  split
  · rfl
  · split <;> simp

@[simp] theorem State.retire_linkView : (s.retire c desc status).linkView = s.linkView := by
  unfold State.retire; dsimp only
  generalize hs1 : State.eventF _ _ _ _ _ = s1
  have h1 : s1.linkView = s.linkView := by rw [← hs1, State.eventF_linkView, State.setCtx_linkView]
  have hclose (u : State) : (if u.flushCloses c desc then u.closeStep else u).linkView = u.linkView := by split <;> simp
  rw [State.settle_linkView, hclose]
  split <;> exact h1

@[simp] theorem State.writeCompletion_linkView : (s.writeCompletion c desc status).linkView = s.linkView := by
  unfold State.writeCompletion; dsimp only
  split
  · simp
  · split
    · split <;> simp
    · simp

@[simp] theorem State.complete_linkView : (s.complete c ptr status).linkView = s.linkView := by
  unfold State.complete; dsimp only
  split
  · rfl
  · split <;> simp

/-! The end of a ring stream (R456): its descriptor completes. -/

theorem State.finishWork_linkView : (s.finishWork own).linkView = s.linkView := by
  unfold State.finishWork; dsimp only
  split
  · rfl
  · split
    · rfl
    · rw [State.complete_linkView]
      split
      · exact State.setFld_linkView rfl
      · rfl

theorem State.stopStream_linkView : (s.stopStream own).linkView = s.linkView := by
  unfold State.stopStream; dsimp only
  rw [State.finishWork_linkView]
  rfl

@[simp] theorem State.leavePort_linkView : (s.leavePort p).linkView = s.linkView :=
  foldl_inv State.linkView (fun t (x : Stream) => t.stopStream x.own) (fun _ _ => State.stopStream_linkView) _ _

end

/-! A port's state, its record and its registers, and what the operations of the link leave of them (R413, R415, R424). -/

section
variable {s t : State} {p i o n st sev code subj hi lo src v : Nat} {dt : List Nat} {w : Word} {f : Lport → Lport}

theorem onUnit_port (hp : p < 12) (t : State) : onUnit (portOk p) t = .next t := if_pos (decide_eq_true hp)

theorem linkReg_portStat (hp : p < 12) : linkReg (oPortStat p) = true := linkReg_eq_true.mpr (by unfold oPortStat oPortCtl; omega)

theorem linkReg_lane (hp : p < 12) (hi : i < 8) : linkReg (oLane p i) = true := linkReg_eq_true.mpr (by unfold oLane oPortCtl; omega)

@[simp] theorem State.lport_updPort_ : (s.updPort_ p f).lport p = f (s.lport p) := mapGet_mapSet_self _ _ _ _
@[simp] theorem State.lport_setReg : (s.setReg o w).lport p = s.lport p := rfl
@[simp] theorem State.lport_setBit : (s.setBit o i).lport p = s.lport p := rfl
@[simp] theorem State.lport_clrBit : (s.clrBit o i).lport p = s.lport p := rfl
@[simp] theorem State.lport_satAdd : (s.satAdd o hi lo n).lport p = s.lport p := rfl
@[simp] theorem State.lport_setPstate : (s.setPstate p st).lport p = s.lport p := rfl
@[simp] theorem State.lport_raiseFault : (s.raiseFault sev code subj dt).lport p = s.lport p :=
  State.lport_of_linkView State.raiseFault_linkView
@[simp] theorem State.lport_eventPort {q : Nat} : (s.eventPort q src n).lport p = s.lport p := State.lport_of_linkView State.eventF_linkView
@[simp] theorem State.lport_leavePort {q : Nat} : (s.leavePort q).lport p = s.lport p := State.lport_of_linkView State.leavePort_linkView

theorem State.reg_updPort_ : (s.updPort_ p f).reg o = s.reg o := rfl
theorem State.fld_updPort_ : (s.updPort_ p f).fld o hi lo = s.fld o hi lo := rfl
@[simp] theorem State.pstate_updPort_ : (s.updPort_ p f).pstate p = s.pstate p := rfl
theorem State.pstate_updFab {k : Fab → Fab} : (s.updFab k).pstate p = s.pstate p := rfl
@[simp] theorem State.linkFw_updPort_ {q : Nat} : (s.updPort_ p f).linkFw q = s.linkFw q := rfl

theorem State.pstate_congr (h : t.reg (oPortStat p) = s.reg (oPortStat p)) : t.pstate p = s.pstate p := by
  unfold State.pstate State.fld; rw [h]

theorem State.linkFw_congr {q : Nat} (hb : t.boot = s.boot) (hr : t.reg oBoot = s.reg oBoot) : t.linkFw q = s.linkFw q := by
  unfold State.linkFw State.bootState State.fld; rw [hb, hr]

@[simp] theorem State.pstate_setPstate (h : st < 16) : (s.setPstate p st).pstate p = st :=
  (State.fld_setFld_self _ _ _ _ _ (by decide) (by decide)).trans (Nat.mod_eq_of_lt h)

/-- FAB_PORT_STAT written whole, as a port starts anew, goes DOWN or is fenced off (R415, R426, R428). -/
theorem State.pstate_setReg (h : st < 16) : (s.setReg (oPortStat p) (BitVec.ofNat 32 (st * 2 ^ 28))).pstate p = st := by
  unfold State.pstate
  rw [State.fld_setReg_self, wfld, toNat_ofNat32 _ (by omega)]
  simp only [Machine.fld, Nat.shiftRight_eq_div_pow]
  omega

theorem State.pstate_raiseFault (hp : p < 12) : (s.raiseFault sev code subj dt).pstate p = s.pstate p :=
  State.pstate_congr (State.reg_of_linkView State.raiseFault_linkView (linkReg_portStat hp))

/-- What a port that discards its frames keeps beside the replay buffer and what came in with it (R424). -/
theorem State.lport_discardFrames :
    (s.discardFrames p).lport p = { s.lport p with replay := [], asm := [], nak := false, resends := 0 } := by
  simp [State.discardFrames]

theorem State.reg_discardFrames (h : linkReg o = true) : (s.discardFrames p).reg o = s.reg o := by
  have hevent (u : State) (k : Nat) : (u.eventPort p 0x65 k).reg o = u.reg o := State.reg_of_linkView State.eventF_linkView h
  unfold State.discardFrames
  rw [hevent, State.reg_updPort_]
  exact State.reg_of_linkView State.leavePort_linkView h

/-! A new start from DETECT (R415). -/

theorem State.pstate_startDetect (hfw : s.linkFw (portDie p) = true) : (s.startDetect p).pstate p = 2 := by
  have hne : oPortStat p ≠ oPeerPos p := by unfold oPortStat oPeerPos; omega
  unfold State.startDetect
  rw [hfw]
  exact (State.pstate_congr (State.reg_clrBit_ne _ _ _ _ hne)).trans (State.pstate_setReg (by decide))

theorem State.replay_startDetect (hfw : s.linkFw (portDie p) = true) : ((s.startDetect p).lport p).replay = [] := by
  simp [State.startDetect, hfw, State.lport_discardFrames]

theorem State.bit_startDetect_lane (hp : p < 12) (hi : i < 8) : (s.startDetect p).bit (oLane p i) n = s.bit (oLane p i) n := by
  have hpos : oLane p i ≠ oPeerPos p := by unfold oLane oPeerPos; omega
  have hstat : oLane p i ≠ oPortStat p := by unfold oLane oPortStat; omega
  have hkept := State.reg_discardFrames (s := s) (p := p) (linkReg_lane hp hi)
  unfold State.startDetect
  split
  · rfl
  · dsimp only
    rw [State.bit_clrBit_ne _ _ _ _ _ hpos, State.bit_setReg_ne _ _ _ _ _ hstat]
    exact congrArg (fun x : Word => x.getLsbD n) hkept

/-! DOWN, and a failed attempt (R415, R426). -/

theorem State.pstate_portDown (hp : p < 12) : (s.portDown p).pstate p = 11 :=
  (State.pstate_raiseFault hp).trans (State.pstate_setReg (by decide))

theorem State.lport_portDown : (s.portDown p).lport p = (s.discardFrames p).lport p := State.lport_raiseFault

theorem State.failAttempt_pauses (h : (s.lport p).attempts < 7) :
    s.failAttempt p = s.updPort_ p fun x => { x with attempts := x.attempts + 1, failed := true } := if_neg (by omega)

theorem State.failAttempt_down (hp : p < 12) (h : 7 ≤ (s.lport p).attempts) :
    (s.failAttempt p).pstate p = 11 ∧ ((s.failAttempt p).lport p).attempts = 0 := by
  unfold State.failAttempt
  rw [if_pos h]
  refine ⟨State.pstate_portDown hp, ?_⟩
  rw [State.lport_portDown, State.lport_discardFrames, State.lport_updPort_]

/-- A timeout of the state that the port is in is a failed attempt. -/
theorem State.bringTimeout_fails (hst : s.pstate p = st) (hf : (s.lport p).failed = false) (hfw : s.linkFw (portDie p) = true) :
    s.bringTimeout p st = s.failAttempt p := if_pos (by simp [hst, hf, hfw])

end

/-! TRAIN (R408, R413): lanes that fail it, and its end. -/

section
variable {s : State} {p i ok n : Nat} {peer : List Nat} {timeout : Bool} {f : Nat → Bool}

/-- Bits below 8 sum up to the number they are the bits of. -/
theorem sum_testBits (n k : Nat) : (((List.range k).filter n.testBit).map (2 ^ ·)).sum = n % 2 ^ k := by
  induction k with
  | zero => simp [Nat.mod_one]
  | succ k ih =>
    rw [List.range_succ, List.filter_append, List.map_append, List.sum_append, ih, Nat.mod_pow_succ, ← Nat.toNat_testBit]
    cases h : n.testBit k <;> simp [h]

theorem laneMask_testBit (h : n < 256) (hf : ∀ i, i < 8 → f i = n.testBit i) : laneMask f = n := by
  have hfilter : (List.range 8).filter f = (List.range 8).filter n.testBit :=
    List.filter_congr fun i hi => hf i (List.mem_range.mp hi)
  rw [laneMask, hfilter, ← List.sum_eq_foldl, sum_testBits]
  exact Nat.mod_eq_of_lt h

/-- RECOVER keeps the count of failed attempts, as does a lane that fails training. -/
theorem State.attempts_recover : ((s.recover p).lport p).attempts = (s.lport p).attempts := by
  unfold State.recover
  split
  · rfl
  · split
    · rw [State.owe, State.lport_updPort_]
    · rw [State.lport_satAdd, State.lport_setPstate, State.lport_leavePort]

theorem State.attempts_trainFail : ((s.trainFail p i).lport p).attempts = (s.lport p).attempts := by
  unfold State.trainFail
  split
  · unfold State.retireLane
    split
    · rfl
    · simp [State.attempts_recover]
  · rfl

/-- The lanes with signal that are equalised as TRAIN ends (R413). -/
def State.equalised (s : State) (p ok : Nat) : Nat := laneMask fun i => (s.lport p).sig.testBit i && ok.testBit i

/-- Where every lane may be equalised, those with signal are. -/
theorem State.equalised_all (h : (s.lport p).sig < 256) : s.equalised p 255 = (s.lport p).sig :=
  laneMask_testBit h fun i hi => by
    rw [show (255 : Nat).testBit i = true from (Nat.testBit_two_pow_sub_one 8 i).trans (decide_eq_true hi), Bool.and_true]

/-- The end of TRAIN with the lanes that are equalised: four are enough for ALIGN, fewer make a failed attempt. -/
theorem State.trained_cases (hst : s.pstate p = 3) (hf : (s.lport p).failed = false) (hfw : s.linkFw (portDie p) = true)
    (hend : timeout = true ∨ s.equalised p ok = (s.lport p).sig) :
    ∃ u : State, (u.lport p).attempts = (s.lport p).attempts ∧
      (u.lport p).trained = s.equalised p ok ∧
      s.trained p ok peer timeout = if 4 ≤ popcount 8 (s.equalised p ok) then u.setPstate p 4 else u.failAttempt p := by
  have hgo : (s.pstate p != 3 || (s.lport p).failed || !s.linkFw (portDie p) ||
      (!timeout && s.equalised p ok != (s.lport p).sig)) = false := by
    rcases hend with h | h <;> simp [hst, hf, hfw, h]
  unfold State.equalised at hgo ⊢
  unfold State.trained
  simp only [hgo, Bool.false_eq_true, if_false]
  refine ⟨_, ?_, ?_, rfl⟩
  · rw [State.lport_updPort_]
    refine (foldl_inv (fun t : State => (t.lport p).attempts) _ (fun t i => ?_) _ _).trans (by simp)
    split
    · rfl
    · split
      · exact State.attempts_trainFail
      · rfl
  · rw [State.lport_updPort_]

end

/-! ALIGN (R414) and IDENT (R416, R417). -/

section
variable {s : State} {p a b mask q : Nat} {r : List Byte}

theorem widthOf_pos (ha : 4 ≤ a) (hb : 4 ≤ b) : widthOf a b ≠ 0 := by
  unfold widthOf; dsimp only
  split_ifs <;> omega

theorem widthOf_le : widthOf a b ≤ 8 := by
  unfold widthOf; dsimp only
  split_ifs <;> omega

/-- With four good lanes either way, ALIGN takes the width that both ends have. -/
theorem State.align_width (hmine : 4 ≤ (s.goodLanes p).length) (hpeer : 4 ≤ popcount 8 mask) :
    ∃ t, s.align p mask = some t ∧ t.fld (oPortStat p) 15 12 = widthOf (s.goodLanes p).length (popcount 8 mask) := by
  unfold State.align; dsimp only
  rw [if_neg (widthOf_pos hmine hpeer)]
  refine ⟨_, rfl, ?_⟩
  rw [State.fld_updPort_, State.fld_setFld_self _ _ _ _ _ (by decide) (by decide)]
  exact Nat.mod_eq_of_lt (widthOf_le.trans_lt (by decide))

/-- A mask that comes without a skewed lane is aligned with. -/
theorem State.alignMask_aligns {t : State} (hst : s.pstate p = 4) (hf : (s.lport p).failed = false) (hfw : s.linkFw (portDie p) = true)
    (h : s.align p mask = some t) : s.alignMask p mask 0 = t.setPstate p 5 := by
  have hnone : bitsSet 8 0 = [] := by decide
  simp [State.alignMask, hst, hf, hfw, hnone, h]

/-- Keeping a record sets the registers that report it, and reports a difference of maps once (R416, R420). -/
theorem State.keepRecord_cases (s : State) (p : Nat) (r : List Byte) : ∃ u : State,
    (∀ o, o < oPortCtl p + 0xC → u.reg o = s.reg o) ∧ u.boot = s.boot ∧
    (u.lport p).seenGot = ((s.lport p).seenGot || (leAt r 18 1).testBit 0) ∧
    (s.keepRecord p r = u ∨ ∃ d, s.keepRecord p r = (u.setBit (oPortStat p) 7).raiseFault 0 0x0105 (p * 16) d) := by
  unfold State.keepRecord; dsimp only
  generalize hu : State.updPort_ _ _ _ = u
  refine ⟨u, fun o ho => ?_, ?_, ?_, ?_⟩
  · rw [← hu, State.reg_updPort_, State.reg_setReg_ne _ _ _ _ (by unfold oPeerPos; omega), State.reg_setReg_ne _ _ _ _ (by omega),
      State.reg_setReg_ne _ _ _ _ (by omega)]
  · rw [← hu]; rfl
  · rw [← hu, State.lport_updPort_]; rfl
  · split
    · exact .inr ⟨_, rfl⟩
    · exact .inl rfl

theorem State.pstate_keepRecord (hp : p < 12) : (s.keepRecord p r).pstate p = s.pstate p := by
  obtain ⟨u, hreg, -, -, h | ⟨_, h⟩⟩ := s.keepRecord_cases p r
  · rw [h, State.pstate_congr (hreg _ (by unfold oPortStat; omega))]
  · rw [h, State.pstate_raiseFault hp]
    exact (State.fld_setBit_apart _ _ _ _ _ (.inr (by decide))).trans (State.pstate_congr (hreg _ (by unfold oPortStat; omega)))

theorem State.seenGot_keepRecord : ((s.keepRecord p r).lport p).seenGot = ((s.lport p).seenGot || (leAt r 18 1).testBit 0) := by
  obtain ⟨u, -, -, hgot, h | ⟨_, h⟩⟩ := s.keepRecord_cases p r
  · rw [h, hgot]
  · rw [h, State.lport_raiseFault, State.lport_setBit, hgot]

theorem State.linkFw_keepRecord : (s.keepRecord p r).linkFw q = s.linkFw q := by
  obtain ⟨u, hreg, hboot, -, h | ⟨_, h⟩⟩ := s.keepRecord_cases p r
  · rw [h, State.linkFw_congr hboot (hreg _ (by unfold oBoot oPortCtl; omega))]
  · rw [h]
    refine State.linkFw_congr (by simp [hboot]) ?_
    rw [State.reg_raiseFault (by decide) (by decide), State.reg_setBit_ne _ _ _ _ (by unfold oBoot oPortStat oPortCtl; omega)]
    exact hreg _ (by unfold oBoot oPortCtl; omega)

/-- A valid record, once one came that says the peer has this end's, is kept and checked. -/
theorem State.identRecord_checks (hp : p < 12) (hfw : s.linkFw (portDie p) = true) (hv : recordValid r = true) (hst : s.pstate p = 5)
    (hf : (s.lport p).failed = false) (hgot : (s.lport p).seenGot = true ∨ (leAt r 18 1).testBit 0 = true) :
    s.identRecord p r = (s.keepRecord p r).identCheck p r := by
  have hseen : ((s.keepRecord p r).lport p).seenGot = true := by rw [State.seenGot_keepRecord]; simpa using hgot
  have hident : (s.keepRecord p r).pstate p = 5 := (State.pstate_keepRecord hp).trans hst
  have hrun : (s.keepRecord p r).linkFw (portDie p) = true := State.linkFw_keepRecord.trans hfw
  simp [State.identRecord, hv, hst, hf, hseen, hident, hrun]

theorem State.identCheck_active (h : s.quarReason p r = 0) : (s.identCheck p r).pstate p = 6 := by
  unfold State.identCheck; dsimp only
  rw [if_pos h, State.pstate_updFab, State.pstate_setPstate (by decide)]

end

/-- Four lanes with signal take a port from DETECT to TRAIN (R413). -/
theorem State.signalDetect_trains {s : State} {p lanes : Nat} (hst : s.pstate p = 2) (hf : (s.lport p).failed = false)
    (hfw : s.linkFw (portDie p) = true) (hn : 4 ≤ popcount 8 (((s.lport p).sig ||| lanes) % 256)) :
    s.signalDetect p lanes = (s.updPort_ p fun x => { x with sig := (x.sig ||| lanes) % 256 }).setPstate p 3 := by
  simp [State.signalDetect, hst, hf, hfw, hn]

/-- Settles O46: each clause by the lemma of its state of the port, in the order of Table 12-3. -/
theorem portBringUpComplete : Obligations.PortBringUpComplete := by
  intro s p hp hfw
  refine ⟨fun lanes hst hf hn => ⟨_, onUnit_port hp _, ?detected⟩,
    fun hst hf => ⟨fun peer hsig hn => ⟨_, onUnit_port hp _, ?equalised⟩, fun ok peer hn => ⟨_, onUnit_port hp _, ?unequalised⟩⟩,
    fun mask hst hf hmine hpeer => ⟨_, onUnit_port hp _, ?aligned⟩, fun hst => ?sends,
    fun r hv hst hf hgot => ⟨?checked, State.identCheck_active⟩,
    fun hf => ⟨fun hst => ?alignTimeout, fun hst => ?identTimeout, State.failAttempt_pauses, State.failAttempt_down hp⟩,
    fun hf => ⟨?retried, State.pstate_startDetect hfw⟩⟩
  case detected =>
    rw [State.signalDetect_trains hst hf hfw hn]
    exact ⟨State.pstate_setPstate (by decide), by rw [State.lport_setPstate, State.lport_updPort_]⟩
  case equalised =>
    have hall := State.equalised_all hsig
    obtain ⟨u, -, htrained, heq⟩ := State.trained_cases (peer := peer) hst hf hfw (.inr hall)
    rw [hall] at htrained heq
    rw [heq, if_pos hn]
    exact ⟨State.pstate_setPstate (by decide), by rw [State.lport_setPstate, htrained]⟩
  case unequalised =>
    obtain ⟨u, hattempts, -, heq⟩ := State.trained_cases (peer := peer) hst hf hfw (.inl rfl)
    have hfew : ¬ 4 ≤ popcount 8 (s.equalised p ok) := Nat.not_le.mpr hn
    rw [heq, if_neg hfew, ← hattempts]
    refine ⟨fun h => ?_, fun h => (State.failAttempt_down hp h).1⟩
    rw [State.failAttempt_pauses h, State.lport_updPort_]
    exact ⟨rfl, rfl⟩
  case aligned =>
    obtain ⟨t, halign, hwidth⟩ := State.align_width hmine hpeer
    rw [State.alignMask_aligns hst hf hfw halign]
    refine ⟨State.pstate_setPstate (by decide), ?_⟩
    rw [State.setPstate, State.fld_setFld_apart _ _ _ _ _ _ _ (by decide) (by decide) (.inl (by decide)), hwidth]
  case sends => exact (onUnit_port hp _).trans (congrArg _ (if_pos (by simpa using hst)))
  case checked => exact (onUnit_port hp _).trans (congrArg _ (State.identRecord_checks hp hfw hv hst hf hgot))
  case alignTimeout => exact (onUnit_port hp _).trans (congrArg _ (State.bringTimeout_fails hst hf hfw))
  case identTimeout => exact (onUnit_port hp _).trans (congrArg _ (State.bringTimeout_fails hst hf hfw))
  case retried => exact (onUnit_port hp _).trans (congrArg _ (if_pos hf))

/-! A port that is up: a new start by its register (R433), lanes, frames and retry (R411, R412, R422, R423), loss of signal (R429) and FENCE
(R428). -/

section
variable {s t : State} {p i n lanes mask : Nat} {bs g : List Byte} {fixed : List Nat}

/-- A write of RETRAIN leaves the retired lanes as they are, and LANE_CLR leaves none. -/
theorem State.bit_retrain_lane (hp : p < 12) (hi : i < 8) : (s.retrain p).bit (oLane p i) n = s.bit (oLane p i) n := by
  unfold State.retrain
  split
  · rfl
  · exact State.bit_startDetect_lane hp hi

theorem State.bit_clearLanes (is : List Nat) (s : State) :
    (is.foldl (fun u j => u.clrBit (oLane p j) 31) s).bit (oLane p i) 31 = (s.bit (oLane p i) 31 && decide (i ∉ is)) := by
  induction is generalizing s with
  | nil => simp
  | cons j is ih =>
    rw [List.foldl_cons, ih]
    by_cases h : i = j
    · subst h; simp
    · have hne : oLane p i ≠ oLane p j := by unfold oLane; omega
      simp [State.bit_clrBit_ne _ _ _ _ _ hne, h]

theorem State.retrain_starts (hlo : 2 ≤ s.pstate p) (h9 : s.pstate p ≠ 9) (h10 : s.pstate p ≠ 10) :
    s.retrain p = (s.updPort_ p fun x => { x with attempts := 0 }).startDetect p :=
  if_neg (by simp only [Bool.or_eq_true, decide_eq_true_eq]; omega)

/-- A frame whose correction fails. -/
theorem State.frameIn_error (hup : s.portUp p = true) (h : readFrame bs = none) : s.frameIn p bs =
    ((s.updPort_ p fun x => { x with phase := (x.phase + 256) % max (s.fld (oPortStat p) 15 12) 1 }).frameError p).sendNak p := by
  simp [State.frameIn, hup, h]

/-- A data frame that comes in order is accepted and acknowledged. -/
theorem State.frameIn_accepts (hup : s.portUp p = true) (h : readFrame bs = some (g, fixed)) (htype : Machine.fld (leAt g 0 4) 7 5 = 0)
    (ht : (s.countSymbols p fixed).takeAck p (Machine.fld (leAt g 0 4) 19 8) ((leAt g 0 4).testBit 4) = t)
    (hseq : Machine.fld (leAt g 0 4) 31 20 = (t.lport p).rxSeq) :
    s.frameIn p bs = (t.acceptFrame p (g.drop 4)).putFrame p 0 1 false [] := by
  simp [State.frameIn, hup, h, htype, ht, hseq]

/-- Below REPLAY_MAX the buffer is resent and the resend counted. -/
theorem State.replay_resends (hbuf : (s.lport p).replay ≠ []) (hmax : (s.lport p).resends + 1 < max (s.fld oLinkCtl 15 8) 1) :
    ∃ u : State, s.replay p = u.resendAll p ∧ (u.lport p).replay = (s.lport p).replay ∧
      (u.lport p).resends = (s.lport p).resends + 1 := by
  unfold State.replay; dsimp only
  rw [if_neg hbuf, if_neg (by omega)]
  exact ⟨_, rfl, by simp, by simp⟩

/-- Four lanes lost start a full bring-up. -/
theorem State.lossOfSignal_restarts (hlo : 3 ≤ s.pstate p) (hhi : s.pstate p ≤ 8)
    (hlost : 4 ≤ (bitsSet 8 (lanes &&& (s.lport p).sig)).length) : ∃ u : State, s.lossOfSignal p lanes = u.startDetect p ∧
      ∀ q, u.linkFw q = s.linkFw q := by
  have hsome : bitsSet 8 (lanes &&& (s.lport p).sig) ≠ [] := by rintro h; simp [h] at hlost
  unfold State.lossOfSignal; dsimp only
  rw [if_neg (by simp [hlo, hhi, hsome]), if_neg (by omega)]
  refine ⟨_, rfl, fun q => State.linkFw_congr rfl (State.reg_setFld_ne _ _ _ _ _ _ ?_)⟩
  unfold oBoot oPortErr oPortCtl; omega

theorem State.fenceIn_fences (hlo : 2 ≤ s.pstate p) (hhi : s.pstate p ≤ 8) : (s.fenceIn p).pstate p = 10 ∧
    ((s.fenceIn p).lport p).replay = [] ∧ ((s.fenceIn p).lport p).sendq = [] ∧ ((s.fenceIn p).lport p).rxq = [] := by
  have hup : ¬ (decide (s.pstate p ≤ 1) || decide (s.pstate p = 9) || decide (s.pstate p = 11)) = true := by
    simp only [Bool.or_eq_true, decide_eq_true_eq]; omega
  unfold State.fenceIn; dsimp only
  rw [if_neg hup]
  exact ⟨State.pstate_setReg (by decide), by simp [State.lport_discardFrames]⟩

/-- The peer's mask ends RECOVER. -/
theorem State.recovered_resumes (hst : s.pstate p = 7) (hfw : s.linkFw (portDie p) = true) (h : s.align p mask = some t) :
    s.recovered p mask = (((t.setPstate p (if t.fld (oPortStat p) 27 24 = 0 then 6 else 8)).updPort_ p fun x =>
      { x with resends := 0 }).resendAll p).pumpAll p := by
  simp [State.recovered, hst, hfw, h]

end

/-- Settles O47: each clause by the lemma of its event; the register writes by the guard that lets them pass. -/
theorem portFramesComplete : Obligations.PortFramesComplete := by
  intro s p hp
  refine ⟨fun master hlets hlo h9 h10 => ⟨?retrain, _, onUnit_port hp _, fun i hi => ?cleared⟩, fun bs hup hread => ?error,
    fun bs g fixed hup hread htype hseq => ?accepted, fun hup hbuf hmax => ?resent, fun mask t hst hfw halign => ?recovered,
    fun hst => ?restarted, fun hup => ?skip, fun lanes hlo hhi hlost hfw => ⟨_, onUnit_port hp _, ?lost⟩,
    fun hlo hhi => ⟨_, onUnit_port hp _, State.fenceIn_fences hlo hhi⟩, fun hup hnak => ?asked⟩
  case retrain => exact (onUnit_port hp _).trans (congrArg _ ((lets_guard hlets _).trans (State.retrain_starts hlo h9 h10)))
  case cleared =>
    rw [lets_guard hlets, State.bit_retrain_lane hp hi, State.bit_clearLanes]
    simp [hi]
  case error => exact (onUnit_port hp _).trans (by rw [State.frameIn_error hup hread])
  case accepted => exact (onUnit_port hp _).trans (by rw [State.frameIn_accepts hup hread htype rfl hseq])
  case resent =>
    obtain ⟨u, heq, hkept⟩ := State.replay_resends hbuf hmax
    exact ⟨u, (onUnit_port hp _).trans (congrArg _ ((if_pos hup).trans heq)), hkept⟩
  case recovered => exact (onUnit_port hp _).trans (congrArg _ (State.recovered_resumes hst hfw halign))
  case restarted => exact (onUnit_port hp _).trans (congrArg _ (if_pos hst))
  case skip => exact (onUnit_port hp _).trans (congrArg _ (if_pos hup))
  case lost =>
    obtain ⟨u, heq, hrun⟩ := State.lossOfSignal_restarts hlo hhi hlost
    rw [heq]
    exact ⟨State.pstate_startDetect ((hrun _).trans hfw), State.replay_startDetect ((hrun _).trans hfw)⟩
  case asked => exact (onUnit_port hp _).trans (congrArg _ (if_pos (by simp [hup, hnak])))

end Sys2Proof.Machine

/-! PROOFS. The fabric space: the fabric descriptors and the packets of other modules. -/

namespace Sys2Proof.Machine

/-! The fabric descriptors (R450, R457, R462, R463). -/

section
variable {s : State} {c n g m kind aop : Nat} {d : Desc} {f : State → State}

/-- A collective of a group that the module's table holds is carried out. -/
theorem State.withGroup_held (h : (s.group s.sendEpoch (d.u16 16)).isSome = true) : s.withGroup c d f = f s := by
  have hheld : (s.group s.sendEpoch (d.u16 16)).isNone ≠ true := by simpa [Option.isSome_iff_ne_none] using h
  exact if_neg hheld

/-- A remote access to another module that the group reaches begins its transfer. -/
theorem State.remoteAccess_starts (hm : s.moduleOf (d.u64 32 % 2 ^ 54) = some m) (hself : m ≠ s.self)
    (hgroup : s.inGroup (d.u16 16) m = true) : s.remoteAccess c d kind aop = (s.working c d.ptr).startXfer
      { own := ⟨c, d.ptr⟩, kind := kind, group := d.u16 16, dst := m, remote := d.u64 32 % 2 ^ 54 % 2 ^ 40, loc := d.u64 24,
        len := if kind = 2 then 8 else d.u32 20, aop := aop, opnd := d.u64 40, cmp := d.u64 48 } := by
  simp only [State.remoteAccess, hm, if_neg hself, hgroup, Bool.not_true, Bool.false_eq_true, if_false]

/-- A FABRIC_ATOMIC at hand runs as the operation it names. -/
theorem onUnit_runAtomic (h : s.atHand c n 0x4A = some d) (hop : d.u8 18 = aop) :
    onUnit (ctxOk c) (s.runAtomic c n aop) = .next (s.remoteAccess c d 2 aop) :=
  (onUnit_runDesc h _).trans (congrArg _ (if_pos hop))

end

/-- Settles O13: a held group begins the exchange, a reached module the transfer. -/
theorem fabricDescriptorsComplete : Obligations.FabricDescriptorsComplete := by
  refine fun s c n d => ⟨fun hgroup => ⟨fun h bs m hread hok => ?reduce, fun h g hg => ?gather, fun h => ?sync⟩,
    fun m hm hself hin => ⟨fun h => ?put, fun h => ?get, fun h => ?atomic⟩⟩
  all_goals obtain ⟨-, rfl, -⟩ := atHand_spec h
  case reduce =>
    refine (onUnit_runDesc h _).trans (congrArg _ ((State.withGroup_held hgroup).trans ?_))
    simp [hread, hok]
  case gather =>
    intro m hdenied hcut
    refine (onUnit_runDesc h _).trans (congrArg _ ((State.withGroup_held hgroup).trans ?_))
    simp only [hg]
    have hmoved : ¬ (m.denied || m.cut) = true := by simp only [hdenied, hcut]; decide
    exact if_neg hmoved
  case sync => exact (onUnit_runDesc h _).trans (congrArg _ (State.withGroup_held hgroup))
  case put => exact (onUnit_runDesc h _).trans (congrArg _ (State.remoteAccess_starts hm hself hin))
  case get => exact (onUnit_runDesc h _).trans (congrArg _ (State.remoteAccess_starts hm hself hin))
  case atomic =>
    have hrun (aop : Nat) (hop : d.u8 18 = aop) := (onUnit_runAtomic h hop).trans (congrArg _ (State.remoteAccess_starts hm hself hin))
    exact ⟨hrun 0, hrun 1, hrun 2, hrun 3, hrun 4, hrun 5⟩

/-! A packet at the head of its class (R446), and a remote request with its tag (R362, R452). -/

section
variable {s t u : State} {p op n right lo hi : Nat} {q : List Byte} {f : List Byte → State → Option State} {g : State → State}

theorem State.handle_forwards (hq : s.headPacket p op = some q) (hv : s.verdict q = .forward) :
    s.handle p op f = (s.freePacket p q).route q := by
  simp only [State.handle, hq, hv]

theorem State.handle_delivers (hq : s.headPacket p op = some q) (hv : s.verdict q = .deliver) (hf : f q s = some t) :
    s.handle p op f = t.freePacket p q := by
  simp only [State.handle, hq, hv, hf]

/-- A request that is forwarded waits for no tag of this module. -/
theorem State.handleRemote_forwards (hq : s.headPacket p op = some q) (hv : s.verdict q = .forward) :
    s.handleRemote p op f = (s.freePacket p q).route q := by
  have hpass : ¬ (!s.fabTag (portDie p) && ((s.headPacket p op).any fun q => s.verdict q = .deliver)) = true := by simp [hq, hv]
  exact (if_neg hpass).trans (State.handle_forwards hq hv)

theorem State.handleRemote_delivers (htag : s.fabTag (portDie p) = true) (hq : s.headPacket p op = some q) (hv : s.verdict q = .deliver)
    (hf : f q s = some t) : s.handleRemote p op f = t.freePacket p q := by
  have hpass : ¬ (!s.fabTag (portDie p) && ((s.headPacket p op).any fun q => s.verdict q = .deliver)) = true := by simp [htag]
  exact (if_neg hpass).trans (State.handle_delivers hq hv hf)

/-- A request without a tag waits, and the stall is counted. -/
theorem State.handleRemote_stalls (htag : s.fabTag (portDie p) = false) (hq : s.headPacket p op = some q) (hv : s.verdict q = .deliver) :
    s.handleRemote p op f = s.eventF (portDie p) 0x48 0 1 :=
  if_pos (by simp [htag, hq, hv])

/-- A request that the exporting table and the memory allow is carried out. -/
theorem State.serveRemote_serves (htag : s.fabTag (portDie p) = true) (hu : s.noteTag (portDie p) = u)
    (hacl : u.aclAllows 33 right (0x8000 + pktSrc q) (pktAddr q / 4096) ((pktAddr q + max n 1 - 1) / 4096) = true)
    (hmem : u.memCheck (0x8000 + pktSrc q) right (pktAddr q) n = .ok) : s.serveRemote p right n q g = some (g u) := by
  have hcheck : u.exportCheck right (pktSrc q) (pktAddr q) n = (true, u) := by
    simp [State.exportCheck, State.aclCheck_allowed hacl, hmem]
  simp [State.serveRemote, htag, hu, hcheck]

/-- A request that the exporting table refuses is answered with a denial. -/
theorem State.serveRemote_denies (htag : s.fabTag (portDie p) = true) (hu : s.noteTag (portDie p) = u)
    (hacl : u.aclAllows 33 right (0x8000 + pktSrc q) (pktAddr q / 4096) ((pktAddr q + max n 1 - 1) / 4096) = false) :
    s.serveRemote p right n q g =
      some ((u.deny 33 right (0x8000 + pktSrc q) (pktAddr q / 4096)).respond q 2 11 (pktTag q % 2 ^ 28) 0 []) := by
  have hcheck : u.exportCheck right (pktSrc q) (pktAddr q) n = (false, u.deny 33 right (0x8000 + pktSrc q) (pktAddr q / 4096)) := by
    simp [State.exportCheck, State.aclCheck, hacl]
  simp [State.serveRemote, htag, hu, hcheck]

end

/-- What leaves the memory and its map as they are leaves every byte as it reads. -/
theorem State.peek_of_memView {s t : State} {a n : Nat} (h : t.memView = s.memView) : t.peek a n = s.peek a n := by
  have hmem := State.mem_of_memView h
  refine List.map_congr_left fun i _ => ?_
  rw [State.stripe_of_memView h]
  cases hk : (placeOf s.stripe (a + i)).key with
  | none => simp only [State.byteIn, hk]
  | some key =>
    refine State.byteIn_congr ((State.sameLines_of_memView h).markIn (placeOf_key State.stripe_le hk).1 hk ?_) ?_
    · intros; rw [hmem]
    · intros; rw [hmem]

theorem portDie_lt {p : Nat} : portDie p < 2 := by unfold portDie; split <;> decide

/-- Taking a tag at a port leaves the memory as it is. -/
theorem State.noteTag_portDie_memView {s : State} {p : Nat} : (s.noteTag (portDie p)).memView = s.memView :=
  State.setFld_memView (memMapReg_eq_false.mpr (by have := portDie_lt (p := p); omega))

/-- A command of a port that exists, whatever its next state is shown to be. -/
theorem onUnit_portIs {p : Nat} {t u : State} (hp : p < 12) (h : t = u) : onUnit (portOk p) t = .next u :=
  (onUnit_port hp t).trans (congrArg _ h)

/-- Settles O48: the verdict on the oldest packet, and for a request delivered its tag and the two checks of its destination. -/
theorem remoteRequestPacketsComplete : Obligations.RemoteRequestPacketsComplete := by
  intro s p q hp
  refine ⟨fun op c hc hq hv => ?forwarded, fun n right hn hv => ?delivered⟩
  case forwarded =>
    simp only [List.mem_cons, Prod.mk.injEq, List.not_mem_nil, or_false] at hc
    obtain ⟨rfl, rfl⟩ | ⟨rfl, rfl⟩ | ⟨rfl, rfl⟩ | ⟨rfl, rfl⟩ | ⟨rfl, rfl⟩ | ⟨rfl, rfl⟩ | ⟨rfl, rfl⟩ | ⟨rfl, rfl⟩ | ⟨rfl, rfl⟩ |
      ⟨rfl, rfl⟩ | ⟨rfl, rfl⟩ | ⟨rfl, rfl⟩ := hc
    case inl | inr.inl | inr.inr.inr.inr.inl =>
      exact onUnit_portIs hp (State.handleRemote_forwards hq hv)
    all_goals exact onUnit_portIs hp (State.handle_forwards hq hv)
  have hsize (hother : right ≠ rightAtomic) : n = min (pktSeq q) 256 := by
    obtain ⟨-, rfl⟩ | ⟨h, -⟩ := hn
    · exact absurd rfl hother
    · exact h
  refine ⟨fun htag => ⟨fun hacl hmem => ⟨?write, ?read, ?atomic⟩, ?denied⟩, ?stalled⟩
  case stalled =>
    intro htag op c hc hq
    simp only [List.mem_cons, Prod.mk.injEq, List.not_mem_nil, or_false] at hc
    obtain ⟨rfl, rfl⟩ | ⟨rfl, rfl⟩ | ⟨rfl, rfl⟩ := hc
    all_goals exact onUnit_portIs hp (State.handleRemote_stalls htag hq hv)
  case write =>
    rintro rfl hq
    obtain rfl := hsize (by decide)
    refine onUnit_portIs hp (State.handleRemote_delivers htag hq hv ?_)
    unfold State.remoteWrite
    exact State.serveRemote_serves htag rfl hacl hmem
  case read =>
    rintro rfl hq
    obtain rfl := hsize (by decide)
    refine onUnit_portIs hp (State.handleRemote_delivers htag hq hv ?_)
    unfold State.remoteRead
    exact State.serveRemote_serves htag rfl hacl hmem
  case atomic =>
    rintro rfl hq
    obtain ⟨rfl, -⟩ | ⟨-, h | h⟩ := hn
    · have hserve : s.remoteAtomic p q = _ := State.serveRemote_serves htag rfl hacl hmem
      exact ⟨onUnit_portIs hp (State.handleRemote_delivers htag hq hv hserve),
        congrArg leNat (State.peek_of_memView State.noteTag_portDie_memView)⟩
    · exact absurd h (by decide)
    · exact absurd h (by decide)
  case denied =>
    rintro hacl rfl hq
    obtain rfl := hsize (by decide)
    refine onUnit_portIs hp (State.handleRemote_delivers htag hq hv ?_)
    unfold State.remoteWrite
    exact State.serveRemote_denies htag rfl hacl

/-! What the completion of a descriptor leaves of the fabric space (R383). -/

section
variable {s t : State} {c p f n i kind master status sev code subj : Nat} {dt : List Nat} {d : Desc} {x : Ctx} {w : Who} {ad : DAddr} {bs : List Byte}

/-- What an event or a memory access leaves, shown by `sansAccess`, holds the fabric space. -/
theorem State.fab_of_sansAccess (h : t.sansAccess = s.sansAccess) : t.fab = s.fab :=
  congrArg (fun u : State => u.fab) (a₁ := t.sansAccess) (a₂ := s.sansAccess) h

@[simp] theorem State.sendMsi_fab {link func vec : Nat} : (s.sendMsi link func vec).fab = s.fab := State.fab_of_sansAccess State.sendMsi_sansAccess
@[simp] theorem State.raiseIrq_fab : (s.raiseIrq i).fab = s.fab := State.fab_of_sansAccess State.raiseIrq_sansAccess
@[simp] theorem State.eventF_fab : (s.eventF f c i n).fab = s.fab := State.fab_of_sansAccess State.eventF_sansAccess
@[simp] theorem State.raiseFault_fab : (s.raiseFault sev code subj dt).fab = s.fab := State.fab_of_sansAccess State.raiseFault_sansAccess

@[simp] theorem State.store_fab : (s.store w ad bs).2.fab = s.fab := by
  unfold State.store
  split
  · split
    · exact State.fab_of_sansAccess State.writeMem_sansAccess
    · exact State.fab_of_sansAccess State.refuse_sansAccess
  · have hcheck {t right m lo hi : Nat} : (s.aclCheck t right m lo hi).2.fab = s.fab := by
      unfold State.aclCheck
      split
      · rfl
      · exact State.fab_of_sansAccess State.deny_sansAccess
    dsimp only
    split
    · exact hcheck
    · split <;> exact hcheck
  · rfl

@[simp] theorem State.ringRecord_fab : (s.ringRecord kind n).fab = s.fab := by
  have hwrite (u : State) : (u.ringWrite kind n).fab = u.fab := by
    unfold State.ringWrite; dsimp only
    split <;> exact State.store_fab
  unfold State.ringRecord; dsimp only
  split
  · rfl
  · split
    · exact hwrite s
    · split
      · rfl
      · exact hwrite _

@[simp] theorem State.newWindows_fab : s.newWindows.fab = s.fab := by
  have hnote (u : State) (q : Nat) : (u.noteWindow q).fab = u.fab := by
    unfold State.noteWindow
    split <;> rfl
  refine foldl_inv State.fab _ (fun t p => ?_) _ _
  dsimp only
  split
  · rfl
  · exact hnote t p

@[simp] theorem State.closeStep_fab : s.closeStep.fab = s.fab :=
  State.newWindows_fab.trans State.ringRecord_fab

@[simp] theorem State.abandon_fab : (s.abandon c).fab = s.fab := by
  unfold State.abandon
  split
  · rfl
  · split
    · refine foldl_inv State.fab _ (fun t k => ?_) _ _
      split
      · split
        · rfl
        · exact State.raiseFault_fab
      · rfl
    · exact State.closeStep_fab.trans State.eventF_fab

@[simp] theorem State.settle_fab : (s.settle c).fab = s.fab := by
  unfold State.settle; dsimp only
  split
  · exact State.abandon_fab
  · rfl

@[simp] theorem State.ctxError_fab : (s.ctxError c n).fab = s.fab := by
  unfold State.ctxError; dsimp only
  split <;> simp

@[simp] theorem State.ctxIrq_fab : (s.ctxIrq c).fab = s.fab := by
  unfold State.ctxIrq; dsimp only
  split
  · rfl
  · split <;> simp

@[simp] theorem State.retire_fab : (s.retire c d status).fab = s.fab := by
  have hclose (u : State) : (if u.flushCloses c d then u.closeStep else u).fab = u.fab := by split <;> simp
  unfold State.retire; dsimp only
  rw [State.settle_fab, hclose]
  split <;> exact State.eventF_fab

@[simp] theorem State.writeCompletion_fab : (s.writeCompletion c d status).fab = s.fab := by
  unfold State.writeCompletion; dsimp only
  split
  · simp
  · split
    · split <;> simp
    · simp

@[simp] theorem State.complete_fab : (s.complete c p status).fab = s.fab := by
  unfold State.complete; dsimp only
  split
  · rfl
  · split <;> simp

/-- An ended transfer is gone. -/
theorem State.xfers_endXfer {own : Owner} : (s.endXfer own status).fab.xfers.find? (·.own = own) = none := by
  simp [State.endXfer, State.updFab]

end

/-! Answers to the requests of a transfer (R452, R463). -/

section
variable {s : State} {p op : Nat} {q : List Byte} {x : Xfer} {r : Rreq} {g : Xfer → Rreq → State → State}

/-- A request leaves those that are out. -/
def State.closeReq (s : State) (r : Rreq) : State := s.updFab fun f => { f with reqs := f.reqs.filter (·.tag != r.tag) }

/-- An answer to a request that is out closes it, has its effect, and lets its transfer and the others go on. -/
theorem State.answer_closes (hr : s.fab.reqs.find? (fun r => r.tag = pktTag q % 2 ^ 28) = some r)
    (hx : s.fab.xfers.find? (·.own = r.own) = some x) :
    s.answer q g = some (((g x r (s.closeReq r)).settleXfer r.own).pumpXfers) := by
  simp only [State.answer, hr, hx]
  rfl

end

/-- Settles O49: the request under the answer's tag, its transfer, and the end of a transfer. -/
theorem remoteAnswerPacketsComplete : Obligations.RemoteAnswerPacketsComplete := by
  intro s p q x r hp hx
  refine ⟨fun hv hr => ?answers, fun tag hr => ⟨?timeout, State.xfers_endXfer⟩⟩
  case answers =>
    have hanswer {g : Xfer → Rreq → State → State} := State.answer_closes (g := g) hr hx
    exact ⟨fun hq => onUnit_portIs hp (State.handle_delivers hq hv hanswer), fun hq => onUnit_portIs hp (State.handle_delivers hq hv hanswer),
      fun hq => onUnit_portIs hp (State.handle_delivers hq hv hanswer), fun hq => onUnit_portIs hp (State.handle_delivers hq hv hanswer)⟩
  case timeout =>
    change Host.Outcome.next _ = _
    rw [hr]

/-! Collectives, ring streams and the other packets (R442, R446, R454, R461, R464). -/

section
variable {s : State} {p cls : Nat} {q : List Byte} {x : Coll} {fin : Coll → State → State}

/-- What a collective's packet brings to the inbox (R461). -/
def arrived (cls : Nat) (q : List Byte) : CPkt :=
  { group := 4 * pktGroup q + cls, seq := pktSeq q, j := Machine.fld (pktTag q) 27 16, off := pktAddr q,
    bytes := (pktPayload q).take (pktTag q % 65536), bad := if cls = 0 then pktTag q / 2 ^ 28 else 0 }

/-- A packet for a collective in progress joins its inbox, and the collective goes on. -/
theorem State.collArrive_joins (h : s.fab.colls.find? (fun x => x.chan = 4 * pktGroup q + cls && x.seq = pktSeq q) = some x) :
    s.collArrive p cls fin q = some ((s.updFab fun f => { f with inbox := f.inbox ++ [arrived cls q] }).advance fin x.own 64) := by
  simp only [State.collArrive, h]
  rfl

/-- Control of an exchange comes as the packets of its class do. -/
theorem State.takeControl_exchange (h : ctlClass q < 4) : s.takeControl p q = s.collArrive p (ctlClass q) finExchange q := if_pos h

/-- A dropped collective is gone. -/
theorem State.not_mem_dropColl : x ∉ (s.dropColl x).fab.colls := by
  simp [State.dropColl, State.updFab]

end

/-- Settles O50: a packet by what its operation does on delivery, a stream and a collective by their owner. -/
theorem collectivePacketsComplete : Obligations.CollectivePacketsComplete := by
  intro s p q hp
  refine ⟨fun hv => ⟨fun cls x hdata hctl hcls hlt hx => ?collective, fun t hq ht => onUnit_portIs hp (State.handle_delivers hq hv ht),
    fun delay hq => onUnit_portIs hp (State.handle_delivers hq hv rfl), fun hq => onUnit_portIs hp (State.handle_delivers hq hv rfl)⟩,
    fun hq => ?credit, fun c n hc => ⟨fun x hfs hx => ?stream, fun x hx => ⟨?timeout, State.not_mem_dropColl⟩⟩⟩
  case collective =>
    have hkey := List.find?_some hx
    simp only [Bool.and_eq_true, decide_eq_true_eq] at hkey
    refine ⟨arrived cls q, hkey.1.symm, hkey.2.symm, rfl, rfl, fun h0 => ?_, fun hpos => ?_⟩
    · subst h0
      exact onUnit_portIs hp (State.handle_delivers (hdata rfl) hv (State.collArrive_joins hx))
    · obtain rfl : cls = ctlClass q := hcls.resolve_left hpos.ne'
      exact onUnit_portIs hp (State.handle_delivers (hctl hpos) hv ((State.takeControl_exchange hlt).trans (State.collArrive_joins hx)))
  case credit =>
    refine onUnit_portIs hp ?_
    simp only [State.takeCredit, hq]
  case stream =>
    refine (onUnit_ctx hc _).trans (congrArg _ ?_)
    simp only [hx, hfs, Bool.false_eq_true, if_false]
  case timeout =>
    refine (onUnit_ctx hc _).trans (congrArg _ ?_)
    have howner := List.find?_some hx
    simp only [Bool.and_eq_true, decide_eq_true_eq] at howner
    rw [hx]
    simp only [State.endColl, howner.1.1]

end Sys2Proof.Machine

/-! PROOFS. Epoch banks, time sync and the barrier of the open step. -/

namespace Sys2Proof.Machine

/-! What a packet sent leaves of the open step (R294): its state and the step number. -/

/-- The state of the step, and its number. -/
def State.stepView (s : State) : Trn × Word := (s.trn, s.reg oStepNum)

section
variable {s : State} {p n f i src sev code subj cls dst group step vc op addr tag seq : Nat} {d : Option Nat} {dt : List Nat}
  {q bs : List Byte} {ws : List Nat} {g : Fab → Fab} {h : Lport → Lport}

@[simp] theorem State.updFab_stepView : (s.updFab g).stepView = s.stepView := rfl
@[simp] theorem State.updPort_stepView : (s.updPort_ p h).stepView = s.stepView := rfl

@[simp] theorem State.eventF_stepView : (s.eventF f src i n).stepView = s.stepView :=
  Prod.ext (congrArg (fun u : State => u.trn) (a₁ := State.sansAccess _) (a₂ := s.sansAccess) State.eventF_sansAccess)
    (State.reg_event (by decide) (by decide))

@[simp] theorem State.raiseFault_stepView : (s.raiseFault sev code subj dt).stepView = s.stepView :=
  Prod.ext (congrArg (fun u : State => u.trn) (a₁ := State.sansAccess _) (a₂ := s.sansAccess) State.raiseFault_sansAccess)
    (State.reg_raiseFault (by decide) (by decide))

@[simp] theorem State.sendFrames_stepView : (s.sendFrames p bs).stepView = s.stepView := by
  refine foldl_inv State.stepView _ (fun t i => ?_) _ _
  exact State.eventF_stepView.trans rfl

@[simp] theorem State.pumpPort_stepView : (s.pumpPort p n).stepView = s.stepView := by
  induction n generalizing s with
  | zero => rfl
  | succ n ih =>
    unfold State.pumpPort
    split
    · rfl
    · split
      · rfl
      · rw [ih, State.eventPort, State.eventF_stepView, State.sendFrames_stepView, State.updPort_stepView]

@[simp] theorem State.queuePacket_stepView : (s.queuePacket p q).stepView = s.stepView := State.pumpPort_stepView

@[simp] theorem State.unroutable_stepView : (s.unroutable d).stepView = s.stepView := by
  unfold State.unroutable
  split
  · exact State.eventF_stepView
  · dsimp only
    split
    · exact State.eventF_stepView
    · exact State.raiseFault_stepView.trans State.eventF_stepView

@[simp] theorem State.route_stepView : (s.route q).stepView = s.stepView := by
  unfold State.route; dsimp only
  split
  · rfl
  · exact State.unroutable_stepView
  · exact State.queuePacket_stepView

@[simp] theorem State.inject_stepView : (s.inject vc op dst group addr tag seq bs).stepView = s.stepView := by
  unfold State.inject; dsimp only
  split_ifs
  · exact State.unroutable_stepView
  all_goals exact State.route_stepView

@[simp] theorem State.sendControl_stepView : (s.sendControl cls dst group step ws).stepView = s.stepView := State.inject_stepView

end

/-! Epoch banks and time sync (R449, R464, R465). -/

section
variable {s : State}

theorem State.sendEpoch_lt : s.sendEpoch < 2 := Nat.mod_lt _ (by decide)

/-- The inactive bank, not in HOLD, is marked complete. -/
theorem State.bankLoad_marks (h : s.bit oEpoch (27 - s.sendEpoch) = false) : s.bankLoad = s.setBit oEpoch (29 - s.sendEpoch) := by
  have hlt := s.sendEpoch_lt
  have hhold : 26 + (1 - s.sendEpoch) = 27 - s.sendEpoch := by omega
  have hvalid : 28 + (1 - s.sendEpoch) = 29 - s.sendEpoch := by omega
  simp [State.bankLoad, hhold, hvalid, h]

theorem State.bankValid_marked : (s.setBit oEpoch (29 - s.sendEpoch)).bankValid (1 - s.sendEpoch) = true := by
  have hlt := s.sendEpoch_lt
  have hvalid : 28 + (1 - s.sendEpoch) = 29 - s.sendEpoch := by omega
  have hword : 29 - s.sendEpoch < 32 := by omega
  simp [State.bankValid, hvalid, hword]

end

/-! The barrier of the open step, and its spare (R295, R296, R483, R484). -/

section
variable {s : State} {b : Barrier} {a : Nat} {q : List Byte}

/-- The first timeout asks the members, and leaves the barrier and the step as they are. -/
theorem State.barrierTimeout_asks (hb : s.trn.barrier = some b) (hheld : b.held = false) (hrole : s.role ≠ 1) (hasked : b.asked = false) :
    s.barrierTimeout.trn.barrier = some { b with asked := true } ∧ s.barrierTimeout.stepNo = s.stepNo := by
  have hview : s.barrierTimeout.stepView = (s.updTrn fun t => { t with barrier := some { b with asked := true } }).stepView := by
    unfold State.barrierTimeout
    simp only [hb, hheld, hrole, hasked, decide_false, Bool.or_self, Bool.false_eq_true, if_false, Bool.not_false, if_true]
    split
    · exact foldl_inv State.stepView _ (fun _ _ => State.sendControl_stepView) _ _
    · rfl
  exact ⟨congrArg (fun v : Trn × Word => v.1.barrier) hview, congrArg (fun v : Trn × Word => v.2.toNat) hview⟩

/-- The second leaves the step not committed, with ABSENT. -/
theorem State.barrierTimeout_settles (hb : s.trn.barrier = some b) (hheld : b.held = false) (hrole : s.role ≠ 1) (hasked : b.asked = true) :
    s.barrierTimeout = (s.raiseFault 3 0x0502 s.trn.group []).settleStep 1 (b.bits ||| (s.contributed b.own).1 ||| 64)
      (s.contributed b.own).2 := by
  simp only [State.barrierTimeout, hb, hheld, hrole, hasked, decide_false, Bool.or_self, Bool.false_eq_true, if_false, Bool.not_true]

/-- The word of a held barrier without an action is posted again. -/
theorem State.repostHeld_posts (hb : s.trn.barrier = some b) (hheld : b.held = true) (hact : b.action = none)
    (hword : (s.mbx 1 0 1).full = false) : s.repostHeld = s.postHeld := by
  simp [State.repostHeld, hb, hheld, hact, hword]

/-- The host's action for the open step enters the second exchange. -/
theorem State.heldReply_acts (hb : s.trn.barrier = some b) (hheld : b.held = true) (hact : b.action = none)
    (hfull : (s.mbx 0 0 1).full = true) (htype : wfld (s.mbx 0 0 1).data 31 28 = 5) (hlo : 1 ≤ a) (hhi : a ≤ 3)
    (ha : wfld (s.mbx 0 0 1).data 27 24 = a) (hstep : wfld (s.mbx 0 0 1).data 23 0 = s.stepNo % 2 ^ 24) :
    s.heldReply = ((s.setMbx 0 0 1 { s.mbx 0 0 1 with full := false }).updTrn fun t =>
      { t with barrier := some { b with action := some a } }).beginColl finExchange
        { own := b.own, kind := .actions, group := s.trn.group, vals := [b2n (a = 2)] } := by
  have hpass : ¬ (!(s.mbx 0 0 1).full || wfld (s.mbx 0 0 1).data 31 28 != 5) = true := by simp [hfull, htype]
  simp only [State.heldReply, if_neg hpass, hb, ha]
  exact if_pos (by simp [hheld, hact, hlo, hhi, hstep])

/-- The notice of the peer is kept. -/
theorem State.takeNotice_keeps (hcls : ctlClass q = 5) (hrole : s.role = 1) (hpeer : pktSrc q = s.pairPeer) :
    s.takeNotice q = some (s.setFlt fun x => { x with spareReady := some (pktSeq q) }) := by
  simp [State.takeNotice, hcls, hrole, hpeer]

/-- The peer's decision on the open step is kept with its count, and taken where the spare is at its barrier. -/
theorem State.takeForwarded_keeps (hb : s.trn.barrier = some b) (hcls : ctlClass q = 6) (hrole : s.role = 1)
    (hpeer : pktSrc q = s.pairPeer) (hopen : s.trn.opened = true) (hstep : pktSeq q = s.stepNo) :
    s.takeForwarded q = some (((s.setFlt fun x =>
      { x with spareDecision := some (leAt (pktPayload q) 0 4 % 4, leAt (pktPayload q) 4 4 % 128) }).updTrn fun t =>
        { t with barrier := some { b with count := leAt (pktPayload q) 8 4 } }).settleSpare) := by
  simp [State.takeForwarded, hcls, hrole, hpeer, hopen, hstep, State.updTrn, State.setFlt, hb]

/-- With neither notice nor decision in time, the spare at its barrier does not commit. -/
theorem State.spareTimeout_settles (hb : s.trn.barrier = some b) (hrole : s.role = 1) (hopen : s.trn.opened = true) :
    s.spareTimeout = (s.setFlt fun x => { x with spareAbsent := true }).settleStep 1 (b.bits ||| 64) b.count := by
  simp [State.spareTimeout, hrole, hopen, hb]

end

/-- Settles O51: the banks and the time by their registers, the barrier by what it has asked and holds. -/
theorem bankTimeAndBarrierCommandsComplete : Obligations.BankTimeAndBarrierCommandsComplete := by
  refine ⟨fun s => ⟨fun master hlets hhold => ⟨?load, s.bankValid_marked⟩, fun b hb => ⟨if_pos (decide_eq_true hb), by simp⟩,
    fun hon hmaster => ?send, ⟨s.unlockTime, rfl, ?lost, rfl, rfl⟩, rfl, by simp⟩,
    fun s b hfs hb => ⟨fun hheld hrole => ⟨fun hasked => ⟨s.barrierTimeout, ?asks, State.barrierTimeout_asks hb hheld hrole hasked⟩,
      fun hasked => ?absent⟩, fun hheld hact hword => ?repost, fun hheld hact hready hfull htype a hlo hhi ha hstep => ?reply,
      fun hrole p q hp hq hv hpeer => ⟨fun hcls => ?notice, fun hcls hopen hstep => ?decision⟩, fun hrole hopen => ?spare⟩⟩
  case load => exact congrArg _ ((lets_guard hlets _).trans (State.bankLoad_marks hhold))
  case send =>
    have hgo : (s.tsOn && s.tsIsMaster) = true := by simp [State.tsOn, State.tsIsMaster, hon, hmaster]
    exact congrArg _ (if_pos hgo)
  case lost => simp [State.unlockTime]
  case reply =>
    have hgo : (s.ready && !s.failSafe) = true := by simp [hready, hfs]
    exact congrArg _ ((if_pos hgo).trans (State.heldReply_acts hb hheld hact hfull htype hlo hhi ha hstep))
  case notice => exact onUnit_portIs hp (State.handle_delivers hq hv (State.takeNotice_keeps hcls hrole hpeer))
  case decision => exact onUnit_portIs hp (State.handle_delivers hq hv (State.takeForwarded_keeps hb hcls hrole hpeer hopen hstep))
  all_goals have hgo {t : State} : (if s.failSafe then s else t) = t := if_neg (by simp [hfs])
  case asks => exact congrArg _ hgo
  case absent => exact congrArg _ (hgo.trans (State.barrierTimeout_settles hb hheld hrole hasked))
  case repost => exact congrArg _ (hgo.trans (State.repostHeld_posts hb hheld hact hword))
  case spare => exact congrArg _ (hgo.trans (State.spareTimeout_settles hb hrole hopen))

end Sys2Proof.Machine

/-! PROOFS. Faults: the rungs of the ladder, thresholds, the rebuild of a module, and the end of HOLD. -/

namespace Sys2Proof.Machine

/-! Analogue checks and thresholds (R474 to R476). -/

section
variable {s q : State} {p pt n leaves row k master : Nat} {sums : List Int} {x : Sample} {w : Word} {win : Bool}

/-- A tile at rung 0 has its fresh samples checked. -/
theorem State.analogueCheck_fresh (hn : s.servesIndex p pt = some n) (hfs : s.failSafe = false) (hr : s.rung p pt = 0) :
    s.analogueCheck p pt leaves sums = s.checkFresh p n pt := by
  unfold State.analogueCheck
  rw [hn]
  exact (if_neg (by simp [hfs])).trans (if_pos hr)

/-- A tile at rung 1 whose captured input no longer fails leaves the ladder. -/
theorem State.analogueCheck_cleared (hn : s.servesIndex p pt = some n) (hfs : s.failSafe = false) (hr : s.rung p pt = 1)
    (hx : s.flt.samples.find? (fun x => x.of p pt) = some x)
    (hq : s.checkSample false x n (s.rereadPart false p n leaves sums) = (some [], q)) :
    s.analogueCheck p pt leaves sums = (q.setRung p pt 0).setFlt fun y => { y with samples := y.samples.erase x } := by
  unfold State.analogueCheck
  rw [hn]
  dsimp only
  rw [if_neg (by simp [hfs]), if_neg (by simp [hr]), if_pos hr, hx]
  dsimp only
  rw [hq]

/-- A row cleared counts nothing (R476). -/
theorem State.thrCnt_clearRow (hk : k / 2 ^ 32 = row) : mapGet 0 (s.clearRow row).flt.thrCnt k = 0 := by
  have hcnt : (s.clearRow row).flt.thrCnt = s.flt.thrCnt.filter fun kv => kv.1 / 2 ^ 32 != row := by
    unfold State.clearRow
    dsimp only
    split <;> rfl
  rw [hcnt]
  exact mapGet_filter_out _ _ fun a => by simp only [hk, bne_self_eq_false]

theorem State.thrWin_clearRow : (s.clearRow row).flt.thrWin = s.flt.thrWin := by
  unfold State.clearRow
  dsimp only
  split <;> rfl

theorem State.thrLim_clearRow : (s.clearRow row).flt.thrLim = s.flt.thrLim := by
  unfold State.clearRow
  dsimp only
  split <;> rfl

/-- A limit or a window written is held, and its row counts from 0 again (Table 14-16). -/
theorem State.writeThr_holds (h : s.fld 0x320 3 0 ≤ 13) :
    (win = true → (s.writeThr win w).thrWindow (s.fld 0x320 3 0) = w.toNat) ∧
    (win = false → (s.writeThr win w).thrLimit (s.fld 0x320 3 0) = w.toNat) ∧
    ∀ k, k / 2 ^ 32 = s.fld 0x320 3 0 → mapGet 0 (s.writeThr win w).flt.thrCnt k = 0 := by
  unfold State.writeThr
  dsimp only
  rw [if_neg (by omega)]
  refine ⟨fun hwin => ?_, fun hlim => ?_, fun k hk => State.thrCnt_clearRow hk⟩
  · rw [State.thrWindow, State.thrWin_clearRow]
    subst hwin
    exact mapGet_mapSet_self _ _ _ _
  · rw [State.thrLimit, State.thrLim_clearRow]
    subst hlim
    exact mapGet_mapSet_self _ _ _ _

end

/-! The rebuild of a module (R488, R489), and a die that leaves HOLD (R96, R137, R177). -/

section
variable {s : State} {p : Nat} {failed : List Nat} {fails : List (Nat × Nat × BadCell)} {r : Nat × State}

/-- The array pass over the module's dies: the weights programmed and the state. -/
def State.passAll (s : State) (fails : List (Nat × Nat × BadCell)) : Nat × State :=
  (List.range 8).foldl (fun (a : Nat × State) p => let q := a.2.passDie p fails; (a.1 + q.1, q.2)) (0, s)

/-- The pass runs in a maintenance window of every die. -/
theorem State.rebuildComplete_passes (hrun : s.fld oRbldStat 31 28 = 1) (hfs : s.failSafe = false)
    (hwin : ∀ p, p < 8 → s.maintenance p = true) :
    ((s.passAll fails).2.mem.consumed = s.mem.consumed → s.rebuildComplete fails =
      ((s.passAll fails).2.setReg oRbldStat (BitVec.ofNat 32 (2 ^ 29 + min (s.passAll fails).1 (2 ^ 28 - 1)))).raiseFault
        (if s.spanWeights < 100 * (s.passAll fails).1 then 1 else 0) 0x0604 0 [(s.passAll fails).1]) ∧
    ((s.passAll fails).2.mem.consumed ≠ s.mem.consumed → s.rebuildComplete fails = (s.passAll fails).2.setFld oRbldStat 31 28 3) := by
  have hgo : ¬ (s.fld oRbldStat 31 28 != 1 || s.failSafe || (List.range 8).any fun p => !s.maintenance p) = true := by
    have hall : ((List.range 8).any fun p => !s.maintenance p) = false :=
      List.any_eq_false.mpr fun p hp => by simp [hwin p (List.mem_range.mp hp)]
    simp [hrun, hfs, hall]
  unfold State.rebuildComplete State.passAll
  rw [if_neg hgo]
  exact ⟨fun hkept => if_neg (by simp only [hkept, bne_self_eq_false, Bool.false_eq_true, not_false_eq_true]),
    fun hlost => if_pos (bne_iff_ne.mpr hlost)⟩

/-- A die with its tests, its muster and its reconciling ended runs. -/
theorem State.dieRun_runs (hboot : s.bootState = 4) (hhold : (s.die p).state = .hold) (hruns : (s.die p).mus.runs = [])
    (hdue : (s.die p).port.toRecon = []) (hrecon : (s.die p).port.recon = []) (hretry : ∀ n, n < 8192 → s.toRetry p n = false) :
    ((s.dieRun p failed).die p).state = .run := by
  have hended : ¬ (s.bootState != 4 || (s.die p).state != .hold || (s.die p).mus.runs != [] || (s.die p).port.toRecon != [] ||
      (s.die p).port.recon != [] || (List.range 8192).any (s.toRetry p)) = true := by
    have hnone : (List.range 8192).any (s.toRetry p) = false :=
      List.any_eq_false.mpr fun n hn => by simp [hretry n (List.mem_range.mp hn)]
    simp [hboot, hhold, hruns, hdue, hrecon, hnone]
  unfold State.dieRun
  dsimp only
  rw [if_neg hended, State.die_updDie]

end

/-- Settles O52: the rungs by what a check finds, the thresholds by their row, and the rebuild and the die by their conditions. -/
theorem faultCommandsComplete : Obligations.FaultCommandsComplete := by
  intro s
  refine ⟨fun p pt leaves sums n hp hpt hn hfs => ?check, fun master win w hlets hrow => ?write, fun row hrow hwin => ?expiry,
    fun master hlets hclosed => ⟨?setLast, fun heval hidle => ?go⟩, fun fails hrun hfs hwin => ?pass,
    fun p failed hp hboot hhold hruns hdue hrecon hretry => ?die⟩
  case check =>
    have hunit {t : State} : onUnit (dieOk p && pt < 8320) t = .next t := if_pos (by simp [dieOk, hp, hpt])
    exact ⟨fun hr => hunit.trans (congrArg Host.Outcome.next (State.analogueCheck_fresh hn hfs hr)),
      fun x q hr hx hq => hunit.trans (congrArg Host.Outcome.next (State.analogueCheck_cleared hn hfs hr hx hq))⟩
  case write => exact ⟨_, congrArg Host.Outcome.next (lets_guard hlets _), State.writeThr_holds hrow⟩
  case expiry =>
    have hunit {t : State} : onUnit (row < 14) t = .next t := if_pos (by simp [hrow])
    exact ⟨hunit.trans (congrArg Host.Outcome.next (if_neg hwin)), fun k hk => State.thrCnt_clearRow hk⟩
  case setLast =>
    refine ⟨_, congrArg Host.Outcome.next ((lets_guard hlets _).trans (if_neg (by simp [hclosed]))), ?_, ?_, ?_⟩
    · rw [State.reg_clrBit_ne _ _ _ _ (by decide), State.reg_setBit_ne _ _ _ _ (by decide), State.reg_setReg_self]
    · rw [State.bit_clrBit_ne _ _ _ _ _ (by decide)]
      simp
    · simp
  case go =>
    have hgo : ¬ (s.trn.opened || s.trn.evalOpen || decide (s.fld oRbldStat 31 28 = 1)) = true := by simp [hclosed, heval, hidle]
    refine ⟨congrArg Host.Outcome.next ((lets_guard hlets _).trans (if_neg hgo)), ?_⟩
    rw [State.fld_setReg_self]
    decide
  case pass =>
    have hpass := State.rebuildComplete_passes (fails := fails) hrun hfs hwin
    unfold State.passAll at hpass
    exact ⟨fun hkept => congrArg Host.Outcome.next (hpass.1 hkept), fun hlost => congrArg Host.Outcome.next (hpass.2 hlost)⟩
  case die =>
    exact ⟨_, onUnit_die hp _, State.dieRun_runs hboot hhold hruns hdue hrecon hretry⟩

end Sys2Proof.Machine

/-! PROOFS. The input, PWR_EN and the rails. -/

namespace Sys2Proof.Machine

/-! The rails and PWR_GOOD (R495, R556), and what module reset leaves. -/

section
variable {s : State} {w : Word} {f : Word → Word} {o hi lo i m bad : Nat}

@[simp] theorem State.reg_updRail_self : (s.updRail f).reg oRail = f s.pwr.rail := State.reg_setReg_self _ _ _

theorem State.fld_updRail_ne (h : o ≠ oRail) : (s.updRail f).fld o hi lo = s.fld o hi lo := State.fld_setReg_ne _ _ _ _ _ _ h

@[simp] theorem State.bootState_updRail : (s.updRail f).bootState = s.bootState := State.fld_updRail_ne (by decide)

@[simp] theorem State.fld_rail_updRail : (s.updRail f).fld oRail hi lo = wfld (f s.pwr.rail) hi lo :=
  congrArg (wfld · hi lo) State.reg_updRail_self

theorem State.resetLow_updRail : (s.updRail f).pwr.resetLow = s.pwr.resetLow := rfl

theorem State.seqStep_updRail : (s.updRail f).pwr.seqStep = s.pwr.seqStep := rfl

theorem State.resetLow_updPwr {g : Pwr → Pwr} (h : (g s.pwr).resetLow = s.pwr.resetLow) : (s.updPwr g).pwr.resetLow = s.pwr.resetLow := h

@[simp] theorem State.bootState_railsGood : (s.railsGood m).bootState = s.bootState := State.bootState_updRail

@[simp] theorem State.bootState_updPwr {g : Pwr → Pwr} : (s.updPwr g).bootState = s.bootState := rfl

@[simp] theorem State.pgood_setClk : (s.setClk m).pgood = s.pgood := rfl

@[simp] theorem State.pgood_setFld {v : Nat} : (s.setFld o hi lo v).pgood = s.pgood := rfl

@[simp] theorem State.pgood_clrBit : (s.clrBit o i).pgood = s.pgood := rfl

theorem State.pgood_updPwr {g : Pwr → Pwr} (h : (g s.pwr).rail = s.pwr.rail) : (s.updPwr g).pgood = s.pgood :=
  congrArg (fun w : Word => w.getLsbD 31) h

@[simp] theorem State.pgood_alert : (s.alert i).pgood = s.pgood := rfl

@[simp] theorem State.reg_rail_setClk : (s.setClk m).reg oRail = s.reg oRail := by
  unfold State.setClk
  rw [State.reg_setFld_ne _ _ _ _ _ _ (by decide)]
  rfl

@[simp] theorem State.bootState_setClk : (s.setClk m).bootState = s.bootState := State.fld_setFld_ne _ _ _ _ _ _ _ _ (by decide)

@[simp] theorem State.bootState_sampleSlot : s.sampleSlot.bootState = s.bootState := by
  unfold State.sampleSlot; dsimp only
  split <;> exact State.fld_setReg_ne _ _ _ _ _ _ (by decide)

theorem State.moduleReset_regs : s.moduleReset.regs = s.resetTo.regs := by rw [State.moduleReset_frame]
theorem State.moduleReset_mem : s.moduleReset.mem = s.resetTo.mem := by rw [State.moduleReset_frame]
theorem State.moduleReset_boot : s.moduleReset.boot = s.resetTo.boot := by rw [State.moduleReset_frame]
theorem State.moduleReset_pwr : s.moduleReset.pwr = s.resetTo.pwr := by rw [State.moduleReset_frame]

theorem State.slots_resetTo (s : State) : s.resetTo.boot.slots = s.boot.slots := rfl

theorem State.bootState_moduleReset : s.moduleReset.bootState = 0 := (State.fld_congr State.moduleReset_regs).trans State.bootState_resetTo

/-- PWR_GOOD is bit 31 of the rails. -/
theorem State.pgood_updRail {g : Word → Word} {v : Nat} : (s.updRail fun w => wset (g w) 31 31 v).pgood = v.testBit 0 := by
  change (wset _ 31 31 v).getLsbD 31 = _
  rw [getLsbD_wset _ _ _ _ _ (by decide) (by decide), if_pos (by decide)]

/-- The rails switched on by a step join those that are on. -/
theorem wfld_railsOn : wfld (s.railsOn m).pwr.rail 28 16 = (wfld s.pwr.rail 28 16 ||| m) % 8192 ∧
    wfld (s.railsOn m).pwr.rail 12 0 = wfld s.pwr.rail 12 0 :=
  ⟨wfld_wset_self _ _ _ _ (by decide) (by decide), wfld_wset_ne _ _ _ _ _ _ (by decide) (by decide) (by decide)⟩

/-- The rails that a step finds inside their windows join those that are. -/
theorem wfld_railsGood : wfld (s.railsGood m).pwr.rail 12 0 = (wfld s.pwr.rail 12 0 ||| m) % 8192 ∧
    wfld (s.railsGood m).pwr.rail 28 16 = wfld s.pwr.rail 28 16 :=
  ⟨wfld_wset_self _ _ _ _ (by decide) (by decide), wfld_wset_ne _ _ _ _ _ _ (by decide) (by decide) (by decide)⟩

/-- A step before the last starts the next (R495); the first also locks the VCOs, which the rails do not tell. -/
theorem State.sequenceStep_next (h : i < 7) : ∃ u : State, s.sequenceStep i = u.railsOn (stepRails (i + 1)) ∧
    u.pwr.seqStep = some (i + 1) ∧ u.pwr.rail = (s.railsGood (stepRails i)).pwr.rail := by
  refine ⟨_, if_pos h, rfl, ?_⟩
  split <;> rfl

/-- The last step's rails are inside their windows, and PWR_GOOD is asserted. -/
def State.railsUp (s : State) : State :=
  ((s.railsGood (stepRails 7)).updPwr fun q => { q with seqStep := none }).updRail fun w => wset w 31 31 1

theorem State.bootState_railsUp : s.railsUp.bootState = s.bootState := by
  unfold State.railsUp
  rw [State.bootState_updRail, State.bootState_updPwr, State.bootState_railsGood]

theorem State.pgood_railsUp : s.railsUp.pgood = true := by
  unfold State.railsUp
  exact State.pgood_updRail (g := id)

theorem State.resetLow_railsUp : s.railsUp.pwr.resetLow = s.pwr.resetLow := by
  unfold State.railsUp State.railsGood
  rw [State.resetLow_updRail, State.resetLow_updPwr rfl, State.resetLow_updRail]

theorem State.seqStep_railsUp : s.railsUp.pwr.seqStep = none := by
  unfold State.railsUp
  rw [State.seqStep_updRail]
  rfl

theorem State.sequenceStep_seven : s.sequenceStep 7 = s.railsUp.endReset := by
  unfold State.sequenceStep State.railsUp State.updPwr
  dsimp only
  rw [if_neg (by decide : ¬ 7 < 7), if_neg (by decide : ¬ 7 = 0)]

/-- The last step asserts PWR_GOOD, and module reset ends where nothing else holds it. -/
theorem State.sequenceStep_last (hb : s.bootState = 0) (hr : s.pwr.resetLow = false) :
    (s.sequenceStep 7).pgood = true ∧ (s.sequenceStep 7).pwr.seqStep = none ∧ (s.sequenceStep 7).bootState = 1 := by
  obtain ⟨hstart, -, hpwr, -⟩ := State.endReset_starts (State.bootState_railsUp.trans hb) (State.resetLow_railsUp.trans hr) State.pgood_railsUp
  rw [State.sequenceStep_seven]
  exact ⟨(congrArg (fun q : Pwr => q.rail.getLsbD 31) hpwr).trans State.pgood_railsUp,
    (congrArg Pwr.seqStep hpwr).trans State.seqStep_railsUp, hstart⟩

/-- A rail that is late switches the main rails off (R495). -/
theorem State.stopSequence_off : (s.stopSequence bad).fld oRail 28 16 = 3 ∧ (s.stopSequence bad).pgood = false := by
  unfold State.stopSequence
  refine ⟨?_, ?_⟩
  · rw [State.fld_rail_updRail, wfld_wset_ne _ _ _ _ _ _ (by decide) (by decide) (by decide),
      wfld_wset_ne _ _ _ _ _ _ (by decide) (by decide) (by decide), wfld_wset_self _ _ _ _ (by decide) (by decide)]
    rfl
  · rw [State.pgood_updRail]; rfl

theorem State.pgood_railsOff : s.railsOff.pgood = false := by
  unfold State.railsOff
  rw [State.pgood_setClk, State.pgood_updRail]
  rfl

/-- The main domain without power: the rails off, PWR_EN low, and no sequence in hand. -/
def State.powerGone (s : State) : State :=
  ((s.railsOff.updPwr fun q => { q with pwrEn := false, seqStep := none, seqFailed := false }).clrBit oFsStat 31).setFld oBoot 31 28 0

theorem State.pgood_powerGone : s.powerGone.pgood = false := by
  unfold State.powerGone
  rw [State.pgood_setFld, State.pgood_clrBit, State.pgood_updPwr rfl, State.pgood_railsOff]

/-- PWR_EN low takes the main domain away, and ends the fail-safe state (R496). -/
theorem State.powerDown_off : s.powerDown.pwr.pwrEn = false ∧ s.powerDown.pgood = false ∧ s.powerDown.failSafe = false ∧
    s.powerDown.bootState = 0 ∧ s.powerDown.mem.cells = [] := by
  obtain ⟨u, hu⟩ : ∃ u : State, s.powerDown = u.loseMain.powerGone := ⟨_, rfl⟩
  rw [hu]
  refine ⟨rfl, State.pgood_powerGone, ?_, ?_, ?_⟩
  · unfold State.failSafe State.powerGone
    rw [State.bit_setFld_ne _ _ _ _ _ _ _ (by decide)]
    simp
  · exact State.fld_setFld_self _ _ _ _ _ (by decide) (by decide)
  · exact congrArg Mem.cells u.moduleReset_mem

/-- The fall of the input leaves module reset's state, with the rails and clocks gone. -/
theorem State.inputLost_reset : ∃ u : State, s.inputLost = (u.updRail fun _ => 0).setClk 0 ∧ u.pwr.standby = false ∧
    u.mem = s.moduleReset.mem ∧ u.boot.slots = s.moduleReset.boot.slots ∧ u.regs = s.moduleReset.regs := by
  refine ⟨_, rfl, rfl, ?_, ?_, ?_⟩
  all_goals dsimp only; split <;> rfl

/-- The fall of the input loses every register and the memory, and leaves the slots in flash (R493). -/
theorem State.inputLost_keeps : s.inputLost.pwr.standby = false ∧ s.inputLost.mem.cells = [] ∧ s.inputLost.boot.slots = s.boot.slots ∧
    s.inputLost.reg oRail = 0 ∧ s.inputLost.bootState = 0 := by
  obtain ⟨u, hu, hstandby, hmem, hslots, hregs⟩ := s.inputLost_reset
  rw [hu]
  refine ⟨hstandby, ?_, ?_, ?_, ?_⟩
  · exact congrArg Mem.cells (hmem.trans State.moduleReset_mem)
  · exact hslots.trans ((congrArg Boot.slots State.moduleReset_boot).trans s.slots_resetTo)
  · exact State.reg_rail_setClk.trans State.reg_updRail_self
  · rw [State.bootState_setClk, State.bootState_updRail]
    exact (State.fld_congr hregs).trans State.bootState_moduleReset

end

/-- Settles O22: each event of the input, of PWR_EN and of the rails, by the rails and the reset it leaves. -/
theorem railCommandsComplete : Obligations.RailCommandsComplete := by
  refine fun s => ⟨fun straps hoff => ?rise, fun hon => ⟨s.inputLost, congrArg Host.Outcome.next (if_pos hon), State.inputLost_keeps⟩,
    fun vin hon hvin hpg hseq hfail => ?enable, fun i hi h7 => ?step, fun hi hb hr => ⟨s.sequenceStep 7, ?last, State.sequenceStep_last hb hr⟩,
    fun i bad hi => ⟨(s.railsGood (stepRails i)).stopSequence (stepRails i &&& bad), ?late, rfl, rfl, State.stopSequence_off⟩,
    fun hen => ⟨s.powerDown, congrArg Host.Outcome.next (if_pos hen), State.powerDown_off⟩, fun n hlo hhi hpg hfs => ?fault⟩
  case rise =>
    refine ⟨_, congrArg Host.Outcome.next (if_neg (by simp [hoff])), ?_, ?_, ?_⟩
    · rw [State.sampleSlot_pwr]; rfl
    · rw [State.fld_sampleSlot]; exact Nat.mod_mod _ _
    · rw [State.bootState_sampleSlot, State.bootState_updRail]; exact State.bootState_moduleReset
  case enable =>
    have hgo : (decide (5800 ≤ vin) && !s.pgood && s.pwr.seqStep.isNone && !s.pwr.seqFailed) = true := by simp [hvin, hpg, hseq, hfail]
    refine ⟨_, congrArg Host.Outcome.next ((if_neg (by simp [hon])).trans (if_pos hgo)), ?_, rfl⟩
    exact congrArg Pwr.pwrEn State.moduleReset_pwr
  case step =>
    obtain ⟨u, hu, hstep, hrail⟩ := State.sequenceStep_next (s := s) h7
    refine ⟨u.railsOn (stepRails (i + 1)), ?_, hstep, State.reg_updRail_self, ?_, ?_⟩
    · change Host.Outcome.next _ = _
      rw [hi, ← hu]
    · rw [wfld_railsOn.1, hrail, wfld_railsGood.2]
    · rw [wfld_railsOn.2, hrail, wfld_railsGood.1]
  case last =>
    change Host.Outcome.next _ = _
    rw [hi]
  case late =>
    change Host.Outcome.next _ = _
    rw [hi]
  case fault =>
    have hunit : (decide (2 ≤ n) && decide (n < 13)) = true := by simp [hlo, hhi]
    refine ⟨_, (if_pos hunit).trans (congrArg Host.Outcome.next (if_pos (by simp [hpg, hfs]))), ?_, rfl⟩
    rw [State.pgood_alert]
    exact State.pgood_updRail (g := id)

end Sys2Proof.Machine

/-! PROOFS. Power measurement, the cap, thermal control, clocks and the watchdog. -/

namespace Sys2Proof.Machine

/-! The levels of the two controllers (R500, R501, R514). -/

section
variable {s : State} {a b : Nat}

theorem State.capLvl_setLevels (ha : a < 16) : (s.setLevels a b).capLvl = a := by
  unfold State.capLvl State.setLevels
  rw [State.fld_setFld_apart _ _ _ _ _ _ _ (by decide) (by decide) (by decide),
    State.fld_setFld_apart _ _ _ _ _ _ _ (by decide) (by decide) (by decide), State.fld_setFld_self _ _ _ _ _ (by decide) (by decide)]
  exact Nat.mod_eq_of_lt ha

theorem State.thermLvl_setLevels (hb : b < 16) : (s.setLevels a b).thermLvl = b := by
  unfold State.thermLvl State.setLevels
  rw [State.fld_setFld_apart _ _ _ _ _ _ _ (by decide) (by decide) (by decide), State.fld_setFld_self _ _ _ _ _ (by decide) (by decide)]
  exact Nat.mod_eq_of_lt hb

theorem State.fld_setLevels_force (ha : a < 16) (hb : b < 16) : (s.setLevels a b).fld oPwrStat 31 28 = max a b := by
  unfold State.setLevels
  rw [State.fld_setFld_self _ _ _ _ _ (by decide) (by decide)]
  exact Nat.mod_eq_of_lt (by omega)

theorem State.thermLvl_lt : s.thermLvl < 16 := Nat.mod_lt _ (by decide)

theorem State.thermLvl_setBit_irq : (s.setBit oPwrStat 17).thermLvl = s.thermLvl :=
  State.fld_setBit_apart _ _ _ _ _ (by decide)

end

/-! Power samples and the cap controller (R499 to R502). -/

section
variable {s : State} {vin ma p : Nat}

/-- A sample of at most 1,350 W and 25 A is measured, and takes no fast limit. -/
theorem State.powerSample_ordinary (hp : (rneDiv (vin * ma : Nat) 10000).toNat = p) (hcap : p ≤ 13500) (hma : ma ≤ 25000) :
    s.powerSample vin ma = (((s.updPwr fun q => { q with samples := (p :: s.pwr.samples).take 100, ovr := 0, energy := q.energy + p }).setReg
      oPwrIn (BitVec.ofNat 32 (min vin 65535 * 65536 + p))).setReg oPwrAvg
        (BitVec.ofNat 32 (rneDiv (((p :: s.pwr.samples).take 100).foldl (· + ·) 0 : Nat) ((p :: s.pwr.samples).take 100).length).toNat)).setFld
          oPwrStat 16 16 (b2n (decide (5600 ≤ vin) && decide (vin < 6000))) := by
  have hmin : min p 65535 = p := by omega
  have hslow : ¬ (decide (13500 < p) || decide (25000 < ma)) = true := by simp; omega
  simp only [State.powerSample, hp, hmin, if_neg hslow, OfNat.zero_ne_ofNat, if_false]

/-- A period above the cap raises the level by one. -/
theorem State.capTick_raises (h : 10 * s.capW < s.fld oPwrAvg 15 0) :
    s.capTick = (s.updPwr fun q => { q with below := 0 }).setLevels (min (s.capLvl + 1) 12) s.thermLvl := if_pos h

end

/-- Settles O23: a sample and a period by the registers they write, the rest by their guards. -/
theorem powerCommandsComplete : Obligations.PowerCommandsComplete := by
  refine fun s => ⟨fun vin ma hs => ?sample, fun hs h => ?tick, fun hlvl h => ?miss,
    fun master w hl => congrArg _ (lets_guard hl _), fun master hl => congrArg _ (letsRead_guard hl _ _)⟩
  case sample =>
    intro p hcap hma
    refine ⟨_, congrArg Host.Outcome.next ((if_pos hs).trans (State.powerSample_ordinary (p := p) rfl hcap hma)), ?_, rfl, rfl, ?_, ?_⟩
    · rw [State.reg_setFld_ne _ _ _ _ _ _ (by decide), State.reg_setReg_ne _ _ _ _ (by decide), State.reg_setReg_self]
    · rw [State.reg_setFld_ne _ _ _ _ _ _ (by decide), State.reg_setReg_self]
    · unfold State.capLvl
      rw [State.fld_setFld_apart _ _ _ _ _ _ _ (by decide) (by decide) (by decide), State.fld_setReg_ne _ _ _ _ _ _ (by decide),
        State.fld_setReg_ne _ _ _ _ _ _ (by decide), State.fld_updPwr]
  case tick =>
    have hcap : min (s.capLvl + 1) 12 < 16 := by omega
    refine ⟨_, congrArg Host.Outcome.next ((if_pos hs).trans (State.capTick_raises h)), State.capLvl_setLevels hcap,
      State.thermLvl_setLevels State.thermLvl_lt, ?_⟩
    rw [State.fld_setLevels_force hcap State.thermLvl_lt, State.capLvl_setLevels hcap, State.thermLvl_setLevels State.thermLvl_lt]
  case miss => exact congrArg _ (if_pos (by simp [hlvl, h]))

/-! Thermal control, clocks and the watchdog (R505, R511, R514, R533). -/

section
variable {s : State} {w : Word} {v : Nat}

/-- A hot millisecond raises the level, and reports it. -/
theorem State.thermalTick_raises (hot : s.hot = true) (h : s.thermLvl < 12) :
    s.thermalTick = ((s.updPwr fun q => { q with cool := 0 }).setLevels s.capLvl (s.thermLvl + 1)).setBit oPwrStat 17 := by
  simp only [State.thermalTick, hot, h, if_true]

/-- CLK_STAT reports the clocks as they are. -/
theorem State.bit_setClk {i : Nat} (hi : i < 3) : (s.setClk v).bit oClk (29 + i) = v.testBit i := by
  unfold State.setClk
  rw [State.bit_setFld_self _ _ _ _ _ _ (by decide) (by decide), if_pos (by omega), Nat.add_sub_cancel_left]

/-- What a write of PWR_WDT leaves (R511). -/
def State.writeWdt (s : State) (w : Word) : State := (s.setFld oWdt 30 30 (wfld w 30 30)).setFld oWdt 15 0 (wfld w 15 0)

theorem State.bit_writeWdt : (s.writeWdt w).bit oWdt 30 = w.getLsbD 30 := by
  unfold State.writeWdt
  rw [State.bit_setFld_self _ _ _ _ _ _ (by decide) (by decide), if_neg (by decide),
    State.bit_setFld_self _ _ _ _ _ _ (by decide) (by decide), if_pos (by decide), wfld, testBit_fld]
  rfl

theorem State.fld_writeWdt : (s.writeWdt w).fld oWdt 15 0 = wfld w 15 0 := by
  unfold State.writeWdt
  rw [State.fld_setFld_self _ _ _ _ _ (by decide) (by decide)]
  exact Nat.mod_eq_of_lt (Nat.mod_lt _ (by decide))

/-- The cold restart that the watchdog orders, its type 1 trial reverted before. -/
theorem State.watchdogExpiry_cold : ∃ t : State, s.watchdogExpiry = t.assertFs 4 ∧ t.boot.msp = .cold := ⟨_, rfl, rfl⟩

end

/-- Settles O24: each event by its guard, and the registers it leaves. -/
theorem thermalClockWatchdogComplete : Obligations.ThermalClockWatchdogComplete := by
  refine fun s => ⟨fun hot h => ?hot, fun k c hk hc => ?cool, fun k c hk hc => ?tooHot, fun ref vco hlost => ?loss, ?restore,
    fun master w hl hkick => ?kick, fun hen hmsp htrial => ?expiry, fun hmsp => congrArg _ (if_pos hmsp), fun hb => congrArg _ (if_neg ?hash)⟩
  case hot =>
    have hlvl : s.thermLvl + 1 < 16 := by omega
    refine ⟨_, congrArg Host.Outcome.next (State.thermalTick_raises hot h), ?_, by simp, rfl⟩
    rw [State.thermLvl_setBit_irq, State.thermLvl_setLevels hlvl]
  case cool =>
    exact (if_pos (decide_eq_true hk)).trans (congrArg _ (if_neg (Int.not_lt.mpr hc)))
  case tooHot =>
    exact (if_pos (decide_eq_true hk)).trans (congrArg _ (if_pos hc))
  case loss =>
    have hgo : ¬ (ref && vco) = true := by simp [hlost]
    refine ⟨congrArg _ (if_neg hgo), ?_, ?_, ?_⟩
    · exact (State.bit_setClk (i := 2) (by decide)).trans (by cases ref <;> cases vco <;> rfl)
    · exact (State.bit_setClk (i := 1) (by decide)).trans (by cases ref <;> cases vco <;> rfl)
    · exact (State.bit_setClk (i := 0) (by decide)).trans (by cases ref <;> cases vco <;> rfl)
  case restore =>
    exact ⟨s.setClk 6, rfl, State.bit_setClk (i := 2) (by decide), State.bit_setClk (i := 1) (by decide),
      State.bit_setClk (i := 0) (by decide), rfl⟩
  case kick =>
    refine ⟨(s.writeWdt w).updPwr fun q => { q with wdt := 0 }, ?_, rfl, ?_, ?_⟩
    · refine congrArg Host.Outcome.next ((lets_guard hl _).trans ?_)
      exact if_pos hkick
    · rw [State.bit_updPwr, State.bit_writeWdt]
    · rw [State.fld_updPwr, State.fld_writeWdt]
  case expiry =>
    obtain ⟨t, heq, hcold⟩ := s.watchdogExpiry_cold
    exact ⟨t, congrArg _ ((if_pos (by simp [hen, hmsp])).trans heq), hcold⟩
  case hash => simp; omega

end Sys2Proof.Machine

/-! PROOFS. Configuration through a ring, and the scheduler's start. -/

namespace Sys2Proof.Machine

section
variable {s : State} {c master : Nat} {d : Desc} {bs : List Byte} {es : List (Nat × Word × Word)}

/-- Entries that the tables of their blocks allow pass without effect (R535). -/
theorem State.stageRights_allowed (h : ∀ e ∈ es, s.aclAllows (20 + (regBlock e.1).1) rightCfg master ((regBlock e.1).2 / 4096)
    ((regBlock e.1).2 / 4096) = true) : s.stageRights master es = (true, s) := by
  induction es with
  | nil => rfl
  | cons e es ih =>
    have hcheck : s.regCheck rightCfg master e.1 = (true, s) := State.aclCheck_allowed (h e List.mem_cons_self)
    simp only [State.stageRights, hcheck, if_true, ih fun e he => h e (List.mem_cons_of_mem _ he)]

/-- Valid entries of the next epoch, allowed, go into the shadows in list order (R535). -/
theorem State.configStage_stages {s1 : State} (hn : d.u16 16 ≠ 0) (hchk : chkStage d = 0) (hepoch : d.epoch = s.nextEpoch)
    (hkeep : d.u8 18 % 2 = 0) (hread : s.readRecord (s.ctxWho c) (d.u64 24) (16 * d.u16 16) = (.inr bs, s1))
    (hvalid : ((List.range (d.u16 16)).map (stageEntry bs)).all stageValid = true)
    (hrights : s1.stageRights (s.ctxMaster c) ((List.range (d.u16 16)).map (stageEntry bs)) = (true, s1)) :
    s.configStage c d = (s1.stageAll ((List.range (d.u16 16)).map (stageEntry bs))).complete c d.ptr stSuccess := by
  simp only [State.configStage, if_neg hn, hread, hchk, hepoch, hvalid, hrights, hkeep, bne_self_eq_false, Bool.or_self, Bool.not_true,
    Bool.false_eq_true, zero_ne_one, if_false]

/-- A commit at a step boundary, with none waiting and no LOAD first, puts the shadows in force (R536, R537). -/
theorem State.configCommit_commits (hchk : chkCommit d = 0) (hepoch : d.epoch = s.nextEpoch) (hnone : s.boot.commitWait = none)
    (hb : s.boundary16 = true) (hload : s.loadFirst = false) : s.configCommit c d = s.commitNow c d := by
  simp [State.configCommit, hchk, hepoch, hnone, hb, hload]

end

/-- Settles O14: the checks of CONFIG_STAGE pass without effect, CONFIG_COMMIT finds its boundary, and the scheduler its choice. -/
theorem configDescriptorsComplete : Obligations.ConfigDescriptorsComplete := by
  refine fun s c n d => ⟨fun h hn hchk hepoch hkeep bs s1 hread => ?stage, fun h hchk hepoch hnone hb hload => ?commit,
    fun hchosen hcand hdiag => ?start⟩
  case stage =>
    obtain ⟨-, rfl, -⟩ := atHand_spec h
    intro es hvalid hacl
    exact (onUnit_runDesc h _).trans (congrArg _ (State.configStage_stages hn hchk hepoch hkeep hread hvalid (State.stageRights_allowed hacl)))
  case commit =>
    exact (onUnit_runDesc h _).trans (congrArg _ (State.configCommit_commits hchk hepoch hnone hb hload))
  case start =>
    change execDescriptorStart s = _
    simp [execDescriptorStart, hchosen, hcand, hdiag]

end Sys2Proof.Machine

/-! PROOFS. Firmware: the commands of FW_CTL, and the write of an image into its slot. -/

namespace Sys2Proof.Machine

section
variable {s s1 s2 : State} {master cmd type key : Nat} {f : State → State} {err b ok : Bool} {hb bs : List Byte}
  {w : FlashWrite} {r : BootRec} {q : Boot}

/-- A command in hand: FW_STAT names it and its type, and BUSY is set (R527). -/
def State.fwBusy (s : State) (cmd type : Nat) : State := ((s.setFld oFwStat 23 20 cmd).setFld oFwStat 15 8 type).setBit oFwStat 31

@[simp] theorem State.boot_fwBusy : (s.fwBusy cmd type).boot = s.boot := rfl

@[simp] theorem State.bootRec_fwBusy {t : Nat} : (s.fwBusy cmd type).bootRec t = s.bootRec t :=
  congrArg (fun b : Boot => mapGet ({} : BootRec) b.recs t) (State.boot_fwBusy (s := s))

/-- A command that its master may give begins, with the MSP up and none in progress (R527). -/
theorem State.fwCommand_begins (hlets : s.lets master oFwCtl = true) (hidle : s.bit oFwStat 31 = false) (hup : s.mspUp = true)
    (h : cmd = 6 ∨ 1 ≤ type ∧ type ≤ 8) : s.fwCommand master cmd type f = f (s.fwBusy cmd type) := by
  have hgo : ¬ (s.bit oFwStat 31 || !s.mspUp) = true := by simp [hidle, hup]
  have hnamed : ¬ (cmd != 6 && (decide (type = 0) || decide (8 < type))) = true := by simp; omega
  exact (lets_guard hlets _).trans ((if_neg hgo).trans (if_neg hnamed))

/-- ACTIVATE of a valid slot makes it NEXT, on trial. -/
theorem State.fwActivate_valid (h : s.slotValid type (!s.runSlot type) = true) : s.fwActivate type =
    (s.setRec type { s.bootRec type with next := !s.runSlot type, trial := true, begun := false }).fwResult 0 :=
  if_neg (by simp [h])

/-- COMMIT of the trial that runs. -/
theorem State.fwCommit_trial (hr : s.bootRec type = r) (htrial : r.trial = true) (hrun : s.runSlot type = r.next) : s.fwCommit type =
    (let t := s.setRec type { r with commit := r.next, trial := false, begun := false }
     if type = 1 then t.commitItems else t).fwResult 0 := by
  subst hr
  exact if_neg (by simp [htrial, hrun])

/-- REVERT of a trial. -/
theorem State.fwRevert_trial (hr : s.bootRec type = r) (htrial : r.trial = true) : s.fwRevert type =
    (s.setRec type { r with next := r.commit, trial := false, begun := false }).fwResult 0 := by
  subst hr
  exact if_neg (by simp [htrial])

/-- RAISE_EPOCH with its key, while the committed images run (R522). -/
theorem State.fwRaise_committed (hq : s.boot = q)
    (heven : ∀ t, t = 1 ∨ t = 2 → (s.bootRec t).trial = false ∧ s.runSlot t = (s.bootRec t).commit) (h64 : s.committedEpoch ≤ 64) :
    s.fwRaise 0x640 = (({ s with boot := { q with fused := max q.fused s.committedEpoch } } : State).setFld 0x410 6 0
      (max q.fused s.committedEpoch)).fwResult 0 := by
  subst hq
  exact if_neg (by simp [heven, h64])

/-- A slot that has taken an image holds it with the flag it came with. -/
theorem State.slotValid_putSlot : (s.putSlot type b bs ok).slotValid type b = ok := by
  have hheld : mapFind (s.putSlot type b bs ok).boot.slots (2 * type + b2n b) = some { bytes := bs, valid := ok } :=
    mapFind_mapIns_self _ _ _
  simp only [State.slotValid, hheld]

/-- WRITE of an image that is read without loss goes by its checks (R520, R538). -/
theorem State.fwWrite_reads (htrial : (s.bootRec type).trial = false)
    (hhead : s.request s.mspWho 1 (daddr (2 ^ 32 * (s.reg 0x408).toNat + 4096 * s.fld 0x404 31 12)) 512 = (.data hb false, s1))
    (hsome : leAt hb 32 4 ≠ 0) (hfits : leAt hb 32 4 ≤ bodyLimit type)
    (hbody : s1.request s.mspWho 1 (daddr (2 ^ 32 * (s.reg 0x408).toNat + 4096 * s.fld 0x404 31 12)) (512 + leAt hb 32 4) =
      (.data bs false, s2)) :
    s.fwWrite type err =
      if s.checkImage type bs != 0 then s2.fwResult (s.checkImage type bs)
      else
        let q := s2.putSlot type (!s.runSlot type) (s.slotBytes type (!s.runSlot type)) false
        { q with boot := { q.boot with writing := some { type := type, slot := !s.runSlot type, bytes := bs, err := err } } } := by
  have hlimit : ¬ (decide (leAt hb 32 4 = 0) || decide (bodyLimit type < leAt hb 32 4)) = true := by simp [hsome, hfits]
  unfold State.fwWrite
  dsimp only
  rw [if_neg (by simp [htrial] : ¬ ((s.bootRec type).trial && decide ((s.bootRec type).next = !s.runSlot type)) = true), hhead]
  dsimp only
  rw [if_neg hlimit, hbody]

/-- The write of an image ends by what the flash did. -/
theorem State.flashEnd_writing (h : s.boot.writing = some w) : s.flashEnd =
    (let u : State := { s with boot := { s.boot with writing := none } }
     if w.err then (u.putSlot w.type w.slot [] false).fwResult 10 else (u.putSlot w.type w.slot w.bytes true).fwResult 0) := by
  simp only [State.flashEnd, h]

/-- LOAD of a sound MSP boot image restarts the MSPs at once (R533). -/
theorem State.fwLive_msp {units : Nat} (hq : s.boot = q) (hr : s.bootRec 1 = r) (hgood : s.checkSlot 1 r.next = 0) : s.fwLive 1 units =
    (({ s with boot := { q with load := some { type := 1, units := 0, running := true } } } : State).setMsp .warm) := by
  subst hq hr
  unfold State.fwLive
  dsimp only
  rw [if_neg (by decide), if_neg (by simp [hgood]), if_neg (by decide : ¬ 1 = 3)]
  rfl

/-- LOAD of a sound image of another type waits for its boundary, of type 3 staged meanwhile (R532). -/
theorem State.fwLive_waits {units : Nat} {f : Nat → BootRec} (h1 : type ≠ 1) (h2 : type ≠ 2) (h7 : type ≠ 7)
    (hr : ∀ t, s.bootRec t = f t) (hgood : s.checkSlot type (f type).next = 0) : s.fwLive type units =
    (let t := if type = 3 then s.stageFw 3 (f 3).next else s
     ({ t with boot := { t.boot with load := some { type := type, units := namedUnits type units, running := false } } } : State).setBit
       oFwStat 30) := by
  unfold State.fwLive
  dsimp only
  rw [if_neg (by simp [h2, h7]), if_neg (by simp [hr, hgood]), if_neg h1, hr, decide_eq_false h1]

end

/-- Settles O26: each command by what it does once it has begun, and WRITE by the reads, the checks and the flash. -/
theorem firmwareCommandsCompleteAndCheckImages : Obligations.FirmwareCommandsCompleteAndCheckImages := by
  refine ⟨fun s master type hlets hidle hup hlo hhi => ?commands, fun s => ⟨fun type err hb bs s1 s2 htrial => ?write, fun w hw => ?flash⟩⟩
  case commands =>
    have hruns {cmd : Nat} {f : State → State} {t : State} (hf : f (s.fwBusy cmd type) = t) :
        Host.Outcome.next (s.fwCommand master cmd type f) = (.next t : Res) :=
      congrArg _ ((State.fwCommand_begins hlets hidle hup (.inr ⟨hlo, hhi⟩)).trans hf)
    refine ⟨fun err => hruns rfl, fun hvalid => hruns (State.fwActivate_valid hvalid),
      fun htrial hrun => hruns (State.fwCommit_trial State.bootRec_fwBusy htrial hrun),
      fun htrial => hruns (State.fwRevert_trial State.bootRec_fwBusy htrial),
      fun units htype => hruns (if_pos (by simpa using htype)), fun units h1 hgood => ?msp,
      fun units h1 h2 h7 hgood => hruns (State.fwLive_waits h1 h2 h7 (fun _ => State.bootRec_fwBusy) hgood), fun heven h64 => ?raise⟩
    case msp =>
      subst h1
      exact hruns (State.fwLive_msp State.boot_fwBusy State.bootRec_fwBusy hgood)
    case raise =>
      refine congrArg Host.Outcome.next ((State.fwCommand_begins hlets hidle hup (.inl rfl)).trans
        (State.fwRaise_committed State.boot_fwBusy (fun t ht => ?_) h64))
      rw [State.bootRec_fwBusy]
      exact heven t ht
  case write =>
    intro src hhead hsome hfits hbody
    have hwrite := State.fwWrite_reads (err := err) htrial hhead hsome hfits hbody
    exact ⟨fun hgood => ⟨hwrite.trans (if_neg (by simp [hgood])), State.slotValid_putSlot⟩,
      fun hbad => hwrite.trans (if_pos (by simp [hbad]))⟩
  case flash =>
    exact ⟨fun hok => (State.flashEnd_writing hw).trans (if_neg (by simp [hok])),
      fun hbad => (State.flashEnd_writing hw).trans (if_pos hbad), if_pos (by simp [hw])⟩

end Sys2Proof.Machine

/-! PROOFS. Persistent data: the copies of an item, the copy a load takes, and the order of writing. -/

namespace Sys2Proof.Machine

section
variable {s : State} {i j b n k : Nat} {f : PdCopy → PdCopy}

/-- A copy written changes that copy. -/
theorem State.pdCopy_pdUpd_self : (s.pdUpd i b f).pdCopy i b = f (s.pdCopy i b) := mapGet_mapSet_self _ _ _ _

/-- A copy written leaves every other copy. -/
theorem State.pdCopy_pdUpd_ne (h : 2 * j + k ≠ 2 * i + b) : (s.pdUpd i b f).pdCopy j k = s.pdCopy j k := mapGet_mapSet_ne _ _ _ h _

theorem State.pdNext_lt : s.pdNext i < 2 := by
  unfold State.pdNext
  dsimp only
  split <;> split <;> decide

theorem State.bad_pdBody : (s.pdBody i).bad = false := by
  unfold State.pdBody
  dsimp only
  split <;> rfl

/-- The copy a load takes is readable, and no readable copy is newer (R529). -/
theorem State.pdPick_some (h : s.pdPick i = some b) : b < 2 ∧ s.pdReads i (s.pdCopy i b) = true ∧
    (s.pdReads i (s.pdCopy i (1 - b)) = true → (s.pdCopy i (1 - b)).seq ≤ (s.pdCopy i b).seq) := by
  unfold State.pdPick at h
  dsimp only at h
  split at h
  next ha hb =>
    by_cases hseq : (s.pdCopy i 0).seq < (s.pdCopy i 1).seq
    · obtain rfl : 1 = b := by simpa [hseq] using h
      exact ⟨by decide, hb, fun _ => hseq.le⟩
    · obtain rfl : 0 = b := by simpa [hseq] using h
      exact ⟨by decide, ha, fun _ => not_lt.mp hseq⟩
  next ha hb =>
    obtain rfl := Option.some.inj h
    exact ⟨by decide, ha, fun hread => absurd (hb.symm.trans hread) (by decide)⟩
  next ha hb =>
    obtain rfl := Option.some.inj h
    exact ⟨by decide, hb, fun hread => absurd (ha.symm.trans hread) (by decide)⟩
  next => cases h

/-- A load that takes no copy finds none readable. -/
theorem State.pdPick_none (h : s.pdPick i = none) (hb : b < 2) : s.pdReads i (s.pdCopy i b) = false := by
  unfold State.pdPick at h
  dsimp only at h
  split at h
  case h_4 ha hb' =>
    obtain rfl | rfl : b = 0 ∨ b = 1 := by omega
    · exact ha
    · exact hb'
  all_goals cases h

/-- What a save writes into the first copy: what the item holds, with the next SEQ. -/
def State.pdFresh (s : State) (i : Nat) : PdCopy :=
  { s.pdBody i with ver := s.itemVer i, seq := max (s.pdCopy i 0).seq (s.pdCopy i 1).seq + 1 }

theorem State.order_pdFresh : (s.pdFresh i).order = max (s.pdCopy i 0).seq (s.pdCopy i 1).seq + 2 := if_neg (by
  have hbad : (s.pdFresh i).bad = false := State.bad_pdBody
  simp [hbad])

theorem PdCopy.order_le (c : PdCopy) : c.order ≤ c.seq + 1 := by
  unfold PdCopy.order
  split <;> omega

variable (hheld : s.held i = false) (horder : (s.pdCopy i 0).order = (s.pdCopy i 1).order)
include hheld horder

/-- Of two copies alike, bank A is written first. -/
theorem State.pdNext_alike : s.pdNext i = 0 := by
  simp [State.pdNext, hheld, horder]

/-- The first write of a save leaves its copy with what the item holds (R529). -/
theorem State.pdWrite_alike : s.pdWrite i = s.pdUpd i 0 fun _ => s.pdFresh i := by
  simp [State.pdWrite, State.pdNext_alike hheld horder, horder, State.pdFresh]

/-- The second write copies the first to the other bank. -/
theorem State.pdWrite_second : (s.pdWrite i).pdWrite i = (s.pdWrite i).pdUpd i 1 fun _ => s.pdFresh i := by
  rw [State.pdWrite_alike hheld horder]
  set t := s.pdUpd i 0 fun _ => s.pdFresh i with ht
  have ha : t.pdCopy i 0 = s.pdFresh i := State.pdCopy_pdUpd_self
  have hb : t.pdCopy i 1 = s.pdCopy i 1 := State.pdCopy_pdUpd_ne (by omega)
  have hkept : t.held i = false := hheld
  have hlater : (t.pdCopy i 1).order < (t.pdCopy i 0).order := by
    have hle := (s.pdCopy i 1).order_le
    rw [ha, hb, State.order_pdFresh]
    omega
  have hnext : t.pdNext i = 1 := by simp [State.pdNext, hkept, hlater]
  rw [ha] at hlater
  simp [State.pdWrite, hnext, hkept, hlater.ne, ha]

end

/-- Settles O28: by the copy a load picks, and the two writes of a save. -/
theorem persistentItemsKeepTwoCopies : Obligations.PersistentItemsKeepTwoCopies := by
  refine fun s i _ _ => ⟨fun b => State.pdPick_some, fun hnone b => State.pdPick_none hnone, fun hheld horder => ?save,
    State.pdCopy_pdUpd_self, State.pdCopy_pdUpd_ne ?torn⟩
  case torn =>
    have hnext := s.pdNext_lt (i := i)
    omega
  case save =>
    dsimp only
    rw [State.pdWrite_second hheld horder, State.pdNext_alike hheld horder, State.pdWrite_alike hheld horder]
    exact ⟨State.pdCopy_pdUpd_self, State.pdCopy_pdUpd_ne (by omega),
      (State.pdCopy_pdUpd_ne (by omega)).trans State.pdCopy_pdUpd_self, State.pdCopy_pdUpd_self,
      fun j b hb hj => State.pdCopy_pdUpd_ne (by omega)⟩

end Sys2Proof.Machine

/-! PROOFS. Event counters: what an event, a load and a read make of a counter. -/

namespace Sys2Proof.Machine

section
variable {s : State} {d i k n t right master off lo hi src link func vec : Nat}

@[simp] theorem State.sendMsi_cnt : (s.sendMsi link func vec).cnt = s.cnt := by rw [State.sendMsi_frame]

@[simp] theorem State.raiseIrq_cnt : (s.raiseIrq src).cnt = s.cnt := by
  rcases s.raiseIrq_cases src with h | ⟨_, _, h⟩ <;> rw [h]
  · rfl
  · exact State.sendMsi_cnt

/-- The status bit of a source raised is set. -/
theorem State.bit_raiseIrq_self (h : i < 32) : (s.raiseIrq i).bit oIrqStat i = true := by
  rw [State.bit_congr State.raiseIrq_regs]
  simp [h]

/-- Events are taken by the counter's value alone. -/
theorem State.cntAdd_cnt : (s.cntAdd d i n).cnt =
    { s.cnt with val := mapSet 0 s.cnt.val (64 * d + i) ((mapGet 0 s.cnt.val (64 * d + i) + n) % 2 ^ 48) } := by
  unfold State.cntAdd
  dsimp only
  split
  · rfl
  · split
    · exact State.raiseIrq_cnt.trans rfl
    · rfl

/-- A counter that does not wrap writes no register and sends no message. -/
theorem State.cntAdd_below (h : mapGet 0 s.cnt.val (64 * d + i) + n < 2 ^ 48) :
    (s.cntAdd d i n).regs = s.regs ∧ (s.cntAdd d i n).out = s.out := by
  rw [State.cntAdd, if_pos h]
  exact ⟨rfl, rfl⟩

/-- The registers of the counters lie above those of the interrupts. -/
theorem oIrqStat_ne_cntBase : oIrqStat ≠ cntBase d + k := by
  unfold oIrqStat cntBase
  omega

/-- A counter that wraps sets its overflow bit, and the interrupt source where OVF_IRQ is set and the bit was clear (R543). -/
theorem State.cntAdd_wraps (h : 2 ^ 48 ≤ mapGet 0 s.cnt.val (64 * d + i) + n) :
    (s.cntAdd d i n).bit (cntBase d + 4 * (i / 32)) (i % 32) = true ∧
    (s.bit (cntCfg d i) 28 = true → s.bit (cntBase d + 4 * (i / 32)) (i % 32) = false → (s.cntAdd d i n).bit oIrqStat 4 = true) ∧
    (s.bit (cntCfg d i) 28 = false ∨ s.bit (cntBase d + 4 * (i / 32)) (i % 32) = true → (s.cntAdd d i n).reg oIrqStat = s.reg oIrqStat) := by
  obtain ⟨u, hu, hadd⟩ : ∃ u : State, u.regs = s.regs ∧ s.cntAdd d i n =
      if s.bit (cntCfg d i) 28 && !s.bit (cntBase d + 4 * (i / 32)) (i % 32) then
        (u.setBit (cntBase d + 4 * (i / 32)) (i % 32)).raiseIrq 4 else u.setBit (cntBase d + 4 * (i / 32)) (i % 32) :=
    ⟨{ s with cnt := { s.cnt with val := mapSet 0 s.cnt.val (64 * d + i) ((mapGet 0 s.cnt.val (64 * d + i) + n) % 2 ^ 48) } }, rfl,
      if_neg (by omega)⟩
  have hset : (u.setBit (cntBase d + 4 * (i / 32)) (i % 32)).bit (cntBase d + 4 * (i / 32)) (i % 32) = true := by
    simp [Nat.mod_lt]
  rw [hadd]
  refine ⟨?_, fun hirq hclear => ?_, fun hquiet => ?_⟩
  · split
    · rw [State.bit, State.reg_raiseIrq_ne oIrqStat_ne_cntBase.symm]
      exact hset
    · exact hset
  · rw [if_pos (by simp [hirq, hclear])]
    exact State.bit_raiseIrq_self (by decide)
  · rw [if_neg (by rcases hquiet with h | h <;> simp [h]), State.reg_setBit_ne _ _ _ _ oIrqStat_ne_cntBase]
    exact State.reg_congr hu

/-- Events load no latch. -/
theorem State.eventF_rdLatch {f : Nat} : (s.eventF f src i n).cnt.rdLatch = s.cnt.rdLatch := by
  unfold State.eventF State.event
  split
  · rfl
  · refine foldl_inv (fun u : State => u.cnt.rdLatch) _ (fun u j => ?_) _ _
    split
    · rw [State.cntAdd_cnt]
    · rfl

/-- A refused access latches no counter. -/
theorem State.deny_rdLatch : (s.deny t right master off).cnt.rdLatch = s.cnt.rdLatch := by
  unfold State.deny
  dsimp only
  split
  · exact State.eventF_rdLatch
  · rw [State.raiseIrq_cnt]
    exact State.eventF_rdLatch

/-- A read that is refused answers 0 and latches nothing (R372). -/
theorem State.guardedRead_refused {w : State → Word} {f : State → State} (h : s.letsRead master off = false) :
    ∃ u : State, s.guardedRead master off w f = u.emit (.readData 0) ∧ u.cnt.rdLatch = s.cnt.rdLatch := by
  unfold State.guardedRead
  split
  case isTrue => exact ⟨s, rfl, rfl⟩
  case isFalse hopen =>
    have hdenied : s.regCheck rightR master off = (false, s.deny (20 + (regBlock off).1) rightR master ((regBlock off).2 / 4096)) := by
      refine if_neg fun hallowed => ?_
      have hlets : s.letsRead master off = true := by
        simp only [State.letsRead, State.regCheck, State.aclCheck_allowed hallowed, Bool.and_true]
        simpa [Decidable.or_iff_not_imp_left] using hopen
      simp [h] at hlets
    rw [hdenied]
    exact ⟨_, rfl, State.deny_rdLatch⟩

end

/-- Settles O59: by what events make of a counter, and the guarded accesses to its registers. -/
theorem countersCountWrapAndRead : Obligations.CountersCountWrapAndRead := by
  refine ⟨fun s d i n hd hi => ⟨?value, fun k hk => ?others, State.cntAdd_below, State.cntAdd_wraps⟩,
    fun s master => ⟨fun d i hd hi => ?registers, fun freeze hlets => ⟨?freeze, ?frozen⟩⟩⟩
  case value => rw [State.cntAdd_cnt, mapGet_mapSet_self]
  case others => rw [State.cntAdd_cnt, mapGet_mapSet_ne _ _ _ hk]
  case registers =>
    have hunit {t : State} : onUnit (cntOk d i) t = .next t := if_pos (by simp [cntOk, hd, hi])
    refine ⟨fun w hlets => ⟨_, hunit.trans (congrArg Host.Outcome.next (lets_guard hlets _)), mapGet_mapSet_self _ _ _ _,
        fun k hk => mapGet_mapSet_ne _ _ _ hk _⟩,
      fun hreads => ⟨_, hunit.trans (congrArg Host.Outcome.next (letsRead_guard hreads _ _)), rfl, mapGet_mapSet_self _ _ _ _, rfl⟩,
      fun hrefused => ?_⟩
    obtain ⟨u, hread, hlatch⟩ := State.guardedRead_refused hrefused
    exact ⟨_, hunit.trans (congrArg Host.Outcome.next hread), rfl, hlatch⟩
  case freeze => exact congrArg Host.Outcome.next (lets_guard hlets _)
  case frozen =>
    rw [State.bit_setFld_self _ _ _ _ _ _ (by decide) (by decide)]
    cases freeze <;> rfl

end Sys2Proof.Machine

/-! PROOFS. The SMBus target and the management port. -/

namespace Sys2Proof.Machine

/-! The SMBus target (R560). -/

/-- The target answers while the standby supply is up. -/
theorem State.smbus_up {s : State} (h : s.pwr.standby = true) (bs : List Byte) : s.smbus bs = s.emit (.smbus bs) := if_pos h

/-- Clearing with a byte clears the bits of the alert status at which it is 1. -/
theorem testBit_and_complement_byte (a v i : Nat) (h : i < 8) : (a &&& (255 - v % 256)).testBit i = (a.testBit i && !v.testBit i) := by
  have hcomp : 255 - v % 256 = 2 ^ 8 - (v % 2 ^ 8 + 1) := by omega
  rw [Nat.testBit_and, hcomp, Nat.testBit_two_pow_sub_succ (Nat.mod_lt _ (by decide)), Nat.testBit_mod_two_pow]
  simp [h]

/-- Settles O54: each command of Table 18-8, by what the target sends while the standby supply is up. -/
theorem smbusCommandsComplete : Obligations.SmbusCommandsComplete := by
  intro s hup
  have hsent (bs : List Byte) : Host.Outcome.next (s.smbus bs) = (.next (s.emit (.smbus bs)) : Res) := congrArg _ (s.smbus_up hup bs)
  refine ⟨hsent _, hsent _, hsent _, hsent _, hsent _, hsent _, hsent _, hsent _,
    fun v => ⟨_, congrArg Host.Outcome.next (if_pos hup), rfl, ?_⟩, fun v => ⟨_, congrArg Host.Outcome.next (if_pos hup), rfl, rfl⟩, hsent _, hsent _, fun halert => ?_⟩
  · exact testBit_and_complement_byte _ v
  · exact (congrArg Host.Outcome.next (if_pos halert)).trans (hsent _)

/-! The management port (R561, R563, R564). -/

section
variable {s : State} {q : List Byte} {ops : Nat → Bool} {f : State → State} {t off n v : Nat} {data xs ys : List Byte}

/-- A STATUS request is carried out without authentication. -/
theorem State.request18_status (hup : s.mgmtUp = true) (hform : reqFormed q = true) (hop : reqOp q = 1) (hops : ops 1 = true) :
    s.request18 ops q f = f s := by
  simp [State.request18, hup, hform, hop, hops]

/-- Another request is carried out when accepted, its sequence number stored. -/
theorem State.request18_accepted (hup : s.mgmtUp = true) (hform : reqFormed q = true) (hacc : s.reqAccepted q = true)
    (hne : reqOp q ≠ 1) (hops : ops (reqOp q) = true) :
    s.request18 ops q f = f { s with mgmt := { s.mgmt with lastSeq := some (reqSeq q) } } := by
  simp [State.request18, hup, hform, hacc, hne, hops]

/-- FS_EXIT without a body is answered by what the exit says. -/
theorem State.exitRequest_bare (hbody : reqBody q = []) : s.exitRequest q =
    if (s.requestExit).1 then (s.requestExit).2.2.reply q 0 [] else (s.requestExit).2.2.reply q 2 (leBytes 4 (s.requestExit).2.1) := by
  simp [State.exitRequest, hbody]

/-- The fields of IMAGE_CHUNK. -/
theorem chunk_fields (ht : t < 256) (hoff : off < 2 ^ 32) :
    leAt (leBytes 1 t ++ leBytes 4 off ++ data) 0 1 = t ∧ leAt (leBytes 1 t ++ leBytes 4 off ++ data) 1 4 = off ∧
      (leBytes 1 t ++ leBytes 4 off ++ data).drop 5 = data := by
  refine ⟨?_, ?_, ?_⟩ <;> simp [leAt, leBytes, leNat] <;> omega

/-- IMAGE_CHUNK at the end of what the slot holds appends to it, and the slot is not valid. -/
theorem State.chunkRequest_appends (hbody : reqBody q = leBytes 1 t ++ leBytes 4 off ++ data) (ht : t < 256) (hoff : off < 2 ^ 32)
    (hdata : data ≠ []) (hlen : data.length ≤ 1000) (hfree : s.bit oFwStat 31 = false) (hlo : 1 ≤ t) (hhi : t ≤ 8)
    (hsize : off + data.length ≤ slotSize t) (hend : off = (s.slotBytes t (!s.runSlot t)).length) :
    s.chunkRequest q = (s.putSlot t (!s.runSlot t) (s.slotBytes t (!s.runSlot t) ++ data) false).reply q 0 [] := by
  obtain ⟨htype, hat, hrest⟩ := chunk_fields (data := data) ht hoff
  have hshort : ¬ (decide (data = []) || decide (1000 < data.length)) = true := by simp [hdata, hlen]
  have htypes : ¬ (t = 0 || decide (8 < t) || decide (slotSize t < off + data.length)) = true := by simp; omega
  unfold State.chunkRequest
  rw [hbody]
  dsimp only
  rw [htype, hat, hrest, if_neg hshort, if_neg (by simp [hfree]), if_neg htypes, hend]
  simp [freeBytes, List.drop_eq_nil_of_le]

/-- IMAGE_CHECK of a type checks the slot that does not run. -/
theorem State.checkRequest_checks (hlen : (reqBody q).length = 1) (hfree : s.bit oFwStat 31 = false)
    (hlo : 1 ≤ leAt (reqBody q) 0 1) (hhi : leAt (reqBody q) 0 1 ≤ 8) : s.checkRequest q =
      if s.checkSlot (leAt (reqBody q) 0 1) (!s.runSlot (leAt (reqBody q) 0 1)) = 0 then
        (s.putSlot (leAt (reqBody q) 0 1) (!s.runSlot (leAt (reqBody q) 0 1))
          (s.slotBytes (leAt (reqBody q) 0 1) (!s.runSlot (leAt (reqBody q) 0 1))) true).reply q 0 []
      else s.reply q 2 [] := by
  have htypes : ¬ (decide (leAt (reqBody q) 0 1 = 0) || decide (8 < leAt (reqBody q) 0 1)) = true := by simp; omega
  unfold State.checkRequest
  dsimp only
  rw [if_neg (by simp [hlen]), if_neg (by simp [hfree]), if_neg htypes]

/-- READ_REG reads any register while PWR_GOOD is high. -/
theorem State.readRequest_reads (hlen : (reqBody q).length = 4) (hgood : s.pgood = true) : s.readRequest q =
    (s.readEffect (leAt (reqBody q) 0 4)).reply q 0 (leBytes 4 (s.regWordFor mspMaster (leAt (reqBody q) 0 4)).toNat) := by
  unfold State.readRequest
  dsimp only
  rw [if_neg (by simp [hlen]), if_pos (by simp [State.mgmtReads, hgood])]

end

/-- Settles O55: each operation, by what the request's acceptance and its fields make of it. -/
theorem managementCommandsComplete : Obligations.ManagementCommandsComplete := by
  intro s hup
  refine ⟨fun q hform hop hbody => ?status, fun q hform hacc => ⟨fun hop hbody => ?exit,
    fun hop t off data hbody ht hoff hdata hlen hfree hlo hhi hsize hend => ?chunk, fun hop hlen hfree hlo hhi => ?check, fun hop hlen hgood => ?read⟩,
    fun data => congrArg Host.Outcome.next (if_pos hup),
    congrArg Host.Outcome.next (if_pos (by simp [hup])), congrArg Host.Outcome.next (if_pos (by simp [hup]))⟩
  case status =>
    refine congrArg Host.Outcome.next ((State.request18_status hup hform hop (by decide)).trans ?_)
    simp [State.statusRequest, hop, hbody]
  case exit =>
    have hrun := State.request18_accepted (ops := (· == 2)) (f := fun t => t.exitRequest q) hup hform hacc (by simp [hop]) (by simp [hop])
    rw [State.exitRequest_bare hbody] at hrun
    exact ⟨fun hgrant => congrArg Host.Outcome.next (hrun.trans (if_pos hgrant)),
      fun hrefuse => congrArg Host.Outcome.next (hrun.trans (if_neg (by simp [hrefuse])))⟩
  case chunk =>
    refine congrArg Host.Outcome.next ((State.request18_accepted hup hform hacc (by simp [hop]) (by simp [hop])).trans ?_)
    exact State.chunkRequest_appends hbody ht hoff hdata hlen hfree hlo hhi hsize hend
  case check =>
    have hrun := State.request18_accepted (ops := (· == 5)) (f := fun t => t.checkRequest q) hup hform hacc (by simp [hop]) (by simp [hop])
    have hcheck := hrun.trans (State.checkRequest_checks hlen hfree hlo hhi)
    exact ⟨fun hpass => congrArg Host.Outcome.next (hcheck.trans (if_pos hpass)),
      fun hfail => congrArg Host.Outcome.next (hcheck.trans (if_neg hfail))⟩
  case read =>
    refine congrArg Host.Outcome.next ((State.request18_accepted hup hform hacc (by simp [hop]) (by simp [hop])).trans ?_)
    exact State.readRequest_reads hlen hgood

end Sys2Proof.Machine

/-! PROOFS. The step of the module. -/

namespace Sys2Proof.Machine

/-- Settles O1: by the queue's two shapes; a step with the empty queue is `step`'s own cycle. -/
theorem stepRunsTheFrontCommand : Obligations.StepRunsTheFrontCommand :=
  ⟨fun _ _ _ => rfl, fun _ h => by simp [step, h]⟩

end Sys2Proof.Machine
